-- ==== Sys2Proof/Word.lean ====
section
/-! DEFINITION. The plain types of the model: bytes, words, beats, and sparse tables.

Sizes follow spec/01_module.md and spec/03_lines.md: a beat is 128 bytes (1,024 bits), registers of the
host register bus are 32 bits wide (R33), scalar registers 64 bits (R208), address registers 40 bits (R95).
-/

namespace Sys2Proof

/-- One byte. -/
abbrev Byte := BitVec 8
/-- A 32-bit register of the host register bus (R33). -/
abbrev W32 := BitVec 32
/-- A 64-bit word: a scalar register, an instruction word, a host address. -/
abbrev W64 := BitVec 64
/-- The 128 data bytes of a beat, byte 0 in bits 7..0 (R7). -/
abbrev BeatData := BitVec 1024
/-- A vector register: 128 lanes of 32 bits, lane 0 in bits 31..0 (R180). -/
abbrev VecReg := BitVec 4096

/-- A sparse table: key and value pairs, keys strictly rising. An unlisted key holds the default that the
reader of the table names. -/
abbrev Tbl (α : Type) := List (Nat × α)

end Sys2Proof
end

