-- ==== Sys2Proof/Syntax.lean ====
section
/-! DEFINITION. The commands of the block: one constructor of `Instr` per row of spec/opcode_table.json,
with the row's operands.

The rows of the stations carry the queue (global line and task, R82) and the fields of the 64-bit
instruction word in the format of Table 3-3 (R92). The rows that stand for an event of a unit carry
the unit, and what the outside world supplies with the event (a measured value, a fetched record, a received cell).
-/

namespace Sys2Proof

/-- A global line number, 64 lines per bay (R14, Table 1-6). -/
abbrev LineId := Fin 512
/-- A task of a line, T0 to T3 (R82). -/
abbrev TaskId := Fin 4
/-- A bay. -/
abbrev BayId := Fin 8
/-- A fabric port FP0 to FP11. -/
abbrev PortId := Fin 12
/-- A PCIe port. -/
abbrev HostId := Fin 2
/-- A ring of a PCIe port (R383). -/
abbrev RingId := Fin 16

/-- The six stations of a line, in the order of their station codes 0 to 5 (Table 3-1). -/
inductive Station where
  | pt | ls | px | mx | vx | cc
  deriving DecidableEq, Repr, Inhabited

/-- The station code of Table 3-1. -/
def Station.code : Station → Nat
  | .pt => 0 | .ls => 1 | .px => 2 | .mx => 3 | .vx => 4 | .cc => 5

/-- The queue of a task on the station that the command's row belongs to (R82). -/
structure Queue where
  line : LineId
  task : TaskId
  deriving DecidableEq, Repr, Inhabited

/-- Format O (Table 3-3, column O). -/
structure FmtO where
  toff   : BitVec 6
  src    : BitVec 4
  dst    : BitVec 4
  repcnt : BitVec 12
  opnd   : BitVec 28
  deriving DecidableEq, Repr, Inhabited

/-- Format M (Table 3-3, column M). -/
structure FmtM where
  toff   : BitVec 6
  data   : BitVec 4
  arn    : BitVec 4
  repcnt : BitVec 12
  post   : Bool
  region : BitVec 6
  offset : BitVec 21
  deriving DecidableEq, Repr, Inhabited

/-- Format C (Table 3-3, column C): SREG is the 6-bit index made of bits [47:44] and [49:48]. -/
structure FmtC where
  level  : BitVec 2
  csrc   : BitVec 2
  sreg   : BitVec 6
  target : BitVec 12
  count  : BitVec 32
  deriving DecidableEq, Repr, Inhabited

/-- Format W (Table 3-3, column W), its reserved bits included. -/
structure FmtW where
  reg   : BitVec 4
  rsvHi : BitVec 2
  imm   : BitVec 40
  rsvLo : BitVec 8
  deriving DecidableEq, Repr, Inhabited

/-- BID of a BAR: bits [53:50] of the format C word (R95). -/
def FmtC.bid (w : FmtC) : BitVec 4 := w.level ++ w.csrc
/-- MASK of a BAR: bits [49:44] of the format C word, bit s for station code s (R95). -/
def FmtC.mask (w : FmtC) : BitVec 6 := w.sreg.extractLsb' 0 2 ++ w.sreg.extractLsb' 2 4

/-- The three flag classes (Table 7-5). -/
inductive FlagClass where
  | line | bay | module
  deriving DecidableEq, Repr, Inhabited

/-- A memory with a gleaner (R270, R298): the local store of a line, the bay buffer of a bay, a stack. -/
inductive GleanMem where
  | ls (line : LineId)
  | bb (bay : BayId)
  | nt (stack : Fin 32)
  deriving DecidableEq, Repr, Inhabited

/-- What the error code finds in a read (R268, R269, R296, R297): nothing, a corrected word or access, or an
uncorrectable one, with the byte offset of the word in the row. -/
inductive EccFinding where
  | clean
  | corrected (off : Fin 128)
  | uncorrectable (off : Fin 128)
  deriving DecidableEq, Repr, Inhabited

/-- An instruction-store word whose parity fails (R271): station and word index. -/
structure ParityFinding where
  st   : Station
  word : Fin 4096
  deriving DecidableEq, Repr, Inhabited

/-- The users of free near-tier slots, in their order (R290). -/
inductive FreeUser where
  | granary | fill | snapshot | host | gleaner
  deriving DecidableEq, Repr, Inhabited

/-- A packet cell as a port receives it (R321): header, payload, trailer. -/
structure LinkCell where
  header  : BitVec 256
  payload : BitVec 2048
  trailer : BitVec 128
  fecCe   : Nat
  fecUe   : Nat
  deriving DecidableEq, Repr, Inhabited

/-- The reference inputs of R313. -/
inductive RefInput where
  | hrefA | hrefB | port
  deriving DecidableEq, Repr, Inhabited

/-- A requester of the host register bus and of the I3C side band (R400, R455). -/
inductive Requester where
  | host (p : HostId)
  | debug
  | mgmt
  | bmc
  | firmware (bay : BayId)
  deriving DecidableEq, Repr, Inhabited

/-- A mailbox (R401): the non-secure and the secure one of a port, and the internal ones. -/
inductive MailboxId where
  | open_ (p : HostId)
  | secure (p : HostId)
  | internal (i : Fin 4)
  deriving DecidableEq, Repr, Inhabited

/-- What the power manager measures in a 10 microsecond window (R411): VIN in 10 mV, input current in 10 mA, power in W, the means of S_b in
0.1 A, the sensors of each bay (reading, valid), coolant inlet, outlet and flow, the least margin of each bay in ps, the
ballast energy of all rails in microjoules. -/
structure PowerWindow where
  vin     : Nat
  iin     : Nat
  pin     : Nat
  sb      : List Nat
  sensors : List (Nat × Bool)
  inlet   : Nat
  outlet  : Nat
  flow    : Nat
  margin  : List Nat
  ballast : Nat
  deriving DecidableEq, Repr, Inhabited

/-- The strap pins at the three samples, each pin's agreed value, or `none` where its samples differ (Table 1-4, R429). -/
structure StrapPins where
  hostrole  : Option (BitVec 1)
  pwrclass  : Option (BitVec 3)
  sigpol    : Option (BitVec 1)
  bootsrc   : Option (BitVec 2)
  coordMode : Option (BitVec 1)
  coord     : Option (BitVec 15)
  bar4sz    : Option (BitVec 2)
  deadMode  : Option (BitVec 1)
  tkovr     : Option (BitVec 2)
  deriving DecidableEq, Repr, Inhabited

/-- A DIMM as training finds it (R300): type code and capacity code of GR_POP. -/
structure DimmFound where
  typ : Nat
  cap : Nat
  deriving DecidableEq, Repr, Inhabited

/-- How a device request to a host failed (Table 12-9, PCIE). -/
inductive PcieError where
  | ur | ca | timeout | poisoned
  deriving DecidableEq, Repr, Inhabited

/-- A function that can be disabled (R437). -/
inductive Func where
  | bay (b : BayId)
  | channel (n : Fin 8)
  | port (p : PortId)
  deriving DecidableEq, Repr, Inhabited

/-- What the symbol code finds in the bursts that a granary access reads (R301): nothing, a corrected or an uncorrectable
burst, counted in bursts of 64 bytes from the start of the access. -/
inductive BurstFinding where
  | clean
  | corrected (burst : Fin 64)
  | uncorrectable (burst : Fin 64)
  deriving DecidableEq, Repr, Inhabited

/-- Replication control that a management message carries (R448): the commit record at the first message and at the end, from the
origin; the report of a failed replication, from the buddy. `place` is the buddy's answer to the first message, the base of its slot in MiB;
`ask` asks for a buddy slot to be sent to a base, in MiB, of the module that pulls it (R451). -/
inductive ReplMsg where
  | first (record : List Byte)
  | place (base : BitVec 22)
  | last (record : List Byte)
  | ask (slot : BitVec 1) (base : BitVec 22)
  | failed
  deriving DecidableEq, Repr, Inhabited


/-- Where a register write goes: an offset of BAR0, an offset of BAR2 of the requesting host's port, or a register of a mailbox as an end
that no BAR reaches sees it. -/
inductive RegTarget where
  | bar0 (off : BitVec 25)
  | bar2 (off : BitVec 20)
  | box (b : MailboxId) (off : BitVec 8)
  | config (off : BitVec 12)
  deriving DecidableEq, Repr, Inhabited

/-- What a register read asks for: where, and how many bytes. -/
structure RegRead where
  target : RegTarget
  size   : Fin 9
  deriving DecidableEq, Repr, Inhabited

/-- A command of the block: one constructor per row of the command table. -/
inductive Instr where
  /-- NOP (R95): Common instruction that issues nothing else for REPCNT + 1 sc. -/
  | nop (st : Station) (q : Queue) (w : FmtO)
  /-- END (R86): Ends the task's station queue, which issues nothing more for the task until the next start descriptor. -/
  | endQueue (st : Station) (q : Queue) (w : FmtC)
  /-- LOOP (R98): Opens a hardware loop at a level, latching its count from COUNT, LC or a scalar register. -/
  | loop (st : Station) (q : Queue) (w : FmtC)
  /-- REP (R97): Latches the repeat count of the next instruction of the same queue. -/
  | rep (st : Station) (q : Queue) (w : FmtC)
  /-- BAR (R103): Station queue waits at a barrier until every station in MASK has issued BAR with the same BID. -/
  | bar (st : Station) (q : Queue) (w : FmtC)
  /-- ARSET (R95): Sets an address register to an immediate. -/
  | arset (st : Station) (q : Queue) (w : FmtW)
  /-- ASTSET (R95): Sets a stride register to a 40-bit two's-complement immediate. -/
  | astset (st : Station) (q : Queue) (w : FmtW)
  /-- ARADD (R95): Adds an immediate to an address register modulo 2^40. -/
  | aradd (st : Station) (q : Queue) (w : FmtW)
  /-- ARSC (R95): Loads an address register from a broadcast scalar register. -/
  | arsc (st : Station) (q : Queue) (w : FmtW)
  /-- LCSET (R95): Sets a loop count register. -/
  | lcset (st : Station) (q : Queue) (w : FmtW)
  /-- REPEAT_ISSUE (R89): A later repeat of a repeating instruction issues in an sc whose rotation entry names its task. -/
  | repeatIssue (st : Station) (q : Queue)
  /-- MX_LW (R157): Starts loading the shadow weight buffer from 128 element beats and any scale beats. -/
  | mxLw (q : Queue) (w : FmtO)
  /-- MX_LW_COMPLETE (R157): At sc c + 128 the shadow buffer becomes LOADED with its format and recorded scale, and SMAX updates. -/
  | mxLwComplete (l : LineId)
  /-- MX_SWAP (R158): Exchanges the active and shadow weight buffers, row group by row group. -/
  | mxSwap (q : Queue) (w : FmtO)
  /-- MX_MM (R152): Forms exact products of an activation beat with the active weights for one accumulator row per repeat. -/
  | mxMm (q : Queue) (w : FmtO)
  /-- MX_MM_COMMIT (R154): The pipeline commits a repeat's updated sheafs to its accumulator row at the end of sc c + L − 1. -/
  | mxMmCommit (l : LineId)
  /-- MX_ANCHOR (R166): Sets the anchors of a range of accumulator rows from an immediate, a scalar register or the derived top-aligned value. -/
  | mxAnchor (q : Queue) (w : FmtO)
  /-- MX_ACLR (R164): Clears one accumulator row per repeat, committing with the latency of MX.MM. -/
  | mxAclr (q : Queue) (w : FmtO)
  /-- MX_RDREG (R175): Writes SMAX, a recorded scale or MX_OOW_CNT to a scalar register, optionally clearing SMAX. -/
  | mxRdreg (q : Queue) (w : FmtO)
  /-- VX_ACCRD (R189): Reads accumulator rows and converts them to FP32, BF16, FP16, sheaf beats or FP64. -/
  | vxAccrd (q : Queue) (w : FmtO)
  /-- VX_OP (R188): Element-wise function FUNC of two sources. -/
  | vxOp (q : Queue) (w : FmtO)
  /-- VX_FMA (R188): Fused multiply-add of three sources with one rounding. -/
  | vxFma (q : Queue) (w : FmtO)
  /-- VX_SEL (R186): Selects each lane from one of two sources by a third. -/
  | vxSel (q : Queue) (w : FmtO)
  /-- VX_FN (R188): Applies a correctly rounded or composed function to each lane. -/
  | vxFn (q : Queue) (w : FmtO)
  /-- VX_CVT (R195): Converts groups of 128 elements between formats, with MX block scales through a data queue. -/
  | vxCvt (q : Queue) (w : FmtO)
  /-- VX_DROP (R197): Applies dropout to each element using Philox random words. -/
  | vxDrop (q : Queue) (w : FmtO)
  /-- VX_ROPE (R198): Rotates 64 lane pairs by rotary angles from the frequency table and a position. -/
  | vxRope (q : Queue) (w : FmtO)
  /-- VX_RFLD (R198): Loads entries of the rotary frequency table. -/
  | vxRfld (q : Queue) (w : FmtO)
  /-- VX_SUMM (R193): Reduces lanes into the task's summary state for KIND and writes the result to a scalar register. -/
  | vxSumm (q : Queue) (w : FmtO)
  /-- VX_RCLR (R191): Gives a running row its kind and initial value. -/
  | vxRclr (q : Queue) (w : FmtO)
  /-- VX_RACC (R192): Folds its source into a running row, one update per repeat. -/
  | vxRacc (q : Queue) (w : FmtO)
  /-- VX_RRD (R192): Reads a running row as FP32 or sheaf beats, optionally clearing it. -/
  | vxRrd (q : Queue) (w : FmtO)
  /-- VX_F64S (R199): Forms one balanced base-256 digit of FP64 elements for split-integer products. -/
  | vxF64s (q : Queue) (w : FmtO)
  /-- VX_OUTPUT (R184): A VX repeat's result is written to a stream, data queue or vector register at its output sc. -/
  | vxOutput (l : LineId)
  /-- PX_TR (R202): Transposes a 128-row tile through a tile buffer. -/
  | pxTr (q : Queue) (w : FmtO)
  /-- PX_TLD (R202): Writes beats into tile buffer rows. -/
  | pxTld (q : Queue) (w : FmtO)
  /-- PX_TRD (R202): Outputs tile buffer rows. -/
  | pxTrd (q : Queue) (w : FmtO)
  /-- PX_GATH (R202): Outputs tile buffer rows chosen by an index beat. -/
  | pxGath (q : Queue) (w : FmtO)
  /-- PX_SCAT (R202): Writes beats into tile buffer rows chosen by an index beat. -/
  | pxScat (q : Queue) (w : FmtO)
  /-- PX_CMPX (R202): Compacts kept rows or lanes by an INT8 mask, with a row count to a scalar register. -/
  | pxCmpx (q : Queue) (w : FmtO)
  /-- PX_LPERM (R202): Permutes the elements of each beat by a held index beat. -/
  | pxLperm (q : Queue) (w : FmtO)
  /-- PX_PK6 (R202): Packs four FP6 container beats into three packed beats. -/
  | pxPk6 (q : Queue) (w : FmtO)
  /-- PX_UP6 (R202): Unpacks three packed FP6 beats into four container beats. -/
  | pxUp6 (q : Queue) (w : FmtO)
  /-- PX_OUTPUT (R204): A PX output beat or row write takes place at its latency, freeing a PX.TR tile buffer after its last output. -/
  | pxOutput (l : LineId)
  /-- LS_RD (R254): Reads a local-store row per repeat onto a stream or data queue. -/
  | lsRd (q : Queue) (w : FmtM)
  /-- LS_WR (R254): Consumes a beat per repeat and writes it to the local store. -/
  | lsWr (q : Queue) (w : FmtM)
  /-- LS_FILL (R254): Writes rows of zeros or of a broadcast scalar to the local store. -/
  | lsFill (q : Queue) (w : FmtM)
  /-- LS_COPY (R254): Copies local-store rows from one address sequence to another. -/
  | lsCopy (q : Queue) (w : FmtM)
  /-- LS_PGRP (R265): Records a local-store power-group request for a harvest boundary. -/
  | lsPgrp (q : Queue) (w : FmtO)
  /-- HELD_ROW_DRAIN (R262): A CONFIRMED held-row entry drains to its banks in the first sc its pair's write port is free. -/
  | heldRowDrain (l : LineId) (found : EccFinding := .clean)
  /-- GLEANER_READ (R270): The gleaner reads the next row of a local store or bay buffer in a cc with a free port. -/
  | gleanerRead (m : GleanMem) (found : EccFinding)
  /-- GLEANER_WRITE_BACK (R270): The gleaner writes a corrected row back through a free write port unless the row was written since. -/
  | gleanerWriteBack (m : GleanMem)
  /-- INSTRUCTION_STORE_SCAN (R271): The gleaner reads instruction-store words through the scan port and queues rows with parity errors for map-out. -/
  | instructionStoreScan (l : LineId) (found : List ParityFinding)
  /-- PT_GET (R283): Reads a near-tier row per repeat. -/
  | ptGet (q : Queue) (w : FmtM)
  /-- PT_PUT (R283): Consumes a beat per repeat and writes it to the near tier. -/
  | ptPut (q : Queue) (w : FmtM)
  /-- PT_BGET (R284): Background transfer reading bay-buffer rows of any bay. -/
  | ptBget (q : Queue) (w : FmtM)
  /-- PT_BPUT (R284): Background transfer writing bay-buffer rows. -/
  | ptBput (q : Queue) (w : FmtM)
  /-- PT_NGET (R257): Background transfer reading rows of a grid neighbour's local store. -/
  | ptNget (q : Queue) (w : FmtM)
  /-- PT_NPUT (R257): Background transfer writing rows of a grid neighbour's local store. -/
  | ptNput (q : Queue) (w : FmtM)
  /-- BACKGROUND_BEAT (R284): Beat j of a background transfer moves in sc c + j whatever the rotation table gives. -/
  | backgroundBeat (l : LineId)
  /-- PT_SEND (R283): Consumes a beat per repeat and sends its first 8 bytes as a word on a route. -/
  | ptSend (q : Queue) (w : FmtO)
  /-- PT_GMV (R302): Consumes beats of four move descriptors each for the granary move queue. -/
  | ptGmv (q : Queue) (w : FmtM)
  /-- PT_FGET (R336): Takes the packets of a stream-delivery circuit end onto a stream at their use sc. -/
  | ptFget (q : Queue) (w : FmtM)
  /-- PT_FPUT (R335): Consumes beats in pairs as payloads of fabric packets. -/
  | ptFput (q : Queue) (w : FmtM)
  /-- PT_READ_RETURN (R286): A read beat reaches position 0 of the requesting line, or is enqueued, at its fixed latency. -/
  | ptReadReturn (l : LineId)
  /-- NT_SLOT_ACCESS (R288): A scheduled near-tier access occupies its slice slot at its slot sc, checking conflicts and reserved slots. -/
  | ntSlotAccess (slice : Fin 256) (found : EccFinding) (rfm : Nat)
  /-- HBM_TEMP_INTERVAL (R295): At each 3,120-cc interval a stack above its temperature limit raises HBM_TEMP for 64 cc. -/
  | hbmTempInterval (stack : Fin 32) (degrees : Nat) (rfm : Nat)
  /-- FREE_SLOT_ACCESS (R290): A free-slot user commits to a free slice slot 4 cc ahead in the fixed order of users. -/
  | freeSlotAccess (slice : Fin 256) (slot : Fin 2) (user : FreeUser) (found : EccFinding)
  /-- PN_CROSSING (R291): A beat crosses a package-network bridge in its slot, checking for slot conflicts. -/
  | pnCrossing (bay : BayId)
  /-- CC_OP (R212): Scalar integer or FP32 operation into a scalar register. -/
  | ccOp (q : Queue) (w : FmtO)
  /-- CC_LI (R211): Loads a sign-extended 34-bit immediate into a scalar register. -/
  | ccLi (q : Queue) (w : FmtW)
  /-- CC_LIH (R211): Loads bits [63:32] of a scalar register. -/
  | ccLih (q : Queue) (w : FmtW)
  /-- CC_BR (R217): Plain branch that redirects the task's station queues when its condition is true. -/
  | ccBr (q : Queue) (w : FmtC)
  /-- CC_BR_RESOLVE (R241): Resolving branch that confirms or refutes the task's prediction. -/
  | ccBrResolve (q : Queue) (w : FmtC)
  /-- CC_PREDICT (R239): Starts a prediction, checkpoints task state and takes the predicted arm. -/
  | ccPredict (q : Queue) (w : FmtC)
  /-- SPEC_DEPTH_EXPIRE (R242): A prediction not resolved by sc p + 256 records SPEC_DEPTH at p + 257. -/
  | specDepthExpire (q : Queue)
  /-- DEFERRED_WORD_SEND (R243): After confirmation, deferred words are sent one per sc from r + 1. -/
  | deferredWordSend (q : Queue)
  /-- CC_SET (R220): Sets a line, bay or module flag with effect at sc c + Ls. -/
  | ccSet (q : Queue) (w : FmtC)
  /-- CC_CLR (R220): Clears a flag with effect at sc c + Ls. -/
  | ccClr (q : Queue) (w : FmtC)
  /-- FLAG_CHANGE_EFFECT (R221): Changes reaching a flag home take effect in the fixed order of consumption, clears and sets. -/
  | flagChangeEffect (cls : FlagClass) (home : Nat)
  /-- CC_WAIT (R224): Waits until a flag is set and leaves it set. -/
  | ccWait (q : Queue) (w : FmtC)
  /-- CC_WAITC (R225): Waits until a flag is set and consumes it. -/
  | ccWaitc (q : Queue) (w : FmtC)
  /-- CC_WAITL (R229): Long wait with an expected length passed to the power manager. -/
  | ccWaitl (q : Queue) (w : FmtC)
  /-- FLAG_PROBE (R220): A pending wait probes its flag's home and is released when it sees the flag set. -/
  | flagProbe (cls : FlagClass) (home : Nat) (ix : Nat)
  /-- DEADLINE_CHECK (R228): 8 cc before the cc of sc D the CC determines the flag's value at D and raises GRN_DEADLINE when it is clear. -/
  | deadlineCheck (q : Queue)
  /-- WAITL_EXPECTED_END (R419): A CC.WAITL's expected length runs out and its line stops lending. -/
  | waitlExpectedEnd (q : Queue)
  /-- CC_HARVEST (R60): Harvest point on the harvest line, unconditional or on request. -/
  | ccHarvest (q : Queue) (w : FmtC)
  /-- CC_WSEND (R231): Sends a scalar register as a word on a route. -/
  | ccWsend (q : Queue) (w : FmtO)
  /-- WORD_ARRIVAL (R231): A word reaches its inbound queue at sc s + Lw, optionally setting a line flag, or is dropped with a NACK. -/
  | wordArrival (l : LineId)
  /-- NACK (R233): A negative acknowledgement reaches the sending line at s + 2Lw and faults or is counted. -/
  | wordNack (l : LineId)
  /-- CC_WRECV (R211): Dequeues the head word of an inbound queue into a scalar register. -/
  | ccWrecv (q : Queue) (w : FmtO)
  /-- CC_WARM (R234): Arms or disarms an inbound word queue for the issuing task. -/
  | ccWarm (q : Queue) (w : FmtO)
  /-- CC_SRRD (R211): Reads a status word, including the wall-clock SCH_CC, into a scalar register. -/
  | ccSrrd (q : Queue) (w : FmtO)
  /-- CC_ELB_ADD (R237): Adds to a local expert load entry with effect at c + 24. -/
  | ccElbAdd (q : Queue) (w : FmtO)
  /-- CC_ELB_READ (R237): Reads a local expert load entry into a scalar register. -/
  | ccElbRead (q : Queue) (w : FmtO)
  /-- CC_ELB_READV (R237): Reads a view entry of the expert load table, adding 1 to the NDC. -/
  | ccElbReadv (q : Queue) (w : FmtO)
  /-- EXPERT_LOAD_REPORT_SEND (R236): Every 65,536 cc an exporting module sends its local load entries to the ELB multicast group. -/
  | expertLoadReportSend
  /-- EXPERT_LOAD_REPORT (R236): A received expert load report writes the view entries with the sender's coordinate and VALID. -/
  | expertLoadReport (coord : BitVec 15) (first : Fin 256) (entries : List W32)
  /-- HOLD_REQUEST_EXPIRE (R40): A hold request raised for a known length withdraws by itself. -/
  | holdRequestExpire
  /-- HOLD_TIMEOUT (R45): A single hold longer than SCH_HOLD_LIMIT records a hold-timeout fault. -/
  | holdTimeout
  /-- HARVEST_BOUNDARY (R63): At the boundary after sc h + 8, counters latch and restart and pending changes and a snapshot begin. -/
  | harvestBoundary
  /-- HARVEST_ACTIONS_COMPLETE (R63): Wall-time harvest steps complete, HARVEST withdraws and the harvest completion event is posted. -/
  | harvestActionsComplete
  /-- SNAPSHOT_CAPTURE_DONE (R444): Every capture record is written and awaited moves and packets have arrived; the write phase begins. -/
  | snapshotCaptureDone (here : Bool := true)
  /-- SNAPSHOT_WRITE_DONE (R444): The last content byte is written to the slot; the commit phase begins. -/
  | snapshotWriteDone (found : List (BitVec 42 × Bool) := [])
  /-- SNAPSHOT_COMMIT_DONE (R444): The COMMITTED record reads back correctly, SNAPSHOT withdraws and the record completes. -/
  | snapshotCommitDone
  /-- REPLICATION_DONE (R448): The buddy reports the replica valid and the origin sets REPL_DONE. -/
  | replicationDone
  /-- REPLICATION_TIMEOUT (R448): Loss of contact for 1 s fails the replication with BUDDY_FAIL. -/
  | replicationTimeout
  /-- SLOT_SCAN (R449): The management controller reads the slot commit records and sets VALID, INC and LATEST. -/
  | slotScan
  /-- MOVE_DESCRIPTOR_ENTRY (R302): A non-empty descriptor is checked and enters the move queue at t + 16. -/
  | moveDescriptorEntry
  /-- GRANARY_CHUNK (R305): A granary engine completes a 4 KiB chunk and takes the next by lowest DL. -/
  | granaryChunk (found : BurstFinding)
  /-- MOVE_COMPLETE (R305): The last byte of a move is written and its completion flag set leaves the engine. -/
  | moveComplete
  /-- MOVE_ENTRY_FREE (R304): A move queue entry is freed after sc DL once its move has completed. -/
  | moveEntryFree
  /-- GRANARY_SCRUB (R301): A DDR5 controller scrubs a burst of its DIMMs in idle time. -/
  | granaryScrub (channel : Fin 8) (found : BurstFinding)
  /-- SCHEDULED_PACKET_READY (R326): An origin packet becomes ready and claims its send slot. -/
  | scheduledPacketReady (circ : Fin 4096)
  /-- SCHEDULED_PACKET_DEPARTURE (R327): A scheduled packet departs a port in its first owned position with credit. -/
  | scheduledPacketDeparture (port : PortId)
  /-- SCHEDULED_PACKET_ARRIVAL (R328): A scheduled packet is received, checked and held in the lead buffer at exactly D cc, or forwarded. -/
  | scheduledPacketArrival (port : PortId) (cell : LinkCell)
  /-- FAB_LATE_CHECK (R51): 8 cc before the cc of a use sc, an absent packet raises FAB_LATE or LINK_REPLAY. -/
  | fabLateCheck (circ : Fin 4096) (seq : Nat) (index : Nat)
  /-- SCHEDULED_PACKET_USE (R330): At its use sc a packet is combined, delivered to memory or stream, or sent on, and its entry frees. -/
  | scheduledPacketUse (circ : Fin 4096)
  /-- SIGNAL_APPLY (R337): A memory delivery's signal is applied as a flag change issued at u + 17. -/
  | signalApply (l : LineId)
  /-- CONTROL_CELL_CREDIT (R329): A credit control cell updates circuits' used counts and is relayed toward the origin. -/
  | controlCellCredit (port : PortId) (cell : BitVec 256)
  /-- CONTROL_CELL_TIME (R315): A TIME control cell serves calibration and sets the HTC from the peer. -/
  | controlCellTime (port : PortId) (cell : BitVec 256) (peerValid : Bool)
  /-- CONTROL_CELL_IDENT (R318): An identity cell checks the peer port and shape and may fix the coordinate by discovery. -/
  | controlCellIdent (port : PortId) (cell : BitVec 256)
  /-- CONTROL_CELL_NONE (R321): A control cell of kind NONE returns freed dynamic entries and the expected sequence number. -/
  | controlCellNone (port : PortId) (cell : BitVec 256)
  /-- REPLAY (R345): A REPLAY request makes the sender resend every cell from the named sequence number. -/
  | replayRequest (port : PortId) (seq : BitVec 31)
  /-- DYNAMIC_DATA_ARRIVAL (R343): A dynamic data packet is forwarded or written to the granary through the engines. -/
  | dynamicDataArrival (port : PortId) (cell : LinkCell)
  /-- DYNAMIC_FORWARD (R342): A port sends a dynamic packet from a VC buffer in a dynamic position. -/
  | dynamicForward (port : PortId)
  /-- DYNAMIC_FLAG_CHANGE (R222): A control packet carrying a module-flag change takes effect at the first unheld cc. -/
  | dynamicFlagChange (flag : Fin 1024) (set : Bool)
  /-- BUSY (R339): A destination with a full receive buffer answers BUSY and the origin schedules a resend. -/
  | busyNotice (dst : BitVec 15) (tag : W32) (addr : BitVec 42)
  /-- BUSY_RESEND (R339): 4 µs after BUSY the origin resends the retained copy. -/
  | busyResend (dst : BitVec 15) (tag : W32) (addr : BitVec 42)
  /-- DONE (R339): A destination's DONE frees the retained copy and may set the transfer's completion flag. -/
  | doneNotice (dst : BitVec 15) (tag : W32) (addr : BitVec 42)
  /-- ABORT (R347): The first ABORT received is forwarded on all UP ports and stops the job with FAB_ABORT. -/
  | abortNotice (origin : BitVec 15)
  /-- MANAGEMENT_MESSAGE (R448): A management message on VC0 carries replication control to or from a buddy. -/
  | managementMessage (src : BitVec 15) (m : ReplMsg)
  /-- COORDINATED_RELEASE (R344): sc 0 is released in the cc whose HTC equals FAB_START. -/
  | coordinatedRelease
  /-- CAGE_PRESENT (R316): A cable present with the module locked takes the port from DOWN to SIGNAL. -/
  | cagePresent (port : PortId)
  /-- CABLE_REMOVED (R316): Removal of the cable takes a FAILED port to DOWN. -/
  | cableRemoved (port : PortId)
  /-- EQUALISER_TRAINING_DONE (R316): Training completes on all four lanes and the port enters ALIGN. -/
  | equaliserTrainingDone (port : PortId)
  /-- FRAME_LOCK (R316): FEC and frame-marker lock over 16 frames takes the port to IDENT. -/
  | frameLock (port : PortId)
  /-- CALIBRATION_DONE (R317): Round-trip measurement sets the calibrated latency H and the port enters UP. -/
  | calibrationDone (port : PortId) (roundTrip : Nat) (turnaround : Nat)
  /-- FEC_LOCK_LOSS (R346): FEC lock lost for more than 1 µs fails the port. -/
  | fecLockLoss (port : PortId)
  /-- CONTROL_CELL_TIMEOUT (R346): No valid control cell for 10 µs fails the port. -/
  | controlCellTimeout (port : PortId)
  /-- PHASE_WANDER_OVERFLOW (R346): A lane's phase wander exceeding its receive buffer fails the port. -/
  | phaseWanderOverflow (port : PortId)
  /-- RETRAIN (R316): Owner command in FAB_Pn_CMD taking a FAILED port to DOWN. -/
  | retrainPort (who : Requester) (port : PortId)
  /-- REFERENCE_INVALID (R313): The clock source in use becomes invalid and the module moves to the next valid source within 10 µs. -/
  | referenceInvalid (ref : RefInput)
  /-- CLOCK_LOCK (R313): The ratio-locked domains lock to a valid source and MOD_READY.CLK sets. -/
  | clockLock (aValid : Bool) (bValid : Bool)
  /-- HOLDOVER_EXPIRE (R314): Holdover beyond 1 s clears CLK, takes every port DOWN and faults a running job. -/
  | holdoverExpire
  /-- POWER_WINDOW_END (R412): At the end of each 10 µs window the power manager records any over-limit condition and alerts. -/
  | powerWindowEnd (w : PowerWindow)
  /-- DUTY_PERIOD_END (R413): At each 65,536-cc period boundary the duty level is adjusted and THERMAL raised for 4,096 × d cc. -/
  | dutyPeriodEnd
  /-- RAMP_RAISE (R424): The ramp governor raises RAMP for the climb needed when demand would step beyond the limit or holds end. -/
  | rampRaise (look : Unit)
  /-- BALLAST_KEEP_EXPIRE (R423): After PWR_KEEP held cc the ballast lets S_b fall at 0.075 A per cc. -/
  | ballastKeepExpire
  /-- VIN_STOP_THRESHOLD (R408): Input voltage crossing a stop threshold stops conversion and removes the rails. -/
  | vinStopThreshold (high : Bool)
  /-- THERMAL_SHUTDOWN (R426): A die or stack at its shutdown temperature removes every rail but VSTBY. -/
  | thermalShutdown (bay : BayId) (sensor : Fin 36) (degrees : BitVec 8)
  /-- VIN_GOOD (R428): VIN entering its operating range brings up VSTBY and the always-on domain. -/
  | vinGood (lost : Bool := false)
  /-- STRAP_SAMPLING (R429): The strap pins are sampled 1 ms after the reset cause ends and power-on proceeds. -/
  | strapSampling (pins : StrapPins)
  /-- RAILS_UP (R428): The module and vertical stages bring up every rail. -/
  | railsUp
  /-- MANAGEMENT_BOOT (R461): The boot ROM tries its sources in order and starts the first valid package, setting MOD_READY.MGMT. -/
  | managementBoot
  /-- HOST_BOOT_PACKAGE (R462): A host posts a firmware package on the boot mailbox for the boot ROM. -/
  | hostBootPackage (pkg : List Byte)
  /-- HOST_BOOT_TIMEOUT (R462): No package posted within 60 s of strap sampling fails the host try. -/
  | hostBootTimeout
  /-- BAY_READY (R428): A bay's stacks are trained and its memories cleared, setting MOD_READY.BAY. -/
  | bayReady (bay : BayId)
  /-- GRANARY_CHANNEL_READY (R300): A DIMM is trained and the population checked, setting the channel's ready bit. -/
  | granaryChannelReady (channel : Fin 8) (fitted : List DimmFound)
  /-- MANAGEMENT_FAILOVER (R432): A missed heartbeat for 50 ms hands management to the standby in bay 7. -/
  | managementFailover
  /-- STANDBY_READY (R432): The standby management controller becomes ready and MGMT sets again. -/
  | standbyReady
  /-- MODRST_N (R433): MODRST_N low for at least 1 µs causes a module reset. -/
  | modrstN (low : Bool) (cool : Bool)
  /-- I3C_RESET_COMMAND (R433): The I3C module reset command causes a module reset. -/
  | i3cResetCommand (cool : Bool)
  /-- PERST (R382): PERST#, hot reset or FLR performs a port reset of the scope of Table 12-3. -/
  | perst (port : HostId) (asserted : Bool)
  /-- LINK_LEAVES_L0 (R382): A PCIe link leaving L0 without PERST# counts as a port reset. -/
  | linkLeavesL0 (port : HostId)
  /-- PCIE_LINK_UP (R430): A configuration-ready port reaches L0 and its MOD_READY bit sets. -/
  | pcieLinkUp (port : HostId) (rate : Nat) (width : Nat)
  /-- PCIE_COMPLETION_TIMEOUT (R373): A device read request without completion for 50 ms fails with status PCIE. -/
  | pcieCompletionTimeout (port : HostId) (ring : RingId) (err : PcieError) (data : List Byte)
  /-- OWNER_TAKEOVER (R380): The observer becomes owner when the owner port has been down for the takeover timeout. -/
  | ownerTakeover
  /-- SQ_DB (R384): Doorbell write setting the tail of a submission ring. -/
  | sqDb (port : HostId) (ring : RingId) (value : W32)
  /-- CQ_DB (R384): Doorbell write telling the device the host consumed completion records. -/
  | cqDb (port : HostId) (ring : RingId) (value : W32)
  /-- RING_CFG_WRITE (R383): A write to a ring's CFG register sets K and EN, resetting head and tail on enable. -/
  | ringCfgWrite (who : Requester) (port : HostId) (completion : Bool) (ring : RingId) (value : W32)
  /-- BALE_FETCH (R385): The device fetches the next bale of a submission ring once its records have begun. -/
  | baleFetch (port : HostId) (ring : RingId) (units : List (BitVec 512))
  /-- PAD (R386): Record covering the rest of the ring; fetching continues at index 0. -/
  | padRec (port : HostId) (ring : RingId)
  /-- RECORD_NOP (R390): NOP record completing at once. -/
  | nopRec (port : HostId) (ring : RingId)
  /-- COPY (R392): Record moving bytes between host memory and a device range. -/
  | copyRec (port : HostId) (ring : RingId)
  /-- COPY_COMPLETE (R392): The last byte of a copy is written and its completion posted. -/
  | copyComplete (port : HostId) (ring : RingId) (data : List Byte) (bad : Option Nat)
  /-- LOAD (R393): Record asking the loader to load a Fellet image, optionally restoring a snapshot. -/
  | loadRec (port : HostId) (ring : RingId)
  /-- LOAD_PROCEED (R363): After the fill engines finish, the loader runs its stages and the load ends loaded or refused. -/
  | loadProceed (reloc : List (BitVec 128)) (fillError : Bool) (found : List (BitVec 42 × Bool))
  /-- START (R394): Record releasing sc 0, or sc h + 9 after a restore, directly or by coordinated start. -/
  | startJob (port : HostId) (ring : RingId)
  /-- KILL (R394): Record performing a job reset and starting the fill engines. -/
  | killRec (port : HostId) (ring : RingId)
  /-- FILL_COMPLETE (R280): The fill engines finish clearing, the KILL completes and waiting loads may proceed. -/
  | fillComplete
  /-- CLEAR_UNIT_DONE (R282): A line's memories or a bay-buffer slice finish clearing and answer host reads. -/
  | clearUnitDone (bay : BayId) (line : Bool) (unit : Fin 64)
  /-- NT_SLICE_CLEAR_DONE (R299): A near-tier slice finishes kill-with-clear and its addresses answer host reads. -/
  | ntSliceClearDone (slice : Fin 256)
  /-- HARVEST (R394): Record arming a harvest request at a target sc. -/
  | harvestRec (port : HostId) (ring : RingId)
  /-- SNAPSHOT (R394): Record requesting a snapshot at the next harvest boundary, optionally arming it. -/
  | snapshotRec (port : HostId) (ring : RingId)
  /-- RELEASE (R394): Record making the observer the owner. -/
  | releaseRec (port : HostId) (ring : RingId)
  /-- STATUS (R395): Record writing the 128-byte status block to host memory. -/
  | statusRec (port : HostId) (ring : RingId)
  /-- ATTEST (R472): Record sampling state for a signed attestation report. -/
  | attestRec (port : HostId) (ring : RingId)
  /-- ATTEST_REPORT_WRITTEN (R472): The security block signs the report and writes it to host memory. -/
  | attestReportWritten (port : HostId) (ring : RingId)
  /-- FWUPD_STAGE (R465): FWUPD without COMMIT writes and verifies a package in the staging slot. -/
  | fwupdStage (port : HostId) (ring : RingId) (pkg : List Byte) (flashOk : Bool)
  /-- FWUPD_COMMIT (R466): FWUPD with COMMIT marks the STAGED slot COMMITTED with the next SEQ. -/
  | fwupdCommit (port : HostId) (ring : RingId) (flashOk : Bool)
  /-- COMPLETION_POST (R396): A completion record is written to its CQ once the CQ is enabled and not full. -/
  | completionPost (port : HostId) (cq : RingId)
  /-- CQ_INTERRUPT (R397): A CQ sends its MSI-X message after CNT records or when the oldest is TIME µs old. -/
  | cqInterrupt (port : HostId) (cq : RingId)
  /-- JOB_END (R365): Every end condition holds; RUNNING and LOADED clear and JOB_END is posted. -/
  | jobEnd
  /-- FAULT_REPORTING (R454): Within 10 µs of a fault the management controller sends ABORT, posts JOB_END and sets JOB_FAULT. -/
  | faultReporting
  /-- BAR4_ACCESS (R378): A host BAR4 access reaches a global address through free slots, engines or a dynamic packet. -/
  | bar4Access (port : HostId) (offset : BitVec 36) (write : Bool) (data : List Byte) (len : Fin 4097) (bad : Option Nat)
  /-- WINDOW_ACCESS (R29): A host or debug access to the local-store or accumulator windows, open or refused by job state. -/
  | windowAccess (who : Requester) (addr : BitVec 42) (write : Bool) (data : List Byte) (len : Fin 4097) (bad : Option Nat)
  /-- MB_CLAIM (R402): A read of MB_CLAIM claims an idle mailbox. -/
  | mbClaim (box : MailboxId) (who : Requester)
  /-- MB_MSG_WRITE (R402): A claimant's write of a message word. -/
  | mbMsgWrite (box : MailboxId) (who : Requester) (w : Fin 16) (value : W32)
  /-- MB_DBSET (R402): The claimant sets doorbell bits, making the mailbox FULL and interrupting the receiver. -/
  | mbDbset (box : MailboxId) (who : Requester) (value : W32)
  /-- MB_DBCLR (R402): The receiver clears doorbell bits, emptying the mailbox when none remain. -/
  | mbDbclr (box : MailboxId) (who : Requester) (value : W32)
  /-- UNCLAIM (R402): MB_CTRL.UNCLAIM returns a claimed mailbox to IDLE. -/
  | mbUnclaim (box : MailboxId) (who : Requester)
  /-- ACK (R405): MB_CTRL.ACK clears ABORTED and EMPTIED. -/
  | mbAck (box : MailboxId) (who : Requester)
  /-- KEY_ADD (R470): Owner command filling an owner key slot. -/
  | keyAdd (port : HostId) (block : List Byte)
  /-- KEY_REMOVE (R469): Owner command emptying an owner key slot. -/
  | keyRemove (port : HostId) (block : List Byte)
  /-- POLICY (R469): Owner command setting SIG_REQ. -/
  | ownerPolicy (port : HostId) (block : List Byte)
  /-- UNLOCK (R473): Owner command unlocking the test access port. -/
  | tapUnlock (port : HostId) (block : List Byte)
  /-- LOCK (R473): Owner command locking the test access port. -/
  | tapLock (port : HostId) (block : List Byte)
  /-- HALT (R371): DBG_HALT HALT raises and keeps a DEBUG hold request. -/
  | dbgHalt (who : Requester)
  /-- RESUME (R371): DBG_HALT RESUME withdraws the DEBUG request. -/
  | dbgResume (who : Requester)
  /-- STEP (R371): DBG_HALT STEP lets the module run exactly n further sc. -/
  | stepCount (who : Requester) (n : BitVec 24)
  /-- STEP_COUNT_EXPIRE (R371): DEBUG is raised again 8 cc before sc n would follow. -/
  | stepCountExpire
  /-- ARM (R61): HRV_REQ.ARM sets ARMED for an on-request harvest. -/
  | hrvArm (who : Requester)
  /-- DISARM (R62): HRV_REQ.DISARM clears ARMED. -/
  | hrvDisarm (who : Requester)
  /-- HRV_ACK (R72): Writing the current HRV_SEQ clears UNREAD. -/
  | hrvAck (who : Requester) (value : W32)
  /-- SCH_CTRL_WRITE (R71): Write of permit and fault bits, taking effect at once or at the next load. -/
  | schCtrlWrite (who : Requester) (value : W32)
  /-- SCH_HOLD_LIMIT_WRITE (R71): Write of the hold-timeout limit, taking effect at once or at the next load. -/
  | schHoldLimitWrite (who : Requester) (value : W32)
  /-- FLG_MF_SET (R247): Owner write setting module flags homed in the bay. -/
  | flgMfSet (who : Requester) (bay : BayId) (k : Fin 4) (value : W32)
  /-- FLG_MF_CLR (R247): Owner write clearing module flags homed in the bay. -/
  | flgMfClr (who : Requester) (bay : BayId) (k : Fin 4) (value : W32)
  /-- NT_ZONE_WRITE (R294): Owner write remapping near-tier groups while no job is loaded. -/
  | ntZoneWrite (who : Requester) (value : W32)
  /-- FAB_SHAPE_WRITE (R311): Owner write of the torus shape while no job is loaded. -/
  | fabShapeWrite (who : Requester) (value : W32)
  /-- FAB_DISREQ_WRITE (R348): Queues or withdraws fabric port disable requests. -/
  | fabDisreqWrite (who : Requester) (value : W32)
  /-- RCV_DISREQ_WRITE (R437): Queues or withdraws bay and granary channel disable requests. -/
  | rcvDisreqWrite (who : Requester) (value : W32)
  /-- RCV_DISFORCE_WRITE (R438): Disables a function at once, faulting a job that uses it. -/
  | rcvDisforceWrite (who : Requester) (value : W32)
  /-- DISABLE_TAKE_EFFECT (R437): A queued disable takes effect once its work in flight has completed. -/
  | disableTakeEffect (f : Func)
  /-- PULL (R451): RCV_CMD.PULL copies a buddy replica into a local slot. -/
  | pullReplica (who : Requester) (record : List Byte)
  /-- PULL_COMPLETE (R451): The pulled copy is checked and PULL_DONE sets. -/
  | pullComplete (record content : List Byte)
  /-- RESCAN (R449): RCV_CMD.RESCAN rereads the slot commit records. -/
  | rescanSlots (who : Requester)
  /-- MODRST (R433): RCV_CMD.MODRST by the owner causes a module reset. -/
  | modrstCmd (who : Requester)
  /-- BAYRST (R436): RCV_CMD.BAYRST resets and reinitialises one bay. -/
  | bayrst (who : Requester) (bay : BayId)
  /-- LINERST (R433): RCV_CMD.LINERST from the debug port resets one line. -/
  | linerst (who : Requester) (line : LineId)
  /-- PWR_CLASS_WRITE (R409): Owner write lowering the power class, clamped to the strapped class. -/
  | pwrClassWrite (who : Requester) (value : W32)
  /-- PWR_VCTRL_WRITE (R417): Owner write of voltage control, taking effect at the next boundary. -/
  | pwrVctrlWrite (who : Requester) (value : W32)
  /-- PWR_KEEP_WRITE (R427): Owner write of the ballast keep length for later holds. -/
  | pwrKeepWrite (who : Requester) (value : W32)
  /-- REGISTER_WRITE (R8): Write to a register without behaviour of its own, under its access code. -/
  | registerWrite (who : Requester) (target : RegTarget) (size : Fin 9) (value : W64)
  /-- FAB_LEAD_CHECK (R52): 8 cc before the cc of a scheduled packet's send sc, the sending port raises FAB_LEAD when the receiver's lead buffer entry for the packet is not free. -/
  | fabLeadCheck (port : PortId)
  /-- CONTROL_CELL_LAUNCH (R329): At each control cell position of a frame a port launches a control cell carrying freed dynamic entries, the expected sequence number, REPLAY and credit, TIME or IDENT content. -/
  | controlCellLaunch (port : PortId) (kind : Fin 4)
  /-- LO_READ (R70): A read of the LO register of an SCH, HRV or counter LO/HI pair captures HI for the same requester, for its next HI read. -/
  | loRead (who : Requester) (what : RegRead)
  /-- D3HOT (R404): A PCIe port enters or leaves D3hot, which makes its host end of the mailboxes dead or alive and shows in HST_STATUS.D3HOT. -/
  | d3hot (port : HostId) (entered : Bool)
  deriving DecidableEq, Repr, Inhabited

end Sys2Proof
end

