-- ==== Sys2Proof/WellFormed.lean ====
section
/-! DEFINITION. Which instruction words the loader accepts, as far as the word itself decides it (R92 and the
"refused at load" columns of Tables 6-2, 6-11, 7-1, 8-3, 9-1, 5-8). Rules that need the rest of the image (data-queue
declarations, regions, routes, REP before an instruction) belong to the loader. A field that an instruction's table names
and the instruction does not use may hold any value; a selector names only what the station chapter gives the instruction
(R94; log entry 21). -/

namespace Sys2Proof

/-- A stream or a data queue (Table 3-4). -/
def selIsChan (x : BitVec 4) : Bool := x.toNat < 4 || 8 ≤ x.toNat
def selIsDq (x : BitVec 4) : Bool := 8 ≤ x.toNat

/-- `n` bits of OPND from bit `lo`. -/
def FmtO.fld (w : FmtO) (lo n : Nat) : Nat := w.opnd.toNat / 2 ^ lo % 2 ^ n
/-- OPND is zero from bit `lo` up. -/
def FmtO.zeroFrom (w : FmtO) (lo : Nat) : Bool := w.opnd.toNat / 2 ^ lo = 0
def FmtO.isSingle (w : FmtO) : Bool := w.repcnt = 0
/-- `n` bits of COUNT from bit `lo`. -/
def FmtC.fld (w : FmtC) (lo n : Nat) : Nat := w.count.toNat / 2 ^ lo % 2 ^ n
def FmtW.rsvOk (w : FmtW) : Bool := w.rsvHi = 0 && w.rsvLo = 0

/-! ### Common instructions (R95, Table 3-5) -/

def wfNop (w : FmtO) : Bool := w.toff = 0 && w.src = 0 && w.dst = 0 && w.opnd = 0
def wfEnd (w : FmtC) : Bool := w.level = 0 && w.csrc = 0 && w.sreg = 0 && w.target = 0 && w.count = 0
/-- LOOP: CSRC 0b11 reserved; COUNT, SREG are named fields (R98). -/
def wfLoop (w : FmtC) : Bool := w.csrc ≠ 3
def wfRep (w : FmtC) : Bool := w.csrc ≠ 3 && w.level = 0 && w.target = 0
/-- BAR: the issuing station's own bit is set in MASK (R103). -/
def wfBar (st : Station) (w : FmtC) : Bool := w.mask.getLsbD st.code && w.target = 0 && w.count = 0
def wfArset (w : FmtW) : Bool := w.rsvOk
def wfArsc (w : FmtW) : Bool := w.rsvOk && w.imm.toNat < 64
def wfLcset (w : FmtW) : Bool := w.rsvOk && w.imm.toNat < 2 ^ 32 && w.reg.toNat < 4

/-! ### Matrix station (Table 5-8, Table 5-9) -/

/-- A scaled format code (Table 5-1). -/
def mxScaled (f : Nat) : Bool := 8 ≤ f
def mxFmtOk (f : Nat) : Bool := f < 0xE
/-- SSEL: 0x4 for an unscaled format, a data queue for a scaled one. -/
def mxSselOk (f ssel : Nat) : Bool := if mxScaled f then 8 ≤ ssel else ssel = 4

def wfMxLw (w : FmtO) : Bool :=
  selIsChan w.src && w.dst = 4 && w.isSingle && mxFmtOk (w.fld 0 4) && mxSselOk (w.fld 0 4) (w.fld 4 4) &&
  w.zeroFrom 14
def wfMxSwap (w : FmtO) : Bool := w.src = 4 && w.dst = 4 && w.isSingle && w.opnd = 0
def wfMxMm (w : FmtO) : Bool :=
  selIsChan w.src && w.dst = 4 && w.fld 0 7 + w.repcnt.toNat ≤ 127 && mxFmtOk (w.fld 8 4) &&
  mxSselOk (w.fld 8 4) (w.fld 12 4) && w.zeroFrom 22
def wfMxAnchor (w : FmtO) : Bool :=
  w.src = 4 && w.dst = 4 && w.isSingle && w.fld 0 7 + w.fld 7 7 ≤ 127 && w.fld 14 2 ≠ 3 &&
  (w.fld 14 2 ≠ 1 || w.fld 22 6 = 0)
def wfMxAclr (w : FmtO) : Bool :=
  w.src = 4 && w.dst = 4 && w.fld 0 7 + w.repcnt.toNat ≤ 127 && w.zeroFrom 7
def wfMxRdreg (w : FmtO) : Bool := w.src = 4 && w.dst = 4 && w.isSingle && w.zeroFrom 9

/-! ### Vector station (Tables 6-1 to 6-3) -/

/-- SRC of a VX instruction: a stream, a data queue, a vector register, or none; 0x5 is refused (R181). -/
def vxSrcOk (x : BitVec 4) : Bool := selIsChan x || x = 6
/-- A second or third source: a scalar broadcast too (R181). -/
def vxSrc2Ok (x : Nat) : Bool := x < 4 || 8 ≤ x || x = 6 || x = 5
def vxDstOk (x : BitVec 4) : Bool := selIsChan x || x = 6
/-- DREG is zero unless DST is 0x6 (R186). -/
def vxDregOk (dst : BitVec 4) (dreg : Nat) : Bool := dst = 6 || dreg = 0
/-- The operand does not force the beat form: a vector register, a scalar broadcast or none (R182). -/
def vxRowSel (x : Nat) : Bool := x = 4 || x = 5 || x = 6
def vxIsFp (t : Nat) : Bool := t < 3
/-- Types of row form: FP32 and INT32 (R182). -/
def vxRowType (t : Nat) : Bool := t = 0 || t = 3
def accBeats (mode : Nat) (row : Bool) : Nat :=
  match mode with
  | 0 => if row then 1 else 4
  | 1 => 2
  | 2 => 2
  | 3 => 19
  | _ => 8

def wfVxAccrd (w : FmtO) : Bool :=
  let mode := w.fld 7 3
  w.src = 4 && vxDstOk w.dst && mode < 5 && w.fld 26 2 = 0 && (w.dst ≠ 6 || mode = 0) && w.fld 10 4 ≠ 7 &&
  (if mode = 4 then vxSrc2Ok (w.fld 10 4) else vxDregOk w.dst (w.fld 14 6))
def vxOpUnary (f : Nat) : Bool := f = 0 || f = 6 || f = 7
def vxOpInt (f : Nat) : Bool := f = 11 || f = 12 || f = 16
def wfVxOp (w : FmtO) : Bool :=
  let f := w.fld 13 5
  let t := w.fld 10 3
  let s2 := w.fld 0 4
  vxSrcOk w.src && vxDstOk w.dst && f ≤ 16 && t ≤ 5 && w.fld 24 4 = 0 && vxDregOk w.dst (w.fld 18 6) &&
  (if vxOpUnary f then s2 = 4 else vxSrc2Ok s2) && (!vxOpInt f || 3 ≤ t) &&
  (!(vxRowSel w.src.toNat && vxRowSel s2 && w.dst = 6) || vxRowType t)
def wfVx3 (w : FmtO) : Bool :=
  let s2 := w.fld 0 4
  let s3 := w.fld 10 4
  vxSrcOk w.src && vxDstOk w.dst && vxSrc2Ok s2 && vxSrc2Ok s3 && w.fld 20 2 ≠ 3 && vxDregOk w.dst (w.fld 22 6) &&
  (!(vxRowSel w.src.toNat && vxRowSel s2 && vxRowSel s3 && w.dst = 6) || w.fld 20 2 = 0)
def wfVxFma (w : FmtO) : Bool := wfVx3 w
def wfVxSel (w : FmtO) : Bool := wfVx3 w
def wfVxFn (w : FmtO) : Bool :=
  vxSrcOk w.src && vxDstOk w.dst && w.fld 0 4 ≤ 10 && vxIsFp (w.fld 4 3) && w.zeroFrom 13 &&
  vxDregOk w.dst (w.fld 7 6) && (!(w.src = 6 && w.dst = 6) || w.fld 4 3 = 0)
/-- Bits of an element of a type code of Table 6-1, in a beat. -/
def vxBits (t : Nat) : Nat :=
  match t with
  | 0 => 32 | 3 => 32 | 1 => 16 | 2 => 16 | 4 => 16 | 10 => 4 | _ => 8
/-- An element type of an MX format (Table 4-3, Table 6-1). -/
def vxMxElem (t : Nat) : Bool := 6 ≤ t && t ≤ 11
/-- VX.CVT (R182, R195). With a register on one side and a beat on the other the whole register is one group, and its type has 32 bits (DEDUCED,
log entry 99). -/
def wfVxCvt (w : FmtO) : Bool :=
  let f := w.fld 0 4
  let t := w.fld 4 4
  let mxb := w.fld 8 1 = 1
  let rnd := w.fld 9 2
  vxSrcOk w.src && vxDstOk w.dst && f ≤ 11 && t ≤ 11 && rnd ≠ 3 && w.fld 27 1 = 0 &&
  ((f ≠ 11 && t ≠ 11) || mxb) && (!(mxb && (vxMxElem f || vxMxElem t)) || 8 ≤ w.fld 17 4) &&
  (rnd ≠ 2 || w.fld 11 6 ≤ 61) &&
  vxDregOk w.dst (w.fld 21 6) && (w.src ≠ 6 || vxBits f = 32) && (w.dst ≠ 6 || vxBits t = 32) &&
  (w.src ≠ 6 || vxBits t = 8 || vxBits t = 32)
/-- VX.DROP takes the floating-point TYPEs: R143 multiplies and rounds (DEDUCED, log entry 112). -/
def wfVxDrop (w : FmtO) : Bool :=
  vxSrcOk w.src && vxDstOk w.dst && vxIsFp (w.fld 0 3) && w.fld 3 6 ≤ 61 && w.zeroFrom 21 &&
  vxDregOk w.dst (w.fld 15 6) && (!(w.src = 6 && w.dst = 6) || w.fld 0 3 = 0)
def wfVxRope (w : FmtO) : Bool := w.src = 6 && w.dst = 6 && w.zeroFrom 20
def wfVxRfld (w : FmtO) : Bool := selIsChan w.src && w.dst = 4 && w.zeroFrom 8
def wfVxSumm (w : FmtO) : Bool :=
  let k := w.fld 3 3
  let t := w.fld 0 3
  let sh := w.fld 7 1 = 1
  let row := vxRowSel w.src.toNat && w.dst = 4
  (if k = 6 then w.src = 4 else vxSrcOk w.src) && (w.dst = 4 || (k = 2 && selIsChan w.dst)) && w.fld 26 2 = 0 &&
  t ≤ 5 && (!sh || !row) && (k ≠ 5 || (t = 0 && !row)) && (k ≠ 3 || 3 ≤ t) && (k ≠ 2 || sh || t < 3) &&
  (k = 6 || !row || vxRowType t)
def wfVxRclr (w : FmtO) : Bool :=
  w.src = 4 && w.dst = 4 && w.fld 2 2 ≠ 3 && w.zeroFrom 16
def wfVxRacc (w : FmtO) : Bool := vxSrcOk w.src && w.dst = 4 && w.zeroFrom 3 && !(w.fld 2 1 = 1 && w.src = 6)
def wfVxRrd (w : FmtO) : Bool :=
  w.src = 4 && vxDstOk w.dst && w.zeroFrom 10 && vxDregOk w.dst (w.fld 4 6) &&
  !(w.fld 2 1 = 1 && w.dst = 6)
def wfVxF64s (w : FmtO) : Bool :=
  vxSrcOk w.src && selIsChan w.dst && w.fld 0 3 ≤ 6 && (w.fld 3 4 = 5 || w.fld 3 4 = 6) && w.zeroFrom 13

/-! ### Permute station (Table 6-11, R202, R203) -/

def pxTbOk (w : FmtO) : Bool := w.fld 0 2 < 3
def wfPxTr (w : FmtO) : Bool :=
  selIsChan w.src && selIsChan w.dst && pxTbOk w && w.zeroFrom 4 && w.repcnt = 127
def wfPxTld (w : FmtO) : Bool :=
  selIsChan w.src && w.dst = 4 && pxTbOk w && w.zeroFrom 9 && w.fld 2 7 + w.repcnt.toNat ≤ 127
def wfPxTrd (w : FmtO) : Bool :=
  w.src = 4 && selIsChan w.dst && pxTbOk w && w.zeroFrom 9 && w.fld 2 7 + w.repcnt.toNat ≤ 127
def wfPxGath (w : FmtO) : Bool := selIsChan w.src && selIsChan w.dst && pxTbOk w && w.zeroFrom 2
def wfPxScat (w : FmtO) : Bool :=
  selIsChan w.src && w.dst = 4 && pxTbOk w && (w.fld 2 4 < 4 || 8 ≤ w.fld 2 4) && w.zeroFrom 12
def wfPxCmpx (w : FmtO) : Bool :=
  selIsChan w.src && (w.fld 5 4 < 4 || 8 ≤ w.fld 5 4) && w.zeroFrom 21 &&
  (if w.fld 4 1 = 1 then selIsChan w.dst else w.dst = 4 && pxTbOk w)
def wfPxLperm (w : FmtO) : Bool :=
  selIsChan w.src && selIsChan w.dst && w.fld 0 2 = 0 && (w.fld 4 4 < 4 || 8 ≤ w.fld 4 4) && w.zeroFrom 14
def wfPxPk6 (w : FmtO) : Bool :=
  selIsChan w.src && selIsChan w.dst && w.opnd = 0

/-! ### Local store and port stations (Tables 8-3, 9-1, R334) -/

def wfLsRd (w : FmtM) : Bool := selIsChan w.data
def wfLsWr (w : FmtM) : Bool := selIsChan w.data
def wfLsFill (w : FmtM) : Bool := w.data = 4 || w.data = 5
def wfLsCopy (w : FmtM) : Bool := w.data = 6 && w.toff.toNat < 16 && w.toff.toNat ≠ w.arn.toNat
def wfLsPgrp (w : FmtO) : Bool := w.toff = 0 && w.src = 4 && w.dst = 4 && w.isSingle && w.zeroFrom 4
def wfPtGet (w : FmtM) : Bool := selIsChan w.data
def wfPtPut (w : FmtM) : Bool := selIsChan w.data
/-- A neighbour access: the neighbour lies inside the 8 × 8 grid (R256, R283). -/
def nbrOf (line : Nat) (dir : Nat) : Option Nat :=
  let n := line % 64
  match dir with
  | 0 => if n / 8 = 0 then none else some (line - 8)
  | 1 => if n / 8 = 7 then none else some (line + 8)
  | 2 => if n % 8 = 7 then none else some (line + 1)
  | _ => if n % 8 = 0 then none else some (line - 1)
def wfPtNget (q : Queue) (w : FmtM) : Bool :=
  selIsChan w.data && (nbrOf q.line.val (w.region.toNat / 16)).isSome
def wfPtNput (q : Queue) (w : FmtM) : Bool := selIsChan w.data && (nbrOf q.line.val (w.region.toNat / 16)).isSome
def wfPtSend (w : FmtO) : Bool := selIsChan w.src && w.dst = 4 && w.zeroFrom 4
def wfPtGmv (w : FmtM) : Bool :=
  selIsChan w.data && w.arn = 0 && w.post = false && w.region = 0 && w.offset = 0
def wfPtFget (w : FmtM) : Bool := selIsChan w.data && w.arn = 0 && w.post = false && w.offset = 0 && (w.repcnt.toNat + 1) % 2 = 0
def wfPtFput (w : FmtM) : Bool := wfPtPut w && (w.repcnt.toNat + 1) % 2 = 0

/-! ### Control core (Table 7-1, R211) -/

/-- TOFF, SRC, DST and REPCNT of a format O instruction of the CC. -/
def ccO (w : FmtO) : Bool := w.toff = 0 && w.src = 4 && w.dst = 4 && w.isSingle
def wfCcOp (w : FmtO) : Bool :=
  ccO w && w.zeroFrom 24 && w.fld 18 5 ≤ 25
def wfCcLi (w : FmtW) : Bool := w.rsvOk && w.reg = 0
def wfCcLih (w : FmtW) : Bool := w.rsvOk && w.reg = 0 && w.imm.toNat / 2 ^ 32 % 4 = 0
/-- CC.BR with MODE `m` in [51:50]; ENTRY, COND, SREG2 in COUNT. -/
def wfCcBrMode (m : Nat) (w : FmtC) : Bool :=
  w.csrc.toNat = m && w.level = 0 && w.target = 0 && w.fld 8 4 ≤ 9 && w.fld 18 14 = 0
def wfCcBr (w : FmtC) : Bool := wfCcBrMode 0 w
def wfCcBrResolve (w : FmtC) : Bool := wfCcBrMode 1 w
def wfCcPredict (w : FmtC) : Bool :=
  w.level = 0 && w.csrc = 0 && w.sreg = 0 && w.target = 0 && w.fld 8 24 = 0
/-- FCLS and FIDX name a flag (R218): 64 line flags, 128 bay flags, 1,024 module flags. -/
def flagIdxOk (cls idx : Nat) : Bool := (cls = 0 && idx < 64) || (cls = 1 && idx < 128) || (cls = 2 && idx < 1024)
def wfCcSet (w : FmtC) : Bool :=
  flagIdxOk w.level.toNat (w.fld 0 10) && w.csrc = 0 && w.sreg = 0 && w.target = 0 && w.fld 10 22 = 0
/-- A wait: DLE only on module flags, DL not zero with it (R228; the bound Lp is the loader's). -/
def wfCcWait (w : FmtC) : Bool :=
  flagIdxOk w.level.toNat (w.fld 0 10) && w.csrc = 0 && w.sreg = 0 && w.target = 0 && w.fld 11 5 = 0 &&
  (w.fld 10 1 ≠ 1 || (w.level = 2 && w.fld 16 16 ≠ 0))
def wfCcWaitl (w : FmtC) : Bool :=
  flagIdxOk w.level.toNat (w.fld 0 10) && w.csrc = 0 && w.sreg = 0 && w.target = 0 && w.fld 11 5 = 0
def wfCcHarvest (w : FmtC) : Bool :=
  w.level = 0 && w.csrc = 0 && w.sreg = 0 && w.target = 0 && w.count.toNat < 2
def wfCcWsend (w : FmtO) : Bool := ccO w && w.zeroFrom 10
def wfCcWrecv (w : FmtO) : Bool := ccO w && w.zeroFrom 9
def wfCcWarm (w : FmtO) : Bool := ccO w && w.zeroFrom 4
def wfCcSrrd (w : FmtO) : Bool := ccO w && w.zeroFrom 10 && w.fld 6 4 ≤ 3
/-- CC.ELB with OP `op`: SA unused by READ and READV, SD unused by ADD, zero when unused (R237). -/
def wfCcElb (op : Nat) (w : FmtO) : Bool :=
  ccO w && w.zeroFrom 22 && w.fld 20 2 = op && (if op = 0 then w.fld 0 6 = 0 else w.fld 6 6 = 0)

/-- An instruction word that the loader accepts, as far as the word itself decides; other commands are always
well formed. -/
def Instr.wf : Instr → Bool
  | .nop _ _ w => wfNop w
  | .endQueue _ _ w => wfEnd w
  | .loop _ _ w => wfLoop w
  | .rep _ _ w => wfRep w
  | .bar st _ w => wfBar st w
  | .arset _ _ w | .astset _ _ w | .aradd _ _ w => wfArset w
  | .arsc _ _ w => wfArsc w
  | .lcset _ _ w => wfLcset w
  | .mxLw _ w => wfMxLw w
  | .mxSwap _ w => wfMxSwap w
  | .mxMm _ w => wfMxMm w
  | .mxAnchor _ w => wfMxAnchor w
  | .mxAclr _ w => wfMxAclr w
  | .mxRdreg _ w => wfMxRdreg w
  | .vxAccrd _ w => wfVxAccrd w
  | .vxOp _ w => wfVxOp w
  | .vxFma _ w => wfVxFma w
  | .vxSel _ w => wfVxSel w
  | .vxFn _ w => wfVxFn w
  | .vxCvt _ w => wfVxCvt w
  | .vxDrop _ w => wfVxDrop w
  | .vxRope _ w => wfVxRope w
  | .vxRfld _ w => wfVxRfld w
  | .vxSumm _ w => wfVxSumm w
  | .vxRclr _ w => wfVxRclr w
  | .vxRacc _ w => wfVxRacc w
  | .vxRrd _ w => wfVxRrd w
  | .vxF64s _ w => wfVxF64s w
  | .pxTr _ w => wfPxTr w
  | .pxTld _ w => wfPxTld w
  | .pxTrd _ w => wfPxTrd w
  | .pxGath _ w => wfPxGath w
  | .pxScat _ w => wfPxScat w
  | .pxCmpx _ w => wfPxCmpx w
  | .pxLperm _ w => wfPxLperm w
  | .pxPk6 _ w | .pxUp6 _ w => wfPxPk6 w
  | .lsRd _ w => wfLsRd w
  | .lsWr _ w => wfLsWr w
  | .lsFill _ w => wfLsFill w
  | .lsCopy _ w => wfLsCopy w
  | .lsPgrp _ w => wfLsPgrp w
  | .ptGet _ w | .ptBget _ w => wfPtGet w
  | .ptPut _ w | .ptBput _ w => wfPtPut w
  | .ptFput _ w => wfPtFput w
  | .ptNget q w => wfPtNget q w
  | .ptNput q w => wfPtNput q w
  | .ptSend _ w => wfPtSend w
  | .ptGmv _ w => wfPtGmv w
  | .ptFget _ w => wfPtFget w
  | .ccOp _ w => wfCcOp w
  | .ccLi _ w => wfCcLi w
  | .ccLih _ w => wfCcLih w
  | .ccBr _ w => wfCcBr w
  | .ccBrResolve _ w => wfCcBrResolve w
  | .ccPredict _ w => wfCcPredict w
  | .ccSet _ w | .ccClr _ w => wfCcSet w
  | .ccWait _ w | .ccWaitc _ w => wfCcWait w
  | .ccWaitl _ w => wfCcWaitl w
  | .ccHarvest _ w => wfCcHarvest w
  | .ccWsend _ w => wfCcWsend w
  | .ccWrecv _ w => wfCcWrecv w
  | .ccWarm _ w => wfCcWarm w
  | .ccSrrd _ w => wfCcSrrd w
  | .ccElbAdd _ w => wfCcElb 0 w
  | .ccElbRead _ w => wfCcElb 1 w
  | .ccElbReadv _ w => wfCcElb 2 w
  | _ => true

end Sys2Proof
end

