-- ==== Sys2Proof/Decode.lean ====
section
/-! DEFINITION. Decoding of 64-bit instruction words (Table 3-3, Tables 3-5, 5-8, 6-2, 6-11, 7-1, 8-3, 9-1): the loader
checks and the yield rule read instruction stores with it. The command table gives no row any bits, so
`decodeTableWord` answers none for every word. -/

namespace Sys2Proof

/-- `n` bits of an instruction word from bit `lo`. -/
def wBits (w : W64) (lo n : Nat) : BitVec n := w.extractLsb' lo n

def fmtO (w : W64) : FmtO :=
  { toff := wBits w 48 6, src := wBits w 44 4, dst := wBits w 40 4, repcnt := wBits w 28 12, opnd := wBits w 0 28 }
def fmtM (w : W64) : FmtM :=
  { toff := wBits w 48 6, data := wBits w 44 4, arn := wBits w 40 4, repcnt := wBits w 28 12
    post := w.getLsbD 27, region := wBits w 21 6, offset := wBits w 0 21 }
def fmtC (w : W64) : FmtC :=
  { level := wBits w 52 2, csrc := wBits w 50 2, sreg := wBits w 44 4 ++ wBits w 48 2
    target := wBits w 32 12, count := wBits w 0 32 }
def fmtW (w : W64) : FmtW :=
  { reg := wBits w 50 4, rsvHi := wBits w 48 2, imm := wBits w 8 40, rsvLo := wBits w 0 8 }

/-- Opcode and format of the common instructions (Table 3-5). -/
def decodeCommon (st : Station) (q : Queue) (f opc : Nat) (w : W64) : Option Instr :=
  match opc, f with
  | 0x00, 0 => some (.nop st q (fmtO w))
  | 0x01, 2 => some (.endQueue st q (fmtC w))
  | 0x02, 2 => some (.loop st q (fmtC w))
  | 0x03, 2 => some (.rep st q (fmtC w))
  | 0x04, 2 => some (.bar st q (fmtC w))
  | 0x05, 3 => some (.arset st q (fmtW w))
  | 0x06, 3 => some (.astset st q (fmtW w))
  | 0x07, 3 => some (.aradd st q (fmtW w))
  | 0x08, 3 => some (.arsc st q (fmtW w))
  | 0x09, 3 => some (.lcset st q (fmtW w))
  | _, _ => none

def decodePt (q : Queue) (f opc : Nat) (w : W64) : Option Instr :=
  match opc, f with
  | 0x10, 1 => some (.ptGet q (fmtM w))
  | 0x11, 1 => some (.ptPut q (fmtM w))
  | 0x12, 1 => some (.ptBget q (fmtM w))
  | 0x13, 1 => some (.ptBput q (fmtM w))
  | 0x14, 1 => some (.ptNget q (fmtM w))
  | 0x15, 1 => some (.ptNput q (fmtM w))
  | 0x16, 0 => some (.ptSend q (fmtO w))
  | 0x17, 1 => some (.ptGmv q (fmtM w))
  | 0x18, 1 => some (.ptFget q (fmtM w))
  | 0x19, 1 => some (.ptFput q (fmtM w))
  | _, _ => none

def decodeLs (q : Queue) (f opc : Nat) (w : W64) : Option Instr :=
  match opc, f with
  | 0x10, 1 => some (.lsRd q (fmtM w))
  | 0x11, 1 => some (.lsWr q (fmtM w))
  | 0x12, 1 => some (.lsFill q (fmtM w))
  | 0x13, 1 => some (.lsCopy q (fmtM w))
  | 0x14, 0 => some (.lsPgrp q (fmtO w))
  | _, _ => none

def decodePx (q : Queue) (opc : Nat) (w : W64) : Option Instr :=
  match opc with
  | 0x10 => some (.pxTr q (fmtO w))
  | 0x11 => some (.pxTld q (fmtO w))
  | 0x12 => some (.pxTrd q (fmtO w))
  | 0x13 => some (.pxGath q (fmtO w))
  | 0x14 => some (.pxScat q (fmtO w))
  | 0x15 => some (.pxCmpx q (fmtO w))
  | 0x16 => some (.pxLperm q (fmtO w))
  | 0x17 => some (.pxPk6 q (fmtO w))
  | 0x18 => some (.pxUp6 q (fmtO w))
  | _ => none

def decodeMx (q : Queue) (opc : Nat) (w : W64) : Option Instr :=
  match opc with
  | 0x10 => some (.mxLw q (fmtO w))
  | 0x11 => some (.mxSwap q (fmtO w))
  | 0x12 => some (.mxMm q (fmtO w))
  | 0x13 => some (.mxAnchor q (fmtO w))
  | 0x14 => some (.mxAclr q (fmtO w))
  | 0x15 => some (.mxRdreg q (fmtO w))
  | _ => none

def decodeVx (q : Queue) (opc : Nat) (w : W64) : Option Instr :=
  match opc with
  | 0x10 => some (.vxAccrd q (fmtO w))
  | 0x11 => some (.vxOp q (fmtO w))
  | 0x12 => some (.vxFma q (fmtO w))
  | 0x13 => some (.vxSel q (fmtO w))
  | 0x14 => some (.vxFn q (fmtO w))
  | 0x15 => some (.vxCvt q (fmtO w))
  | 0x16 => some (.vxDrop q (fmtO w))
  | 0x17 => some (.vxRope q (fmtO w))
  | 0x18 => some (.vxRfld q (fmtO w))
  | 0x19 => some (.vxSumm q (fmtO w))
  | 0x1A => some (.vxRclr q (fmtO w))
  | 0x1B => some (.vxRacc q (fmtO w))
  | 0x1C => some (.vxRrd q (fmtO w))
  | 0x1D => some (.vxF64s q (fmtO w))
  | _ => none

/-- CC.ELB by its OP field (R237). -/
def decodeElb (q : Queue) (w : FmtO) : Option Instr :=
  match w.fld 20 2 with
  | 0 => some (.ccElbAdd q w)
  | 1 => some (.ccElbRead q w)
  | 2 => some (.ccElbReadv q w)
  | _ => none

/-- CC.BR by its MODE (R217). -/
def decodeBr (q : Queue) (w : FmtC) : Option Instr :=
  match w.csrc.toNat with
  | 0 => some (.ccBr q w)
  | 1 => some (.ccBrResolve q w)
  | _ => none

def decodeCc (q : Queue) (f opc : Nat) (w : W64) : Option Instr :=
  match opc, f with
  | 0x10, 0 => some (.ccOp q (fmtO w))
  | 0x11, 3 => some (.ccLi q (fmtW w))
  | 0x12, 3 => some (.ccLih q (fmtW w))
  | 0x13, 2 => decodeBr q (fmtC w)
  | 0x14, 2 => some (.ccPredict q (fmtC w))
  | 0x15, 2 => some (.ccSet q (fmtC w))
  | 0x16, 2 => some (.ccClr q (fmtC w))
  | 0x17, 2 => some (.ccWait q (fmtC w))
  | 0x18, 2 => some (.ccWaitc q (fmtC w))
  | 0x19, 2 => some (.ccWaitl q (fmtC w))
  | 0x1A, 2 => some (.ccHarvest q (fmtC w))
  | 0x1B, 0 => some (.ccWsend q (fmtO w))
  | 0x1C, 0 => some (.ccWrecv q (fmtO w))
  | 0x1D, 0 => some (.ccWarm q (fmtO w))
  | 0x1E, 0 => some (.ccSrrd q (fmtO w))
  | 0x1F, 0 => decodeElb q (fmtO w)
  | _, _ => none

/-- The instruction a 64-bit word holds in the store of station `st`, read for queue `q`; none when the station does not
define the opcode in that format. Reserved fields are checked by `Instr.wf`. -/
def decodeWord (st : Station) (q : Queue) (w : W64) : Option Instr :=
  let f := (wBits w 62 2).toNat
  let opc := (wBits w 54 8).toNat
  if opc < 0x10 then decodeCommon st q f opc w
  else match st with
    | .pt => decodePt q f opc w
    | .ls => decodeLs q f opc w
    | .px => if f = 0 then decodePx q opc w else none
    | .mx => if f = 0 then decodeMx q opc w else none
    | .vx => if f = 0 then decodeVx q opc w else none
    | .cc => decodeCc q f opc w

/-- The command a word spells by the bits of spec/opcode_table.json: the table gives no row any bits. -/
def decodeTableWord (_nbits _w : Nat) : Option Instr := none

/-! ### Encoding of the four formats (Table 3-3) -/

def encO (opc : BitVec 8) (x : FmtO) : W64 := 0b00#2 ++ opc ++ x.toff ++ x.src ++ x.dst ++ x.repcnt ++ x.opnd
def encM (opc : BitVec 8) (x : FmtM) : W64 :=
  0b01#2 ++ opc ++ x.toff ++ x.data ++ x.arn ++ x.repcnt ++ (if x.post then 1#1 else 0#1) ++ x.region ++ x.offset
def encC (opc : BitVec 8) (x : FmtC) : W64 :=
  0b10#2 ++ opc ++ x.level ++ x.csrc ++ x.sreg.extractLsb' 0 2 ++ x.sreg.extractLsb' 2 4 ++ x.target ++ x.count
def encW (opc : BitVec 8) (x : FmtW) : W64 := 0b11#2 ++ opc ++ x.reg ++ x.rsvHi ++ x.imm ++ x.rsvLo

/-- The instruction word of a station instruction; none for a command that is no instruction. -/
def encodeWord : Instr → Option W64
  | .nop _ _ w => some (encO 0x00 w)
  | .endQueue _ _ w => some (encC 0x01 w)
  | .loop _ _ w => some (encC 0x02 w)
  | .rep _ _ w => some (encC 0x03 w)
  | .bar _ _ w => some (encC 0x04 w)
  | .arset _ _ w => some (encW 0x05 w)
  | .astset _ _ w => some (encW 0x06 w)
  | .aradd _ _ w => some (encW 0x07 w)
  | .arsc _ _ w => some (encW 0x08 w)
  | .lcset _ _ w => some (encW 0x09 w)
  | .mxLw _ w => some (encO 0x10 w)
  | .mxSwap _ w => some (encO 0x11 w)
  | .mxMm _ w => some (encO 0x12 w)
  | .mxAnchor _ w => some (encO 0x13 w)
  | .mxAclr _ w => some (encO 0x14 w)
  | .mxRdreg _ w => some (encO 0x15 w)
  | .vxAccrd _ w => some (encO 0x10 w)
  | .vxOp _ w => some (encO 0x11 w)
  | .vxFma _ w => some (encO 0x12 w)
  | .vxSel _ w => some (encO 0x13 w)
  | .vxFn _ w => some (encO 0x14 w)
  | .vxCvt _ w => some (encO 0x15 w)
  | .vxDrop _ w => some (encO 0x16 w)
  | .vxRope _ w => some (encO 0x17 w)
  | .vxRfld _ w => some (encO 0x18 w)
  | .vxSumm _ w => some (encO 0x19 w)
  | .vxRclr _ w => some (encO 0x1A w)
  | .vxRacc _ w => some (encO 0x1B w)
  | .vxRrd _ w => some (encO 0x1C w)
  | .vxF64s _ w => some (encO 0x1D w)
  | .pxTr _ w => some (encO 0x10 w)
  | .pxTld _ w => some (encO 0x11 w)
  | .pxTrd _ w => some (encO 0x12 w)
  | .pxGath _ w => some (encO 0x13 w)
  | .pxScat _ w => some (encO 0x14 w)
  | .pxCmpx _ w => some (encO 0x15 w)
  | .pxLperm _ w => some (encO 0x16 w)
  | .pxPk6 _ w => some (encO 0x17 w)
  | .pxUp6 _ w => some (encO 0x18 w)
  | .lsRd _ w => some (encM 0x10 w)
  | .lsWr _ w => some (encM 0x11 w)
  | .lsFill _ w => some (encM 0x12 w)
  | .lsCopy _ w => some (encM 0x13 w)
  | .lsPgrp _ w => some (encO 0x14 w)
  | .ptGet _ w => some (encM 0x10 w)
  | .ptPut _ w => some (encM 0x11 w)
  | .ptBget _ w => some (encM 0x12 w)
  | .ptBput _ w => some (encM 0x13 w)
  | .ptNget _ w => some (encM 0x14 w)
  | .ptNput _ w => some (encM 0x15 w)
  | .ptSend _ w => some (encO 0x16 w)
  | .ptGmv _ w => some (encM 0x17 w)
  | .ptFget _ w => some (encM 0x18 w)
  | .ptFput _ w => some (encM 0x19 w)
  | .ccOp _ w => some (encO 0x10 w)
  | .ccLi _ w => some (encW 0x11 w)
  | .ccLih _ w => some (encW 0x12 w)
  | .ccBr _ w | .ccBrResolve _ w => some (encC 0x13 w)
  | .ccPredict _ w => some (encC 0x14 w)
  | .ccSet _ w => some (encC 0x15 w)
  | .ccClr _ w => some (encC 0x16 w)
  | .ccWait _ w => some (encC 0x17 w)
  | .ccWaitc _ w => some (encC 0x18 w)
  | .ccWaitl _ w => some (encC 0x19 w)
  | .ccHarvest _ w => some (encC 0x1A w)
  | .ccWsend _ w => some (encO 0x1B w)
  | .ccWrecv _ w => some (encO 0x1C w)
  | .ccWarm _ w => some (encO 0x1D w)
  | .ccSrrd _ w => some (encO 0x1E w)
  | .ccElbAdd _ w | .ccElbRead _ w | .ccElbReadv _ w => some (encO 0x1F w)
  | _ => none

/-- The queue of a station instruction, and its station. -/
def Instr.home : Instr → Option (Station × Queue)
  | .nop st q _ | .endQueue st q _ | .loop st q _ | .rep st q _ | .bar st q _ => some (st, q)
  | .arset st q _ | .astset st q _ | .aradd st q _ | .arsc st q _ | .lcset st q _ => some (st, q)
  | .mxLw q _ | .mxSwap q _ | .mxMm q _ | .mxAnchor q _ | .mxAclr q _ | .mxRdreg q _ => some (.mx, q)
  | .vxAccrd q _ | .vxOp q _ | .vxFma q _ | .vxSel q _ | .vxFn q _ | .vxCvt q _ | .vxDrop q _ => some (.vx, q)
  | .vxRope q _ | .vxRfld q _ | .vxSumm q _ | .vxRclr q _ | .vxRacc q _ | .vxRrd q _ | .vxF64s q _ => some (.vx, q)
  | .pxTr q _ | .pxTld q _ | .pxTrd q _ | .pxGath q _ | .pxScat q _ | .pxCmpx q _ | .pxLperm q _ => some (.px, q)
  | .pxPk6 q _ | .pxUp6 q _ => some (.px, q)
  | .lsRd q _ | .lsWr q _ | .lsFill q _ | .lsCopy q _ | .lsPgrp q _ => some (.ls, q)
  | .ptGet q _ | .ptPut q _ | .ptBget q _ | .ptBput q _ | .ptNget q _ | .ptNput q _ => some (.pt, q)
  | .ptSend q _ | .ptGmv q _ | .ptFget q _ | .ptFput q _ => some (.pt, q)
  | .ccOp q _ | .ccLi q _ | .ccLih q _ | .ccBr q _ | .ccBrResolve q _ | .ccPredict q _ | .ccSet q _ => some (.cc, q)
  | .ccClr q _ | .ccWait q _ | .ccWaitc q _ | .ccWaitl q _ | .ccHarvest q _ | .ccWsend q _ => some (.cc, q)
  | .ccWrecv q _ | .ccWarm q _ | .ccSrrd q _ | .ccElbAdd q _ | .ccElbRead q _ | .ccElbReadv q _ => some (.cc, q)
  | _ => none

/-- Repeats minus one that the word names (R93): formats O and M. -/
def Instr.repcnt : Instr → Nat
  | .nop _ _ w | .mxMm _ w | .mxAclr _ w => w.repcnt.toNat
  | .vxAccrd _ w | .vxOp _ w | .vxFma _ w | .vxSel _ w | .vxFn _ w | .vxCvt _ w | .vxDrop _ w => w.repcnt.toNat
  | .vxRope _ w | .vxRfld _ w | .vxSumm _ w | .vxRclr _ w | .vxRacc _ w | .vxRrd _ w | .vxF64s _ w => w.repcnt.toNat
  | .pxTr _ w | .pxTld _ w | .pxTrd _ w | .pxGath _ w | .pxScat _ w | .pxCmpx _ w | .pxLperm _ w => w.repcnt.toNat
  | .pxPk6 _ w | .pxUp6 _ w | .ptSend _ w => w.repcnt.toNat
  | .lsRd _ w | .lsWr _ w | .lsFill _ w | .lsCopy _ w => w.repcnt.toNat
  | .ptGet _ w | .ptPut _ w | .ptBget _ w | .ptBput _ w | .ptNget _ w | .ptNput _ w => w.repcnt.toNat
  | .ptGmv _ w | .ptFget _ w | .ptFput _ w => w.repcnt.toNat
  | _ => 0

/-- Format M fields of an instruction that forms addresses under R93. -/
def Instr.fmtM? : Instr → Option FmtM
  | .lsRd _ w | .lsWr _ w | .lsFill _ w | .lsCopy _ w => some w
  | .ptGet _ w | .ptPut _ w | .ptBget _ w | .ptBput _ w | .ptNget _ w | .ptNput _ w => some w
  | .ptGmv _ w | .ptFget _ w | .ptFput _ w => some w
  | _ => none

/-- A data queue named by a selector. -/
def selDq (x : Nat) : List Nat := if 8 ≤ x ∧ x < 16 then [x - 8] else []

/-- Beats a group of 128 elements needs: 1 for a register or an E2M1 half-beat (R195). -/
def groupBeats (sel : BitVec 4) (t : Nat) : Nat :=
  if sel = 6 then 1 else match vxBits t with | 32 => 4 | 16 => 2 | _ => 1
/-- Issue sc per group (R195). -/
def cvtK (w : FmtO) : Nat := max (groupBeats w.src (w.fld 0 4)) (groupBeats w.dst (w.fld 4 4))

/-- The queues a VX.CVT takes from in issue sc `j`: its source beats, and the scale queue at the first group of 32 (R195, R196). -/
def cvtSrc (w : FmtO) (j : Nat) : List Nat :=
  let g := j / cvtK w
  let ph := j % cvtK w
  (if groupBeats w.src (w.fld 0 4) ≤ ph || (vxBits (w.fld 0 4) = 4 && g % 2 = 1) then [] else selDq w.src.toNat) ++
  (if w.fld 8 1 = 1 && vxMxElem (w.fld 0 4) && ph = 0 && g % 32 = 0 then selDq (w.fld 17 4) else [])

/-- The data queues an instruction takes from in repeat `j` (R91, R105). -/
def Instr.dqSrc (i : Instr) (j : Nat) : List Nat :=
  match i with
  | .mxLw _ w => selDq w.src.toNat ++ (if mxScaled (w.fld 0 4) then selDq (w.fld 4 4) else [])
  | .mxMm _ w =>
    selDq w.src.toNat ++
      (if mxScaled (w.fld 8 4) && j % (if w.fld 8 4 = 0xC then 16 else 32) = 0 then selDq (w.fld 12 4) else [])
  | .vxAccrd _ w => if w.fld 7 3 = 4 && j % 4 = 0 then selDq (w.fld 10 4) else []
  | .vxOp _ w => selDq w.src.toNat ++ selDq (w.fld 0 4)
  | .vxFma _ w | .vxSel _ w => selDq w.src.toNat ++ selDq (w.fld 0 4) ++ selDq (w.fld 10 4)
  | .vxCvt _ w => cvtSrc w j
  | .vxFn _ w | .vxDrop _ w | .vxRope _ w | .vxRfld _ w | .vxSumm _ w | .vxRacc _ w => selDq w.src.toNat
  | .vxF64s _ w => selDq w.src.toNat
  | .pxTr _ w | .pxTld _ w | .pxPk6 _ w | .ptSend _ w => selDq w.src.toNat
  | .pxUp6 _ w => if j % 4 = 3 then [] else selDq w.src.toNat
  | .pxGath _ w => if j % 64 = 0 then selDq w.src.toNat else []
  | .pxScat _ w => selDq w.src.toNat ++ (if j % 64 = 0 then selDq (w.fld 2 4) else [])
  | .pxCmpx _ w => selDq w.src.toNat ++ (if w.fld 4 1 = 1 || j = 0 then selDq (w.fld 5 4) else [])
  | .pxLperm _ w => selDq w.src.toNat ++ (if j = 0 then selDq (w.fld 4 4) else [])
  | .lsWr _ w | .ptPut _ w | .ptBput _ w | .ptNput _ w | .ptGmv _ w | .ptFput _ w => selDq w.data.toNat
  | _ => []

/-- The data queues an instruction puts into (R91, R105). -/
def Instr.dqDst (i : Instr) (j : Nat) : List Nat :=
  match i with
  | .vxAccrd _ w | .vxOp _ w | .vxFma _ w | .vxSel _ w | .vxFn _ w | .vxDrop _ w => selDq w.dst.toNat
  | .vxCvt _ w => selDq w.dst.toNat ++ (if w.fld 8 1 = 1 && vxMxElem (w.fld 4 4) then selDq (w.fld 17 4) else [])
  | .vxSumm _ w | .vxRrd _ w | .vxF64s _ w => selDq w.dst.toNat
  | .pxTr _ w | .pxTrd _ w | .pxGath _ w | .pxCmpx _ w | .pxLperm _ w | .pxUp6 _ w => selDq w.dst.toNat
  | .pxPk6 _ w => if j % 4 = 0 then [] else selDq w.dst.toNat
  | .lsRd _ w | .ptGet _ w | .ptBget _ w | .ptNget _ w | .ptFget _ w => selDq w.data.toNat
  | _ => []

end Sys2Proof
end

