-- ==== Sys2Proof/Config.lean ====
section
/-! DEFINITION. The free values of the model: what the manual leaves open. None has a body, so nothing can be proved
about a value of one; each is named in a row of notes/assumptions/. -/

namespace Sys2Proof

/-- The byte at an address of a range whose content the manual calls undefined (R382, R392, R441, R452, R478): it
depends on the range's stamp and the address (log entry 1). -/
opaque Config.freeByte : Nat → Nat → Byte

/-- The sign of an exactly zero cosine or sine of R136, by the phase: the manual names the nearest FP32 value and
both zeros are nearest (log entry 9). -/
opaque Config.zeroSign : Nat → Bool

/-- The FP32 value of an MX element whose product with its block scale lies beyond the largest finite FP32 value: type code, element code,
scale code (R131 pairs no row with it, log entry 77). -/
opaque Config.beyondFp32 : Nat → Nat → Nat → BitVec 32

/-- The random seed of an index for which the load brought none (R139, R393, log entry 78). -/
opaque Config.missingSeed : Nat → BitVec 64

/-- Whether an ML-DSA-65 signature (R457) is valid: public key, context string, message, signature (log entry 10). -/
opaque Config.verify : List Byte → List Byte → List Byte → List Byte → Bool

/-- The public key of the ML-DSA-65 key pair that a seed gives (Table 15-1; log entry 10). -/
opaque Config.publicKey : BitVec 256 → List Byte

/-- The signature that the key pair of a seed forms: seed, context string, draws so far, message; the draws count, since the mode is hedged
(R457; log entry 10). -/
opaque Config.sign : BitVec 256 → List Byte → Nat → List Byte → List Byte

/-- DST in the header of a scheduled packet, by its circuit: a module knows the ports of its circuits and not where they end, and R326 gives the
field no value (log entry 107). -/
opaque Config.circuitDst : Nat → BitVec 15

/-- CTL and the payload of a dynamic control packet that the manual numbers no kind for: which message it is, and what it says (R343; log entry
12). -/
opaque Config.controlBody : Nat → Nat → Nat → BitVec 32 × BitVec 2048

/-- SHAKE256-512 of the boot ROM, the measurement M_ROM (Table 15-7): the manual does not give the ROM (log entry 6). -/
opaque Config.romDigest : BitVec 512

end Sys2Proof
end

