-- ==== Sys2Proof/Machine/StateLine.lean ====
section
/-! DEFINITION. The state of one line: queues, streams, data queues, instruction stores and the six stations
(spec/03_lines.md, 05_matrix_station.md, 06_vector_permute.md, 07_control_core.md, 08_local_store.md). -/

namespace Sys2Proof.Machine

/-- A store with one update per sc: a reader in sc x sees `cur` when it was written before x, else `prev`
(R155, R184, R204). -/
structure Stamped (α : Type) where
  cur  : α
  prev : α
  at_  : Nat
  deriving DecidableEq, Repr, Inhabited

/-- Special state of a sheaf (R120): bit 0 +infinity, bit 1 -infinity, both NaN. -/
structure Sheaf where
  v   : BitVec 144
  st  : BitVec 2
  oow : Bool
  deriving DecidableEq, Repr, Inhabited

/-- A hardware loop level (R98): first and last instruction of its body, passes remaining. -/
structure LoopLevel where
  first     : Nat
  target    : Nat
  remaining : Nat
  deriving DecidableEq, Repr, Inhabited

/-- A repeating instruction of which repeats are outstanding (R89, R93): `total` issues of which `done` have been
made, the issue sc `c0` of the instruction, and what the instruction keeps between its repeats. -/
structure Outst where
  instr  : Instr
  total  : Nat
  done   : Nat
  c0     : Nat
  base   : BitVec 40
  stride : BitVec 40
  base2  : BitVec 40
  str2   : BitVec 40
  nums   : List Nat
  buf    : List BeatData
  buf2   : List BeatData
  deriving DecidableEq, Repr, Inhabited

/-- The queue of one task on one station (R82, Table 3-12). -/
structure QState where
  pc        : Nat
  enabled   : Bool
  ended     : Bool
  outst     : Option Outst
  repLatch  : Option Nat
  barWait   : Option (BitVec 4 × BitVec 6)
  loops     : Tbl LoopLevel
  lc        : Tbl W32
  ar        : Tbl (BitVec 40)
  stride    : Tbl (BitVec 40)
  notBefore : Nat
  deriving DecidableEq, Repr, Inhabited

/-- A beat on a stream channel (R74 to R78): the channel, the writer's position, its output sc, the tag, the
sc in which its instruction issued, the task of an unconfirmed prediction (R243), and bit `valid`. -/
structure Beat where
  ch     : Nat
  pos    : Nat
  out    : Nat
  tag    : BitVec 6
  issue  : Nat
  data   : BeatData
  unconf : Option Nat
  valid  : Bool
  deriving DecidableEq, Repr, Inhabited

/-- An entry of a data queue (R105, R106, R109). -/
structure DqEntry where
  data   : BeatData
  tag    : BitVec 6
  at_    : Nat
  unconf : Option Nat
  st     : Station
  task   : Nat
  pc     : Nat
  deriving DecidableEq, Repr, Inhabited

/-- A data queue: LN_DQn_CFG and its entries, the head first. -/
structure DataQueue where
  cfg     : W32
  entries : List DqEntry
  deriving DecidableEq, Repr, Inhabited

/-- Where a result goes (R94, R181). -/
inductive Dest where
  | none
  | stream (ch : Nat)
  | dq (n : Nat)
  | vreg (r : Nat)
  | vpart (r : Nat) (part : Nat)
  | tbRow (tb : Nat) (row : Nat)
  deriving DecidableEq, Repr, Inhabited

/-- A result on its way to its destination at output sc `due` (R184, R204, R254, R286). `ev` holds the
arithmetic events SAT, OOW, INV of the repeat (R190). -/
structure PendOut where
  st     : Station
  due    : Nat
  issue  : Nat
  rep    : Nat
  task   : Nat
  pc     : Nat
  unconf : Option Nat
  dest   : Dest
  data   : VecReg
  ev     : BitVec 3
  valid  : Bool
  deriving DecidableEq, Repr, Inhabited

/-! ### Matrix station -/

inductive BufSt where
  | empty | loaded | invalid
  deriving DecidableEq, Repr, Inhabited

/-- A weight buffer (R156). -/
structure WBuf where
  st     : BufSt
  fmt    : BitVec 4
  scale  : BitVec 8
  tile   : List BeatData
  scales : List BeatData
  deriving DecidableEq, Repr, Inhabited

/-- An MX.LW in progress (R157). -/
structure LwProg where
  c      : Nat
  task   : Nat
  pc     : Nat
  src    : BitVec 4
  toff   : BitVec 6
  wfmt   : BitVec 4
  ssel   : BitVec 4
  toff2  : BitVec 6
  tile   : List BeatData
  scales : List BeatData
  unconf : Option Nat
  deriving DecidableEq, Repr, Inhabited

/-- A repeat of MX.MM or MX.ACLR in the pipeline (R154): it commits at the end of sc `due`. `dead`: a refutation has discarded it, and only its
count remains (Table 5-6). `cnt` says how many
terms were out of window in some sheaf of the row. -/
structure MxCommit where
  due    : Nat
  issue  : Nat
  row    : Nat
  clear  : Bool
  isMm   : Bool
  sums   : List Sheaf
  oow    : Bool
  task   : Nat
  pc     : Nat
  unconf : Option Nat
  dead   : Bool
  deriving DecidableEq, Repr, Inhabited

/-- A deferred report of an out-of-window repeat (Table 5-6). -/
structure OowReport where
  row   : Nat
  issue : Nat
  pc    : Nat
  deriving DecidableEq, Repr, Inhabited

structure MxState where
  buf0     : WBuf
  buf1     : WBuf
  active   : Bool
  lw       : Option LwProg
  smax     : BitVec 8
  acc      : Tbl (Stamped (List Sheaf))
  anchors  : Tbl (Stamped (BitVec 12))
  commits  : List MxCommit
  copies   : Tbl (Nat × List Sheaf)
  pad      : W32
  cfg      : W32
  oow      : Bool
  oowCnt   : Nat
  oowFirst : Option Nat
  oowSc    : Nat
  deriving DecidableEq, Repr, Inhabited

/-- What a prediction saves of the matrix station (Table 5-6). -/
structure MxSaved where
  buf0    : WBuf
  buf1    : WBuf
  active  : Bool
  anchors : Tbl (Stamped (BitVec 12))
  smax    : BitVec 8
  wrote0  : Bool
  wrote1  : Bool
  deriving DecidableEq, Repr, Inhabited

/-! ### Vector and permute stations -/

inductive RowKind where
  | max | min | sheaf | none
  deriving DecidableEq, Repr, Inhabited

/-- A running row (R191). -/
structure RunRow where
  kind   : RowKind
  anchor : BitVec 12
  lanes  : VecReg
  sheafs : List Sheaf
  deriving DecidableEq, Repr, Inhabited

/-- An update of a running row that becomes visible in sc `due` (R192). -/
structure RowUpd where
  due    : Nat
  rr     : Nat
  task   : Nat
  beat   : Bool
  sh     : Bool
  part   : Nat
  data   : VecReg
  unconf : Option Nat
  deriving DecidableEq, Repr, Inhabited

/-- A summary state of a task for one kind (R193). -/
structure Summ where
  typ    : BitVec 3
  e      : Nat
  best   : BitVec 64
  bestIx : Nat
  int    : Int
  nan    : Bool
  any    : Bool
  anchor : BitVec 12
  sheaf  : Sheaf
  deriving DecidableEq, Repr, Inhabited

structure VxState where
  vr      : Tbl (Stamped VecReg)
  rr      : Tbl RunRow
  rrPend  : List RowUpd
  summ    : Tbl Summ
  sticky  : Tbl (BitVec 3)
  freq    : Tbl (BitVec 40)
  pad0    : W32
  pad1    : W32
  pad2    : W32
  cfg     : W32
  status  : BitVec 3
  evFirst : Option (BitVec 2 × Nat)
  evSc    : Nat
  copies  : Tbl (Nat × VecReg)
  deriving DecidableEq, Repr, Inhabited

/-- What a prediction saves of the vector station (Table 6-13); `rows` and `wroteF` say which running rows, and whether the rotary
table, were written under it. -/
structure VxSaved where
  rows   : BitVec 4
  wroteF : Bool
  rr     : Tbl RunRow
  summ   : Tbl Summ
  sticky : Tbl (BitVec 3)
  freq   : Tbl (BitVec 40)
  deriving DecidableEq, Repr, Inhabited

structure PxState where
  tb        : Tbl (Stamped BeatData)
  busyUntil : Tbl Nat
  invalid   : BitVec 3
  wrote     : Tbl (BitVec 3)
  pad0      : W32
  deriving DecidableEq, Repr, Inhabited

/-! ### Control core -/

/-- A flag wait of a task (R224 to R229): the first probe's sc, the latency from release to the next issue, and
the sc of the last probe made (plus one). -/
structure WaitSt where
  cls       : FlagClass
  idx       : Nat
  consume   : Bool
  deadline  : Option Nat
  long      : Option Nat
  lending   : Bool
  issue     : Nat
  first     : Nat
  lr        : Nat
  pc        : Nat
  probed    : Nat
  deriving DecidableEq, Repr, Inhabited

/-- An inbound word queue (R230, R234): it is armed from the sc after `since`. -/
structure InQueue where
  armed : Bool
  owner : Nat
  since : Nat
  words : List (W64 × Nat)
  deriving DecidableEq, Repr, Inhabited

/-- The history of a scalar register: value and readable sc, newest write first (R209). -/
abbrev SregHist := List (Nat × W64)

/-- A deferred flag change of a prediction (R243). -/
structure DefFlag where
  cls : FlagClass
  idx : Nat
  set : Bool
  deriving DecidableEq, Repr, Inhabited

/-- A word that waits for its deferred send (R243): it may be sent from sc `from_`. -/
structure DefWord where
  from_ : Nat
  route : Nat
  word  : W64
  task  : Nat
  pc    : Nat
  deriving DecidableEq, Repr, Inhabited

/-- A task's prediction (R239, R240): entry, sc p, the checkpoint, and what is deferred. `srPorts` are the writes of stations to its scalar
registers in flight at sc p, and `deep` says that SPEC_DEPTH has been recorded (R242). -/
structure Pred where
  entry    : Nat
  p        : Nat
  sregs    : Tbl SregHist
  srPorts  : List (Nat × Nat)
  deep     : Bool
  queues   : List QState
  mx       : MxSaved
  vx       : VxSaved
  taken    : List (Nat × W64)
  flags    : List DefFlag
  words    : List DefWord
  pgrp     : Option (BitVec 4)
  oowRep   : List OowReport
  vxEv     : List (BitVec 3 × Nat × Nat)
  deriving DecidableEq, Repr, Inhabited

structure CcState where
  sreg     : Tbl SregHist
  stWrites : List (Nat × Nat)
  branch   : Tbl (BitVec 78)
  lf       : BitVec 64
  lfBase   : BitVec 64
  lfSw     : BitVec 64
  waits    : Tbl WaitSt
  routes   : Tbl W32
  nackCnt  : Tbl Nat
  lastRsn  : Tbl Nat
  iw       : Tbl InQueue
  preds    : Tbl Pred
  sendQ    : List DefWord
  injected : Nat
  pad      : W32
  deriving DecidableEq, Repr, Inhabited

/-! ### Local store station and port station -/

/-- An entry of the held-row store (R258). -/
structure HeldRow where
  addr      : Nat
  task      : Nat
  confirmed : Bool
  data      : BeatData
  since     : Nat
  deriving DecidableEq, Repr, Inhabited

structure LsState where
  pgOn       : BitVec 4
  pgReq      : BitVec 4
  pgReqValid : Bool
  pgReqSc    : Nat
  held       : Tbl HeldRow
  eccCe      : Nat
  eccUe      : Nat
  eccAddr    : W32
  isErr      : W32
  isMap      : Tbl W64
  mapQueue   : List (Nat × Nat × Nat)
  glnRow     : Nat
  drained    : BitVec 8
  drainAt    : Nat
  glnIs      : Nat
  deriving DecidableEq, Repr, Inhabited

/-- A background transfer of the line's second port (R284). -/
structure Background where
  instr  : Instr
  c      : Nat
  total  : Nat
  done   : Nat
  base   : BitVec 40
  stride : BitVec 40
  pc     : Nat
  unconf : Option Nat
  valid  : Bool
  deriving DecidableEq, Repr, Inhabited

/-! ### The line -/

structure LineState where
  hasLine   : Bool
  rotLen    : Nat
  taskEn    : BitVec 4
  yield     : Bool
  rot       : Tbl (BitVec 18)
  queues    : Tbl QState
  lastIssue : Tbl Nat
  beats     : List Beat
  outs      : List PendOut
  dq        : Tbl DataQueue
  fault     : Bool
  istore    : Tbl W64
  isBad     : List Nat
  mx        : MxState
  vx        : VxState
  px        : PxState
  cc        : CcState
  ls        : LsState
  bg        : Option Background
  ptUsed    : BitVec 2
  ptUsedAt  : Nat
  cnt       : Tbl Nat
  cntL      : Tbl Nat
  inReset   : Bool
  draw      : List Nat
  deriving DecidableEq, Repr, Inhabited

/-- A line after a job reset (R111, R281: the power groups are all powered). -/
def LineState.idle : LineState :=
  { (default : LineState) with ls := { (default : LsState) with pgOn := 15 } }

end Sys2Proof.Machine
end

