-- ==== Sys2Proof/Machine/StateMem.lean ====
section
/-! DEFINITION. The state of schedule time, harvests, the job, the memories, flags and words
(spec/02_schedule_time.md, 07_control_core.md, 08_local_store.md, 09_memory_tiers.md, 11_program_contract.md). -/

namespace Sys2Proof.Machine

/-! ### Schedule time and holds -/

/-- Who keeps a hold request raised (Table 2-2). -/
inductive HoldSrc where
  | stack (k : Nat)
  | port (p : Nat)
  | packet (circ : Nat) (ix : Nat)
  | wait (line : Nat) (task : Nat)
  | power | ramp (bay : Nat) | harvest | snapshot | debug
  deriving DecidableEq, Repr, Inhabited

/-- A hold request: its cause code, its source, and the last cc in which it is active when that is known
(R40, R46). -/
structure HoldReq where
  cause  : Nat
  src    : HoldSrc
  until_ : Option Nat
  deriving DecidableEq, Repr, Inhabited

/-- The counters of the SCH block that a harvest boundary latches (Table 2-7 step 1, Table 2-11). -/
structure SchBank where
  scc     : Nat
  cc      : Nat
  holdCc  : Nat
  holdEv  : Nat
  holdMax : Nat
  hcCc    : Tbl Nat
  hcEv    : Tbl Nat
  ndc     : Nat
  ndcY    : Nat
  ndcE    : Nat
  ndcD    : Nat
  ndcC    : Nat
  deriving DecidableEq, Repr, Inhabited

/-- Schedule time (R36 to R57). `now` counts every cc of the model; `hist` holds the request masks of the last 8 cc,
the newest first; `curHold` is the length of the hold in progress, `limHold` its length for R45, which starts anew when SNAPSHOT
withdraws (R444). -/
structure TimeState where
  now       : Nat
  loaded    : Bool
  running   : Bool
  yield     : Bool
  release   : Nat
  reqs      : List HoldReq
  hist      : List (BitVec 11)
  cnt       : SchBank
  curHold   : Nat
  limHold   : Nat
  ctrl      : W32
  ctrlLoad  : W32
  limit     : W32
  limitLoad : W32
  deriving DecidableEq, Repr, Inhabited

/-- A boundary on its way (R60, R64): the sc h and its cc, the HRV_PEND bits that joined it, whether HARVEST and SNAPSHOT have been
raised, whether steps 1 and 2 are done, and whether it is an on-request one (R61). -/
structure Boundary where
  h       : Nat
  at_     : Nat
  joined  : BitVec 5
  raised  : Bool
  latched : Bool
  onReq   : Bool
  deriving DecidableEq, Repr, Inhabited

structure HrvState where
  ctrl     : W32
  armed    : Bool
  armedWas : Bool
  unread   : Bool
  active   : Bool
  seq      : Nat
  lost     : Nat
  pend     : BitVec 5
  pendWas  : BitVec 5
  reqSc    : BitVec 64
  lastSc   : Nat
  lastCc   : Nat
  lastHold : Nat
  bank     : SchBank
  bounds   : List Boundary
  deriving DecidableEq, Repr, Inhabited

/-! ### The job -/

/-- A unit of a fault record in the layout of bytes 4 to 7 of Table 11-8. -/
structure UnitRef where
  line    : Nat
  station : Nat
  task    : Nat
  valid   : Bool
  pc      : Nat
  deriving DecidableEq, Repr, Inhabited

/-- A fault record (Table 11-8); FIRST and ORDER follow from its place in the buffer. -/
structure FaultRec where
  kind     : Nat
  resolve  : Bool
  detail   : Nat
  unit     : UnitRef
  sc       : Nat
  cc       : Nat
  expected : Nat
  observed : Nat
  coord    : BitVec 16
  unit2    : UnitRef
  addr     : Nat
  aux      : Nat
  imageId  : W64
  deriving DecidableEq, Repr, Inhabited

/-- A region of the loaded image (Table 11-3). -/
structure Region where
  kind   : Nat
  r      : Bool
  w      : Bool
  move   : Bool
  input  : Bool
  output : Bool
  fixed  : Bool
  bay    : Nat
  base   : Nat
  size   : Nat
  circ   : Nat
  dest   : Nat
  dyn    : Bool
  sig    : Nat
  sigEn  : Bool
  sigClr : Bool
  cflag  : Nat
  cflagEn : Bool
  deriving DecidableEq, Repr, Inhabited

/-- What the loader keeps of the image on the module (R353 to R361). -/
structure ImageInfo where
  profile  : Nat
  dyn      : BitVec 4
  shape    : BitVec 15
  split    : Nat
  refresh  : Nat
  gshare   : Nat
  nseeds   : Nat
  arith    : BitVec 4
  zone     : BitVec 24
  hline    : Option Nat
  elbGrp   : Nat
  digest   : BitVec 512
  reloc    : BitVec 512
  signed   : Bool
  regions  : List Region
  ports    : List Nat
  elbExp   : Bool
  elbLo    : Nat
  elbHi    : Nat
  deriving DecidableEq, Repr, Inhabited

/-- What a START after a restore takes back (R453): the sc h + 9, the NDC with its breakdown counters, HRV_SEQ. -/
structure Resume where
  sc   : Nat
  ndc  : Nat
  ndcY : Nat
  ndcE : Nat
  ndcD : Nat
  ndcC : Nat
  seq  : Nat
  deriving DecidableEq, Repr, Inhabited

/-- `copyBad` names the stores whose copy in the loader region a host write has touched: 6 × line of the part + station (R478). `coordWait` is the SCH_SCC at which a coordinated start that waits for FAB_START releases the job (R344, R453); `startAt` the cc in which a plain one releases it, and its sc. -/
structure JobState where
  img       : Option ImageInfo
  seeds     : List W64
  faults    : List FaultRec
  faultLost : Nat
  faultSc   : Option Nat
  endDisc   : Nat
  ldStage   : Nat
  ldCode    : Nat
  ldRefused : Bool
  ldBusy    : Bool
  ldDetail  : W32
  ldDetail2 : W32
  endPosted : Bool
  holdOut   : Bool
  copyBad   : List Nat
  coordWait : Option Nat
  startAt : Option (Nat × Nat)
  resume    : Option Resume
  deriving DecidableEq, Repr, Inhabited

/-! ### Memory accesses in flight -/

/-- Who owns the port of a timed access: a local store, a bay buffer, or a near-tier slice. -/
inductive Owner where
  | ls (line : Nat)
  | bb (bay : Nat)
  | nt (slice : Nat)
  deriving DecidableEq, Repr, Inhabited

/-- Where the beat of a read goes (R257, R276, R286). -/
structure Ret where
  line   : Nat
  st     : Station
  dest   : Dest
  out    : Nat
  issue  : Nat
  rep    : Nat
  unconf : Option Nat
  valid  : Bool
  deriving DecidableEq, Repr, Inhabited

/-- The kind of the user of a port, for the counters of Table 8-7; the read of an LS.COPY names the row it is
written to. -/
inductive UseKind where
  | own | neighbour | fabric | copyTo (dst : Nat)
  deriving DecidableEq, Repr, Inhabited

/-- A timed row access (Table 8-2, Table 9-2): it meets the content in sc `order` and occupies its port or slot in sc
`due`. `addr` is an address of the line's local store, an offset of the bay buffer, or a near-tier local address.
`taken` says that a read has met the content. -/
structure MemUse where
  unit   : UnitRef
  kind   : UseKind
  owner  : Owner
  write  : Bool
  addr   : Nat
  order  : Nat
  due    : Nat
  data   : BeatData
  ret    : Option Ret
  unconf : Option Nat
  taken  : Bool
  slotted : Bool
  deriving DecidableEq, Repr, Inhabited

/-- A beat that crosses a bridge from bay `src` to bay `dst` in sc `sc` (R291). -/
structure Crossing where
  sc    : Nat
  src   : Nat
  dst   : Nat
  slot  : Nat
  unit  : UnitRef
  deriving DecidableEq, Repr, Inhabited

/-- A commit of a free-slot user to a slot of a slice in a later cc (R290). `user` is its place in the order, `found` what a read in the slot
finds, `fix` a gleaner's write-back. -/
structure FreeCommit where
  cc    : Nat
  slice : Nat
  slot  : Nat
  user  : Nat
  found : EccFinding
  fix   : Bool
  deriving DecidableEq, Repr, Inhabited

/-- A byte range whose content the manual calls undefined; a later write makes its bytes defined again. -/
structure UndefRange where
  base  : Nat
  len   : Nat
  stamp : Nat
  deriving DecidableEq, Repr, Inhabited

/-! ### Flags and words -/

/-- The source of a flag change, in the order of R221; `late` is the consumption by a deadline wait, after every change of
its sc (R228). -/
inductive ChgSrc where
  | consume | program | other | late
  deriving DecidableEq, Repr, Inhabited

/-- A flag change with its effect sc (R220 to R222). `home` is the line or the bay of the flag. -/
structure FlagChg where
  cls  : FlagClass
  home : Nat
  idx  : Nat
  set  : Bool
  src  : ChgSrc
  eff  : Nat
  deriving DecidableEq, Repr, Inhabited

/-- Bay and module flags (Table 7-5): the values, the values at the start of the current sc, the single-waiter
declarations. A home is a bay; a module flag n is flag n mod 128 of bay n div 128. -/
structure FlagState where
  bf     : Tbl (BitVec 128)
  bfBase : Tbl (BitVec 128)
  bfSw   : Tbl (BitVec 128)
  mf     : Tbl (BitVec 128)
  mfBase : Tbl (BitVec 128)
  mfSw   : Tbl (BitVec 128)
  chgs   : List FlagChg
  deriving DecidableEq, Repr, Inhabited

/-- A word on its way (R231): it arrives in sc `due`. -/
structure WordFly where
  src   : Nat
  route : Nat
  word  : W64
  sent  : Nat
  due   : Nat
  pc    : Nat
  task  : Nat
  st    : Nat
  deriving DecidableEq, Repr, Inhabited

/-- A negative acknowledgement on its way (R233). -/
structure NackFly where
  src    : Nat
  route  : Nat
  reason : Nat
  due    : Nat
  pc     : Nat
  task   : Nat
  st     : Nat
  deriving DecidableEq, Repr, Inhabited

/-- A view entry of the expert load table: value, coordinate, VALID (R235). -/
structure ElbView where
  value : W32
  coord : BitVec 15
  valid : Bool
  deriving DecidableEq, Repr, Inhabited

/-- A CC.ELB ADD or READ that meets the table in sc `eff` (R237). -/
structure ElbOp where
  op    : Nat
  line  : Nat
  task  : Nat
  sd    : Nat
  entry : Nat
  add   : W32
  eff   : Nat
  deriving DecidableEq, Repr, Inhabited

/-- The expert load table. `sentAt` is the SCH_CC in which the reports were last sent (R236). -/
structure ElbState where
  loc    : Tbl W32
  view   : Tbl ElbView
  ops    : List ElbOp
  sentAt : Option Nat
  deriving DecidableEq, Repr, Inhabited

/-! ### Bays and the granary -/

structure StackState where
  temp   : Nat
  ce     : Nat
  ue     : Nat
  ueAddr : Option (Nat × Bool)
  rfm    : Nat
  repair : List Nat
  glnRow : Nat
  passes : Nat
  ceRows : List Nat
  deriving DecidableEq, Repr, Inhabited

structure BayState where
  clrLines   : List Nat
  clrSlices  : List Nat
  lineActive : Bool
  bbActive   : Bool
  clear      : Bool
  bbCe       : Nat
  bbUe       : Nat
  bbAddr     : W32
  glnRow     : Nat
  trained    : BitVec 4
  hot        : BitVec 4
  ntDone     : List Nat
  ntActive   : Bool
  ntPos      : Tbl Nat
  ntClear    : Bool
  stk        : Tbl StackState
  cnt        : Tbl Nat
  cntL       : Tbl Nat
  inReset    : Bool
  deriving DecidableEq, Repr, Inhabited

/-- An entry of the move queue (R302 to R305). -/
structure Move where
  src    : Nat
  dst    : Nat
  len    : Nat
  fidx   : Nat
  flagEn : Bool
  dl     : Nat
  entry  : Nat
  moved  : Nat
  begun  : Bool
  ended  : Bool
  deriving DecidableEq, Repr, Inhabited

/-- Descriptors consumed by PT.GMV that enter the queue in sc `due` (R302). -/
structure MoveFly where
  due  : Nat
  line : Nat
  task : Nat
  pc   : Nat
  ix   : Nat
  move : Move
  deriving DecidableEq, Repr, Inhabited

/-- A chunk of a program move in progress (R305): its move, its length, the bytes moved of it, what the symbol code finds in a granary
source. -/
structure Chunk where
  move  : Move
  len   : Nat
  done  : Nat
  found : BurstFinding
  deriving DecidableEq, Repr, Inhabited

/-- A fitted DIMM: 0 none, 1 RDIMM DDR5-6400, 2 MRDIMM-8800; capacity code of GR_POP; whether trained. -/
structure Dimm where
  typ     : Nat
  cap     : Nat
  trained : Bool
  ready   : Bool
  deriving DecidableEq, Repr, Inhabited

/-- The registers of one controller pair (Table 9-9). -/
structure GrPair where
  ce     : Nat
  ue     : Nat
  ueAddr : Option (Nat × Bool)
  cnt    : Tbl Nat
  cntL   : Tbl Nat
  deriving DecidableEq, Repr, Inhabited

/-- `ownCc` is the cc in which the engines last used a slot of their own; `chunks` the ranges of the chunks that have moved whole in the current
cc; `abandoned` says that a forced disable has stopped the program's moves (R438), `statusOff` that GR_STATUS has been reset and no channel has become ready since. -/
structure GranaryState where
  dimms    : Tbl Dimm
  pop      : List Nat
  mismatch : Bool
  popErr   : Bool
  queue    : List Move
  cur      : Option Chunk
  fly      : List MoveFly
  pairs    : Tbl GrPair
  err      : Option Nat
  scrub    : Tbl Nat
  ownCc    : Option Nat
  chunks   : List (Nat × Nat)
  abandoned : Bool
  statusOff : Bool
  deriving DecidableEq, Repr, Inhabited

end Sys2Proof.Machine
end

