-- ==== Sys2Proof/Machine/StateFab.lean ====
section
/-! DEFINITION. The state of the Thiust fabric (spec/10_thiust_fabric.md): ports, circuits, lead buffers, dynamic traffic, hall
time. -/

namespace Sys2Proof.Machine

/-- A packet: header (Table 10-6) and payload. -/
structure Packet where
  header  : BitVec 256
  payload : BitVec 2048
  deriving DecidableEq, Repr, Inhabited

/-- What a dynamic control packet of this module says (R343, R339), besides an expert load report: the manual numbers no
other message kind, so they are kept by name (log entry 12). -/
inductive Message where
  | flag (ix : Nat) (set : Bool)
  | busy (tag addr : Nat)
  | done (tag addr : Nat)
  | abort (origin : BitVec 15)
  | manage (kind arg : Nat)
  deriving DecidableEq, Repr, Inhabited

/-- A dynamic packet in a buffer: a data or transit packet, or a control message of this module. -/
inductive DynItem where
  | cell (p : Packet)
  | msg (dst : BitVec 15) (m : Message)
  deriving DecidableEq, Repr, Inhabited

/-- An entry of a virtual channel's queue at the sending port: its cc of arrival or injection, and the port and channel whose
forwarding entry it occupies. -/
structure DynEnt where
  item  : DynItem
  since : Nat
  src   : Option (Nat × Nat)
  deriving DecidableEq, Repr, Inhabited

/-- An entry of a lead buffer (R50, R329): circuit, SEQ, the index of its send sc, its place in the buffer. -/
structure LeadEnt where
  circ : Nat
  q    : Nat
  n    : Nat
  pkt  : Packet
  place : Nat
  deriving DecidableEq, Repr, Inhabited

/-- A scheduled packet in a transmit buffer (R327): an origin packet waits for its send sc, a through packet for the cc
`at_`. -/
structure TxCell where
  circ    : Nat
  q       : Nat
  through : Bool
  at_     : Nat
  pkt     : Packet
  deriving DecidableEq, Repr, Inhabited

/-- A cell that a port launched, with its link sequence number (R321, R345). -/
structure Launched where
  seq  : Nat
  item : DynItem
  deriving DecidableEq, Repr, Inhabited

/-- Counters of a port that latch at a harvest boundary (Table 10-11). -/
structure PortCnt where
  tx   : Nat
  rx   : Nat
  wait : Nat
  deriving DecidableEq, Repr, Inhabited

/-- A fabric port. `st` is the code of Table 10-3; `vc` and `credit` are keyed by virtual channel; `count` holds the used
counts returned for the circuits that it sends; `due` the circuits whose used count its next control cell returns; `upTo` is the last
number that a replay in progress brings again; `acked` the number that the peer last said it expects (Table 10-5); `timeTx` the HTC at launch of the TIME
cells sent in CALIB, `trip` the round trip and turnaround that an echo of one of them has shown (R317); `posAt` and `ctlAt` name the position and the control cell of the frame that the port has last
launched (log entry 91), `askAt` the cc of its last REPLAY request; `delay` holds the received packets with the cc from which they are held (R317, R35). -/
structure FabPort where
  st       : Nat
  failcode : Nat
  lat      : Nat
  decl     : Nat
  peer     : Option (BitVec 15 × Nat)
  lead     : List LeadEnt
  tx       : List TxCell
  vc       : Tbl (List DynEnt)
  credit   : Tbl Nat
  freed    : Tbl Nat
  seq      : Nat
  sent     : List Launched
  resend   : List Launched
  expect   : Nat
  ask      : Bool
  replaying : Bool
  upTo     : Nat
  acked    : Nat
  delay    : List (Nat × Packet)
  asked    : Nat × Nat
  timeRx   : Option (Nat × Nat)
  timeTx   : List Nat
  trip     : Option (Nat × Nat)
  peerHtc  : Bool
  peerCoord : Bool
  count    : Tbl Nat
  due      : List Nat
  fecCe    : Nat
  fecUe    : Nat
  crc      : Nat
  posAt    : Nat
  ctlAt    : Nat
  askAt    : Nat
  replays  : Nat
  maxrep   : Nat
  cnt      : PortCnt
  cntL     : PortCnt
  deriving DecidableEq, Repr, Inhabited

/-- A packet of a PT.FPUT that becomes ready in sc `due` (R335). -/
structure ReadyPkt where
  circ    : Nat
  due     : Nat
  addr    : Nat
  payload : BitVec 2048
  last    : Bool
  sig     : Option (Nat × Bool)
  deriving DecidableEq, Repr, Inhabited

/-- What a module keeps of a circuit while a job runs: packets made ready, the index after the last one claimed, the SEQ
expected and the index after the last received, packets used. -/
structure CircState where
  made     : Nat
  nextIx   : Nat
  expSeq   : Nat
  afterIx  : Nat
  used     : Nat
  deriving DecidableEq, Repr, Inhabited

/-- A packet delivered to a stream (R336) at its use sc. -/
structure StreamPkt where
  circ    : Nat
  u       : Nat
  payload : BitVec 2048
  sig     : Option (Nat × Bool)
  deriving DecidableEq, Repr, Inhabited

/-- A signal of a memory delivery: the landing line issues it in sc `due` (R337). -/
structure SignalFly where
  due  : Nat
  line : Nat
  flag : Nat
  set  : Bool
  deriving DecidableEq, Repr, Inhabited

/-- A beat of a memory delivery that the landing line writes in sc `at_`: its port (0 memory, 1 second) and AUX (R331). -/
structure LandBeat where
  at_  : Nat
  line : Nat
  port : Nat
  aux  : Nat
  deriving DecidableEq, Repr, Inhabited

/-- A retained copy of a dynamic data packet, until its destination answers DONE (R339). -/
structure Retained where
  tag : Nat
  dst : BitVec 15
  pkt : Packet
  deriving DecidableEq, Repr, Inhabited

/-- A dynamic transfer: packets not yet made, and its completion flag. -/
structure Transfer where
  tag   : Nat
  whole : Bool
  cflag : Option Nat
  deriving DecidableEq, Repr, Inhabited

/-- A packet of a dynamic region that a PT.FPUT hands over in sc `due`, for one destination. -/
structure DynOut where
  due : Nat
  tag : Nat
  dst : BitVec 15
  pkt : Packet
  deriving DecidableEq, Repr, Inhabited

structure FabCnt where
  sch : Nat
  dyn : Nat
  fwd : Nat
  red : Nat
  deriving DecidableEq, Repr, Inhabited

/-- The fabric. `circOff` holds the entries of the circuit table with VALID 0; `ref` is FAB_STATUS.REF; `held` the cells of the dynamic receive buffer. -/
structure FabState where
  ctrl     : W32
  ref      : Nat
  aValid   : Bool
  bValid   : Bool
  clk      : Bool
  htc      : Nat
  htcValid : Bool
  taken    : Option (BitVec 15)
  discDone : Bool
  discErr  : Bool
  shape    : BitVec 15
  split    : Nat
  start    : W64
  disreq   : BitVec 12
  disabled : BitVec 12
  abort    : Option (BitVec 15)
  cnt      : FabCnt
  cntL     : FabCnt
  ports    : Tbl FabPort
  circ     : Tbl (BitVec 256)
  circOff  : Tbl (BitVec 256)
  mcast    : Tbl (List (BitVec 15))
  cs       : Tbl CircState
  claims   : List (Nat × Nat)
  ready    : List ReadyPkt
  locals   : Tbl (List ReadyPkt)
  strm     : Tbl StreamPkt
  sigs     : List SignalFly
  lands    : List LandBeat
  outq     : List DynOut
  retain   : List Retained
  resends  : List (Nat × Retained)
  xfers    : List Transfer
  nextTag  : Nat
  recvBuf  : List Packet
  deriving DecidableEq, Repr, Inhabited

end Sys2Proof.Machine
end

