-- ==== Sys2Proof/Machine/StateSys.lean ====
section
/-! DEFINITION. The state of the host side and the module: PCIe ports, rings, mailboxes (spec/12_host_interface.md), power
(spec/13_power.md), bring-up and recovery (spec/14_bringup_recovery.md), security (spec/15_security.md), debug. -/

namespace Sys2Proof.Machine

/-! ### Hosts (spec/12_host_interface.md) -/

/-- A completion record but for its phase (Table 12-8). -/
structure Completion where
  tag    : Nat
  sqidx  : Nat
  sq     : Nat
  typ    : Nat
  status : Nat
  detail : Nat
  sqhead : Nat
  value  : Nat
  value2 : Nat
  deriving DecidableEq, Repr, Inhabited

/-- A fetched record: the index of its first unit, its units, and whether its UNITS stop the ring (R387). -/
structure FetchedRec where
  idx   : Nat
  units : List (BitVec 512)
  bad   : Bool
  deriving DecidableEq, Repr, Inhabited

/-- A record that has begun and not completed (R388): `waits` says what it waits for is a posting of this completion. -/
structure OpenRec where
  fr   : FetchedRec
  post : Option Completion
  deriving DecidableEq, Repr, Inhabited

/-- A submission ring. -/
structure SubRing where
  base    : W64
  k       : Nat
  en      : Bool
  cq      : Nat
  head    : Nat
  tail    : Nat
  stopped : Bool
  part    : List (BitVec 512)
  queue   : List FetchedRec
  cur     : Option OpenRec
  deriving DecidableEq, Repr, Inhabited

/-- A completion ring: `since` records posted since its last message, the cc of the oldest of them, and what waits to be
posted (the ring of its SQ, or none for an event of a kind). -/
structure ComRing where
  base   : W64
  k      : Nat
  en     : Bool
  vec    : Nat
  cnt    : Nat
  time   : Nat
  head   : Nat
  tail   : Nat
  phase  : Bool
  since  : Nat
  oldest : Option Nat
  wait   : List (Option Nat × Completion)
  deriving DecidableEq, Repr, Inhabited

/-- A PCIe port and its HST block. `errCc` are the bits of HST_ERR that hardware has set in this cc (R10); `aer` is the AER uncorrectable
status (R373, R375), `aerCc` its bits set in this cc (R10); `config` holds the registers of configuration space that software writes (R373). -/
structure HostPort where
  up       : Bool
  perst    : Bool
  d3hot    : Bool
  rate     : Nat
  width    : Nat
  downAt   : Option Nat
  evtCfg   : W32
  mbVec    : W32
  err      : W32
  errCc    : W32
  errCnt   : Nat
  aer      : W32
  aerCc    : W32
  config   : Tbl W32
  evtLost  : Nat
  b4Base   : W64
  sqs      : Tbl SubRing
  cqs      : Tbl ComRing
  msix     : Tbl (BitVec 128)
  pba      : BitVec 64
  deriving DecidableEq, Repr, Inhabited

/-- A mailbox (Table 12-12): `st` 0 IDLE, 1 CLAIMED, 2 FULL. Of this cc it keeps the doorbell bits that its sender has set, the sender that
a reset has cut off (R11) with the doorbell bits of its message that the reset has met (`met`), and the sender of a message that the receiver
has emptied with EMPTIED as it stood before (R405). -/
structure Mailbox where
  st       : Nat
  src      : Nat
  db       : W32
  mask     : W32
  msg      : Tbl W32
  aborted  : Bool
  emptied  : Bool
  deadMode : Bool
  allow    : BitVec 16
  drop     : Nat
  rung     : W32
  cutOff   : Option Nat
  met      : W32
  drained  : Option (Nat × Bool)
  deriving DecidableEq, Repr, Inhabited

/-- A host access to BAR4 that waits for the module's coordinate (R35). -/
structure HallWait where
  port   : HostId
  offset : Nat
  write  : Bool
  data   : List Byte
  len    : Nat
  bad    : Option Nat
  deriving DecidableEq, Repr, Inhabited

/-- A host or debug access to the near tier, a bay buffer or the granary that is not over (R290, R305, R378): of a COPY record of ring `ring`,
or by an address. `data` is what it writes, or what it has read; `bad` the byte at which a read finds an uncorrectable error; `fail` is the DETAIL of the
host request whose failure has cut the record's copy short (Table 12-9), or 0. -/
structure MemAccess where
  who   : Requester
  ring  : Option Nat
  addr  : Nat
  len   : Nat
  write : Bool
  data  : List Byte
  bad   : Option Nat
  done  : Nat
  fail  : Nat
  deriving DecidableEq, Repr, Inhabited

/-- A record that holds job control (R388): its port and ring. -/
abbrev RecRef := Nat × Nat

/-- The host side. `jc` names the record that holds job control; `loadRec`, `startRec`, `killRec`, `snapRec` and `attest` the records of
these kinds that have begun and wait; `loadFr` is the body of the LOAD, and `fwRec` a FWUPD whose package is
being written. `turn` is the ring with which the rotation goes on (16 × port + ring,
R388); `hall` the accesses that wait for the coordinate, `mem` those to memories in progress. A record whose port was reset runs on under ring 16, which no
completion reaches (R382). -/
structure HostState where
  ports    : Tbl HostPort
  owner    : Nat
  lastTk   : Bool
  changed  : Bool
  changes  : Nat
  tkovr    : Nat
  boxes    : Tbl Mailbox
  jc       : Option RecRef
  loadRec  : Option RecRef
  loadFr   : Option FetchedRec
  fwRec    : Option (RecRef × FetchedRec)
  startRec : Option RecRef
  killRec  : List RecRef
  snapRec  : Option RecRef
  snapNext : Option RecRef
  attest   : List (RecRef × Nat × List Byte)
  kept     : List (Nat × Nat × Nat × Bool)
  hiBuf    : List (Requester × Nat × W32)
  turn     : Nat
  hall     : List HallWait
  mem      : List MemAccess
  deriving DecidableEq, Repr, Inhabited

/-! ### Power (spec/13_power.md) -/

/-- A bay's core supply: code in force and next code, PENDING, the current of the last 64 cc in units of 10 mA
(the newest first), the `level` from which their sum may fall (R420), the highest window mean of S_b in 0.1 A, share in 0.1 A, the least
margins. -/
structure BayPower where
  code    : Nat
  next    : Nat
  pend    : Bool
  since   : Nat
  recent  : List Nat
  level   : Nat
  peak    : Nat
  share   : Nat
  margin  : Nat
  marginW : Nat
  seen    : Bool
  deriving DecidableEq, Repr, Inhabited

structure PowerState where
  cls      : Nat
  clsWin   : Nat
  clamped  : Bool
  limP     : Bool
  limS     : Bool
  limT     : Bool
  duty     : Nat
  over_    : Bool
  near     : Bool
  calm     : Nat
  pinLast  : Nat
  vinLast  : Nat
  iinLast  : Nat
  pinPeak  : Nat
  pncPeak  : Nat
  keep     : Nat
  keepHold : Nat
  falling  : Bool
  tmax     : W32
  cool     : W32
  alert    : BitVec 6
  alertCc  : BitVec 6
  vctrl    : W32
  enUj     : Nat
  enL      : Nat
  balUj    : Nat
  balL     : Nat
  dutyUp   : Nat
  dutyUpL  : Nat
  dutyAt   : Nat
  bays     : Tbl BayPower
  sensors  : List (Nat × Bool)
  deriving DecidableEq, Repr, Inhabited

/-! ### Bring-up and recovery (spec/14_bringup_recovery.md) -/

/-- An interrupted move (R441). -/
structure IntrRec where
  dst  : Nat
  len  : Nat
  done : Nat
  deriving DecidableEq, Repr, Inhabited

/-- What a snapshot captures of the job (R445), with the time counters that a restart takes back (R453). -/
structure Captured where
  sc    : Nat
  lines : Tbl LineState
  flags : FlagState
  words : List WordFly
  nacks : List NackFly
  uses  : List MemUse
  cross : List Crossing
  elb   : ElbState
  gr    : GranaryState
  fab   : FabState
  lsMem : List Host.Cell
  ndc   : Nat
  ndcY  : Nat
  ndcE  : Nat
  ndcD  : Nat
  ndcC  : Nat
  seq   : Nat
  deriving DecidableEq, Repr, Inhabited

/-- A snapshot that is pending or in progress: the slot asked for (0 the other one, 1 A, 2 B), BUDDY and its coordinate; `phase`
0 pending, 1 capture, 2 write, 3 commit; `wslot` 0 A, 1 B. -/
structure SnapJob where
  slot   : Nat
  buddy  : Option (BitVec 15)
  phase  : Nat
  wslot  : Nat
  sc     : Nat
  pos    : Nat
  deriving DecidableEq, Repr, Inhabited

/-- A slot on its way to another module as dynamic data packets: the slot, its destination and base there, the bytes of its content sent (R448,
R451). -/
structure SlotSend where
  dst  : BitVec 15
  slot : Nat
  base : Option Nat
  pos  : Nat
  tag  : Nat
  deriving DecidableEq, Repr, Inhabited

/-- What the slot scan found of slots A, B and buddy slots 0, 1: 0 empty, 1 INCOMPLETE, 2 COMMITTED. -/
structure SlotScan where
  a    : Nat
  b    : Nat
  b0   : Nat
  b1   : Nat
  latest : Nat
  seq  : Nat
  deriving DecidableEq, Repr, Inhabited

structure RecoverState where
  alert    : BitVec 12
  alertCc  : BitVec 12
  disreq   : BitVec 16
  disSince : Tbl Nat
  disBay   : BitVec 8
  disCh    : BitVec 8
  slotA    : BitVec 42
  slotB    : BitVec 42
  bslot0   : BitVec 42
  bslot1   : BitVec 42
  cap      : BitVec 42
  slotsz   : Nat
  scan     : SlotScan
  snap     : Option SnapJob
  snapNext : Option SnapJob
  caps     : List (BitVec 512 × Captured)
  repl     : Option (BitVec 15)
  sends    : List SlotSend
  replDone : Bool
  prog     : Nat
  pull     : W32
  pullAct  : Bool
  pullTo   : Nat
  pullGot  : Nat
  pullDone : Bool
  pullFail : Bool
  standby  : Bool
  standbyOk : Bool
  failovers : Nat
  intr     : List IntrRec
  inRepl   : Option (BitVec 15 × Nat)
  buddyFail : Bool
  deriving DecidableEq, Repr, Inhabited

/-! ### The module -/

/-- Sampled straps (Table 1-12). -/
structure Straps where
  hostrole  : BitVec 1
  pwrclass  : BitVec 3
  sigpol    : BitVec 1
  bootsrc   : BitVec 2
  coordMode : BitVec 1
  coord     : BitVec 15
  bar4sz    : BitVec 2
  deadMode  : BitVec 1
  tkovr     : BitVec 2
  err       : Bool
  deriving DecidableEq, Repr, Inhabited

/-- The module's bring-up (Table 14-1): VIN is in range, VSTBY is up, the rails are up, a shutdown keeps them down (R426), MODRST_N is low,
the next sampling follows a cold reset. `tries` are the sources that the boot ROM has still to try (0 slot A, 1 slot B, 2 host), and
`bootWait` says that it waits for a package from the host (R461, R462); `trains` counts the bay resets after a
failed stack training (R433), `bootMsg` is the code of a failed boot that the boot ROM has yet to post (R463), `alertLow` how ALERT_N is driven (R19). -/
structure ModState where
  vin      : Bool
  standby  : Bool
  rails    : Bool
  shut     : Bool
  rstLow   : Bool
  cold     : Bool
  straps   : Straps
  sampled  : Bool
  tries    : List Nat
  bootWait : Bool
  mgmt     : Bool
  bayReady : BitVec 8
  chReady  : BitVec 8
  bootFail : Bool
  bootMsg  : Option Nat
  trains   : Tbl Nat
  fillLine : Bool
  fillNt   : Bool
  alertLow : Bool
  deriving DecidableEq, Repr, Inhabited

/-! ### Security (spec/15_security.md) -/

/-- A flash slot (R460): the state that its header names (0 EMPTY, 1 INCOMPLETE, 2 STAGED, 3 COMMITTED), SEQ, the header's digest of itself. -/
structure FlashSlot where
  st   : Nat
  seq  : Nat
  dig  : BitVec 512
  pkg  : List Byte
  deriving DecidableEq, Repr, Inhabited

/-- The security block: its nonvolatile record, fuses and measurements. `seed` is the fused seed of the identity key, `idpub` the public key that
a boot derives from it (Table 15-1); `signs` counts the draws of the hedged mode. -/
structure SecState where
  flashA   : FlashSlot
  flashB   : FlashSlot
  run      : Nat
  booted   : Bool
  svn      : Nat
  lastCode : Option Nat
  bootRej  : Option (Nat × Nat)
  floor    : Nat
  revoked  : BitVec 2
  vkd      : Tbl (BitVec 512)
  mRom     : BitVec 512
  mMgmt    : BitVec 512
  mBay     : BitVec 512
  mStrap   : BitVec 512
  keys     : Tbl (List Byte)
  sigReq   : Bool
  ownCtr   : Nat
  unlocked : Bool
  seed     : BitVec 256
  idpub    : List Byte
  endorse  : List Byte
  endKey   : Nat
  signs    : Nat
  deriving DecidableEq, Repr, Inhabited

/-- The debug port's STEP: the sc at which DEBUG is raised again. -/
structure DebugState where
  halted : Bool
  stepTo : Option Nat
  deriving DecidableEq, Repr, Inhabited

end Sys2Proof.Machine
end

