-- ==== Sys2Proof/Machine/State.lean ====
section
/-! DEFINITION. The state of the block, its faults and refusals, and the state after reset. -/

namespace Sys2Proof.Machine

/-- Reasons for which the block stops with a fault. -/
inductive Fault where
  /-- Raised by the meaning of a station instruction whose word the loader refuses (a reserved encoding, R92, or a
  "refused at load" rule): no rule gives such a word an effect in a queue. Safe: no next state is claimed. -/
  | refusedAtLoad
  deriving DecidableEq, Repr

/-- Reasons for which a command has no meaning in the model. -/
inductive Refusal where
  /-- A command whose meaning is not written yet, by its mnemonic. Safe: no next state is claimed. -/
  | notModelled (mnemonic : String)
  deriving DecidableEq, Repr

/-- What the block has sent out, for the outside world to see (log entry 7). -/
inductive Sent where
  | alert (low : Bool)
  | cell (port seq : Nat) (item : DynItem) (wire : Packet) (trailer : BitVec 128)
  | control (port : Nat) (cell : BitVec 256)
  | marker (port : Nat) (bytes : List Byte)
  | idle (port : Nat)
  | fill (port : Nat)
  | hostWrite (port : Nat) (addr : Nat) (bytes : List Byte)
  | hostRead (port : Nat) (addr : Nat) (len : Nat)
  | msix (port vec : Nat)
  | mailbox (box : MailboxId) (toManagement : Bool)
  | regData (who : Requester) (value : W32)
  | regError (who : Requester)
  | memData (who : Requester) (bytes : List Byte)
  deriving DecidableEq, Repr

/-- What differs from part to part (Table 1-11): MOD_STEP [7:0], MOD_ORDER [1:0], the serial number. -/
structure PartInfo where
  step   : BitVec 8
  order  : BitVec 2
  serial : W64
  deriving DecidableEq, Repr, Inhabited

/-- The state of the block. `marks` are the places that hold an error (`markAt`); `fixes` the physical rows that gleaners have yet to write back (R268,
R270, R298). -/
structure State where
  time    : TimeState
  hrv     : HrvState
  job     : JobState
  mem     : List Host.Cell
  undef   : List UndefRange
  marks   : List (Nat × Bool)
  fixes   : List Nat
  lines   : Tbl LineState
  bays    : Tbl BayState
  uses    : List MemUse
  cross   : List Crossing
  free    : List FreeCommit
  flags   : FlagState
  words   : List WordFly
  nacks   : List NackFly
  elb     : ElbState
  gr      : GranaryState
  fab     : FabState
  host    : HostState
  pwr     : PowerState
  rcv     : RecoverState
  mod     : ModState
  sec     : SecState
  dbg     : DebugState
  zone    : BitVec 24
  part    : PartInfo
  coord   : BitVec 15
  coordOk : Bool
  pending : List Instr
  freeIx  : Nat
  outbox  : List Sent
  deriving DecidableEq, Repr

/-- Schedule time right after reset (R69, Table 2-8, Table 2-9). -/
def TimeState.reset : TimeState :=
  { (default : TimeState) with
    hist := List.replicate 8 0
    ctrl := 0x00010000, ctrlLoad := 0x00010000, limit := 0x8F0D1800, limitLoad := 0x8F0D1800 }

/-- The HRV block right after reset (Table 2-11). -/
def HrvState.reset : HrvState := { (default : HrvState) with ctrl := 1 }

/-- The fabric right after reset (Table 10-10: FAB_SPLIT reads 14; every other register reads 0). -/
def FabState.reset : FabState := { (default : FabState) with split := 14 }

/-- A mailbox right after reset (Table 12-12): MB_ALLOW 0x000C on a secure one, 0xFFFF elsewhere. -/
def Mailbox.reset (secure dead : Bool) : Mailbox :=
  { (default : Mailbox) with deadMode := dead, allow := if secure then 0x000C else 0xFFFF }

/-- The key of a mailbox. -/
def boxKey : MailboxId → Nat
  | .open_ p => p | .secure p => 2 + p | .internal i => 4 + i

/-- Every mailbox right after reset, with the strapped DEAD_MODE. -/
def boxesReset (dead : Bool) : Tbl Mailbox :=
  (List.range 8).map fun i => (i, Mailbox.reset (i == 2 || i == 3) dead)

/-- MSI-X table entries right after reset: the mask bit is set (log entry 5). -/
def msixReset : Tbl (BitVec 128) := (List.range 64).map fun v => (v, (1 : BitVec 128) <<< 96)

/-- A port whose link is down. -/
def HostPort.reset : HostPort := { (default : HostPort) with downAt := some 0, msix := msixReset }

/-- The host side right after reset; HST_TKOVR is that of strap 0b00 (200). -/
def HostState.reset : HostState :=
  { (default : HostState) with ports := [(0, HostPort.reset), (1, HostPort.reset)], tkovr := 200, boxes := boxesReset false }

/-- A bay's core supply right after reset (Table 13-7): code 48, share 320 A. -/
def BayPower.reset : BayPower := { (default : BayPower) with code := 48, next := 48, share := 3200 }

/-- Power right after reset (Table 13-7). -/
def PowerState.reset : PowerState :=
  { (default : PowerState) with
    keep := 0x1000, vctrl := 0x3001, bays := (List.range 8).map fun b => (b, BayPower.reset) }

/-- The block right after reset. -/
def State.reset : State where
  time := TimeState.reset
  hrv := HrvState.reset
  job := default
  mem := []
  undef := []
  marks := []
  fixes := []
  lines := []
  bays := []
  uses := []
  cross := []
  free := []
  flags := default
  words := []
  nacks := []
  elb := default
  gr := default
  fab := FabState.reset
  host := HostState.reset
  pwr := PowerState.reset
  rcv := default
  mod := default
  sec := default
  dbg := default
  zone := 0
  part := { step := 0x10, order := 2, serial := 0 }
  coord := 0
  coordOk := false
  pending := []
  freeIx := 0
  outbox := []

end Sys2Proof.Machine
end

