-- ==== Sys2Proof/Machine/Ops.lean ====
section
/-! DEFINITION. The named operations over tables, memory, time, holds, faults, registers and flags that every
meaning is written with. -/

namespace Sys2Proof

/-- The value at key `k`, `d` when unlisted. -/
def Tbl.look {α : Type} (t : Tbl α) (k : Nat) (d : α) : α :=
  match t with
  | [] => d
  | (j, v) :: r => if j = k then v else Tbl.look r k d

/-- The value at key `k`, if listed. -/
def Tbl.find {α : Type} (t : Tbl α) (k : Nat) : Option α :=
  match t with
  | [] => none
  | (j, v) :: r => if j = k then some v else Tbl.find r k

/-- The table with `v` at key `k`; keys stay rising. -/
def Tbl.put {α : Type} (t : Tbl α) (k : Nat) (v : α) : Tbl α :=
  match t with
  | [] => [(k, v)]
  | (j, w) :: r => if k < j then (k, v) :: (j, w) :: r else if k = j then (k, v) :: r else (j, w) :: Tbl.put r k v

/-- The table without key `k`. -/
def Tbl.del {α : Type} (t : Tbl α) (k : Nat) : Tbl α :=
  match t with
  | [] => []
  | (j, w) :: r => if j = k then r else (j, w) :: Tbl.del r k

/-- The value at key `k` (default `d`) changed by `f`. -/
def Tbl.upd {α : Type} (t : Tbl α) (k : Nat) (d : α) (f : α → α) : Tbl α := t.put k (f (t.look k d))

/-- Keys strictly rising. -/
def Tbl.rising {α : Type} (t : Tbl α) : Bool :=
  match t with
  | [] => true
  | [_] => true
  | (j, _) :: (k, v) :: r => j < k && Tbl.rising ((k, v) :: r)

namespace Machine

/-! ### Bytes and beats -/

/-- Byte `i` of a value of any width (R7: byte 0 is the least significant). -/
def byteOf {n : Nat} (v : BitVec n) (i : Nat) : Byte := v.extractLsb' (8 * i) 8

/-- The natural number whose little-endian bytes are the list. -/
def leNat (bs : List Byte) : Nat :=
  match bs with
  | [] => 0
  | b :: r => b.toNat + 256 * leNat r

/-- The `n` low bytes of a natural number, little-endian. -/
def leBytes (n : Nat) (v : Nat) : List Byte :=
  match n with
  | 0 => []
  | k + 1 => BitVec.ofNat 8 v :: leBytes k (v / 256)

/-- A beat from its 128 bytes. -/
def beatOfBytes (bs : List Byte) : BeatData := BitVec.ofNat 1024 (leNat (bs.take 128))
/-- The 128 bytes of a beat. -/
def beatBytes (b : BeatData) : List Byte := leBytes 128 b.toNat
/-- Lane `k` of width `w` bits. -/
def laneOf {n : Nat} (w : Nat) (v : BitVec n) (k : Nat) : BitVec w := v.extractLsb' (w * k) w
/-- A value from its lanes of `w` bits, lane 0 lowest. -/
def ofLanes (w : Nat) (ls : List (BitVec w)) : Nat :=
  match ls with
  | [] => 0
  | l :: r => l.toNat + 2 ^ w * ofLanes w r

/-- A value with bit `i` set, and with bit `i` cleared. -/
def bitOn {n : Nat} (v : BitVec n) (i : Nat) : BitVec n := v ||| ((1 : BitVec n) <<< i)
def bitOff {n : Nat} (v : BitVec n) (i : Nat) : BitVec n := v &&& ~~~((1 : BitVec n) <<< i)

/-! ### Memory (R26, R293, R301): keyed by physical place, unlisted bytes read 0 -/

/-- What an unlisted byte reads as (R280: on-chip memories are zero after clearing; the near tier and the granary:
DESIGN CHOICE, log entry 4). -/
def Memory.blank : Byte := 0

/-- The byte the memory list holds at `a`. -/
def Memory.get (m : List Host.Cell) (a : Nat) : Byte :=
  match m with
  | [] => Memory.blank
  | (k, v) :: r => if k = a then v else Memory.get r a

/-- The memory with byte `v` at `a`, in canonical form. -/
def Memory.set (m : List Host.Cell) (a : Nat) (v : Byte) : List Host.Cell :=
  match m with
  | [] => if v = Memory.blank then [] else [(a, v)]
  | (k, w) :: r =>
    if a < k then (if v = Memory.blank then (k, w) :: r else (a, v) :: (k, w) :: r)
    else if a = k then (if v = Memory.blank then r else (a, v) :: r)
    else (k, w) :: Memory.set r a v

/-- Canonical form: addresses strictly rising, no entry equal to what an unlisted address reads as. -/
def Memory.wf (m : List Host.Cell) : Bool :=
  match m with
  | [] => true
  | [(_, v)] => v != Memory.blank
  | (a, v) :: (b, w) :: r => v != Memory.blank && a < b && Memory.wf ((b, w) :: r)

/-- Consecutive bytes written from `a` on. -/
def Memory.setBytes (m : List Host.Cell) (a : Nat) (bs : List Byte) : List Host.Cell :=
  match bs with
  | [] => m
  | b :: r => Memory.setBytes (Memory.set m a b) (a + 1) r

/-- Every byte of `[a, a + n)` zero. -/
def Memory.zero (m : List Host.Cell) (a n : Nat) : List Host.Cell := m.filter fun c => c.1 < a || a + n ≤ c.1

/-- An undefined range with the bytes `[a, a + n)` taken out of it. -/
def UndefRange.cut (u : UndefRange) (a n : Nat) : List UndefRange :=
  if a + n ≤ u.base || u.base + u.len ≤ a then [u]
  else
    (if u.base < a then [{ u with len := a - u.base }] else []) ++
    (if a + n < u.base + u.len then [{ u with base := a + n, len := u.base + u.len - (a + n) }] else [])

/-- The byte at a physical address: a free value while it is undefined, else the memory's. -/
def State.byte (s : State) (a : Nat) : Byte :=
  match s.undef.find? (fun u => u.base ≤ a && a < u.base + u.len) with
  | some u => Config.freeByte u.stamp a
  | none => Memory.get s.mem a

/-- `n` bytes from physical address `a` on. -/
def State.bytes (s : State) (a : Nat) (n : Nat) : List Byte := (List.range n).map fun i => s.byte (a + i)

/-- Where an error at a physical address is marked, and how many bytes the mark covers: the byte symbol of the near tier (R296), the 64-bit word of
a local store or a bay buffer (R268), the burst of the granary (R301). -/
def markAt (p : Nat) : Nat := if p < 0x18000000000 then p else if p < 0x20000000000 then p / 8 * 8 else p / 64 * 64
def markLen (p : Nat) : Nat := if p < 0x18000000000 then 1 else if p < 0x20000000000 then 8 else 64

/-- The error marks after bytes `[a, a + n)` are written: those that the write reaches are gone. -/
def cutMarks (marks : List (Nat × Bool)) (a n : Nat) : List (Nat × Bool) :=
  marks.filter fun m => m.1 + markLen m.1 ≤ a || a + n ≤ m.1

/-- Bytes written from physical address `a` on; they are defined from then on. A write to a row cancels its write-back (R270). -/
def State.setBytes (s : State) (a : Nat) (bs : List Byte) : State :=
  { s with
    mem := Memory.setBytes s.mem a bs
    undef := s.undef.flatMap fun u => u.cut a bs.length
    marks := cutMarks s.marks a bs.length
    fixes := s.fixes.filter fun r => r + 128 ≤ a || a + bs.length ≤ r }

/-- `n` zero bytes from physical address `a` on. -/
def State.zeroBytes (s : State) (a n : Nat) : State :=
  { s with
    mem := Memory.zero s.mem a n
    undef := s.undef.flatMap fun u => u.cut a n
    marks := cutMarks s.marks a n
    fixes := s.fixes.filter fun r => r + 128 ≤ a || a + n ≤ r }

/-- `n` bytes from `a` on become undefined: free values under a fresh stamp. -/
def State.undefine (s : State) (a n : Nat) : State :=
  if n = 0 then s else
  { s with
    undef := { base := a, len := n, stamp := s.freeIx } :: s.undef.flatMap fun u => u.cut a n
    freeIx := s.freeIx + 1 }

/-- The 128-byte row at physical address `a`. -/
def State.row (s : State) (a : Nat) : BeatData := beatOfBytes (s.bytes a 128)
/-- The 128-byte row at physical address `a` written. -/
def State.setRow (s : State) (a : Nat) (d : BeatData) : State := s.setBytes a (beatBytes d)

/-- Physical place of a local-store address (R26: line window). -/
def lsPhys (line a : Nat) : Nat := 0x18100000000 + line * 0x80000 + a
/-- Physical place of a bay-buffer offset (R275). -/
def bbPhys (bay o : Nat) : Nat := 0x18000000000 + bay * 0x4000000 + o
/-- Physical place of a near-tier slice offset: slice × 6 GiB + offset (R293). -/
def ntPhys (slice o : Nat) : Nat := slice * 0x180000000 + o
/-- Physical place of a DIMM offset: socket × 256 GiB (R301). -/
def grPhys (dimm o : Nat) : Nat := 0x20000000000 + dimm * 0x4000000000 + o

/-- Slice and slice offset of a near-tier local address under the zone map (R293). -/
def ntMap (zone : BitVec 24) (a : Nat) : Nat × Nat :=
  let z := a / 2 ^ 36
  let o := a % 2 ^ 36
  if zone.getLsbD z then
    let n := (o % 2 ^ 33) / 4096
    (32 * (o / 2 ^ 33) + n % 32, z * 2 ^ 28 + (n / 32) * 4096 + a % 4096)
  else
    let n := o / 4096
    (n % 256, z * 2 ^ 28 + (n / 256) * 4096 + a % 4096)

/-- Capacity in bytes of a DIMM capacity code (Table 9-9). -/
def capBytes (c : Nat) : Nat := (match c with | 0 => 64 | 1 => 96 | 2 => 128 | 3 => 192 | _ => 256) * 2 ^ 30

/-- The fitted granary capacity of the population in force (R300, R439). -/
def GranaryState.capacity (g : GranaryState) : Nat :=
  match g.pop with
  | [] => 0
  | d :: r => (r.length + 1) * capBytes (g.dimms.look d default).cap

/-- Physical place of a local address, when it is mapped (R26, R27, R293, R301). -/
def State.phys (s : State) (a : Nat) : Option Nat :=
  if a < 0x18000000000 then let (sl, o) := ntMap s.zone a; some (ntPhys sl o)
  else if a < 0x18020000000 then some a
  else if a < 0x18100000000 then none
  else if a < 0x18110000000 then if a % 0x80000 < 0x60000 then some a else none
  else if a < 0x20000000000 then none
  else if a < 0x20000000000 + s.gr.capacity then
    let n := (a - 0x20000000000) / 4096
    match s.gr.pop with
    | [] => none
    | d :: r => some (grPhys ((d :: r).getD (n % (r.length + 1)) 0) ((n / (r.length + 1)) * 4096 + a % 4096))
  else none

/-- Bytes at local address `a`: the interleave is followed byte by byte. -/
def State.readLocal (s : State) (a n : Nat) : List Byte :=
  (List.range n).map fun i => match s.phys (a + i) with | some p => s.byte p | none => 0

/-- Bytes written at local address `a`; those of unmapped addresses go nowhere. -/
def State.writeLocal (s : State) (a : Nat) (bs : List Byte) : State :=
  match bs with
  | [] => s
  | b :: r => State.writeLocal (match s.phys a with | some p => s.setBytes p [b] | none => s) (a + 1) r

/-- A local range becomes undefined, page by page of the interleave. -/
def State.undefineLocal (s : State) (a n : Nat) : State :=
  (List.range ((a % 4096 + n + 4095) / 4096)).foldl (fun s i =>
    let lo := if i = 0 then a else (a / 4096 + i) * 4096
    let hi := min (a + n) ((a / 4096 + i + 1) * 4096)
    match s.phys lo with
    | some p => s.undefine p (hi - lo)
    | none => s) s

/-- A beat of free values under a fresh stamp, where the manual states no value. -/
def State.freeBeat (s : State) : State × BeatData :=
  ({ s with freeIx := s.freeIx + 1 }, beatOfBytes ((List.range 128).map fun i => Config.freeByte s.freeIx i))

/-! ### Lines, bays, queues -/

def State.line (s : State) (l : Nat) : LineState := s.lines.look l LineState.idle
def State.setLine (s : State) (l : Nat) (L : LineState) : State := { s with lines := s.lines.put l L }
def State.updLine (s : State) (l : Nat) (f : LineState → LineState) : State := s.setLine l (f (s.line l))
def State.bay (s : State) (b : Nat) : BayState := s.bays.look b default
def State.updBay (s : State) (b : Nat) (f : BayState → BayState) : State :=
  { s with bays := s.bays.put b (f (s.bay b)) }

/-- The bay of a global line (R14). -/
def bayOf (line : Nat) : Nat := line / 64

/-- Key of a task's queue on a station. -/
def qKey (st : Station) (task : Nat) : Nat := task * 6 + st.code
def LineState.q (L : LineState) (st : Station) (t : Nat) : QState := L.queues.look (qKey st t) default
def LineState.setQ (L : LineState) (st : Station) (t : Nat) (q : QState) : LineState :=
  { L with queues := L.queues.put (qKey st t) q }
def LineState.updQ (L : LineState) (st : Station) (t : Nat) (f : QState → QState) : LineState :=
  L.setQ st t (f (L.q st t))
def State.q (s : State) (st : Station) (q : Queue) : QState := (s.line q.line).q st q.task
def State.updQ (s : State) (st : Station) (q : Queue) (f : QState → QState) : State :=
  s.updLine q.line fun L => L.updQ st q.task f

/-- Counters kept by name in `cnt` and latched into `cntL` (Tables 5-12, 6-15, 6-16, 7-11, 8-7). -/
inductive LineCnt where
  | mxMm | mxLw | mxCold | mxOowRep | vxRep | vxSat | vxOow | vxInv | pxRep | pxKept
  | ccIss | ccBr | ccPred | ccRefute | ccMrel | ccCont | ccNack
  | lsRd | lsWr | lsNbr | lsDrain | glnRows | glnCe | glnPass | glnIsPass
  deriving DecidableEq, Repr

/-- Counters of a base die (Tables 7-12, 8-8, 9-8, 13-7). -/
inductive BayCnt where
  | flgMrel | flgCont | bbRd | bbWr | bbGlnPass | bbGlnCe | ntRd | ntWr | ntFree | ntGlnPass | ntGlnCe | pn
  deriving DecidableEq, Repr

def LineCnt.ix (c : LineCnt) : Nat := c.ctorIdx
def BayCnt.ix (c : BayCnt) : Nat := c.ctorIdx

/-- A 32-bit counter that saturates. -/
def sat32 (n : Nat) : Nat := min n 0xFFFFFFFF
/-- A 64-bit counter wraps. -/
def wrap64 (n : Nat) : Nat := n % 2 ^ 64

/-- The line counters of 64 bits; the others saturate at 32 bits. -/
def LineCnt.wide (c : LineCnt) : Bool :=
  match c with
  | .mxMm | .mxCold | .vxRep | .pxRep | .ccIss | .lsRd | .lsWr => true
  | _ => false
def BayCnt.wide (c : BayCnt) : Bool :=
  match c with
  | .bbRd | .bbWr | .ntRd | .ntWr | .ntFree | .pn => true
  | _ => false

def LineState.count (L : LineState) (c : LineCnt) (n : Nat := 1) : LineState :=
  let v := L.cnt.look c.ix 0 + n
  { L with cnt := L.cnt.put c.ix (if c.wide then wrap64 v else sat32 v) }
def BayState.count (b : BayState) (c : BayCnt) (n : Nat := 1) : BayState :=
  let v := b.cnt.look c.ix 0 + n
  { b with cnt := b.cnt.put c.ix (if c.wide then wrap64 v else sat32 v) }
def State.countLine (s : State) (l : Nat) (c : LineCnt) (n : Nat := 1) : State := s.updLine l fun L => L.count c n
def State.countBay (s : State) (b : Nat) (c : BayCnt) (n : Nat := 1) : State := s.updBay b fun B => B.count c n

/-! ### Time and holds -/

/-- The sc of the current cc when it is unheld, and of the next unheld cc when it is held (R38). -/
def State.sc (s : State) : Nat := s.time.cnt.scc
/-- The current cc is held: some request was active 8 cc ago (R39). -/
def State.held (s : State) : Bool := s.time.hist.getD 7 0 != 0
/-- The job runs and sc 0 has been released (R36). -/
def State.live (s : State) : Bool := s.time.running && s.time.release ≤ s.time.now
/-- The sc of the first unheld cc after the current one (R222, R366). -/
def State.nextSc (s : State) : Nat := if s.live && !s.held then s.sc + 1 else s.sc

/-- A hold request is active in the current cc (R40). -/
def HoldReq.active (r : HoldReq) (now : Nat) : Bool :=
  match r.until_ with
  | none => true
  | some e => now ≤ e
/-- The causes with a request active in the current cc, one bit each (SCH_STATUS.CAUSE, Table 2-10). -/
def State.causes (s : State) : BitVec 11 :=
  (s.time.reqs.filter fun r => r.active s.time.now).foldl (fun m r => m ||| ((1 : BitVec 11) <<< r.cause)) 0

/-- A request of cause `c` is raised by `src`, for `len` cc when the length is known (R40); each raise counts
(R47) while the job runs, from sc 0 on (R38). -/
def State.raiseHold (s : State) (c : Nat) (src : HoldSrc) (len : Option Nat) : State :=
  if len = some 0 then s else
  let s := { s with time.reqs := s.time.reqs ++ [(HoldReq.mk c src (len.map fun n => s.time.now + n - 1))] }
  if s.live then { s with time.cnt.hcEv := s.time.cnt.hcEv.upd c 0 fun n => sat32 (n + 1) } else s

/-- The requests of cause `c` by `src` are withdrawn in the current cc, which is no longer one in which they are active. -/
def State.dropHold (s : State) (c : Nat) (src : HoldSrc) : State :=
  { s with time.reqs := s.time.reqs.filter fun r => !(r.cause == c && r.src == src) }
/-- Whether `src` keeps a request of cause `c` raised. -/
def State.hasHold (s : State) (c : Nat) (src : HoldSrc) : Bool :=
  s.time.reqs.any fun r => r.cause == c && r.src == src && r.active s.time.now

/-! ### Nondeterminism counter and schedule faults -/

/-- The fault kind codes of Table 11-9. -/
inductive FaultKind where
  | tag | pcOverrun | loopNest | barMismatch | dqOverflow | dqUnderflow | region | holdTimeout | nondet
  | mxWbuf | mxFormat | mxRow | mxSpec | arithOow | arithSat | arithInv | vxVrport | vxRow | vxRrkind
  | pxIndex | pxTbuf | ccSrport | flagSw | wcNack | wcSlot | wcArm | iwUnderflow | specNest | specDepth
  | specPath | specVis | specDefer | specHarvest | flagDl | lsBank | lsAlign | lsPwr | lsSpec | lsUe | bbUe
  | bbSlice | isParity | ptPort2 | ntAlign | ntSlot | ntRsvslot | pnSlot | ntUe | grUe | grDesc | grQfull
  | fabSlot | fabLand | fabLocal | fabUse | fabPort | fabAbort | fabClk | disable
  deriving DecidableEq, Repr

def FaultKind.code : FaultKind → Nat
  | .tag => 0x01 | .pcOverrun => 0x02 | .loopNest => 0x03 | .barMismatch => 0x04
  | .dqOverflow => 0x05 | .dqUnderflow => 0x06 | .region => 0x07 | .holdTimeout => 0x08 | .nondet => 0x09
  | .mxWbuf => 0x10 | .mxFormat => 0x11 | .mxRow => 0x12 | .mxSpec => 0x13
  | .arithOow => 0x14 | .arithSat => 0x15 | .arithInv => 0x16
  | .vxVrport => 0x18 | .vxRow => 0x19 | .vxRrkind => 0x1A | .pxIndex => 0x1B | .pxTbuf => 0x1C
  | .ccSrport => 0x20 | .flagSw => 0x21 | .wcNack => 0x22 | .wcSlot => 0x23 | .wcArm => 0x24
  | .iwUnderflow => 0x25 | .specNest => 0x26 | .specDepth => 0x27 | .specPath => 0x28 | .specVis => 0x29
  | .specDefer => 0x2A | .specHarvest => 0x2B | .flagDl => 0x2C
  | .lsBank => 0x30 | .lsAlign => 0x31 | .lsPwr => 0x32 | .lsSpec => 0x33 | .lsUe => 0x34 | .bbUe => 0x35
  | .bbSlice => 0x36 | .isParity => 0x37 | .ptPort2 => 0x38 | .ntAlign => 0x39 | .ntSlot => 0x3A
  | .ntRsvslot => 0x3B | .pnSlot => 0x3C | .ntUe => 0x3D | .grUe => 0x3E | .grDesc => 0x3F | .grQfull => 0x40
  | .fabSlot => 0x48 | .fabLand => 0x49 | .fabLocal => 0x4A | .fabUse => 0x4B | .fabPort => 0x4C
  | .fabAbort => 0x4D | .fabClk => 0x4E | .disable => 0x50

/-- Bytes 4 to 5 of a fault record as an unsigned 16-bit number (Table 11-8). -/
def UnitRef.key (u : UnitRef) : Nat :=
  u.line % 512 + 512 * (u.station % 8) + 4096 * (u.task % 4) + 16384 * (if u.valid then 1 else 0)

/-- No unit: STATION 0b111, VALID 0. -/
def UnitRef.none : UnitRef := ⟨0, 7, 0, false, 0⟩
/-- A base die or engine (R476). -/
def UnitRef.engine : UnitRef := ⟨0, 6, 0, false, 0⟩

/-- The order of records of one fault (R367). -/
def FaultRec.before (a b : FaultRec) : Bool :=
  if a.kind ≠ b.kind then a.kind < b.kind
  else if a.unit.key ≠ b.unit.key then a.unit.key < b.unit.key
  else if a.detail ≠ b.detail then a.detail < b.detail
  else a.addr ≤ b.addr

/-- A record put in its place (R367). -/
def insertFault (r : FaultRec) (l : List FaultRec) : List FaultRec :=
  match l with
  | [] => [r]
  | x :: t => if x.before r then x :: insertFault r t else r :: x :: t

/-- The two units of a collision in the order of R476. -/
def orderUnits (a b : UnitRef) : UnitRef × UnitRef :=
  if !a.valid then (b, a)
  else if !b.valid then (a, b)
  else if a.key < b.key then (a, b) else if b.key < a.key then (b, a)
  else if a.pc ≤ b.pc then (a, b) else (b, a)

/-- The coordinate of the module and VALID (bytes 26 to 27 of Table 11-8). -/
def State.coord16 (s : State) : BitVec 16 := (if s.coordOk then 1#1 else 0#1) ++ s.coord

/-- A fault recorded with sc `f` (R366, R367): nothing is recorded after the first faulting sc; a record beyond 16 in the
order of R367 is counted and not kept. -/
def State.faultAt (s : State) (f : Nat) (k : FaultKind) (detail : Nat) (u : UnitRef)
    (u2 : UnitRef := UnitRef.none) (addr aux expected observed : Nat := 0) (resolve : Bool := false) : State :=
  if !s.time.running then s
  else if s.job.faultSc.any (fun g => g < f) then s
  else
    let r : FaultRec :=
      { kind := k.code, resolve := resolve, detail := detail, unit := u, sc := f, cc := s.time.cnt.cc
        expected := expected, observed := observed, coord := s.coord16, unit2 := u2, addr := addr, aux := aux
        imageId := match s.job.img with | some i => i.digest.extractLsb' 0 64 | none => 0 }
    let kept := if s.job.faultSc.any (fun g => f < g) then [] else s.job.faults
    let all := insertFault r kept
    let s := { s with job.faultSc := some f, job.faults := all.take 16
                      job.faultLost := sat32 (s.job.faultLost + (all.length - 16)) }
    if u.valid then s.updLine u.line fun L => { L with fault := true } else s

/-- A fault of a task's queue on a station in the current sc. -/
def State.faultQ (s : State) (st : Station) (l t : Nat) (k : FaultKind) (detail : Nat := 0)
    (addr aux expected observed : Nat := 0) : State :=
  s.faultAt s.sc k detail ⟨l, st.code, t, true, ((s.line l).q st t).pc⟩ UnitRef.none addr aux expected observed

/-- The features of Table 2-5. -/
inductive Feature where
  | yield | elb | dynfab | clk
  deriving DecidableEq, Repr

/-- An event of Table 2-5 (R56), and the fault of its first increment under NDC_FAULT (R57). In a restored job whose NDC is not 0 no increment is
the first (DESIGN CHOICE, log entry 96). -/
def State.countNdc (s : State) (f : Feature) (u : UnitRef) : State :=
  let first := s.time.cnt.ndc == 0
  let s := { s with time.cnt.ndc := wrap64 (s.time.cnt.ndc + 1) }
  let s := match f with
    | .yield => { s with time.cnt.ndcY := sat32 (s.time.cnt.ndcY + 1) }
    | .elb => { s with time.cnt.ndcE := sat32 (s.time.cnt.ndcE + 1) }
    | .dynfab => { s with time.cnt.ndcD := sat32 (s.time.cnt.ndcD + 1) }
    | .clk => { s with time.cnt.ndcC := sat32 (s.time.cnt.ndcC + 1) }
  if first && s.time.ctrlLoad.getLsbD 8 then s.faultAt s.sc .nondet 0 u UnitRef.none 0 f.ctorIdx else s

/-! ### Scalar registers (R208 to R210, R214) -/

/-- Key of scalar register `r` of a task. -/
def srKey (task r : Nat) : Nat := task * 64 + r % 64

/-- The value a reader in sc `x` gets: the newest write with a readable sc of `x` or less (R209). History keys are twice
the readable sc, plus 1 for a station write. -/
def histRead (h : SregHist) (x : Nat) : W64 :=
  match h with
  | [] => 0
  | (k, v) :: r => if k / 2 ≤ x then v else histRead r x

/-- A write put in its place, newest readable sc first; a station write stands over a CC write of the same
readable sc, and a later write over an earlier one of the same kind (R210). -/
def histInsert (h : SregHist) (k : Nat) (v : W64) : SregHist :=
  match h with
  | [] => [(k, v)]
  | (j, w) :: r => if j < k then (k, v) :: (j, w) :: r else if j = k then (k, v) :: r else (j, w) :: histInsert r k v

/-- The history without writes that no reader from sc `x` on can still get. -/
def histPrune (h : SregHist) (x : Nat) : SregHist :=
  match h with
  | [] => []
  | (k, v) :: r => if k / 2 ≤ x then [(k, v)] else (k, v) :: histPrune r x

/-- The scalar register as the CC reads it in sc `x`. -/
def LineState.sregAt (L : LineState) (task r x : Nat) : W64 := histRead (L.cc.sreg.look (srKey task r) []) x

/-- The scalar register as broadcast to a station in sc `x`: the CC's value two sc before (R214). -/
def LineState.broadcast (L : LineState) (task r x : Nat) : W64 :=
  if x < 2 then histRead ((L.cc.sreg.look (srKey task r) []).filter fun e => e.1 = 0) 0 else L.sregAt task r (x - 2)

/-- A write of a scalar register with readable sc `u`, issued in sc `x`. -/
def LineState.writeSreg (L : LineState) (x task r u : Nat) (v : W64) (station : Bool) : LineState :=
  { L with
    cc.sreg := L.cc.sreg.upd (srKey task r) [] fun h =>
      histPrune (histInsert h (2 * u + (if station then 1 else 0)) v) (x - 2)
    cc.stWrites := if station then (u, task) :: L.cc.stWrites else L.cc.stWrites }

/-! ### Stamped stores -/

def Stamped.at {α : Type} (v : Stamped α) (x : Nat) : α := if v.at_ < x then v.cur else v.prev
/-- A write in sc `u`: a reader in sc u gets the earlier content. -/
def Stamped.write {α : Type} (v : Stamped α) (u : Nat) (a : α) : Stamped α :=
  { cur := a, prev := if v.at_ < u then v.cur else v.prev, at_ := u }
def Stamped.of {α : Type} (a : α) : Stamped α := { cur := a, prev := a, at_ := 0 }

/-- What the block sends out. -/
def State.send (s : State) (m : Sent) : State := { s with outbox := m :: s.outbox }

end Machine
end Sys2Proof

namespace Sys2Proof.Machine

/-- The module is a C0 (Table 1-11); every other stepping code counts as B0. -/
def State.isC0 (s : State) : Bool := s.part.step == 0x20
/-- A latency in force: the native one of the stepping plus the padding (R178, R187, R213). -/
def State.lat (s : State) (b0 c0 pad : Nat) : Nat := (if s.isC0 then c0 else b0) + pad


/-! ### The module's alert summary and straps -/

/-- A bit of RCV_ALERT is set (Table 14-12); a W1C write of this cc leaves it set (R10). -/
def State.setAlert (s : State) (n : Nat) : State := { s with rcv.alert := bitOn s.rcv.alert n, rcv.alertCc := bitOn s.rcv.alertCc n }
/-- Bits of PWR_ALERT are set; a W1C write of this cc leaves them set (R10). -/
def State.powerAlert (s : State) (m : BitVec 6) : State := { s with pwr.alert := s.pwr.alert ||| m, pwr.alertCc := s.pwr.alertCc ||| m }
/-- A W1C register after a write: a bit that hardware has set in this cc ends set (R10). -/
def w1c {n : Nat} (old setNow v : BitVec n) : BitVec n := (old &&& ~~~v) ||| setNow
/-- HRV_PEND.DISABLE is 1 exactly while a bit of RCV_DISREQ or FAB_DISREQ is (R437). -/
def State.pendDisable (s : State) : State :=
  let m : BitVec 5 := if s.rcv.disreq = 0 && s.fab.disreq = 0 then 0 else 2
  { s with hrv.pend := (s.hrv.pend &&& ~~~2) ||| m }
/-- The loader region of the loaded image: the one of kind 6 with the lowest index (R478). -/
def State.loaderRegion (s : State) : Option Region := s.job.img.bind fun i => i.regions.find? fun g => g.kind = 6
/-- A host has written `n` bytes at local address `a`: the content that a later map-out takes from a touched copy is undefined (R478). -/
def State.touchCopy (s : State) (a n : Nat) : State :=
  match s.loaderRegion with
  | some g =>
    if s.time.loaded && a < g.base + g.size && g.base < a + n then
      let lo := (a - g.base) / 32768
      let hi := (min (a + n) (g.base + g.size) - 1 - g.base) / 32768
      { s with job.copyBad := (s.job.copyBad ++ (List.range (hi + 1 - lo)).map (lo + ·)).eraseDups }
    else s
  | none => s
/-- COORD_MODE 1 has been sampled: the coordinate comes from fabric discovery (R318). -/
def State.coordMode (s : State) : Bool := s.mod.sampled && s.mod.straps.coordMode == 1
/-- Every rail is up (Table 14-1, step 3). -/
def State.powered (s : State) : Bool := s.mod.rails

end Sys2Proof.Machine
end

