-- ==== Sys2Proof/Machine/Operands.lean ====
section
/-! DEFINITION. Operand forms of the stations: stream channels (R74 to R77), data queues (R105 to R109), tags (R78 to R81),
addresses (R93, R357), and results on their way to a stream, a queue or a register. -/

namespace Sys2Proof.Machine

/-- The position of a streaming station (Table 3-1). -/
def Station.pos (st : Station) : Nat := st.code

/-- The sc in which a beat written at position `p` with output sc `u` is present at position `q` (R74). -/
def presentAt (p u q : Nat) : Option Nat :=
  if p < q then (if q ≤ 4 then some (u + (q - p)) else none)
  else if p = 0 then none
  else if q = 0 then some (u + (4 - p) + 2)
  else if q < p then some (u + (4 - p) + 2 + q)
  else none

/-- Of two beats present at one point, the one written there later stands (R76). -/
def Beat.later (a b : Beat) : Beat := if b.out < a.out then a else if a.out < b.out then b else if b.issue ≤ a.issue then a else b

/-- The beat present at position `q` on channel `ch` in sc `x` (R74 to R77). -/
def LineState.beatAt (L : LineState) (ch q x : Nat) : Option Beat :=
  (L.beats.filter fun b => b.ch == ch && presentAt b.pos b.out q == some x).foldl
    (fun acc b => match acc with | none => some b | some a => some (a.later b)) none

/-- The prediction under which an instruction of a task issues in sc `x` (R239: from sc p + 1). -/
def LineState.unconf (L : LineState) (task x : Nat) : Option Nat :=
  match L.cc.preds.find task with
  | some p => if p.p < x then some task else none
  | none => none

/-- The expected tag (c - TOFF) mod 64 (R79). -/
def expTag (c : Nat) (toff : BitVec 6) : BitVec 6 := BitVec.ofNat 6 c - toff

/-- Context of one issue of an instruction: its station, queue, sc, the issue sc of the instruction and the repeat. -/
structure Ctx where
  st : Station
  l  : Nat
  t  : Nat
  x  : Nat
  c0 : Nat
  j  : Nat
  pc : Nat
  deriving DecidableEq, Repr

/-- The unit of an issue (Table 11-8). -/
def Ctx.unit (k : Ctx) : UnitRef := ⟨k.l, k.st.code, k.t, true, k.pc⟩

/-- A fault recorded by an issue or a beat in its sc. -/
def State.faultK (s : State) (k : Ctx) (f : FaultKind) (detail : Nat := 0) (addr aux expected observed : Nat := 0) : State :=
  s.faultAt k.x f detail k.unit UnitRef.none addr aux expected observed

/-- Faults of a consumed beat: unconfirmed beats of another task (R243), and whatever they are invalid beats and wrong tags (R80). -/
def State.checkBeat (s : State) (k : Ctx) (sel : Nat) (exp : BitVec 6) (tagged : Bool) (b : Option Beat) : State :=
  match b with
  | none => s.faultK k .tag 0 0 (sel % 16 + 16 * (k.j % 4096)) exp.toNat 0x40
  | some b =>
    let s := if b.unconf.any (fun u => u != k.t) then s.faultK k .specVis else s
    if !b.valid then s.faultK k .tag 0 0 (sel % 16 + 16 * (k.j % 4096)) exp.toNat 0x40
    else if tagged && b.tag != exp then
      s.faultK k .tag 0 0 (sel % 16 + 16 * (k.j % 4096)) exp.toNat b.tag.toNat
    else s

/-- The head entry of a data queue that can be dequeued in sc `x` (R106). -/
def DataQueue.ready (d : DataQueue) (x : Nat) : Option DqEntry :=
  match d.entries with
  | [] => none
  | e :: _ => if e.at_ + 2 ≤ x then some e else none

/-- Dequeue from DQn, with the faults of R107 to R109. In yield mode, which knows no underflow fault, a dequeue that R91 does not
keep from issuing (a later beat of a load or of a background transfer) takes a free beat from an empty queue (log entry 84). The dequeue
comes before the enqueue of its sc, so the occupancy of an underflow counts earlier entries. -/
def State.dequeue (s : State) (k : Ctx) (n : Nat) (exp : BitVec 6) : State × BeatData :=
  let L := s.line k.l
  let d := L.dq.look n default
  match d.ready k.x with
  | none =>
    if s.time.yield then s.freeBeat else (s.faultK k .dqUnderflow 0 0 (n + 256 * (d.entries.filter fun e => e.at_ < k.x).length), 0)
  | some e =>
    let s := s.setLine k.l { L with dq := L.dq.put n { d with entries := d.entries.tail } }
    let b : Beat := { ch := 0, pos := 0, out := 0, tag := e.tag, issue := 0, data := e.data, unconf := e.unconf, valid := true }
    (s.checkBeat k (8 + n) exp (!s.time.yield) (some b), e.data)

/-- A beat read from a stream or a data queue selector (R75, R94, R106). -/
def State.takeBeat (s : State) (k : Ctx) (sel : Nat) (toff : BitVec 6) : State × BeatData :=
  if sel < 4 then
    let b := (s.line k.l).beatAt sel (Station.pos k.st) k.x
    (s.checkBeat k sel (expTag k.c0 toff) true b, match b with | some b => b.data | none => 0)
  else s.dequeue k (sel - 8) (expTag k.c0 toff)

/-- The unconfirmed mark of the beat that a selector gives (R75, R106). -/
def State.beatMark (s : State) (k : Ctx) (sel : Nat) : Option Nat :=
  if sel < 4 then ((s.line k.l).beatAt sel (Station.pos k.st) k.x).bind (·.unconf)
  else (((s.line k.l).dq.look (sel - 8) default).ready k.x).bind (·.unconf)

/-- The scalar a station instruction reads by broadcast in its sc (R214); the CC reads its own registers. -/
def State.scalar (s : State) (k : Ctx) (r : Nat) : W64 :=
  if k.st = .cc then (s.line k.l).sregAt k.t r k.x else (s.line k.l).broadcast k.t r k.x

/-- The destination that a selector names (Table 3-4). -/
def destOf (sel : BitVec 4) (dreg : Nat) : Dest :=
  if sel.toNat < 4 then .stream sel.toNat
  else if 8 ≤ sel.toNat then .dq (sel.toNat - 8)
  else if sel.toNat = 6 then .vreg dreg
  else .none

/-- A result on its way: written at output sc `due` with the tag of its instruction (R78). -/
def State.emit (s : State) (k : Ctx) (due : Nat) (dest : Dest) (data : VecReg) (ev : BitVec 3 := 0) : State :=
  s.updLine k.l fun L =>
    { L with outs := L.outs ++ [{ st := k.st, due := due, issue := k.c0, rep := k.j, task := k.t, pc := (L.q k.st k.t).pc
                                  unconf := L.unconf k.t k.x, dest := dest, data := data, ev := ev, valid := true }] }

/-- An enqueue that is made in sc `o.due` (R106). Whether the queue was full is known at the end of the sc, after its dequeue. -/
def State.enqueue (s : State) (l : Nat) (o : PendOut) (n : Nat) : State :=
  let e : DqEntry :=
    { data := o.data.setWidth 1024, tag := BitVec.ofNat 6 o.issue, at_ := o.due, unconf := o.unconf, st := o.st, task := o.task, pc := o.pc }
  s.updLine l fun L => { L with dq := L.dq.upd n default fun d => { d with entries := d.entries ++ [e] } }

/-- The enqueues of an sc that found 32 entries after its dequeue record DQ_OVERFLOW and are lost (R107). In yield mode there is no such
fault, and the queue keeps them (log entry 84). -/
def State.dqFull (s : State) (l n : Nat) : State :=
  let d := (s.line l).dq.look n default
  if s.time.yield || d.entries.length ≤ 32 then s
  else
    (d.entries.drop 32).foldl (fun s e => s.faultAt e.at_ .dqOverflow 0 ⟨l, e.st.code, e.task, true, e.pc⟩ UnitRef.none 0 (n + 256 * 32))
      (s.updLine l fun L => { L with dq := L.dq.put n { d with entries := d.entries.take 32 } })

/-- The content of a vector register for a reader of task `t` in sc `x` (R184, Table 6-13): other tasks read the saved copy. -/
def LineState.vreg (L : LineState) (r t x : Nat) : VecReg :=
  match L.vx.copies.find r with
  | some (owner, v) => if owner = t then (L.vx.vr.look r default).at x else v
  | none => (L.vx.vr.look r default).at x

/-- A vector register written with output sc `u`; the first write under a prediction saves the earlier content. -/
def LineState.setVreg (L : LineState) (r u : Nat) (unconf : Option Nat) (v : VecReg) : LineState :=
  let old := L.vx.vr.look r default
  let L := match unconf with
    | some t => if (L.vx.copies.find r).isSome then L
                else { L with vx.copies := L.vx.copies.put r (t, old.at (u + 1)) }
    | none => L
  { L with vx.vr := L.vx.vr.put r (old.write u v) }

/-- Part `p` (128 bytes) of a vector register replaced (R180). -/
def setPart (v : VecReg) (p : Nat) (b : BeatData) : VecReg :=
  BitVec.ofNat 4096 (ofLanes 1024 ((List.range 4).map fun i => if i = p then b else v.extractLsb' (1024 * i) 1024))
/-- Part `p` of a vector register. -/
def getPart (v : VecReg) (p : Nat) : BeatData := v.extractLsb' (1024 * p) 1024

/-- A result reaches its destination (R74, R106, R184, R204). -/
def State.land (s : State) (l : Nat) (o : PendOut) : State :=
  match o.dest with
  | .none => s
  | .stream ch =>
    s.updLine l fun L =>
      { L with beats := { ch := ch, pos := Station.pos o.st, out := o.due, tag := BitVec.ofNat 6 o.issue, issue := o.issue
                          data := o.data.setWidth 1024, unconf := o.unconf, valid := o.valid } ::
                        L.beats.filter fun b => o.due ≤ b.out + 8 }
  | .dq n => if o.valid then s.enqueue l o n else s
  | .vreg r => if o.valid then s.updLine l fun L => L.setVreg r o.due o.unconf o.data else s
  | .vpart r p =>
    if o.valid then s.updLine l fun L =>
      L.setVreg r o.due o.unconf (setPart ((L.vx.vr.look r default).at (o.due + 1)) p (o.data.setWidth 1024)) else s
  | .tbRow tb row =>
    if o.valid then s.updLine l fun L =>
      { L with px.tb := L.px.tb.upd (tb * 128 + row) default fun v => v.write o.due (o.data.setWidth 1024) } else s

/-- The results of one line that a station writes in sc `x` or should have written before, in issue order, and the others. -/
def LineState.dueOuts (L : LineState) (st : Station) (x : Nat) : List PendOut × List PendOut :=
  L.outs.partition fun o => o.st == st && o.due ≤ x

/-! ### Addresses (R93, R357) -/

/-- `AR[ARN]` and `STRIDE[ARN]` of a queue. -/
def QState.arOf (q : QState) (n : Nat) : BitVec 40 := q.ar.look n 0
def QState.strideOf (q : QState) (n : Nat) : BitVec 40 := q.stride.look n 0

/-- The offset of repeat `j`: AR + OFFSET + j × STRIDE modulo 2^40, read as unsigned (R93, R357). -/
def repOffset (base stride : BitVec 40) (offset : BitVec 21) (j : Nat) : Nat :=
  (base + offset.signExtend 40 + BitVec.ofNat 40 j * stride).toNat

/-- The region of an index in the loaded image (R356). -/
def State.region (s : State) (r : Nat) : Region := match s.job.img with | some i => i.regions.getD r default | none => default

/-- The access lies within the region (R357). -/
def Region.allows (g : Region) (kind : Nat) (write : Bool) (x : Nat) : Bool :=
  g.kind == kind && (if write then g.w else g.r) && x + 128 ≤ g.size

/-- Region index, offset and the address BASE + x, or the REGION fault of R357. -/
def State.locate (s : State) (k : Ctx) (r kind : Nat) (write : Bool) (x : Nat) : State × Option Nat :=
  let g := s.region r
  if g.allows kind write x then (s, some (g.base + x)) else (s.faultK k .region r x r, none)

end Sys2Proof.Machine
end

