-- ==== Sys2Proof/Machine/Fp.lean ====
section
/-! DEFINITION. Number formats and FP32 arithmetic (R112 to R119, R133 to R137): values are exact dyadic numbers, and every
result is rounded once. -/

namespace Sys2Proof.Machine

/-- An element format (Table 4-1). -/
inductive EFmt where
  | fp32 | bf16 | fp16 | fp64 | e4m3 | e5m2 | e2m3 | e3m2 | e2m1
  deriving DecidableEq, Repr

def EFmt.ebits : EFmt → Nat
  | .fp32 => 8 | .bf16 => 8 | .fp16 => 5 | .fp64 => 11 | .e4m3 => 4 | .e5m2 => 5 | .e2m3 => 2 | .e3m2 => 3 | .e2m1 => 2
def EFmt.mbits : EFmt → Nat
  | .fp32 => 23 | .bf16 => 7 | .fp16 => 10 | .fp64 => 52 | .e4m3 => 3 | .e5m2 => 2 | .e2m3 => 3 | .e3m2 => 2 | .e2m1 => 1
def EFmt.bias : EFmt → Int
  | .fp32 => 127 | .bf16 => 127 | .fp16 => 15 | .fp64 => 1023 | .e4m3 => 7 | .e5m2 => 15 | .e2m3 => 1 | .e3m2 => 3 | .e2m1 => 1
def EFmt.bits (f : EFmt) : Nat := 1 + f.ebits + f.mbits
/-- E all ones holds infinity and NaN as in IEEE 754. -/
def EFmt.ieee : EFmt → Bool
  | .fp32 | .bf16 | .fp16 | .fp64 | .e5m2 => true
  | _ => false
/-- The canonical NaN (R118, R124, Table 4-9); a format without NaN answers +0. -/
def EFmt.nan : EFmt → Nat
  | .fp32 => 0x7FC00000 | .bf16 => 0x7FC0 | .fp16 => 0x7E00 | .fp64 => 0x7FF8000000000000
  | .e4m3 => 0x7F | .e5m2 => 0x7F | _ => 0
/-- Code of the largest finite magnitude (Table 4-1). -/
def EFmt.maxCode (f : EFmt) : Nat :=
  match f with
  | .e4m3 => 0x7E
  | .e2m3 | .e3m2 | .e2m1 => 2 ^ (f.ebits + f.mbits) - 1
  | f => (2 ^ f.ebits - 1) * 2 ^ f.mbits - 1
/-- Exponent of the least subnormal. -/
def EFmt.emin (f : EFmt) : Int := 1 - f.bias - f.mbits

/-- An exact value: (-1)^neg × m × 2^e when finite. -/
inductive Val where
  | nan
  | inf (neg : Bool)
  | fin (neg : Bool) (m : Nat) (e : Int)
  deriving DecidableEq, Repr

/-- The value of a code (R113). -/
def EFmt.decode (f : EFmt) (c : Nat) : Val :=
  let neg := c / 2 ^ (f.ebits + f.mbits) % 2 = 1
  let e := c / 2 ^ f.mbits % 2 ^ f.ebits
  let m := c % 2 ^ f.mbits
  if f.ieee && e = 2 ^ f.ebits - 1 then (if m = 0 then .inf neg else .nan)
  else if f = .e4m3 && e = 15 && m = 7 then .nan
  else if e = 0 then .fin neg m f.emin
  else .fin neg (m + 2 ^ f.mbits) (f.emin + (e - 1 : Nat))

/-- Rounding modes (R131, R142). -/
inductive Rnd where
  | rne | rtz | sr (u : Nat)
  deriving DecidableEq, Repr

/-- `m / 2^d` rounded to an integer: to nearest even, toward zero, or stochastically with the word u (R142). -/
def roundShift (r : Rnd) (m d : Nat) : Nat :=
  let hi := m / 2 ^ d
  let lo := m % 2 ^ d
  match r with
  | .rne => if 2 * lo < 2 ^ d then hi else if 2 ^ d < 2 * lo then hi + 1 else hi + hi % 2
  | .rtz => hi
  | .sr u => if lo = 0 then hi else if u < 2 ^ 32 * lo / 2 ^ d then hi + 1 else hi

/-- What a finite value beyond the largest finite becomes (Table 4-9). -/
inductive Over where
  | inf | sat
  deriving DecidableEq, Repr

/-- A finite magnitude m × 2^e rounded to format f: the code without sign, and whether it saturated. Whether it lies beyond the largest finite value
(Table 4-9) is judged after rounding (DEDUCED, log entry 98). -/
def EFmt.encodeMag (f : EFmt) (r : Rnd) (o : Over) (m : Nat) (e : Int) : Nat × Bool :=
  if m = 0 then (0, false)
  else
    let q := max (e + (Nat.log2 m : Int) - f.mbits) f.emin
    let n := if q ≤ e then m * 2 ^ (e - q).toNat else roundShift r m (q - e).toNat
    -- the code of n × 2^q: a carry out of the fraction moves into the exponent field by itself
    let code := n + (q - f.emin).toNat * 2 ^ f.mbits
    if code ≤ f.maxCode then (code, false)
    else match o with
      | .inf => if r = .rtz then (f.maxCode, false) else ((2 ^ f.ebits - 1) * 2 ^ f.mbits, false)
      | .sat => (f.maxCode, true)

/-- A value converted to format f; `infSat` says that an infinity becomes the largest finite (Table 4-9). The second part
says that the conversion saturated, the third that it is invalid (a NaN into a format without NaN). -/
def EFmt.encode (f : EFmt) (r : Rnd) (o : Over) (infSat : Bool) (v : Val) : Nat × Bool × Bool :=
  let sgn (neg : Bool) : Nat := if neg then 2 ^ (f.ebits + f.mbits) else 0
  match v with
  | .nan => (f.nan, false, !(f.ieee || f == .e4m3))
  | .inf neg => if infSat then (sgn neg + f.maxCode, true, false) else (sgn neg + (2 ^ f.ebits - 1) * 2 ^ f.mbits, false, false)
  | .fin neg m e => let (c, s) := f.encodeMag r o m e; (sgn neg + c, s, false)

/-- An exact value as an FP32 code under round-to-nearest-even (R118). -/
def fp32Of (v : Val) : W32 := BitVec.ofNat 32 (EFmt.fp32.encode .rne .inf false v).1
def fp32Val (c : W32) : Val := EFmt.fp32.decode c.toNat

def Val.negate : Val → Val
  | .nan => .nan | .inf n => .inf (!n) | .fin n m e => .fin (!n) m e
def Val.isNan : Val → Bool
  | .nan => true | _ => false
def Val.isZero : Val → Bool
  | .fin _ 0 _ => true | _ => false
def Val.neg : Val → Bool
  | .nan => false | .inf n => n | .fin n _ _ => n
/-- A finite value as a signed integer at exponent `q`, exact when q is at most its exponent. -/
def Val.scaled (v : Val) (q : Int) : Int :=
  match v with
  | .fin n m e => if n then -((m * 2 ^ (e - q).toNat : Nat) : Int) else ((m * 2 ^ (e - q).toNat : Nat) : Int)
  | _ => 0
/-- The exact value i × 2^q; zero takes the sign given. -/
def Val.ofInt (i : Int) (q : Int) (zneg : Bool) : Val := if i = 0 then .fin zneg 0 q else .fin (i < 0) i.natAbs q

/-- Exact sum (before rounding); the sign of a zero sum follows IEEE 754 under round-to-nearest (R118). -/
def Val.add (a b : Val) : Val :=
  match a, b with
  | .nan, _ => .nan
  | _, .nan => .nan
  | .inf x, .inf y => if x = y then .inf x else .nan
  | .inf x, _ => .inf x
  | _, .inf y => .inf y
  | .fin nx mx ex, .fin ny my ey =>
    let q := min ex ey
    Val.ofInt ((Val.fin nx mx ex).scaled q + (Val.fin ny my ey).scaled q) q (nx && ny && mx == 0 && my == 0)

/-- Exact product. -/
def Val.mul (a b : Val) : Val :=
  match a, b with
  | .nan, _ => .nan
  | _, .nan => .nan
  | .inf x, .inf y => .inf (x != y)
  | .inf x, .fin y m _ => if m = 0 then .nan else .inf (x != y)
  | .fin x m _, .inf y => if m = 0 then .nan else .inf (x != y)
  | .fin x m e, .fin y n f => .fin (x != y) (m * n) (e + f)

/-- Strict order of IEEE 754; false with a NaN, zeros equal. -/
def Val.lt (a b : Val) : Bool :=
  match a, b with
  | .nan, _ => false
  | _, .nan => false
  | .inf x, .inf y => x && !y
  | .inf x, _ => x
  | _, .inf y => !y
  | .fin _ _ ex, .fin _ _ ey => a.scaled (min ex ey) < b.scaled (min ex ey)

/-- Equality of IEEE 754. -/
def Val.eq (a b : Val) : Bool := !a.isNan && !b.isNan && !a.lt b && !b.lt a

def fadd (a b : W32) : W32 := fp32Of ((fp32Val a).add (fp32Val b))
def fsub (a b : W32) : W32 := fp32Of ((fp32Val a).add (fp32Val b).negate)
def fmul (a b : W32) : W32 := fp32Of ((fp32Val a).mul (fp32Val b))
def ffma (a b c : W32) : W32 := fp32Of (((fp32Val a).mul (fp32Val b)).add (fp32Val c))
def fneg (a : W32) : W32 := if (fp32Val a).isNan then 0x7FC00000 else a ^^^ 0x80000000
def fabs' (a : W32) : W32 := if (fp32Val a).isNan then 0x7FC00000 else a &&& 0x7FFFFFFF
/-- The order of MIN and MAX: -0 is less than +0 (Table 6-5). -/
def fltTotal (a b : W32) : Bool :=
  let x := fp32Val a
  let y := fp32Val b
  if x.isZero && y.isZero then x.neg && !y.neg else x.lt y
def fmin (a b : W32) : W32 :=
  if (fp32Val a).isNan || (fp32Val b).isNan then 0x7FC00000 else if fltTotal b a then b else a
def fmax (a b : W32) : W32 :=
  if (fp32Val a).isNan || (fp32Val b).isNan then 0x7FC00000 else if fltTotal a b then b else a

/-- A value as an integer of `w` bits, two's complement: rounded, saturated; NaN gives 0 (Table 4-9). The second part says
that it saturated, the third that it was invalid. -/
def toInt (w : Nat) (r : Rnd) (v : Val) : Int × Bool × Bool :=
  let hi : Int := 2 ^ (w - 1) - 1
  let lo : Int := -(2 ^ (w - 1))
  match v with
  | .nan => (0, false, true)
  | .inf n => (if n then lo else hi, true, false)
  | .fin n m e =>
    let k : Nat := if 0 ≤ e then m * 2 ^ e.toNat else roundShift r m (-e).toNat
    let i : Int := if n then -(k : Int) else k
    if hi < i then (hi, true, false) else if i < lo then (lo, true, false) else (i, false, false)

/-- An integer as an exact value. -/
def Val.int (i : Int) : Val := Val.ofInt i 0 false

/-! ### Correctly rounded functions (R133)

A result is found in fixed point with `p` fraction bits and an error bound; when both ends of the interval round to one FP32
code, that code is the answer, else the precision grows. -/

/-- floor(ln 2 × 2^320). -/
def ln2Fix : Nat := 1480553391661173448385607439722553250922680800745876974795605978609098082859138712941075737848984
/-- floor(π × 2^320). -/
def piFix : Nat := 6710401180212168915155840974220003240804194089427148950727106424351713218671805380099500388914039

/-- Integer square root by Newton's method from above. -/
def isqrtGo (fuel n x : Nat) : Nat :=
  match fuel with
  | 0 => x
  | f + 1 => let y := (x + n / x) / 2; if y < x then isqrtGo f n y else x
/-- floor(√n). -/
def isqrt (n : Nat) : Nat := if n = 0 then 0 else isqrtGo 400 n (2 ^ ((Nat.log2 n) / 2 + 1))

/-- Σ t^k / k! in fixed point, for 0 ≤ t < 1. -/
def expGo (fuel p t term k acc : Nat) : Nat :=
  match fuel with
  | 0 => acc
  | f + 1 => if term = 0 then acc else expGo f p t (term * t / 2 ^ p / k) (k + 1) (acc + term)
/-- e^t × 2^p with t × 2^p given. -/
def expFix (p t : Nat) : Nat := expGo 120 p t (2 ^ p) 1 0

/-- Σ z^(2k+1)/(2k+1) in fixed point. -/
def atanhGo (fuel p z2 pow k acc : Nat) : Nat :=
  match fuel with
  | 0 => acc
  | f + 1 => if pow = 0 then acc else atanhGo f p z2 (pow * z2 / 2 ^ p) (k + 2) (acc + pow / k)
/-- ln(m / 2^l) × 2^p for 2^l ≤ m < 2^(l+1). -/
def lnFix (p m l : Nat) : Nat :=
  let z := (m - 2 ^ l) * 2 ^ p / (m + 2 ^ l)
  2 * atanhGo 200 p (z * z / 2 ^ p) z 1 0

/-- Alternating series of sine (k = 1, pow = x) and cosine (k = 0, pow = 1): Σ (-1)^i x^(2i+k)/(2i+k)!. -/
def sinGo (fuel p x2 term k : Nat) (neg : Bool) (acc : Int) : Int :=
  match fuel with
  | 0 => acc
  | f + 1 =>
    if term = 0 then acc
    else sinGo f p x2 (term * x2 / 2 ^ p / ((k + 1) * (k + 2))) (k + 2) (!neg) (if neg then acc - term else acc + term)

/-- The FP32 code of a value known to lie within `err` units of v × 2^(-p), shifted by 2^sh, when both ends agree. -/
def settle (neg : Bool) (v err p : Nat) (sh : Int) : Option W32 :=
  let a := fp32Of (.fin neg (v - err) (sh - p))
  let b := fp32Of (.fin neg (v + err) (sh - p))
  if a = b then some a else none

/-- The first precision at which the result settles; at the last, the middle of the interval. -/
def firstSettled (l : List Nat) (f : Nat → Bool × Nat × Nat × Int) : W32 :=
  match l with
  | [] => 0
  | [p] => let (n, v, _, sh) := f p; fp32Of (.fin n v (sh - p))
  | p :: r => let (n, v, err, sh) := f p; match settle n v err p sh with | some c => c | none => firstSettled r f

def precisions : List Nat := [96, 160, 240, 300]

/-- exp2 (R133, Table 4-10). -/
def fexp2 (a : W32) : W32 :=
  match fp32Val a with
  | .nan => 0x7FC00000
  | .inf n => if n then 0 else 0x7F800000
  | .fin n m e =>
    if m = 0 then 0x3F800000
    else if 0 < e + (Nat.log2 m : Int) - 8 then (if n then 0 else 0x7F800000)
    else if e + (Nat.log2 m : Int) < -40 then 0x3F800000
    else
      -- x = i + f with 0 ≤ f < 1, all at exponent min e 0
      let q := min e 0
      let x : Int := (Val.fin n m e).scaled q
      let d : Int := 2 ^ (-q).toNat
      let i := x / d
      let f := (x % d).toNat
      if f = 0 then fp32Of (.fin false 1 i)
      else firstSettled precisions fun p =>
        let t := (f * 2 ^ p / 2 ^ (-q).toNat) * (ln2Fix / 2 ^ (320 - p)) / 2 ^ p
        (false, expFix p t, 400, i)

/-- log2 (R133, Table 4-10). -/
def flog2 (a : W32) : W32 :=
  match fp32Val a with
  | .nan => 0x7FC00000
  | .inf n => if n then 0x7FC00000 else 0x7F800000
  | .fin n m e =>
    if m = 0 then 0xFF800000
    else if n then 0x7FC00000
    else
      let l := Nat.log2 m
      let k : Int := e + l
      if m = 2 ^ l then fp32Of (.int k)
      else firstSettled precisions fun p =>
        let y := lnFix p m l * 2 ^ p / (ln2Fix / 2 ^ (320 - p))
        let v : Int := k * 2 ^ p + y
        (v < 0, v.natAbs, 600, 0)

/-- A quotient a / b with a sticky bit below 80 bits of quotient, times 2^e. -/
def divVal (neg : Bool) (a b : Nat) (e : Int) : Val :=
  let sh := 80 + Nat.log2 b
  let x := a * 2 ^ sh / b
  .fin neg (2 * x + (if a * 2 ^ sh % b = 0 then 0 else 1)) (e - sh - 1)

/-- rcp (R133, Table 4-10). -/
def frcp (a : W32) : W32 :=
  match fp32Val a with
  | .nan => 0x7FC00000
  | .inf n => if n then 0x80000000 else 0
  | .fin n m e => if m = 0 then (if n then 0xFF800000 else 0x7F800000) else fp32Of (divVal n 1 m (-e))

/-- A square root of m × 2^e with a sticky bit. -/
def sqrtVal (m : Nat) (e : Int) : Val :=
  let m2 := if e % 2 = 0 then m else 2 * m
  let e2 := if e % 2 = 0 then e else e - 1
  let n := m2 * 2 ^ 160
  let r := isqrt n
  .fin false (2 * r + (if r * r = n then 0 else 1)) (e2 / 2 - 80 - 1)

def fsqrt (a : W32) : W32 :=
  match fp32Val a with
  | .nan => 0x7FC00000
  | .inf n => if n then 0x7FC00000 else 0x7F800000
  | .fin n m e => if m = 0 then (if n then 0x80000000 else 0) else if n then 0x7FC00000 else fp32Of (sqrtVal m e)

/-- 1 / √x: √(2^600 / x) in integers with a sticky bit. -/
def frsqrt (a : W32) : W32 :=
  match fp32Val a with
  | .nan => 0x7FC00000
  | .inf n => if n then 0x7FC00000 else 0
  | .fin n m e =>
    if m = 0 then (if n then 0xFF800000 else 0x7F800000)
    else if n then 0x7FC00000
    else
      let m2 := if e % 2 = 0 then m else 2 * m
      let e2 := if e % 2 = 0 then e else e - 1
      let q := 2 ^ 240 / m2
      let r := isqrt q
      fp32Of (.fin false (2 * r + (if r * r = q && 2 ^ 240 % m2 = 0 then 0 else 1)) (-(e2 / 2) - 120 - 1))

/-! ### Composed functions (R134, Table 4-11) -/

def cLE : W32 := 0x3FB8AA3B
def cLN2 : W32 := 0x3F317218
def cRS2 : W32 := 0x3F3504F3
def cOne : W32 := 0x3F800000
/-- The FP32 value nearest to a decimal n / 10^k. -/
def fp32Dec (neg : Bool) (n k : Nat) : W32 := fp32Of (divVal neg n (10 ^ k) 0)

def fexp (x : W32) : W32 := fexp2 (fmul x cLE)
def fln (x : W32) : W32 := fmul (flog2 x) cLN2
def fsigm (x : W32) : W32 := frcp (fadd cOne (fexp2 (fmul (fneg x) cLE)))
def copysign (x y : W32) : W32 := if (fp32Val x).isNan then 0x7FC00000 else (x &&& 0x7FFFFFFF) ||| (y &&& 0x80000000)
def ftanh (x : W32) : W32 :=
  if (fp32Val x).isNan then 0x7FC00000
  else if (fp32Val (fabs' x)).lt (.fin false 1 (-8)) then ffma (fmul (fmul x x) (fneg 0x3EAAAAAB)) x x
  else
    let t := frcp (fadd cOne (fexp2 (fmul (fmul 0x40000000 (fabs' x)) cLE)))
    copysign (ffma 0xC0000000 t cOne) x
def ferf (x : W32) : W32 :=
  if (fp32Val x).isNan then 0x7FC00000
  else
    let z := fabs' x
    let t := frcp (ffma (fp32Dec false 3275911 7) z cOne)
    let q := ffma (ffma (ffma (ffma (fp32Dec false 1061405429 9) t (fp32Dec true 1453152027 9)) t
      (fp32Dec false 1421413741 9)) t (fp32Dec true 284496736 9)) t (fp32Dec false 254829592 9)
    let q := fmul q t
    let g := fexp2 (fmul (fmul (fneg z) z) cLE)
    copysign (ffma (fneg q) g cOne) x
def fgelu (x : W32) : W32 := fmul (fmul x 0x3F000000) (fadd cOne (ferf (fmul x cRS2)))

/-! ### Rotary angles (R136, R137) -/

/-- sin(2π r / 2^40) for 0 < r ≤ 2^38, positive, correctly rounded; r = 2^38 gives 1. -/
def sinTurn (r : Nat) : W32 :=
  if r = 2 ^ 38 then cOne
  else firstSettled precisions fun p =>
    let x := 2 * r * (piFix / 2 ^ (320 - p)) / 2 ^ 40
    let x2 := x * x / 2 ^ p
    (false, (sinGo 120 p x2 x 1 false 0).toNat, 400, 0)

/-- sin of the phase φ / 2^40 turns, by quadrant; an exact zero takes the sign given. -/
def sinPhase (phi : Nat) (zneg : Bool) : W32 :=
  let h := phi % 2 ^ 39
  let neg := 2 ^ 39 ≤ phi
  if h = 0 then (if zneg then 0x80000000 else 0)
  else
    let r := if h ≤ 2 ^ 38 then h else 2 ^ 39 - h
    sinTurn r ||| (if neg then 0x80000000 else 0)

/-- c and s of R136. The sign of a zero other than s at φ = 0 is a free value (log entry 9). -/
def rotary (p f : Nat) : W32 × W32 :=
  let phi := p * f % 2 ^ 40
  let c := sinPhase ((phi + 2 ^ 38) % 2 ^ 40) (Config.zeroSign phi)
  let s := sinPhase phi (if phi = 0 then false else Config.zeroSign phi)
  (c, s)

/-- The rotation of a pair (R137). -/
def rotate (x0 x1 c s : W32) : W32 × W32 := (ffma x0 c (fneg (fmul x1 s)), ffma x1 c (fmul x0 s))

end Sys2Proof.Machine
end

