-- ==== Sys2Proof/Machine/Sheaf.lean ====
section
/-! DEFINITION. Sheafs and their terms (R120 to R128), sheaf beats (R125), element values of the MX formats (R114 to R117). -/

namespace Sys2Proof.Machine

/-- A cleared sheaf (R120). -/
def Sheaf.cleared : Sheaf := ⟨0, 0, false⟩

/-- A finite value divided by 2^A and rounded half to even (R121). -/
def roundAt (a : Int) (v : Val) : Int :=
  match v with
  | .fin n m e =>
    let k : Nat := if a ≤ e then m * 2 ^ (e - a).toNat else roundShift .rne m (a - e).toNat
    if n then -(k : Int) else k
  | _ => 0

/-- |v| > 2^(A + 119), compared exactly (R121). -/
def outOfWindow (a : Int) (v : Val) : Bool :=
  match v with
  | .fin _ m e =>
    let t := a + 119
    if t ≤ e then 1 < m * 2 ^ (e - t).toNat else 2 ^ (t - e).toNat < m
  | _ => false

/-- add_term of R121. -/
def Sheaf.addTerm (s : Sheaf) (v : Val) (a : Int) : Sheaf :=
  match v with
  | .nan => { s with st := s.st ||| 3 }
  | .inf false => { s with st := s.st ||| 1 }
  | .inf true => { s with st := s.st ||| 2 }
  | .fin n m e =>
    if outOfWindow a (.fin n m e) then { s with oow := true }
    else { s with v := s.v + BitVec.ofInt 144 (roundAt a (.fin n m e)) }

/-- The sum of two sheafs of one anchor (R126). -/
def Sheaf.add (x y : Sheaf) : Sheaf := ⟨x.v + y.v, x.st ||| y.st, x.oow || y.oow⟩

/-- read_sheaf of R124: the code and whether SAT is reported. -/
def Sheaf.read (s : Sheaf) (a : Int) (f : EFmt) : Nat × Bool :=
  if s.st = 3 then (f.nan, false)
  else if s.st = 1 then ((f.encode .rne .inf false (.inf false)).1, false)
  else if s.st = 2 then ((f.encode .rne .inf false (.inf true)).1, false)
  else
    let r := f.encode .rne .sat true (Val.ofInt s.v.toInt a false)
    (r.1, r.2.1)

/-- A sheaf beat of up to seven sheafs (Table 4-4). -/
def sheafBeat (l : List Sheaf) : BeatData :=
  let l := (l ++ List.replicate 7 Sheaf.cleared).take 7
  let vs := ofLanes 144 (l.map (·.v))
  let sts := ofLanes 2 (l.map (·.st))
  let oow := if l.any (·.oow) then 1 else 0
  BitVec.ofNat 1024 (vs + 2 ^ 1008 * (sts + 2 ^ 14 * oow))

/-- The seven sheafs of a sheaf beat; each takes the flag of its group (R125). -/
def beatSheafs (b : BeatData) : List Sheaf :=
  (List.range 7).map fun k => ⟨b.extractLsb' (144 * k) 144, b.extractLsb' (1008 + 2 * k) 2, b.getLsbD 1022⟩

/-- The sum of two sheaf beats (R126). -/
def addSheafBeats (x y : BeatData) : BeatData :=
  sheafBeat (((beatSheafs x).zip (beatSheafs y)).map fun p => p.1.add p.2)

/-! ### MX format codes (Table 5-1) -/

/-- Classes of MX formats (Table 5-1). -/
inductive MxClass where
  | c8 | c6 | c4 | c16
  deriving DecidableEq, Repr

def mxClass (f : Nat) : MxClass :=
  match f with
  | 0x2 | 0x3 | 0xA | 0xB => .c6
  | 0x4 | 0xC => .c4
  | 0x6 | 0x7 => .c16
  | _ => .c8

/-- Bits per element in a beat. -/
def MxClass.width : MxClass → Nat
  | .c8 => 8 | .c6 => 8 | .c4 => 4 | .c16 => 16
/-- K per activation beat (Table 5-2). -/
def MxClass.k : MxClass → Nat
  | .c8 => 128 | .c6 => 128 | .c4 => 256 | .c16 => 64

/-- The value of an element code of an MX format code (R113, R114, R116). -/
def mxElem (f : Nat) (c : Nat) : Val :=
  match f with
  | 0x0 | 0x8 => EFmt.e4m3.decode c
  | 0x1 | 0x9 => EFmt.e5m2.decode c
  | 0x2 | 0xA => EFmt.e2m3.decode (c % 64)
  | 0x3 | 0xB => EFmt.e3m2.decode (c % 64)
  | 0x4 | 0xC => EFmt.e2m1.decode c
  | 0x6 => EFmt.bf16.decode c
  | 0x7 => EFmt.fp16.decode c
  | 0xD => let i := (BitVec.ofNat 8 c).toInt; Val.ofInt i (-6) false
  | _ => let i := (BitVec.ofNat 8 c).toInt; Val.ofInt i 0 false

/-- A value times its block scale 2^(c - 127); scale code 0xFF makes it NaN (R117). -/
def scaleVal (v : Val) (c : Nat) : Val :=
  if c = 255 then .nan
  else match v with
    | .fin n m e => .fin n m (e + ((c : Int) - 127))
    | v => v

/-- Element `k` of an activation beat of format `f` (Table 5-2). -/
def actElem (f : Nat) (b : BeatData) (k : Nat) : Nat := b.toNat / 2 ^ ((mxClass f).width * k) % 2 ^ (mxClass f).width

/-- Weight code w(k, n) of a tile of 128 beats (Table 5-2). -/
def weightCode (f : Nat) (tile : List BeatData) (k n : Nat) : Nat :=
  match mxClass f with
  | .c4 =>
    let b := tile.getD (k / 2) 0
    b.toNat / 2 ^ (512 * (k % 2) + 4 * n) % 16
  | .c16 =>
    let b := tile.getD (2 * k + n / 64) 0
    b.toNat / 2 ^ (16 * (n % 64)) % 65536
  | _ => (tile.getD k 0).toNat / 2 ^ (8 * n) % 256

/-- Weight scale of block `b` of column `n`: byte n of scale beat b (R157). -/
def weightScale (scales : List BeatData) (b n : Nat) : Nat := (scales.getD b 0).toNat / 2 ^ (8 * n) % 256

/-- Format pairs that MX.MM accepts (R150). -/
def mxPair (a w : Nat) : Bool :=
  mxFmtOk a && mxFmtOk w && mxScaled a == mxScaled w &&
  ((a < 2 && w < 2) || ((a = 8 || a = 9) && (w = 8 || w = 9)) || (a = w && a ≠ 0 && a ≠ 1 && a ≠ 8 && a ≠ 9))

end Sys2Proof.Machine
end

