-- ==== Sys2Proof/Machine/Ramp.lean ====
section
/-! DEFINITION. The ramp weights of Table 13-5 and the current that instructions draw (R411, R421). Currents are in units of 10 mA. -/

namespace Sys2Proof.Machine

/-- Weight of MX.MM per sc by class: 0.38, 0.44, 0.27 A. -/
def mmWeight (f : Nat) : Nat := match mxClass f with | .c4 => 44 | .c16 => 27 | _ => 38

/-- What a repeat in sc c draws: in sc c + lo to c + hi. -/
def rampWeight (i : Instr) : Nat × Nat × Nat :=
  match i with
  | .mxMm _ w => (2, 9, mmWeight (w.fld 8 4))
  | .mxLw _ _ => (0, 127, 27)
  | .mxAclr _ _ | .mxSwap _ _ | .mxAnchor _ _ | .mxRdreg _ _ => (0, 0, 32)
  | .vxAccrd _ _ => (0, 0, 59)
  | .vxOp _ _ | .vxFma _ _ | .vxSel _ _ => (0, 0, 69)
  | .vxFn _ _ => (0, 0, 86)
  | .vxCvt _ _ | .vxDrop _ _ | .vxRope _ _ | .vxRfld _ _ => (0, 0, 54)
  | .vxSumm _ _ | .vxRclr _ _ | .vxRacc _ _ | .vxRrd _ _ | .vxF64s _ _ => (0, 0, 51)
  | .pxTr _ _ => (0, 0, 43)
  | .pxTld _ _ | .pxTrd _ _ | .pxGath _ _ | .pxScat _ _ | .pxCmpx _ _ | .pxLperm _ _ | .pxPk6 _ _ | .pxUp6 _ _ => (0, 0, 35)
  | .lsRd _ _ | .lsWr _ _ | .lsFill _ _ => (0, 0, 20)
  | .lsCopy _ _ => (0, 0, 34)
  | .ptGet _ _ | .ptPut _ _ | .ptBget _ _ | .ptBput _ _ | .ptNget _ _ | .ptNput _ _ | .ptSend _ _ | .ptGmv _ _ => (0, 0, 25)
  | .ptFget _ _ | .ptFput _ _ => (0, 0, 25)
  | .ccOp _ _ | .ccLi _ _ | .ccLih _ _ | .ccBr _ _ | .ccBrResolve _ _ | .ccPredict _ _ | .ccSet _ _ | .ccClr _ _ => (0, 0, 7)
  | .ccWait _ _ | .ccWaitc _ _ | .ccWaitl _ _ | .ccHarvest _ _ | .ccWsend _ _ | .ccWrecv _ _ | .ccWarm _ _ => (0, 0, 7)
  | .ccSrrd _ _ | .ccElbAdd _ _ | .ccElbRead _ _ | .ccElbReadv _ _ => (0, 0, 7)
  | _ => (0, 0, 0)

/-- A background transfer: its beats move whatever the rotation gives (R284). -/
def isBackground (i : Instr) : Bool :=
  match i with | .ptBget _ _ | .ptBput _ _ | .ptNget _ _ | .ptNput _ _ => true | _ => false

/-- Current drawn from sc x on, the current sc first. -/
def addDraw (l : List Nat) (lo n w : Nat) : List Nat :=
  match lo, n, l with
  | _, 0, l => l
  | 0, n + 1, [] => w :: addDraw [] 0 n w
  | 0, n + 1, a :: r => (a + w) :: addDraw r 0 n w
  | k + 1, n, [] => 0 :: addDraw [] k n w
  | k + 1, n, a :: r => a :: addDraw r k n w

/-- What one repeat, or one beat of a background transfer, of `i` that issues in the current sc adds to its bay's current (R421). -/
def LineState.drawn (L : LineState) (i : Instr) : LineState :=
  let (lo, hi, w) := rampWeight i
  if w = 0 then L else { L with draw := addDraw L.draw lo (hi + 1 - lo) w }

end Sys2Proof.Machine
end

