-- ==== Sys2Proof/Machine/Common.lean ====
section
/-! DEFINITION. Issue of station queues (R83 to R91), program counters and hardware loops (R85, R98 to R102), barriers
(R103, R104), and the common instructions of Table 3-5. -/

namespace Sys2Proof.Machine

/-- What an ill-formed word does: nothing of the manual gives it an effect (R92). -/
def stuck : Host.Outcome State Fault Refusal := .fault .refusedAtLoad

/-- Rotation entry of an sc (R87): 18 bits, three per station. -/
def LineState.rotEntry (L : LineState) (x : Nat) : BitVec 18 := L.rot.look (x % max 1 L.rotLen) 0
/-- The task for which a station issues in sc `x` (R87). -/
def LineState.rotTask (L : LineState) (st : Station) (x : Nat) : Option Nat :=
  let e := L.rotEntry x
  if e.getLsbD (3 * st.code + 2) then some (e.extractLsb' (3 * st.code) 2).toNat else none

/-- Entries of data queue `n` of a line, held or on their way: results, and reads that have issued and have not met their content (one
that has is among the results). -/
def State.dqLoad (s : State) (l n : Nat) : Nat :=
  let L := s.line l
  (L.dq.look n default).entries.length + (L.outs.filter fun o => o.dest == .dq n && o.valid).length +
  (s.uses.filter fun u => !u.taken && u.ret.any fun r => r.line == l && r.dest == .dq n && r.valid).length

/-- The data queues that repeat `j` of an instruction needs are ready in the current sc: entries to take, room to put (R91). It is
judged at issue, and what is on its way to a queue counts as held by it (log entry 83). A count of zero that REP has latched needs
nothing (R97). -/
def State.dqFree (s : State) (st : Station) (l t : Nat) (i : Instr) (j : Nat) : Bool :=
  let L := s.line l
  (j == 0 && (L.q st t).repLatch == some 0) ||
  (((i.dqSrc j).all fun n => (i.dqSrc j).count n ≤ ((L.dq.look n default).entries.takeWhile fun e => e.at_ + 2 ≤ s.sc).length) &&
    (i.dqDst j).all fun n => s.dqLoad l n < 32)

/-- The instruction whose repeat a queue issues next, with the repeat number: the one outstanding, or the word at the pc. -/
def LineState.nextOf (L : LineState) (st : Station) (l t : Nat) : Option (Instr × Nat) :=
  let q := L.q st t
  match q.outst with
  | some o => some (o.instr, o.done)
  | none =>
    (decodeWord st ⟨Fin.ofNat 512 l, Fin.ofNat 4 t⟩ (L.istore.look (st.code * 4096 + q.pc) 0)).map fun i => (i, 0)

/-- The queue may issue in sc `x` as far as its own state says: task-enabled (R479), not ended (R86), not at a barrier
(R103), not before its earliest sc (R84), and for the CC not in a flag wait (R88). -/
def LineState.queueReady (L : LineState) (st : Station) (t x : Nat) : Bool :=
  let q := L.q st t
  q.enabled && !q.ended && q.barWait.isNone && q.notBefore ≤ x && (st != .cc || (L.cc.waits.find t).isNone)

/-- Whether the next instruction of a task that is ready to issue finds its data queues as it needs them; `none` when no instruction
is ready. -/
def State.dqNext (s : State) (st : Station) (l t : Nat) : Option Bool :=
  let L := s.line l
  if L.queueReady st t s.sc then (L.nextOf st l t).map fun e => s.dqFree st l t e.1 e.2 else none

/-- The task that issues instead of `named`, the first that can in the order named + 1, + 2, + 3 (R91). -/
def State.yieldPick (s : State) (st : Station) (l named : Nat) : Option Nat :=
  ([1, 2, 3].map fun d => (named + d) % 4).find? fun t => s.dqNext st l t == some true

/-- The station issues for this task in the current sc: the rotation entry names it, or it stands in for the named one in a job in
yield mode, which DYN.YIELD_EN says for all its lines (R54, R87, R91, log entry 85). The second part says that it stands in. -/
def State.slotFor (s : State) (st : Station) (l t : Nat) : Bool × Bool :=
  match (s.line l).rotTask st s.sc with
  | none => (false, false)
  | some n =>
    if n = t then (true, false)
    else if s.time.yield && s.dqNext st l n == some false && s.yieldPick st l n == some t then (true, true)
    else (false, false)

/-- A harvest boundary lies before the current sc and its banks have not latched: nothing of the sc issues before it (R60, Table 2-7). -/
def State.beforeBoundary (s : State) : Bool := s.hrv.bounds.any fun b => !b.latched && b.h + 9 == s.sc

/-- A station queue may issue instruction `i` (repeat `j`) in the current cc (R37, R60, R83, R84, R86 to R91, R366). -/
def State.mayIssue (s : State) (st : Station) (q : Queue) (i : Instr) (j : Nat) : Bool :=
  let L := s.line q.line
  s.live && !s.held && !s.beforeBoundary && s.job.faultSc.all (fun f => s.sc ≤ f) && L.hasLine && !L.inReset &&
  L.queueReady st q.task s.sc && L.lastIssue.look st.code 0 != s.sc + 1 && (s.slotFor st q.line q.task).1 &&
  (!s.time.yield || s.dqFree st q.line q.task i j)

/-- A fresh instruction may issue: no repeats of the one before are outstanding. -/
def State.mayStart (s : State) (st : Station) (q : Queue) (i : Instr) : Bool :=
  s.mayIssue st q i 0 && (s.q st q).outst.isNone

/-- Rows of an instruction store that have failed: mapped to a spare, or queued for map-out. -/
def LsState.failedRows (z : LsState) (st : Nat) : Nat :=
  ((List.range 8).filter fun k => (z.isMap.look st 0).getLsbD (8 * k + 6)).length +
  (z.mapQueue.filter fun e : Nat × Nat × Nat => e.1 == st).length

/-- The ninth row of an instruction store has failed: EXHAUSTED, and the line's bay is requested for disable, as a write of RCV_DISREQ would: one that is
disabled already is not (R274, R440). -/
def State.exhaust (s : State) (l : Nat) : State :=
  let b := bayOf l
  let s := s.updLine l fun L => { L with ls.isErr := L.ls.isErr ||| 1024 }
  let s := if s.rcv.disreq.getLsbD b || s.rcv.disBay.getLsbD b then s
    else { s with rcv.disreq := bitOn s.rcv.disreq b, rcv.disSince := s.rcv.disSince.put b s.time.now }
  (s.setAlert 4).pendDisable

/-- A row queued for map-out, with LS_IS_ERR and HRV_PEND.MAPOUT (R272, R273). -/
def State.queueMapout (s : State) (l st row : Nat) : State :=
  let known := (s.line l).ls.mapQueue.any fun e : Nat × Nat × Nat => e.1 == st && e.2.1 == row
  let s := s.updLine l fun L =>
    let ex : Nat := if L.ls.isErr.getLsbD 10 then 1 else 0
    { L with ls := { L.ls with mapQueue := if known then L.ls.mapQueue else L.ls.mapQueue ++ [(st, row, s.time.now)]
                               isErr := BitVec.ofNat 32 (st + 8 * row + 512 + 1024 * ex) } }
  let s := { s with hrv.pend := s.hrv.pend ||| 4 }
  if 9 ≤ (s.line l).ls.failedRows st && !known then s.exhaust l else s

/-- Bookkeeping of an issue: the station has issued in this sc; a stand-in counts in the NDC (R91). -/
def State.noteIssue (s : State) (st : Station) (q : Queue) : State :=
  let sub := (s.slotFor st q.line q.task).2
  let pc := (s.q st q).pc
  let s := s.updLine q.line fun L => { L with lastIssue := L.lastIssue.put st.code (s.sc + 1) }
  if sub then s.countNdc .yield ⟨q.line, st.code, q.task, true, pc⟩ else s

/-- The parity of the word at the queue's pc fails (R272). -/
def State.parityBad (s : State) (st : Station) (q : Queue) : Bool := (s.line q.line).isBad.contains (st.code * 4096 + (s.q st q).pc)

/-- A word is fetched that fails its parity: IS_PARITY in the sc in which it would have issued, and its row is queued for map-out
(R272). -/
def State.badFetch (s : State) (st : Station) (q : Queue) : State :=
  (s.faultQ st q.line q.task .isParity st.code).queueMapout q.line st.code ((s.q st q).pc / 64)

/-- A repeat draws its current (R421). -/
def State.draws (s : State) (q : Queue) (i : Instr) : State := s.updLine q.line fun L => L.drawn i

/-- A fresh instruction issues with the effect `f`, when it may; a word whose parity fails takes its place without an effect. -/
def State.issueWith (s : State) (st : Station) (q : Queue) (i : Instr) (f : State → State) : Host.Outcome State Fault Refusal :=
  if !i.wf then stuck
  else if s.mayStart st q i then .next (let t := s.noteIssue st q; if s.parityBad st q then t.badFetch st q else f t)
  else .next s

/-- The context of an issue in the current sc. -/
def State.ctx (s : State) (st : Station) (q : Queue) (c0 j : Nat) : Ctx :=
  { st := st, l := q.line, t := q.task, x := s.sc, c0 := c0, j := j, pc := (s.q st q).pc }

/-! ### Program counter and loops -/

/-- A pass ends at instruction `x`: innermost active loops with that TARGET, level 3 first (R100). -/
def loopsEnd (fuel : Nat) (q : QState) (x : Nat) : QState :=
  match fuel with
  | 0 => { q with pc := x + 1 }
  | f + 1 =>
    match (q.loops.filter fun e => e.2.target == x).getLast? with
    | none => { q with pc := x + 1 }
    | some (lev, l) =>
      if 1 < l.remaining then { q with loops := q.loops.put lev { l with remaining := l.remaining - 1 }, pc := l.first }
      else loopsEnd f { q with loops := q.loops.del lev } x

/-- The queue after its last instruction at `x` has issued for the last time in sc `sc` (R84, R100). -/
def QState.pass (q : QState) (x sc : Nat) : QState :=
  let q' := loopsEnd 4 q x
  { q' with notBefore := sc + 1 }

/-- The program counter moves on; past index 4,095 it is PC_OVERRUN (R85). -/
def State.advance (s : State) (st : Station) (q : Queue) : State :=
  let s := s.updQ st q fun z => z.pass z.pc s.sc
  if 4095 < (s.q st q).pc then
    (s.updQ st q fun z => { z with pc := 4095 }).faultQ st q.line q.task .pcOverrun
  else s

/-- An instruction without repeats issues: its effect, then the next pc. -/
def State.issueOne (s : State) (st : Station) (q : Queue) (i : Instr) (f : State → State) : Host.Outcome State Fault Refusal :=
  s.issueWith st q i fun s => (f (s.draws q i)).advance st q

/-! ### Repeats (R89, R93, R97) -/

/-- The AR update under POST after `n` repeats (R93, R102); LS.COPY moves a second register, and VX.ACCRD advances by the rows
read (R189). -/
def Outst.post (o : Outst) (q : QState) (n : Nat) : QState :=
  match o.instr.fmtM? with
  | some w =>
    if w.post then
      let q1 := { q with ar := q.ar.put w.arn.toNat (q.arOf w.arn.toNat + BitVec.ofNat 40 n * o.stride) }
      match o.instr with
      | .lsCopy _ w => { q1 with ar := q1.ar.put w.toff.toNat (q1.arOf w.toff.toNat + BitVec.ofNat 40 n * o.str2) }
      | _ => q1
    else q
  | none =>
    match o.instr with
    | .vxAccrd _ w =>
      let bpr := accBeats (w.fld 7 3) (w.dst = 6)
      if w.fld 25 1 = 1 then
        { q with ar := q.ar.put (w.fld 21 4) (q.arOf (w.fld 21 4) + BitVec.ofNat 40 ((n + bpr - 1) / bpr)) }
      else q
    | _ => q

/-- A repeating instruction starts: its repeat count is REPCNT + 1, or the count that REP latched (R93, R97). -/
def State.outstOf (s : State) (st : Station) (q : Queue) (i : Instr) : Outst :=
  let z := s.q st q
  let total := match z.repLatch with | some n => n | none => i.repcnt + 1
  match i.fmtM? with
  | some w =>
    { instr := i, total := total, done := 0, c0 := s.sc
      base := z.arOf w.arn.toNat, stride := z.strideOf w.arn.toNat
      base2 := z.arOf w.toff.toNat, str2 := z.strideOf w.toff.toNat, nums := [], buf := [], buf2 := [] }
  | none =>
    { instr := i, total := total, done := 0, c0 := s.sc, base := 0, stride := 0, base2 := 0, str2 := 0
      nums := [], buf := [], buf2 := [] }

/-- One repeat has issued: the next is outstanding, or the instruction ends with its POST update (R93, R96). -/
def State.endRepeat (s : State) (st : Station) (q : Queue) (o : Outst) : State :=
  if o.done + 1 < o.total then
    s.updQ st q fun z => { z with outst := some { o with done := o.done + 1 }, notBefore := s.sc + 1 }
  else
    (s.updQ st q fun z => { (o.post z o.total) with outst := none }).advance st q

/-- A repeating instruction issues its first repeat by `step`; a latched count of zero performs nothing and takes one sc (R97). -/
def State.issueRep (s : State) (st : Station) (q : Queue) (i : Instr) (step : State → Ctx → Outst → State × Outst)
    (begin_ : State → Ctx → Outst → State × Outst := fun s _ o => (s, o)) : Host.Outcome State Fault Refusal :=
  s.issueWith st q i fun s =>
    let o := s.outstOf st q i
    let s1 := s.updQ st q fun z => { z with repLatch := none }
    if o.total = 0 then s1.advance st q
    else
      let s1 := s1.draws q i
      let (s2, o2) := begin_ s1 (s1.ctx st q o.c0 0) o
      let (s3, o3) := step s2 (s2.ctx st q o2.c0 0) o2
      s3.endRepeat st q o3

/-- A later repeat of the outstanding instruction issues by `step` (R89). -/
def State.nextRep (s : State) (st : Station) (q : Queue) (o : Outst) (step : State → Ctx → Outst → State × Outst) : State :=
  let s1 := (s.noteIssue st q).draws q o.instr
  let (s2, o2) := step s1 (s1.ctx st q o.c0 o.done) o
  s2.endRepeat st q o2

/-! ### Redirects (R102, R216) -/

/-- A redirect of one queue to `target`, with the first issue from sc `from_` (R102). -/
def QState.redirect (q : QState) (target from_ : Nat) : QState :=
  if q.ended then q else
  let q := match q.outst with | some o => o.post q o.done | none => q
  { q with
    pc := target, outst := none, repLatch := none, barWait := none, notBefore := from_
    loops := q.loops.filter fun e => e.2.first ≤ target && target ≤ e.2.target }

/-- A running row, or the rotary table, written under a prediction of the task is noted (Table 6-13). -/
def LineState.touch (L : LineState) (t x : Nat) (row : Option Nat) : LineState :=
  match L.unconf t x, L.cc.preds.find t with
  | some _, some p =>
    let v := match row with
      | some n => { p.vx with rows := p.vx.rows ||| ((1 : BitVec 4) <<< n) }
      | none => { p.vx with wroteF := true }
    { L with cc.preds := L.cc.preds.put t { p with vx := v } }
  | _, _ => L

/-- The entries that the repeats of a VX.RFLD have read come into force (R198). -/
def LineState.putFreq (L : LineState) (t x base : Nat) (got : List Nat) : LineState :=
  let put (f : Tbl (BitVec 40)) (e : Nat × Nat) := f.put ((base + e.2) % 256) (BitVec.ofNat 40 e.1)
  ({ L with vx.freq := got.zipIdx.foldl put L.vx.freq } : LineState).touch t x none

/-- A redirect cuts a VX.RFLD: the repeats it has performed have written their entries (R102, R198). -/
def LineState.cutRfld (L : LineState) (t x : Nat) : LineState :=
  match (L.q .vx t).outst with
  | some o =>
    match o.instr with
    | .vxRfld _ w => L.putFreq t x (w.fld 0 8) o.nums
    | _ => L
  | none => L

/-! ### Common instructions -/

/-- NOP issues nothing else (Table 3-5). -/
def execNop (st : Station) (q : Queue) (w : FmtO) (s : State) : Host.Outcome State Fault Refusal :=
  s.issueRep st q (.nop st q w) fun s _ o => (s, o)

/-- The words of the inbound queues that a task holds armed are discarded when its CC queue ends (R234). -/
def LineState.endCc (L : LineState) (t : Nat) : LineState :=
  { L with cc.iw := L.cc.iw.map fun e => if e.2.armed && e.2.owner = t then (e.1, { e.2 with words := [] }) else e }

/-- END ends the queue (R86). -/
def execEndQueue (st : Station) (q : Queue) (w : FmtC) (s : State) : Host.Outcome State Fault Refusal :=
  s.issueWith st q (.endQueue st q w) fun s =>
    let s := s.updQ st q fun z => { z with ended := true, notBefore := s.sc + 1 }
    if st = .cc then s.updLine q.line fun L => L.endCc q.task else s

/-- A count operand: COUNT, a loop count register, or bits [31:0] of a scalar register (R97, R98). -/
def State.countOf (s : State) (st : Station) (q : Queue) (w : FmtC) (lc : Nat) : Nat :=
  match w.csrc.toNat with
  | 0 => w.count.toNat
  | 1 => ((s.q st q).lc.look lc 0).toNat
  | _ => (s.scalar (s.ctx st q s.sc 0) w.sreg.toNat).toNat % 2 ^ 32

/-- LOOP opens a level, or skips its body on a count of zero (R98 to R101). -/
def State.openLoop (s : State) (st : Station) (q : Queue) (w : FmtC) : State :=
  let z := s.q st q
  let lev := w.level.toNat
  let n := s.countOf st q w lev
  if z.loops.any fun e => lev ≤ e.1 then (s.faultQ st q.line q.task .loopNest).advance st q
  else if n = 0 then
    let s := s.updQ st q fun z => z.pass w.target.toNat s.sc
    if 4095 < (s.q st q).pc then (s.updQ st q fun z => { z with pc := 4095 }).faultQ st q.line q.task .pcOverrun else s
  else
    s.updQ st q fun z =>
      { z with loops := z.loops.put lev ⟨z.pc + 1, w.target.toNat, n⟩, pc := z.pc + 1, notBefore := s.sc + 1 }

def execLoop (st : Station) (q : Queue) (w : FmtC) (s : State) : Host.Outcome State Fault Refusal :=
  if w.target.toNat ≤ (s.q st q).pc then stuck else s.issueWith st q (.loop st q w) fun s => s.openLoop st q w

/-- REP latches the repeat count of the next instruction (R97). -/
def execRep (st : Station) (q : Queue) (w : FmtC) (s : State) : Host.Outcome State Fault Refusal :=
  s.issueOne st q (.rep st q w) fun s =>
    let n := s.countOf st q w 0
    s.updQ st q fun z => { z with repLatch := some n }

/-- The stations of a mask. -/
def maskStations (m : BitVec 6) : List Station := [.pt, .ls, .px, .mx, .vx, .cc].filter fun st => m.getLsbD st.code

/-- BAR: the queue waits until every station of MASK waits at the same BID (R103, R104). -/
def State.barrier (s : State) (st : Station) (q : Queue) (w : FmtC) : State :=
  let s := if [Station.pt, .ls, .px, .mx, .vx, .cc].any fun st' =>
        st' != st && (match ((s.line q.line).q st' q.task).barWait with
          | some (b, m) => b == w.bid && m != w.mask | none => false)
    then s.faultQ st q.line q.task .barMismatch else s
  let s := (s.updQ st q fun z => { z with repLatch := none }).advance st q
  let s := s.updQ st q fun z => { z with barWait := some (w.bid, w.mask) }
  let L := s.line q.line
  if (maskStations w.mask).all fun st' =>
      (match (L.q st' q.task).barWait with | some (b, _) => b == w.bid | none => false) then
    s.updLine q.line fun L => (maskStations w.mask).foldl
      (fun L st' => L.updQ st' q.task fun z => { z with barWait := none, notBefore := s.sc + 1 }) L
  else s

def execBar (st : Station) (q : Queue) (w : FmtC) (s : State) : Host.Outcome State Fault Refusal :=
  s.issueWith st q (.bar st q w) fun s => s.barrier st q w

def execArset (st : Station) (q : Queue) (w : FmtW) (s : State) : Host.Outcome State Fault Refusal :=
  s.issueOne st q (.arset st q w) fun s => s.updQ st q fun z => { z with ar := z.ar.put w.reg.toNat w.imm }

def execAstset (st : Station) (q : Queue) (w : FmtW) (s : State) : Host.Outcome State Fault Refusal :=
  s.issueOne st q (.astset st q w) fun s => s.updQ st q fun z => { z with stride := z.stride.put w.reg.toNat w.imm }

def execAradd (st : Station) (q : Queue) (w : FmtW) (s : State) : Host.Outcome State Fault Refusal :=
  s.issueOne st q (.aradd st q w) fun s =>
    s.updQ st q fun z => { z with ar := z.ar.put w.reg.toNat (z.arOf w.reg.toNat + w.imm) }

/-- ARSC takes bits [39:0] of the scalar register as broadcast to the station (Table 3-5, R214). -/
def execArsc (st : Station) (q : Queue) (w : FmtW) (s : State) : Host.Outcome State Fault Refusal :=
  s.issueOne st q (.arsc st q w) fun s =>
    let v := s.scalar (s.ctx st q s.sc 0) (w.imm.toNat % 64)
    s.updQ st q fun z => { z with ar := z.ar.put w.reg.toNat (v.setWidth 40) }

def execLcset (st : Station) (q : Queue) (w : FmtW) (s : State) : Host.Outcome State Fault Refusal :=
  s.issueOne st q (.lcset st q w) fun s =>
    s.updQ st q fun z => { z with lc := z.lc.put (w.reg.toNat % 4) (w.imm.setWidth 32) }

end Sys2Proof.Machine
end

