-- ==== Sys2Proof/Machine/Access.lean ====
section
/-! DEFINITION. Timed row accesses of the local store, the bay buffers and the near tier: what they meet, the ports and slots they
occupy, the held-row store and its drains, bridge crossings (R248 to R267, R275 to R277, R286 to R291). -/

namespace Sys2Proof.Machine

/-! ### Places -/

/-- The bank pair of a local-store row (R249). -/
def pairOf (a : Nat) : Nat := 2 * (a / 98304) + a / 128 % 2
/-- The power group of a local-store address (Table 8-1). -/
def groupOf (a : Nat) : Nat := a / 98304
/-- The slice of a bay-buffer offset (R275). -/
def bbSlice (o : Nat) : Nat := o / 128 % 64
/-- A power group is powered. -/
def LineState.powered (L : LineState) (a : Nat) : Bool := L.ls.pgOn.getLsbD (groupOf a)

/-- The port or slot that a use occupies, as a key. -/
def MemUse.port (u : MemUse) : Nat × Nat × Nat :=
  let w := if u.write then 1 else 0
  match u.owner with
  | .ls l => (0, l, 2 * pairOf u.addr + w)
  | .bb b => (1, b, 2 * bbSlice u.addr + w)
  | .nt sl => (2, sl, u.unit.line % 2)

/-- The physical place of the row of a use, when its address is mapped. -/
def State.place (s : State) (u : MemUse) : Option Nat :=
  match u.owner with
  | .ls l => some (lsPhys l u.addr)
  | .bb b => some (bbPhys b u.addr)
  | .nt _ => s.phys u.addr

/-! ### Error marks (R268, R269, R296, R297) -/

/-- The error marks of the row at a physical address. -/
def State.rowMarks (s : State) (p : Nat) : List (Nat × Bool) := s.marks.filter fun m => p ≤ m.1 && m.1 < p + 128

/-- The place of physical address `p` is marked: it holds an error the code corrects, or one it does not. -/
def State.mark (s : State) (p : Nat) (bad : Bool) : State :=
  { s with marks := (markAt p, bad) :: s.marks.filter fun m => m.1 ≠ markAt p }

/-- The marked symbols of the 64-byte access at a near-tier physical address, and whether the symbol code cannot correct them: it corrects one
symbol (R296). -/
def State.accessMarks (s : State) (p : Nat) : List (Nat × Bool) := s.marks.filter fun m => p ≤ m.1 && m.1 < p + 64
def accessBad (ms : List (Nat × Bool)) : Bool := (ms.any fun m => m.2) || 2 ≤ ms.length

/-- A row whose read was corrected is queued for a write-back by its gleaner (R268). -/
def State.queueFix (s : State) (p : Nat) : State := if s.fixes.contains p then s else { s with fixes := s.fixes ++ [p] }

/-- LS_ECC_ADDR and BB_ECC_ADDR: address of the word, SRC and VALID at bits `b` and b + 1. -/
def eccAddr (b : Nat) (word src : Nat) : W32 := BitVec.ofNat 32 (word / 8 * 8 + src * 2 ^ b + 2 ^ (b + 1))

/-- The error counts of a local-store read (R268, R269): corrected words, uncorrectable words with the first address. -/
def State.lsErrors (s : State) (l a src : Nat) : State :=
  let ms := s.rowMarks (lsPhys l a)
  let ce := (ms.filter fun m => !m.2).length
  let ue := ms.filter fun m => m.2
  if ms = [] then s else
  let s := if ce = 0 then s else s.queueFix (lsPhys l a)
  s.updLine l fun L =>
    let z := L.ls
    { L with ls := { z with
        eccCe := sat32 (z.eccCe + ce), eccUe := sat32 (z.eccUe + ue.length)
        eccAddr := match ue with
          | m :: _ => if z.eccAddr.getLsbD 20 then z.eccAddr else eccAddr 19 (m.1 - lsPhys l 0) src
          | [] => z.eccAddr } }

/-- The same of a bay-buffer read. -/
def State.bbErrors (s : State) (b o src : Nat) : State :=
  let ms := s.rowMarks (bbPhys b o)
  let ce := (ms.filter fun m => !m.2).length
  let ue := ms.filter fun m => m.2
  if ms = [] then s else
  let s := if ce = 0 then s else s.queueFix (bbPhys b o)
  s.updBay b fun z =>
    { z with
      bbCe := sat32 (z.bbCe + ce), bbUe := sat32 (z.bbUe + ue.length)
      bbAddr := match ue with
        | m :: _ => if z.bbAddr.getLsbD 27 then z.bbAddr else eccAddr 26 (m.1 - bbPhys b 0) src
        | [] => z.bbAddr }

/-- The first word of a row that its code cannot correct: of the near tier the first 64-byte access (R268, R297). -/
def State.badWord (s : State) (p : Nat) : Option Nat :=
  if p < 0x18000000000 then ([p, p + 64].find? fun q => accessBad (s.accessMarks q))
  else ((s.rowMarks p).find? fun m => m.2).map (·.1)

/-! ### The held-row store (R258 to R263) -/

/-- The entry that a reader gets for an address: its own UNCONFIRMED one, else the CONFIRMED one (R259). -/
def LineState.heldFor (L : LineState) (task : Option Nat) (a : Nat) : Option BeatData :=
  let own := L.ls.held.find? fun e => e.2.addr == a && !e.2.confirmed && task == some e.2.task
  match own with
  | some e => some e.2.data
  | none => (L.ls.held.find? fun e => e.2.addr == a && e.2.confirmed).map (·.2.data)

/-- The lowest free entry of the 256. -/
def freeEntry (h : Tbl HeldRow) : Option Nat := (List.range 256).find? fun i => !(h.any fun e => e.1 == i)

/-- An UNCONFIRMED entry for the address held by a task other than `t` (R260). -/
def LineState.foreign (L : LineState) (t : Option Nat) (a : Nat) : Option Nat :=
  (L.ls.held.find? fun e => e.2.addr == a && !e.2.confirmed && t != some e.2.task).map (·.2.task)

/-- LS_SPEC with detail 2: the task that holds the entry, and the foreign writer. -/
def State.foreignWrite (s : State) (l a x : Nat) (writer : UnitRef) (t : Option Nat) : State :=
  match (s.line l).foreign t a with
  | some o => s.faultAt x .lsSpec 2 ⟨l, 1, o, true, ((s.line l).q .ls o).pc⟩ writer a l
  | none => s

/-- A row written into the banks. -/
def State.lsBank (s : State) (l a : Nat) (d : BeatData) : State := s.setRow (lsPhys l a) d

/-- A local-store write reaches its port in sc `x` (R250, R258, R260, R263, R267). -/
def State.lsWrite (s : State) (u : MemUse) (l x : Nat) : State :=
  let L := s.line l
  let a := u.addr
  if !L.powered a then s.faultAt x .lsPwr (groupOf a) u.unit UnitRef.none a
  else
    let writer := match u.kind with | .own => some u.unit.task | .copyTo _ => some u.unit.task | _ => none
    let s := s.foreignWrite l a x u.unit writer
    match u.unconf with
    | some t =>
      let h := (s.line l).ls.held
      let i := match h.find? fun e => e.2.addr == a && !e.2.confirmed && e.2.task == t with
        | some e => some e.1
        | none => freeEntry h
      match i with
      | some i =>
        s.updLine l fun L =>
          { L with ls.held := L.ls.held.put i { addr := a, task := t, confirmed := false, data := u.data, since := x } }
      | none => s.faultAt x .lsSpec 1 u.unit UnitRef.none a l
    | none =>
      (s.updLine l fun L => { L with ls.held := L.ls.held.filter fun e => !(e.2.addr == a && e.2.confirmed) }).lsBank l a u.data

/-- A user of the upper five rows of Table 8-2 writes pair `p` of line `l` in sc `x`. -/
def State.writesPair (s : State) (l p x : Nat) : Bool :=
  s.uses.any fun u => u.write && u.due == x && u.owner == .ls l && pairOf u.addr == p
/-- The same for its read port. -/
def State.readsPair (s : State) (l p x : Nat) : Bool :=
  s.uses.any fun u => !u.write && u.due == x && u.owner == .ls l && pairOf u.addr == p

/-- The entry that a bank pair drains in sc `x` (R262): the lowest-numbered CONFIRMED one, once per sc. -/
def State.drainEntry (s : State) (l x p : Nat) : Option (Nat × HeldRow) :=
  let L := s.line l
  if (L.ls.drainAt = x + 1 && L.ls.drained.getLsbD p) || s.writesPair l p x then none
  else L.ls.held.find? fun e => e.2.confirmed && e.2.since < x && pairOf e.2.addr == p

/-- The drain of one bank pair in sc `x` (R262). -/
def State.drainPair (s : State) (l x p : Nat) : State :=
  match s.drainEntry l x p with
  | none => s
  | some (i, h) =>
    let w : UnitRef := ⟨l, 6, 0, true, 0⟩
    let s := if !(s.line l).powered h.addr then s.faultAt x .lsPwr (groupOf h.addr) w UnitRef.none h.addr
             else (s.foreignWrite l h.addr x w none).lsBank l h.addr h.data
    s.updLine l fun L =>
      let bit : BitVec 8 := (1 : BitVec 8) <<< p
      let d := if L.ls.drainAt = x + 1 then L.ls.drained ||| bit else bit
      ({ L with ls := { L.ls with held := L.ls.held.del i, drained := d, drainAt := x + 1 } } : LineState).count .lsDrain

/-- The drains of a line in sc `x`. -/
def State.drains (s : State) (l x : Nat) : State := (List.range 8).foldl (fun s p => s.drainPair l x p) s

/-! ### Reads meet the content -/

/-- The row that a read meets (R252, R259, R287). -/
def State.rowFor (s : State) (u : MemUse) : BeatData :=
  match u.owner with
  | .ls l =>
    let task := match u.kind with | .own => some u.unit.task | .copyTo _ => some u.unit.task | _ => none
    match (s.line l).heldFor task u.addr with
    | some d => d
    | none => s.row (lsPhys l u.addr)
  | _ => match s.place u with | some p => s.row p | none => 0

/-- The result of a read goes to its place: a beat at its sc, or the write of an LS.COPY two sc later. -/
def State.deliver (s : State) (u : MemUse) (d : BeatData) : State :=
  let s := match u.ret with
    | some r =>
      let o : PendOut :=
        { st := r.st, due := r.out, issue := r.issue, rep := r.rep, task := u.unit.task, pc := u.unit.pc
          unconf := r.unconf, dest := r.dest, data := d.setWidth 4096, ev := 0, valid := r.valid }
      s.updLine r.line fun L => { L with outs := L.outs ++ [o] }
    | none => s
  match u.kind with
  | .copyTo dst =>
    let w := { u with kind := .own, write := true, addr := dst, order := u.due + 2, due := u.due + 2
                      data := d, ret := none, taken := false, slotted := false }
    { s with uses := s.uses ++ [w] }
  | _ => s

/-- A read of the local store or the bay buffer finds its errors (R268, R269): the fault of an uncorrectable word. A read that returns a held row meets
those of its bank row all the same (DESIGN CHOICE, log entry 117). -/
def State.readErrors (s : State) (u : MemUse) : State :=
  match u.owner with
  | .ls l =>
    let s := s.lsErrors l u.addr 0
    match s.badWord (lsPhys l u.addr) with
    | some w => s.faultAt u.due .lsUe 0 u.unit UnitRef.none (w - lsPhys l 0)
    | none => s
  | .bb b =>
    let s := s.bbErrors b u.addr 0
    match s.badWord (bbPhys b u.addr) with
    | some w => s.faultAt u.due .bbUe 0 u.unit UnitRef.none w
    | none => s
  | .nt _ => s

/-- One read meets the content. -/
def State.meetOne (s : State) (u : MemUse) : State :=
  match u.owner with
  | .ls l =>
    if !(s.line l).powered u.addr then s.faultAt u.due .lsPwr (groupOf u.addr) u.unit UnitRef.none u.addr
    else (s.readErrors u).deliver u (s.rowFor u)
  | _ => (s.readErrors u).deliver u (s.rowFor u)

/-- The reads whose order sc is `x` or earlier and that have not met the content. -/
def MemUse.meets (u : MemUse) (x : Nat) : Bool := !u.write && !u.taken && u.order ≤ x

/-- The reads among those that `sel` picks meet the content in sc `x`. -/
def State.meetSome (s : State) (x : Nat) (sel : MemUse → Bool) : State :=
  let now := s.uses.filter fun u => u.meets x && sel u
  let s := { s with uses := s.uses.map fun u => if u.meets x && sel u then { u with taken := true } else u }
  now.foldl State.meetOne s
/-- Every read that meets the content in sc `x` (R252, R287): before the writes of the sc. -/
def State.meetReads (s : State) (x : Nat) : State := s.meetSome x fun _ => true

/-! ### Ports and slots (R251, R277, R288, R289) -/

/-- Refresh level and granary share of the loaded image (R289, R308). -/
def State.refLevel (s : State) : Nat := match s.job.img with | some i => if s.time.loaded then i.refresh else 0 | none => 0
def State.gShare (s : State) : Nat := match s.job.img with | some i => if s.time.loaded then i.gshare else 0 | none => 0

/-- A slot of a slice is reserved for refresh in sc `x`. -/
def State.refreshSlot (s : State) (slice slot x : Nat) : Bool :=
  slot == 1 && ((1 ≤ s.refLevel && x % 32 == slice % 32) || (s.refLevel == 2 && x % 32 == (slice + 16) % 32))
/-- A slot of a slice is reserved for the granary engines. -/
def State.granarySlot (s : State) (slot x : Nat) : Bool := slot == 0 && x % 16 < s.gShare

/-- The fault of two users of one port or slot (R476): the lower unit first. -/
def State.collide (s : State) (x : Nat) (a b : MemUse) : State :=
  let (u, v) := orderUnits a.unit b.unit
  let addr := if u == a.unit then a.addr else b.addr
  match a.owner with
  | .ls l =>
    (s.faultAt x .lsBank (a.port.2.2) u v 0 l).updLine l fun L => { L with fault := L.fault || s.time.running }
  | .bb b => s.faultAt x .bbSlice (a.port.2.2) u v 0 b
  | .nt sl => s.faultAt x .ntSlot (2 * sl + a.port.2.2) u v addr

/-- The counters of a use (Tables 8-7, 8-8, 9-8). -/
def State.countUse (s : State) (u : MemUse) : State :=
  match u.owner with
  | .ls l =>
    match u.kind with
    | .own => s.countLine l (if u.write then .lsWr else .lsRd)
    | .copyTo _ => s.countLine l .lsRd
    | .neighbour => s.countLine l .lsNbr
    | .fabric => s
  | .bb b => s.countBay b (if u.write then .bbWr else .bbRd)
  | .nt sl => s.countBay (sl / 32) (if u.write then .ntWr else .ntRd)

/-- A near-tier access with an uncorrectable error at its slot (R297): counts, first address, and the fault of a scheduled read. -/
def State.ntUncorrectable (s : State) (slice addr src : Nat) : State :=
  s.updBay (slice / 32) fun b =>
    { b with stk := b.stk.upd (slice / 8) default fun k =>
        { k with ue := sat32 (k.ue + 1)
                 ueAddr := if k.ueAddr.isSome then k.ueAddr else some (addr / 64 * 64, src == 1) } }
/-- A corrected access counts in NT_Sk_CE (R296). -/
def State.ntCorrected (s : State) (slice : Nat) : State :=
  s.updBay (slice / 32) fun b => { b with stk := b.stk.upd (slice / 8) default fun k => { k with ce := sat32 (k.ce + 1) } }

/-- A near-tier read of the row at local address `a`, physical address `p`, meets its marked errors: the code covers 64-byte accesses, of
which each is counted (R296, R297). The first uncorrectable one goes to `bad`. -/
def State.ntRow (s : State) (slice a p src : Nat) (bad : State → Nat → State) : State :=
  [0, 1].foldl (fun s h =>
    let ms := s.accessMarks (p + 64 * h)
    if accessBad ms then bad (s.ntUncorrectable slice (a + 64 * h) src) (a + 64 * h)
    else if ms = [] then s else s.ntCorrected slice) s

/-- The marked errors that a scheduled near-tier read meets at its slot. -/
def State.ntReadErrors (s : State) (u : MemUse) : State :=
  match u.owner, s.place u with
  | .nt sl, some p =>
    if u.write then s else s.ntRow sl u.addr p 0 fun s a => s.faultAt u.due .ntUe (sl / 8) u.unit UnitRef.none a
  | _, _ => s

/-- A use occupies its port or slot in sc `x`; `same` is an earlier user of it. -/
def State.occupy (s : State) (x : Nat) (u : MemUse) (same : Option MemUse) : State :=
  let s := s.countUse u
  let s := match same with | some v => s.collide x v u | none => s
  match u.owner with
  | .nt sl =>
    let slot := u.unit.line % 2
    let s := s.ntReadErrors u
    if s.refreshSlot sl slot x then s.faultAt x .ntRsvslot 0 u.unit UnitRef.none u.addr
    else if s.granarySlot slot x then s.faultAt x .ntRsvslot 1 u.unit UnitRef.none u.addr
    else s
  | .bb b =>
    if x % 16 < s.gShare then s.faultAt x .bbSlice (u.port.2.2) u.unit UnitRef.engine 0 b else s
  | .ls _ => s

/-- The uses due in sc `x` that `sel` picks occupy their ports and slots. -/
def State.ports (s : State) (x : Nat) (sel : MemUse → Bool) : State :=
  let now := s.uses.filter fun u => u.due == x && !u.slotted && sel u
  let s := { s with uses := s.uses.map fun u => if u.due == x && sel u then { u with slotted := true } else u }
  (now.foldl (fun (acc : State × List MemUse) u =>
    (acc.1.occupy x u (acc.2.find? fun v => v.port == u.port), acc.2 ++ [u])) (s, [])).1

/-! ### Writes land -/

def State.landWrite (s : State) (x : Nat) (u : MemUse) : State :=
  match u.owner with
  | .ls l => s.lsWrite u l x
  | .bb b => s.setRow (bbPhys b u.addr) u.data
  | .nt _ => match s.place u with | some p => s.setRow p u.data | none => s

/-- Every write whose sc is `x` reaches its memory, after the reads of the sc; uses that are over are dropped. A write that a refutation has
discarded (`taken`) has only occupied its port (R258). -/
def State.landWrites (s : State) (x : Nat) : State :=
  let now := s.uses.filter fun u => u.write && u.due ≤ x
  let s := { s with uses := s.uses.filter fun u => x < u.due }
  (now.filter fun u => !u.taken).foldl (fun s u => s.landWrite x u) s

/-! ### Bridges (R291) -/

/-- The bridges from bay `a` to bay `b`: first between the rows in a's column, then along the row. -/
def bridges (a b : Nat) : List (Nat × Nat) :=
  let a' := if a / 4 = b / 4 then a else (a + 4) % 8
  (if a = a' then [] else [(a, a')]) ++
  (if a' ≤ b then (List.range (b - a')).map fun i => (a' + i, a' + i + 1)
   else (List.range (a' - b)).map fun i => (a' - i, a' - i - 1))

/-- A beat of a line on port p crosses every bridge of its route in sc `x`. -/
def State.crossAt (s : State) (x src dst : Nat) (u : UnitRef) (port : Nat) : State :=
  { s with cross := s.cross ++ (bridges src dst).map fun e => Crossing.mk x e.1 e.2 (u.line % 64 + 64 * port) u }

/-- The crossings of sc `x` on the bridges that bay `b` sends on: counts, and PN_SLOT for two beats in one slot. -/
def State.crossings (s : State) (b x : Nat) : State :=
  let now := s.cross.filter fun c => c.sc ≤ x && c.src == b
  let s := { s with cross := s.cross.filter fun c => !(c.sc ≤ x && c.src == b) }
  (now.foldl (fun (acc : State × List Crossing) c =>
    let s := acc.1.countBay b .pn
    let s := match acc.2.find? fun d => d.dst == c.dst && d.slot == c.slot with
      | some d =>
        let (u, v) := orderUnits d.unit c.unit
        s.faultAt x .pnSlot c.slot u v 0 (c.src + 16 * c.dst)
      | none => s
    (s, acc.2 ++ [c])) (s, [])).1

end Sys2Proof.Machine
end

