-- ==== Sys2Proof/Machine/LocalStore.lean ====
section
/-! DEFINITION. The local store station (spec/08_local_store.md): LS instructions, power-group requests, drains, gleaners,
the instruction-store scan. -/

namespace Sys2Proof.Machine

/-! ### LS instructions (Table 8-3) -/

/-- Offset of the repeat's address (R93). -/
def lsOffset (w : FmtM) (k : Ctx) (o : Outst) : Nat := repOffset o.base o.stride w.offset k.j

/-- The address of an LS access, or the REGION or LS_ALIGN fault (R249, R357). -/
def State.lsAddr (s : State) (k : Ctx) (r : Nat) (write : Bool) (x : Nat) : State × Option Nat :=
  match s.locate k r 1 write x with
  | (s, none) => (s, none)
  | (s, some a) => if a % 128 = 0 then (s, some a) else (s.faultK k .lsAlign 0 a, none)

/-- A timed access is put in place. -/
def State.access (s : State) (u : MemUse) : State := { s with uses := s.uses ++ [u] }

/-- A use of the line's own local store by its LS station, with port sc `due`. -/
def State.lsUse (s : State) (k : Ctx) (write : Bool) (a due : Nat) (d : BeatData) (ret : Option Ret) (kind : UseKind) : State :=
  s.access { unit := k.unit, kind := kind, owner := .ls k.l, write := write, addr := a, order := due, due := due
             data := d, ret := ret, unconf := (s.line k.l).unconf k.t k.x, taken := false, slotted := false }

/-- The return of a read to a selector with output sc `out`. -/
def State.retOf (s : State) (k : Ctx) (sel : BitVec 4) (out : Nat) : Ret :=
  { line := k.l, st := k.st, dest := destOf sel 0, out := out, issue := k.c0, rep := k.j
    unconf := (s.line k.l).unconf k.t k.x, valid := true }

def State.lsRdRep (w : FmtM) (s : State) (k : Ctx) (o : Outst) : State × Outst :=
  match s.lsAddr k w.region.toNat false (lsOffset w k o) with
  | (s, none) => (s, o)
  | (s, some a) => (s.lsUse k false a k.x 0 (some (s.retOf k w.data (k.x + 2))) .own, o)

/-- LS.RD: the row at its address, with output sc c + j + 2. -/
def execLsRd (q : Queue) (w : FmtM) (s : State) : Host.Outcome State Fault Refusal :=
  s.issueRep .ls q (.lsRd q w) (State.lsRdRep w)

def State.lsWrRep (w : FmtM) (s : State) (k : Ctx) (o : Outst) : State × Outst :=
  let (s, d) := s.takeBeat k w.data.toNat w.toff
  match s.lsAddr k w.region.toNat true (lsOffset w k o) with
  | (s, none) => (s, o)
  | (s, some a) => (s.lsUse k true a (k.x + 1) d none .own, o)

/-- LS.WR: a beat consumed in sc c + j is written in sc c + j + 1. -/
def execLsWr (q : Queue) (w : FmtM) (s : State) : Host.Outcome State Fault Refusal :=
  s.issueRep .ls q (.lsWr q w) (State.lsWrRep w)

def State.lsFillRep (w : FmtM) (s : State) (k : Ctx) (o : Outst) : State × Outst :=
  let d : BeatData :=
    if w.data = 5 then BitVec.ofNat 1024 (ofLanes 64 (List.replicate 16 (s.scalar k w.toff.toNat))) else 0
  match s.lsAddr k w.region.toNat true (lsOffset w k o) with
  | (s, none) => (s, o)
  | (s, some a) => (s.lsUse k true a (k.x + 1) d none .own, o)

/-- LS.FILL: a row of zeros, or of a scalar repeated 16 times. -/
def execLsFill (q : Queue) (w : FmtM) (s : State) : Host.Outcome State Fault Refusal :=
  s.issueRep .ls q (.lsFill q w) (State.lsFillRep w)

def State.lsCopyRep (w : FmtM) (s : State) (k : Ctx) (o : Outst) : State × Outst :=
  let (s, a) := s.lsAddr k w.region.toNat false (lsOffset w k o)
  let (s, b) := s.lsAddr k w.region.toNat true (repOffset o.base2 o.str2 0 k.j)
  match a, b with
  | some a, some b => (s.lsUse k false a k.x 0 none (.copyTo b), o)
  | _, _ => (s, o)

/-- LS.COPY: each of its two accesses is judged by itself (R249); read port in sc c + j, write port in sc c + j + 2. -/
def execLsCopy (q : Queue) (w : FmtM) (s : State) : Host.Outcome State Fault Refusal :=
  s.issueRep .ls q (.lsCopy q w) (State.lsCopyRep w)

/-! ### Power groups (R264, R265) -/

/-- A power-group request recorded at sc `x`: it replaces any earlier one of the line. -/
def State.requestGroups (s : State) (l : Nat) (on : BitVec 4) (x : Nat) : State :=
  let s := s.updLine l fun L => { L with ls := { L.ls with pgReq := on, pgReqValid := true, pgReqSc := x } }
  { s with hrv.pend := s.hrv.pend ||| 8 }

/-- LS.PGRP; under a prediction the request is deferred (R264). -/
def State.pgrpRep (w : FmtO) (s : State) (k : Ctx) (o : Outst) : State × Outst :=
  let on := BitVec.ofNat 4 (w.fld 0 4)
  let L := s.line k.l
  match L.unconf k.t k.x, L.cc.preds.find k.t with
  | some _, some p => (s.setLine k.l { L with cc.preds := L.cc.preds.put k.t { p with pgrp := some on } }, o)
  | _, _ => (s.requestGroups k.l on k.x, o)

def execLsPgrp (q : Queue) (w : FmtO) (s : State) : Host.Outcome State Fault Refusal :=
  s.issueRep .ls q (.lsPgrp q w) (State.pgrpRep w)

/-! ### Drains and gleaners (R262, R270, R271, R298) -/

/-- The drains of a line in sc `x`, where the read of the first row that drains finds `found`: it counts, and an uncorrectable word is LS_UE and
stays marked (R268, R269). -/
def State.drainsFound (s : State) (l x : Nat) (found : EccFinding) : State :=
  let t := s.drains l x
  match found, (List.range 8).findSome? (s.drainEntry l x) with
  | .corrected _, some _ => t.updLine l fun L => { L with ls.eccCe := sat32 (L.ls.eccCe + 1) }
  | .uncorrectable off, some (_, h) =>
    let a := (h.addr + off.val) / 8 * 8
    let t := (t.mark (lsPhys l a) true).updLine l fun L =>
      { L with ls := { L.ls with
          eccUe := sat32 (L.ls.eccUe + 1), eccAddr := if L.ls.eccAddr.getLsbD 20 then L.ls.eccAddr else eccAddr 19 a 0 } }
    t.faultAt x .lsUe 0 ⟨l, 6, 0, true, 0⟩ UnitRef.none a
  | _, _ => t

def execHeldRowDrain (l : LineId) (s : State) (found : EccFinding := .clean) : Host.Outcome State Fault Refusal :=
  .next (if s.live && !s.held then s.drainsFound l s.sc found else s)

/-- Rows of a memory that a gleaner walks: a local store, a bay buffer, the eight slices of a stack. -/
def glnRows : GleanMem → Nat
  | .ls _ => 3072
  | .bb _ => 524288
  | .nt _ => 8 * 0x180000000 / 128

/-- The finding of a read laid on the row's marks: the word, or the symbol, at `off` bytes. -/
def State.lay (s : State) (p : Nat) (f : EccFinding) : State :=
  match f with
  | .clean => s
  | .corrected off => if s.marks.any fun m => m.1 = markAt (p + off.val) then s else s.mark (p + off.val) false
  | .uncorrectable off => s.mark (p + off.val) true

/-- A drain uses the write port of pair `p` in sc `x`: it has, or an entry waits for it (R262). -/
def State.drainsPair (s : State) (l p x : Nat) : Bool :=
  let z := (s.line l).ls
  (z.drainAt = x + 1 && z.drained.getLsbD p) || z.held.any fun e => e.2.confirmed && e.2.since < x && pairOf e.2.addr == p

/-- The port that a gleaner read or write of row `r` needs is free in the current cc (Table 8-2, R277); a stack's gleaner
reads through free slots (R298). -/
def State.glnFree (s : State) (m : GleanMem) (r : Nat) (write : Bool) : Bool :=
  match m with
  | .ls l =>
    let p := pairOf (r * 128)
    !s.live || s.held || (if write then !s.writesPair l p s.sc && !s.drainsPair l p s.sc else !s.readsPair l p s.sc)
  | .bb b =>
    !s.live || s.held ||
      (!(s.uses.any fun u => u.write == write && u.due == s.sc && u.owner == .bb b && bbSlice u.addr == bbSlice (r * 128)) &&
       !(s.sc % 16 < s.gShare))
  | .nt _ => false

/-- The next row after `r`, and whether the pass is complete. -/
def nextRow (m : GleanMem) (r : Nat) : Nat × Bool := if r + 1 < glnRows m then (r + 1, false) else (0, true)

/-- The gleaner of a stack: each row that gives a corrected access in two passes is recorded for repair (R296, R298). -/
def StackState.gleaned (k : StackState) (row : Nat) (corrected : Bool) : StackState :=
  if corrected then
    { k with
      ceRows := if k.ceRows.contains row then k.ceRows else row :: k.ceRows
      repair := if k.ceRows.contains row && !k.repair.contains row then k.repair ++ [row] else k.repair }
  else k

/-- The local address of a byte of a slice: the inverse of R293. -/
def ntUnmap (zone : BitVec 24) (slice o : Nat) : Nat :=
  let z := o / 2 ^ 28
  let c := o % 2 ^ 28 / 4096
  if zone.getLsbD z then z * 2 ^ 36 + slice / 32 * 2 ^ 33 + (c * 32 + slice % 32) * 4096 + o % 4096
  else z * 2 ^ 36 + (c * 256 + slice) * 4096 + o % 4096

/-- RCV_ALERT.UE_FOUND for an uncorrectable finding in the row at a physical address (R455): it is set with the finding, not at step 6 of the next
boundary (DESIGN CHOICE, log entry 95). -/
def State.alertRow (s : State) (p : Nat) : State := if (s.badWord p).isSome then s.setAlert 3 else s

/-- The gleaner reads the next row (R270, R298): a row with a held-row entry or in an unpowered group is passed over. -/
def State.glean (s : State) (m : GleanMem) (f : EccFinding) : State :=
  match m with
  | .ls l =>
    let r := (s.line l).ls.glnRow
    let (n, done) := nextRow m r
    let skip := ((s.line l).ls.held.any fun e => e.2.addr == r * 128) || !(s.line l).powered (r * 128)
    let s := s.updLine l fun L =>
      let L := { L with ls.glnRow := n }
      if done then L.count .glnPass else L
    if skip then s
    else (((s.lay (lsPhys l (r * 128)) f).countLine l .glnRows).lsErrors l (r * 128) 1).alertRow (lsPhys l (r * 128))
  | .bb b =>
    let r := (s.bay b).glnRow
    let (n, done) := nextRow m r
    let s := s.updBay b fun z =>
      let z := { z with glnRow := n }
      if done then z.count .bbGlnPass else z
    ((s.lay (bbPhys b (r * 128)) f).bbErrors b (r * 128) 1).alertRow (bbPhys b (r * 128))
  | .nt k =>
    let b := k.val / 4
    let r := ((s.bay b).stk.look k default).glnRow
    let (n, done) := nextRow m r
    let slice := 8 * k.val + r / (0x180000000 / 128)
    let o := r % (0x180000000 / 128) * 128
    let s := s.lay (ntPhys slice o) f
    let s := s.updBay b fun z =>
      let old := (List.range 4).foldl (fun a i => min a (z.stk.look (4 * b + i) default).passes) ((z.stk.look (4 * b) default).passes)
      let z := { z with stk := z.stk.upd k default fun y => { y with glnRow := n, passes := if done then y.passes + 1 else y.passes } }
      let new := (List.range 4).foldl (fun a i => min a (z.stk.look (4 * b + i) default).passes) ((z.stk.look (4 * b) default).passes)
      if old < new then z.count .ntGlnPass else z
    let addr := ntUnmap s.zone slice o
    let p := ntPhys slice o
    let s := s.ntRow slice addr p 1 fun s _ => s.setAlert 3
    if [0, 1].any fun h => match s.accessMarks (p + 64 * h) with | [m] => !m.2 | _ => false then
      (s.queueFix p).updBay b fun z => { z with stk := z.stk.upd k default fun y => y.gleaned (p / 128) true }
    else s

/-- The row that the gleaner of a memory reads next. -/
def State.glnNext (s : State) (m : GleanMem) : Nat :=
  match m with
  | .ls l => (s.line l).ls.glnRow
  | .bb b => (s.bay b).glnRow
  | .nt k => ((s.bay (k.val / 4)).stk.look k default).glnRow

def execGleanerRead (m : GleanMem) (found : EccFinding) (s : State) : Host.Outcome State Fault Refusal :=
  .next (if s.glnFree m (s.glnNext m) false then s.glean m found else s)

/-- The physical rows of a gleaner's memory: the first, and how many bytes. -/
def glnPlace (m : GleanMem) : Nat × Nat :=
  match m with
  | .ls l => (lsPhys l 0, 0x60000)
  | .bb b => (bbPhys b 0, 0x4000000)
  | .nt k => (ntPhys (8 * k.val) 0, 8 * 0x180000000)
/-- The first row of a gleaner's memory that waits for its write-back. -/
def State.nextFix (s : State) (m : GleanMem) : Option Nat :=
  s.fixes.find? fun r => (glnPlace m).1 ≤ r && r < (glnPlace m).1 + (glnPlace m).2

/-- The corrected row is written back: its correctable errors are gone (R270). What a near-tier access holds beyond the symbol code's reach stays
as it is (R296, R297). -/
def State.fixRow (s : State) (p : Nat) : State :=
  let kept (e : Nat × Bool) : Bool := p < 0x18000000000 && accessBad (s.accessMarks (e.1 / 64 * 64))
  { s with marks := s.marks.filter (fun e => !(p ≤ e.1 && e.1 < p + 128 && !e.2) || kept e), fixes := s.fixes.erase p }

/-- GLEANER_WRITE_BACK in a local store or a bay buffer: through a free write port. That of a stack takes a slot (R298). -/
def State.writeBack (s : State) (m : GleanMem) : State :=
  match m, s.nextFix m with
  | .ls l, some p => if s.glnFree m ((p - lsPhys l 0) / 128) true then (s.fixRow p).countLine l .glnCe else s
  | .bb b, some p => if s.glnFree m ((p - bbPhys b 0) / 128) true then (s.fixRow p).countBay b .bbGlnCe else s
  | _, _ => s

/-- One scan step: the next row of 64 words, station by station (R271, R273). A finding in another row is not of this step. -/
def State.scanRow (s : State) (l : Nat) (found : List ParityFinding) : State :=
  let p := (s.line l).ls.glnIs
  let here := found.filter fun f => f.st.code * 64 + f.word.val / 64 = p
  let s := if here = [] then s else s.setAlert 3
  let s := here.foldl (fun s f =>
    (s.queueMapout l f.st.code (f.word.val / 64)).updLine l fun L =>
      let w := f.st.code * 4096 + f.word.val
      { L with isBad := if L.isBad.contains w then L.isBad else w :: L.isBad }) s
  s.updLine l fun L =>
    if p + 1 < 384 then { L with ls.glnIs := p + 1 } else ({ L with ls.glnIs := 0 } : LineState).count .glnIsPass

def execInstructionStoreScan (l : LineId) (found : List ParityFinding) (s : State) : Host.Outcome State Fault Refusal :=
  .next (s.scanRow l found)

end Sys2Proof.Machine
end

