-- ==== Sys2Proof/Machine/NearTier.lean ====
section
/-! DEFINITION. Near-tier slots, free-slot users, stack temperature, bridge crossings as commands (R288 to R297). -/

namespace Sys2Proof.Machine

/-- The scheduled accesses of a slice whose slot sc is now occupy their slots; a read meets what the error code finds (R288,
R289, R296, R297). -/
def State.slotAccess (s : State) (slice : Nat) (f : EccFinding) : State :=
  let mine (u : MemUse) : Bool := u.owner == .nt slice
  let s := (s.uses.filter fun u => mine u && u.due == s.sc && !u.slotted && !u.write).foldl (fun s u =>
    match s.place u with | some p => s.lay p f | none => s) s
  s.ports s.sc mine

/-- A bank of a slice has reached the refresh-management threshold, with `n` commands then pending in the slice (Table 9-3):
HBM_RFM for 48 cc when the reserved slots of the next 64 sc are fewer. -/
def State.refreshDemand (s : State) (stack n : Nat) : State :=
  let need : Bool := match s.refLevel with | 1 => 2 < n | 2 => 4 < n | _ => false
  if need then
    (s.updBay (stack / 4) fun b => { b with stk := b.stk.upd stack default fun k => { k with rfm := sat32 (k.rfm + 1) } }).raiseHold
      0 (.stack stack) (some 48)
  else s

/-- The limit of Table 9-3 in degrees, where the image gives a refresh level. -/
def State.tempLimit (s : State) : Option Nat := match s.refLevel with | 1 => some 85 | 2 => some 95 | _ => none

/-- A 3,120-cc interval of a stack at a temperature (R295): above the limit, HBM_TEMP for 64 cc. -/
def State.tempInterval (s : State) (k degrees : Nat) : State :=
  let hot := s.tempLimit.any fun l => l < degrees
  let s := s.updBay (k / 4) fun b =>
    let bit : BitVec 4 := (1 : BitVec 4) <<< (k % 4)
    { b with stk := b.stk.upd k default fun z => { z with temp := degrees % 256 }
             hot := if hot then b.hot ||| bit else b.hot &&& ~~~bit }
  if hot then s.raiseHold 1 (.stack k) (some 64) else s

def execHbmTempInterval (stack : Fin 32) (degrees rfm : Nat) (s : State) : Host.Outcome State Fault Refusal :=
  .next ((s.tempInterval stack degrees).refreshDemand stack rfm)

/-! ### Free slots (R290) -/

/-- The cc `now + d` is held, as the requests so far fix it (R41). -/
def State.heldIn (s : State) (d : Nat) : Bool :=
  if d < 8 then s.time.hist.getD (7 - d) 0 != 0 else s.causes != 0

/-- The sc of cc `now + d`, for d up to 8 (R38, R41). -/
def State.scIn (s : State) (d : Nat) : Nat :=
  s.sc + ((List.range d).filter fun i => s.live && !s.heldIn i).length

/-- The order of the users (R290). -/
def freeOrder : FreeUser → Nat | .granary => 0 | .fill => 1 | .snapshot => 2 | .host => 3 | .gleaner => 4

/-- The slot is free 4 cc from now: not reserved, and no scheduled access claims it. -/
def State.slotFree (s : State) (slice slot : Nat) : Bool :=
  let x := s.scIn 4
  !s.refreshSlot slice slot x &&
  (!s.live || s.heldIn 4 ||
    (!s.granarySlot slot x && !(s.uses.any fun u => u.owner == .nt slice && u.due == x && u.unit.line % 2 == slot)))

/-- A user commits to the slot 4 cc ahead; of two users of one slot the earlier in the order stands. -/
def State.commitSlot (s : State) (slice slot : Nat) (user : FreeUser) (found : EccFinding) (fix : Bool) : State :=
  let c : FreeCommit := ⟨s.time.now + 4, slice, slot, freeOrder user, found, fix⟩
  let same (f : FreeCommit) : Bool := f.cc == c.cc && f.slice == slice && f.slot == slot
  if !s.slotFree slice slot then s
  else if s.free.any fun f => same f && f.user ≤ c.user then s
  else { s with free := (s.free.filter fun f => !same f) ++ [c] }

/-- The gleaner of a stack whose next row lies in this slice reads it (R298). -/
def State.ntGlean (s : State) (slice : Nat) (f : EccFinding) : Option State :=
  let k := slice / 8
  let r := ((s.bay (k / 4)).stk.look k default).glnRow
  if 8 * k + r / (0x180000000 / 128) = slice then some (s.glean (.nt (Fin.ofNat 32 k)) f) else none

/-- FREE_SLOT_ACCESS: a commit; the access is made in its slot, 4 cc later. -/
def execFreeSlotAccess (slice : Fin 256) (slot : Fin 2) (user : FreeUser) (found : EccFinding) (s : State) :
    Host.Outcome State Fault Refusal :=
  .next (s.commitSlot slice slot user found false)

/-- The gleaner of a stack commits its write-back to the first slot of the row's slice that is free 4 cc ahead (R290, R298). -/
def State.commitFix (s : State) (p : Nat) : State :=
  let slice := p / 0x180000000
  let taken (slot : Nat) : Bool := s.free.any fun f => f.cc == s.time.now + 4 && f.slice == slice && f.slot == slot
  match [0, 1].find? fun slot => s.slotFree slice slot && !taken slot with
  | some slot => s.commitSlot slice slot .gleaner .clean true
  | none => s

def execGleanerWriteBack (m : GleanMem) (s : State) : Host.Outcome State Fault Refusal :=
  .next (match m, s.nextFix m with
    | .nt _, some p => if s.free.any fun f => f.fix && f.slice == p / 0x180000000 then s else s.commitFix p
    | _, _ => s.writeBack m)

/-- A committed slot of the gleaner: its write-back, if no write has cancelled it, or its next row. -/
def State.gleanerSlot (s : State) (f : FreeCommit) : Option State :=
  if f.fix then
    match s.nextFix (.nt (Fin.ofNat 32 (f.slice / 8))) with
    | some p => if p / 0x180000000 = f.slice then some ((s.fixRow p).countBay (f.slice / 32) .ntGlnCe) else none
    | none => none
  else s.ntGlean f.slice f.found

def execPnCrossing (bay : BayId) (s : State) : Host.Outcome State Fault Refusal :=
  .next (if s.live && !s.held then s.crossings bay s.sc else s)

end Sys2Proof.Machine
end

