-- ==== Sys2Proof/Machine/Convert.lean ====
section
/-! DEFINITION. Conversions between formats (R131, R132, Table 4-9), lanes of a beat (Table 4-2), FP64 slices (R144, R145), and
random words (R138 to R143). -/

namespace Sys2Proof.Machine

/-- Philox-4x32-10 (R138). -/
def philoxGo (n : Nat) (c0 c1 c2 c3 k0 k1 : Nat) : Nat × Nat × Nat × Nat :=
  match n with
  | 0 => (c0, c1, c2, c3)
  | f + 1 =>
    let p0 := 0xD2511F53 * c0
    let p1 := 0xCD9E8D57 * c2
    philoxGo f ((p1 / 2 ^ 32) ^^^ c1 ^^^ k0) (p1 % 2 ^ 32) ((p0 / 2 ^ 32) ^^^ c3 ^^^ k1) (p0 % 2 ^ 32)
      ((k0 + 0x9E3779B9) % 2 ^ 32) ((k1 + 0xBB67AE85) % 2 ^ 32)

/-- The random word u for element position p (R139). -/
def randomWord (seed : W64) (stream : Nat) (step : W64) (p : Nat) : Nat :=
  let n := p / 4
  let c0 := n % 2 ^ 32
  let c1 := n / 2 ^ 32 % 2 ^ 14 + stream % 65536 * 65536
  -- R138 lists the words it computes: c = [hi1 ^ c1 ^ k0, lo1, hi0 ^ c3 ^ k1, lo0]
  let r := philoxGo 10 c0 c1 (step.toNat % 2 ^ 32) (step.toNat / 2 ^ 32) (seed.toNat % 2 ^ 32) (seed.toNat / 2 ^ 32)
  match p % 4 with
  | 0 => r.1
  | 1 => r.2.1
  | 2 => r.2.2.1
  | _ => r.2.2.2

/-- Dropout of an FP32 lane (R143). -/
def dropLane (u : Nat) (t : Nat) (r x : W32) : W32 := if t ≤ u then fmul x r else 0

/-! ### Lanes of VX types (Table 6-1, Table 4-2) -/

/-- The element format of a floating-point type code. -/
def vxFmt (t : Nat) : Option EFmt :=
  match t with
  | 0 => some .fp32 | 1 => some .bf16 | 2 => some .fp16 | 6 => some .e4m3 | 7 => some .e5m2
  | 8 => some .e2m3 | 9 => some .e3m2 | 10 => some .e2m1 | _ => none

/-- The FP32 value of a code of type `t`, where FP32 is the common form of R131: exact for every narrower format and for
INT8 and INT16, rounded to nearest even for INT32; MXINT8 is i × 2^-6 (R114). -/
def widenLane (t c : Nat) : W32 :=
  match t with
  | 0 => BitVec.ofNat 32 c
  | 1 => fp32Of (EFmt.bf16.decode c)
  | 2 => fp32Of (EFmt.fp16.decode c)
  | 3 => fp32Of (.int (BitVec.ofNat 32 c).toInt)
  | 4 => fp32Of (.int (BitVec.ofNat 16 c).toInt)
  | 5 => fp32Of (.int (BitVec.ofNat 8 c).toInt)
  | 6 => fp32Of (EFmt.e4m3.decode c)
  | 7 => fp32Of (EFmt.e5m2.decode c)
  | 8 => fp32Of (EFmt.e2m3.decode (c % 64))
  | 9 => fp32Of (EFmt.e3m2.decode (c % 64))
  | 10 => fp32Of (EFmt.e2m1.decode (c % 16))
  | _ => fp32Of (Val.ofInt (BitVec.ofNat 8 c).toInt (-6) false)

/-- Events of one lane: SAT in bit 0, OOW in bit 1, INV in bit 2 (R190). -/
def evBits (sat oow inv : Bool) : BitVec 3 :=
  (if sat then 1 else 0) ||| (if oow then 2 else 0) ||| (if inv then 4 else 0)

/-- An FP32 value converted to type `t` (Table 4-9): the code and the events. An E5M2 infinity stays one; the formats
without infinity saturate it (DEDUCED as a saturation, log entry 11). -/
def narrowLane (t : Nat) (r : Rnd) (x : W32) : Nat × BitVec 3 :=
  let v := fp32Val x
  let sr := match r with | .sr _ => true | _ => false
  match t with
  | 0 => (if v.isNan then 0x7FC00000 else x.toNat, 0)
  | 1 => let c := EFmt.bf16.encode r (if sr then .sat else .inf) false v; (c.1, evBits c.2.1 false false)
  | 2 => let c := EFmt.fp16.encode r (if sr then .sat else .inf) false v; (c.1, evBits c.2.1 false false)
  | 3 => let c := toInt 32 r v; ((BitVec.ofInt 32 c.1).toNat, evBits c.2.1 false c.2.2)
  | 4 => let c := toInt 16 r v; ((BitVec.ofInt 16 c.1).toNat, evBits c.2.1 false c.2.2)
  | 5 => let c := toInt 8 r v; ((BitVec.ofInt 8 c.1).toNat, evBits c.2.1 false c.2.2)
  | 6 => let c := EFmt.e4m3.encode r .sat true v; (c.1, evBits c.2.1 false c.2.2)
  | 7 => let c := EFmt.e5m2.encode r .sat false v; (c.1, evBits c.2.1 false c.2.2)
  | 8 => let c := EFmt.e2m3.encode r .sat true v; (c.1, evBits c.2.1 false c.2.2)
  | 9 => let c := EFmt.e3m2.encode r .sat true v; (c.1, evBits c.2.1 false c.2.2)
  | 10 => let c := EFmt.e2m1.encode r .sat true v; (c.1, evBits c.2.1 false c.2.2)
  | _ =>
    let c := toInt 8 r (match v with | .fin n m e => .fin n m (e + 6) | v => v)
    ((BitVec.ofInt 8 c.1).toNat, evBits c.2.1 false c.2.2)

/-- Largest element exponent emax of an MX element type (Table 4-3). -/
def mxEmax (t : Nat) : Int :=
  match t with
  | 6 => 8 | 7 => 15 | 8 => 2 | 9 => 4 | 10 => 2 | _ => 0

/-- Bits of an element code of an MX element type: containers of the 6-bit types hold zero above bit 5 (R116). -/
def mxCodeBits (t : Nat) : Nat := match t with | 8 => 6 | 9 => 6 | 10 => 4 | _ => 8
/-- Some value is NaN: a block that holds it has the scale code 0xFF and unstated elements (R132). -/
def nanBlock (xs : List W32) : Bool := xs.any fun x => (fp32Val x).isNan

/-- The scale code of a block of 32 FP32 values (R132). -/
def blockScale (t : Nat) (xs : List W32) : Nat :=
  if xs.any fun x => (fp32Val x).isNan then 255
  else
    let mags := xs.filterMap fun x => match fp32Val x with | .fin _ m e => if m = 0 then none else some (e + (Nat.log2 m : Int)) | _ => none
    match mags with
    | [] => 127
    | m :: r =>
      let x := r.foldl max m - mxEmax t
      (max (-127) (min 127 x) + 127).toNat

/-- An element of a block: the value times 2^-X, converted (R132). -/
def blockElem (t : Nat) (r : Rnd) (scale : Nat) (x : W32) : Nat × BitVec 3 :=
  match fp32Val x with
  | .fin n m e =>
    let v := Val.fin n m (e - ((scale : Int) - 127))
    match vxFmt t with
    | some f => let c := f.encode r .sat (t ≠ 7) v; (c.1, evBits c.2.1 false c.2.2)
    | none =>
      let c := toInt 8 r (match v with | .fin n m e => .fin n m (e + 6) | v => v)
      ((BitVec.ofInt 8 c.1).toNat, evBits c.2.1 false c.2.2)
  | _ => narrowLane t r x

/-- The FP32 value of an element with block scale `c` (R117, R131): the exact product, which FP32 holds unless it lies beyond its largest finite
value. -/
def unscaleLane (t code c : Nat) : W32 :=
  let v := scaleVal (fp32Val (widenLane t code)) c
  let r := fp32Of v
  match v, fp32Val r with
  | .fin _ _ _, .inf _ => Config.beyondFp32 t code c
  | _, _ => r

/-- Lanes of `w` bits of a beat or register as natural numbers. -/
def lanesOf {n : Nat} (w : Nat) (v : BitVec n) (cnt : Nat) : List Nat :=
  (List.range cnt).map fun k => v.toNat / 2 ^ (w * k) % 2 ^ w
/-- Natural numbers packed in lanes of `w` bits. -/
def packNat (w : Nat) (ls : List Nat) : Nat :=
  match ls with
  | [] => 0
  | l :: r => l % 2 ^ w + 2 ^ w * packNat w r

/-! ### Split-integer products (R144, R145) -/

/-- The smallest E with |a| < 2^E, of one FP64 value; none when it is zero. -/
def fp64Exp (v : Val) : Option Int :=
  match v with
  | .fin _ m e => if m = 0 then none else some (e + (Nat.log2 m : Int) + 1)
  | _ => none

/-- Digit `s` of M = round_half_even(a × 2^(54 - e)) in balanced base 256 (R145). -/
def f64Digit (v : Val) (e : Int) (s : Nat) : BitVec 8 :=
  match v with
  | .fin _ _ _ =>
    let m := roundAt (e - 54) v
    let go : Nat → Int → Int := fun n m => (List.range n).foldl (fun m _ => (m - ((m + 128) % 256 - 128)) / 256) m
    BitVec.ofInt 8 ((go (6 - s) m + 128) % 256 - 128)
  | _ => 0

end Sys2Proof.Machine
end

