-- ==== Sys2Proof/Machine/Matrix.lean ====
section
/-! DEFINITION. The matrix station (spec/05_matrix_station.md): weight buffers, products into the accumulator store,
anchors, out-of-window reports, speculation of its state. -/

namespace Sys2Proof.Machine

/-- L of R154: 22 sc on B0, 20 on C0, plus MM_PAD (Table 5-10, Table 5-12). -/
def State.mxLat (s : State) (l : Nat) : Nat := s.lat 22 20 ((s.line l).mx.pad.extractLsb' 0 3).toNat
/-- Latency of MX.RDREG: 4 on B0, 3 on C0, plus RD_PAD. -/
def State.rdLat (s : State) (l : Nat) : Nat := s.lat 4 3 ((s.line l).mx.pad.extractLsb' 4 2).toNat

def MxState.activeBuf (m : MxState) : WBuf := if m.active then m.buf1 else m.buf0
def MxState.shadowBuf (m : MxState) : WBuf := if m.active then m.buf0 else m.buf1
def MxState.setShadow (m : MxState) (b : WBuf) : MxState := if m.active then { m with buf0 := b } else { m with buf1 := b }
/-- The anchor of a row for readers in sc `x`; it resets to -18 (R166). -/
def MxState.anchorAt (m : MxState) (row x : Nat) : BitVec 12 := (m.anchors.look row (Stamped.of 0xFEE)).at x
/-- The 128 sheafs of a row that stands cleared by default (R120, R162). -/
def clearedRow : List Sheaf := List.replicate 128 Sheaf.cleared
def MxState.row (m : MxState) (row : Nat) : Stamped (List Sheaf) := m.acc.look row (Stamped.of clearedRow)
/-- The row as a reader of task `t` gets it in sc `x` (R155, Table 5-6): other tasks read a confirmed copy. -/
def MxState.rowFor (m : MxState) (row t x : Nat) : List Sheaf :=
  match m.copies.find row with
  | some (owner, old) => if owner = t then (m.row row).at x else old
  | none => (m.row row).at x

/-- Number of element beats and scale beats of an MX.LW (R157). -/
def scaleBeats (f : Nat) : Nat := if mxScaled f then (match mxClass f with | .c4 => 8 | _ => 4) else 0

/-- The largest scale code other than 0xFF of the scale beats; 0x00 when all are 0xFF; 0x7F for an unscaled format (R168). -/
def recordedScale (f : Nat) (scales : List BeatData) : BitVec 8 :=
  if mxScaled f then
    BitVec.ofNat 8 (((scales.flatMap fun b => lanes8 b).filter fun c => c ≠ 255).foldl max 0)
  else 0x7F
where
  lanes8 (b : BeatData) : List Nat := (List.range 128).map fun k => b.toNat / 2 ^ (8 * k) % 256

/-- One sc of an MX.LW in progress: its element beat and, while they last, its scale beat (R157). -/
def State.lwBeat (s : State) (l : Nat) : State :=
  match (s.line l).mx.lw with
  | none => s
  | some w =>
    if w.c + w.tile.length = s.sc && w.tile.length < 128 then
      let k : Ctx := { st := .mx, l := l, t := w.task, x := s.sc, c0 := w.c, j := w.tile.length, pc := w.pc }
      let (s, b) := s.takeBeat k w.src.toNat w.toff
      let (s, sc) :=
        if w.scales.length < scaleBeats w.wfmt.toNat then
          let (s, b) := s.dequeue k (w.ssel.toNat - 8) (expTag w.c w.toff2)
          (s, [b])
        else (s, [])
      s.updLine l fun L => { L with mx.lw := some { w with tile := w.tile ++ [b], scales := w.scales ++ sc } }
    else s

/-- The shadow buffer becomes LOADED in sc c + 128 (R157, R168). A load that was not issued under an open prediction outlives its refutation (log
entry 81). -/
def State.lwComplete (s : State) (l : Nat) : State :=
  match (s.line l).mx.lw with
  | none => s
  | some w =>
    if w.tile.length = 128 && w.c + 128 ≤ s.sc then
      let r := recordedScale w.wfmt.toNat w.scales
      let b : WBuf := { st := .loaded, fmt := w.wfmt, scale := r, tile := w.tile, scales := w.scales }
      let peak (x : BitVec 8) : BitVec 8 := if mxScaled w.wfmt.toNat && x < r then r else x
      s.updLine l fun L =>
        -- the checkpoint of a prediction under which the MX.LW was not issued takes the load too
        let save (e : Nat × Pred) : Nat × Pred :=
          if w.unconf = some e.1 then e
          else
            let m := e.2.mx
            let m := if L.mx.active then { m with buf0 := b } else { m with buf1 := b }
            (e.1, { e.2 with mx := { m with smax := peak m.smax } })
        let m := L.mx.setShadow b
        ({ L with mx := { m with lw := none, smax := peak L.mx.smax }, cc.preds := L.cc.preds.map save } : LineState).count .mxLw
    else s

/-- Which buffer an MX.LW under a prediction has written (Table 5-6). -/
def LineState.noteWrote (L : LineState) (t : Nat) : LineState :=
  match L.cc.preds.find t with
  | some p =>
    let m := if L.mx.active then { p.mx with wrote0 := true } else { p.mx with wrote1 := true }
    { L with cc.preds := L.cc.preds.put t { p with mx := m } }
  | none => L

/-- MX.LW starts a load; while one is in progress it is MX_WBUF, DETAIL 1 (R157, R160). -/
def State.lwRep (w : FmtO) (s : State) (k : Ctx) (o : Outst) : State × Outst :=
  let s := s.lwComplete k.l
  let L := s.line k.l
  if L.mx.lw.isSome then (s.faultQ .mx k.l k.t .mxWbuf 1, o)
  else
    let u := L.unconf k.t k.x
    let p : LwProg :=
      { c := k.x, task := k.t, pc := (L.q .mx k.t).pc, src := w.src, toff := w.toff
        wfmt := BitVec.ofNat 4 (w.fld 0 4), ssel := BitVec.ofNat 4 (w.fld 4 4), toff2 := BitVec.ofNat 6 (w.fld 8 6)
        tile := [], scales := [], unconf := u }
    (s.setLine k.l (({ L with mx.lw := some p } : LineState) |> fun L => if u.isSome then L.noteWrote k.t else L), o)

def execMxLw (q : Queue) (w : FmtO) (s : State) : Host.Outcome State Fault Refusal :=
  s.issueRep .mx q (.mxLw q w) (State.lwRep w)

def execMxLwComplete (l : LineId) (s : State) : Host.Outcome State Fault Refusal :=
  .next (if s.live && !s.held then s.lwComplete l else s)

/-- MX.SWAP exchanges the active and the shadow buffer (R158, R160). -/
def State.swapRep (s : State) (k : Ctx) (o : Outst) : State × Outst :=
  let s := s.lwComplete k.l
  let m := (s.line k.l).mx
  if m.lw.isSome || m.shadowBuf.st ≠ .loaded then
    let s := if m.lw.isSome then s.faultQ .mx k.l k.t .mxWbuf 1 else s
    (if m.shadowBuf.st ≠ .loaded then s.faultQ .mx k.l k.t .mxWbuf 2 else s, o)
  else (s.updLine k.l fun L => { L with mx.active := !L.mx.active }, o)

def execMxSwap (q : Queue) (w : FmtO) (s : State) : Host.Outcome State Fault Refusal :=
  s.issueRep .mx q (.mxSwap q w) State.swapRep

/-! ### MX.MM and MX.ACLR -/

/-- The scale code of block `b` of row r of a scale beat (R169). -/
def actScale (f : Nat) (beat : BeatData) (r b : Nat) : Nat :=
  let bpr := if mxClass f = .c4 then 8 else 4
  beat.toNat / 2 ^ (8 * (r * bpr + b)) % 256

/-- The term of row k and column n (R152, R153). -/
def mxTerm (buf : WBuf) (f : Nat) (act scale : BeatData) (r k n : Nat) : Val :=
  let wf := buf.fmt.toNat
  let a := mxElem f (actElem f act k)
  let b := mxElem wf (weightCode wf buf.tile k n)
  if mxScaled f then (scaleVal a (actScale f scale r (k / 32))).mul (scaleVal b (weightScale buf.scales (k / 32) n))
  else a.mul b

/-- The terms of one column, added into a cleared sheaf (R121, R152). -/
def mxColumn (buf : WBuf) (f : Nat) (act scale : BeatData) (r : Nat) (a : Int) (n : Nat) : Sheaf :=
  (List.range (mxClass f).k).foldl (fun s k => s.addTerm (mxTerm buf f act scale r k n) a) Sheaf.cleared

/-- Rows covered by one activation scale beat (R169). -/
def scaleRows (f : Nat) : Nat := if mxClass f = .c4 then 16 else 32

/-- One repeat of MX.MM (R152, R154, R160, R169). -/
def State.mmRepeat (w : FmtO) (s : State) (k : Ctx) (o : Outst) : State × Outst :=
  let f := w.fld 8 4
  let row := w.fld 0 7 + k.j
  let s := s.lwComplete k.l
  let buf := (s.line k.l).mx.activeBuf
  let (s, act) := s.takeBeat k w.src.toNat w.toff
  let (s, o) :=
    if mxScaled f && k.j % scaleRows f = 0 then
      let (s, b) := s.dequeue k (w.fld 12 4 - 8) (expTag k.c0 (BitVec.ofNat 6 (w.fld 16 6)))
      (s, { o with buf := [b] })
    else (s, o)
  let s := s.countLine k.l .mxMm
  if buf.st ≠ .loaded then (s.faultK k .mxWbuf 3, o)
  else if !mxPair f buf.fmt.toNat then (s.faultK k .mxFormat, o)
  else if 127 < row then (s, o)
  else
    let L := s.line k.l
    let a := (L.mx.anchorAt row k.x).toInt
    let sums := (List.range 128).map fun n => mxColumn buf f act (o.buf.headD 0) (k.j % scaleRows f) a n
    let c : MxCommit :=
      { due := k.x + s.mxLat k.l - 1, issue := k.x, row := row, clear := w.fld 7 1 = 1, isMm := true, sums := sums
        oow := sums.any (·.oow), task := k.t, pc := (L.q .mx k.t).pc, unconf := L.unconf k.t k.x, dead := false }
    (s.updLine k.l fun L => { L with mx.commits := L.mx.commits ++ [c] }, o)

/-- A repeat count set by REP that runs past row 127 (Table 5-7). -/
def State.rowCheck (w : FmtO) (s : State) (k : Ctx) (o : Outst) : State × Outst :=
  if 127 < w.fld 0 7 + o.total - 1 then (s.faultK k .mxRow, o) else (s, o)

def execMxMm (q : Queue) (w : FmtO) (s : State) : Host.Outcome State Fault Refusal :=
  s.issueRep .mx q (.mxMm q w) (State.mmRepeat w) (State.rowCheck w)

/-- One repeat of MX.ACLR (R164). -/
def State.aclrRepeat (w : FmtO) (s : State) (k : Ctx) (o : Outst) : State × Outst :=
  let row := w.fld 0 7 + k.j
  if 127 < row then (s, o)
  else
    let L := s.line k.l
    let c : MxCommit :=
      { due := k.x + s.mxLat k.l - 1, issue := k.x, row := row, clear := true, isMm := false, sums := clearedRow
        oow := false, task := k.t, pc := (L.q .mx k.t).pc, unconf := L.unconf k.t k.x, dead := false }
    (s.updLine k.l fun L => { L with mx.commits := L.mx.commits ++ [c] }, o)

def execMxAclr (q : Queue) (w : FmtO) (s : State) : Host.Outcome State Fault Refusal :=
  s.issueRep .mx q (.mxAclr q w) (State.aclrRepeat w) (State.rowCheck w)

/-- The cold word of a sheaf is updated when a column sum is added (R165). -/
def coldUpdate (old : BitVec 144) (sum : BitVec 144) : Bool :=
  let h := (old.extractLsb' 0 64).toInt
  let x := sum.toInt
  !(-(2 ^ 63) ≤ x && x < 2 ^ 63 && -(2 ^ 63) ≤ h + x && h + x < 2 ^ 63)

/-- An out-of-window repeat reported (R170): status, first report, fault. -/
def State.oowReport (s : State) (l row issue : Nat) (f : Nat) (task pc : Nat) (resolve : Bool) : State :=
  let s := s.updLine l fun L =>
    { L with mx := { L.mx with oow := true
                               oowFirst := if L.mx.oowFirst.isSome then L.mx.oowFirst else some row
                               oowSc := if L.mx.oowFirst.isSome then L.mx.oowSc else issue } }
  if (s.line l).mx.cfg.getLsbD 0 then
    s.faultAt f .arithOow 0 ⟨l, 3, task, true, pc⟩ UnitRef.none 0 row 0 0 resolve
  else s

/-- An out-of-window repeat counts in its commit sc, squashed or not (R170, R172). -/
def LineState.countOow (L : LineState) : LineState :=
  ({ L with mx.oowCnt := sat32 (L.mx.oowCnt + 1) } : LineState).count .mxOowRep

/-- The commit of one repeat at the end of sc `c.due` (R154, R155, R164, R165, R170, R172, R173). A commit of another task to a row with a
confirmed copy goes to the row and not to the copy (log entry 81). A cold word that a refuted repeat would have updated is not counted in
MX_CNT_COLD (log entry 62). -/
def State.commitRow (s : State) (l : Nat) (c : MxCommit) : State :=
  if c.dead then (if c.oow then s.updLine l LineState.countOow else s) else
  let L := s.line l
  let old := L.mx.row c.row
  let base := if c.clear then clearedRow else old.at (c.due + 1)
  let new := (base.zip c.sums).map fun p => p.1.add p.2
  let cold := if c.isMm then ((base.zip c.sums).filter fun p => coldUpdate p.1.v p.2.v).length else 0
  -- the confirmed copy of a row first committed under a prediction
  let need := c.unconf.isSome && (L.mx.copies.find c.row).isNone
  let s := if need && 8 ≤ L.mx.copies.length then s.faultAt c.due .mxSpec 0 ⟨l, 3, c.task, true, c.pc⟩ else s
  let s := s.updLine l fun L =>
    let copies := match c.unconf with
      | some t => if need && L.mx.copies.length < 8 then L.mx.copies.put c.row (t, old.at (c.due + 1)) else L.mx.copies
      | none => L.mx.copies
    ({ L with mx.acc := L.mx.acc.put c.row (old.write c.due new), mx.copies := copies } : LineState).count .mxCold cold
  if c.oow then
    let s := s.updLine l LineState.countOow
    match c.unconf with
    | some t => s.updLine l fun L =>
        match L.cc.preds.find t with
        | some p => { L with cc.preds := L.cc.preds.put t { p with oowRep := p.oowRep ++ [⟨c.row, c.issue, c.pc⟩] } }
        | none => L
    | none => s.oowReport l c.row c.issue c.due c.task c.pc false
  else s

/-- The commits of a line that are due in sc `x`, in issue order (R155). -/
def State.mxCommits (s : State) (l x : Nat) : State :=
  let due := (s.line l).mx.commits.filter fun c => c.due ≤ x
  let s := due.foldl (fun s c => s.commitRow l c) s
  s.updLine l fun L => { L with mx.commits := L.mx.commits.filter fun c => x < c.due }

def execMxMmCommit (l : LineId) (s : State) : Host.Outcome State Fault Refusal :=
  .next (if s.live && !s.held then s.mxCommits l s.sc else s)

/-! ### Anchors and register reads -/

/-- The anchor that MX.ANCHOR sets (R167). -/
def State.anchorOf (s : State) (k : Ctx) (w : FmtO) : BitVec 12 :=
  match w.fld 14 2 with
  | 0 => BitVec.ofNat 12 (w.fld 16 12)
  | 1 => (s.scalar k (w.fld 16 6)).extractLsb' 0 12
  | _ =>
    let sa : Int := ((s.scalar k (w.fld 16 6)).extractLsb' 0 8).toNat
    let a : Int := w.fld 22 6 + (sa - 127) + (((s.line k.l).mx.smax.toNat : Int) - 127) - 119
    BitVec.ofInt 12 (max (-2048) (min 2047 a))

/-- The rows ROW to ROW + CNT take the anchor, in force from the next sc (R166). -/
def State.anchorRep (w : FmtO) (s : State) (k : Ctx) (o : Outst) : State × Outst :=
  let s := s.lwComplete k.l
  let a := s.anchorOf k w
  let set (t : Tbl (Stamped (BitVec 12))) (i : Nat) := t.upd (w.fld 0 7 + i) (Stamped.of 0xFEE) fun v => v.write k.x a
  (s.updLine k.l fun L => { L with mx.anchors := (List.range (w.fld 7 7 + 1)).foldl set L.mx.anchors }, o)

def execMxAnchor (q : Queue) (w : FmtO) (s : State) : Host.Outcome State Fault Refusal :=
  s.issueRep .mx q (.mxAnchor q w) (State.anchorRep w)

/-- MX.RDREG (Table 5-8, Table 5-9). -/
def State.rdregRep (w : FmtO) (s : State) (k : Ctx) (o : Outst) : State × Outst :=
  let s := s.lwComplete k.l
  let m := (s.line k.l).mx
  let v : W64 := match w.fld 6 2 with
    | 0 => m.smax.setWidth 64
    | 1 => m.activeBuf.scale.setWidth 64
    | 2 => m.shadowBuf.scale.setWidth 64
    | _ => BitVec.ofNat 64 m.oowCnt
  (s.updLine k.l fun L =>
    let L := L.writeSreg k.x k.t (w.fld 0 6) (k.x + s.rdLat k.l) v true
    if w.fld 8 1 = 1 then { L with mx.smax := 0 } else L, o)

def execMxRdreg (q : Queue) (w : FmtO) (s : State) : Host.Outcome State Fault Refusal :=
  s.issueRep .mx q (.mxRdreg q w) (State.rdregRep w)

end Sys2Proof.Machine
end

