-- ==== Sys2Proof/Machine/Vector.lean ====
section
/-! DEFINITION. The vector station (spec/06_vector_permute.md): operands and results, element-wise operations, accumulator
reads, running rows, summaries, conversions, dropout, rotary unit, FP64 slices. -/

namespace Sys2Proof.Machine

/-! ### Latencies, operands, results -/

/-- Native latencies of Table 6-4, B0 and C0, by entry. -/
def vxNative : List (Nat × Nat) :=
  [(4, 3), (4, 3), (2, 2), (11, 9), (8, 7), (9, 8), (15, 12), (26, 22), (40, 34), (48, 40), (3, 3), (6, 5), (7, 6), (6, 5),
   (3, 3), (4, 3), (5, 4)]
/-- PAD field of an entry (R187, R207). -/
def VxState.padOf (v : VxState) (e : Nat) : Nat :=
  let r := if e < 8 then v.pad0 else if e < 16 then v.pad1 else v.pad2
  (r.extractLsb' (4 * (e % 8)) 4).toNat
/-- Latency of an entry of Table 6-4 in force. -/
def State.vxLat (s : State) (l e : Nat) : Nat :=
  let n := vxNative.getD e (0, 0)
  s.lat n.1 n.2 ((s.line l).vx.padOf e)

/-- An operand of a VX instruction in a repeat: a stream or queue beat, a vector register or part of one, or a scalar
broadcast in lanes of `w` bits (R181 to R183). -/
def State.vxOperand (s : State) (k : Ctx) (row : Bool) (w : Nat) (sel fld : Nat) : State × VecReg :=
  if sel < 4 || 8 ≤ sel then
    let (s, b) := s.takeBeat k sel (BitVec.ofNat 6 fld)
    (s, b.setWidth 4096)
  else if sel = 5 then
    let v := (s.scalar k fld).toNat % 2 ^ w
    (s, BitVec.ofNat 4096 (packNat w (List.replicate (if row then 128 else 1024 / w) v)))
  else
    let base := fld % 32
    let adv := fld / 32
    if row then (s, (s.line k.l).vreg ((base + adv * k.j) % 32) k.t k.x)
    else (s, (getPart ((s.line k.l).vreg ((base + adv * (k.j / 4)) % 32) k.t k.x) (k.j % 4)).setWidth 4096)

/-- The destination of repeat `j` (R181, R182). -/
def vxDest (dst : BitVec 4) (dreg : Nat) (row : Bool) (j : Nat) : Dest :=
  if dst = 6 then
    if row then .vreg ((dreg % 32 + dreg / 32 * j) % 32) else .vpart ((dreg % 32 + dreg / 32 * (j / 4)) % 32) (j % 4)
  else destOf dst 0

/-- A VX result with its output sc (R184). -/
def State.vxEmit (s : State) (k : Ctx) (entry : Nat) (dest : Dest) (v : VecReg) (ev : BitVec 3 := 0) : State :=
  s.emit k (k.x + s.vxLat k.l entry) dest v ev

/-- Lanes of an operand: 128 of 32 bits in row form, those of a beat otherwise. -/
def vxLanes (row : Bool) (w : Nat) (v : VecReg) : List Nat := lanesOf w v (if row then 128 else 1024 / w)

/-! ### Arithmetic events (R190) -/

/-- The report of one repeat with events at sc `f`: first event, enables, fault. -/
def State.vxReport (s : State) (l task pc : Nat) (ev : BitVec 3) (f outSc : Nat) (resolve : Bool) : State :=
  let code : BitVec 2 := if ev.getLsbD 0 then 1 else if ev.getLsbD 1 then 2 else 3
  let s := s.updLine l fun L =>
    { L with vx := { L.vx with
        evFirst := if L.vx.evFirst.isSome then L.vx.evFirst else some (code, task)
        evSc := if L.vx.evFirst.isSome then L.vx.evSc else outSc } }
  let cfg := (s.line l).vx.cfg
  let u : UnitRef := ⟨l, 4, task, true, pc⟩
  let s := if ev.getLsbD 0 && cfg.getLsbD 0 then s.faultAt f .arithSat 0 u UnitRef.none 0 0 0 0 resolve else s
  let s := if ev.getLsbD 1 && cfg.getLsbD 1 then s.faultAt f .arithOow 0 u UnitRef.none 0 0 0 0 resolve else s
  if ev.getLsbD 2 && cfg.getLsbD 2 then s.faultAt f .arithInv 0 u UnitRef.none 0 0 0 0 resolve else s

/-- VX_CNT_SAT, VX_CNT_OOW and VX_CNT_INV count a repeat with such lanes (R190). -/
def LineState.countEv (L : LineState) (ev : BitVec 3) : LineState :=
  let L := if ev.getLsbD 0 then L.count .vxSat else L
  let L := if ev.getLsbD 1 then L.count .vxOow else L
  if ev.getLsbD 2 then L.count .vxInv else L

/-- The events of a repeat at its output sc: sticky flags, counters, status, and the report, which waits under an
unconfirmed prediction (Table 6-13). Of a refuted repeat only the counters remain. SAT, OOW and INV of VX_STATUS are set at the output sc of an
unconfirmed repeat too, and a refutation leaves them (DESIGN CHOICE, log entry 100). -/
def State.vxEvent (s : State) (l : Nat) (o : PendOut) : State :=
  if o.ev = 0 then s
  else if !o.valid then s.updLine l fun L => L.countEv o.ev
  else
    let s := s.updLine l fun L =>
      ({ L with vx.sticky := L.vx.sticky.upd o.task 0 (· ||| o.ev), vx.status := L.vx.status ||| o.ev } : LineState).countEv o.ev
    match o.unconf with
    | some t => s.updLine l fun L =>
        match L.cc.preds.find t with
        | some p => { L with cc.preds := L.cc.preds.put t { p with vxEv := p.vxEv ++ [(o.ev, o.pc, o.due)] } }
        | none => L
    | none => s.vxReport l o.task o.pc o.ev o.due o.due false

/-- A result of the VX that names a vector register. -/
def PendOut.isVr (o : PendOut) : Bool :=
  o.valid && (match o.dest with | .vreg _ => true | .vpart _ _ => true | _ => false)

/-- A result put before those of later-issued instructions. -/
def byIssue (o : PendOut) (l : List PendOut) : List PendOut :=
  match l with
  | [] => [o]
  | p :: r => if o.issue < p.issue then o :: p :: r else p :: byIssue o r

/-- The VX results of a line due in sc `x`: events, then each result, those of the later-issued instruction last; a third vector register
write of one output sc is VX_VRPORT (R184). -/
def State.vxOutputs (s : State) (l x : Nat) : State :=
  let (now, rest) := (s.line l).dueOuts .vx x
  let due := now.foldl (fun a o => byIssue o a) []
  let s := s.updLine l fun L => { L with outs := rest }
  let s := due.foldl (fun s o => (s.vxEvent l o).land l o) s
  match (due.filter PendOut.isVr).drop 2 with
  | [] => s
  | o :: _ => s.faultAt o.due .vxVrport 0 ⟨l, 4, o.task, true, o.pc⟩

def execVxOutput (l : LineId) (s : State) : Host.Outcome State Fault Refusal :=
  .next (if s.live && !s.held then s.vxOutputs l s.sc else s)

/-! ### Element-wise operations (R188) -/

/-- Bits of a lane of a TYPE code. -/
def typeWidth (t : Nat) : Nat := match t with | 0 => 32 | 3 => 32 | 5 => 8 | _ => 16

/-- A signed lane. -/
def sgn (w c : Nat) : Int := (BitVec.ofNat w c).toInt
/-- An integer modulo 2^w. -/
def modW (w : Nat) (i : Int) : Nat := (BitVec.ofInt w i).toNat
/-- All ones when true (CMP functions). -/
def ones (w : Nat) (b : Bool) : Nat := if b then 2 ^ w - 1 else 0
/-- An FP lane result of type `t` from FP32 (R119). -/
def fpBack (t : Nat) (x : W32) : Nat := (narrowLane t .rne x).1

/-- VX.OP on one lane of type `t` (Table 6-5). -/
def vxOpLane (f t a b : Nat) : Nat :=
  let w := typeWidth t
  let fp := vxIsFp t
  let x := widenLane t a
  let y := widenLane t b
  match f with
  | 0 => a
  | 1 => if fp then fpBack t (fadd x y) else (a + b) % 2 ^ w
  | 2 => if fp then fpBack t (fsub x y) else modW w ((a : Int) - b)
  | 3 => if fp then fpBack t (fmul x y) else a * b % 2 ^ w
  | 4 => if fp then fpBack t (fmin x y) else if sgn w b < sgn w a then b else a
  | 5 => if fp then fpBack t (fmax x y) else if sgn w a < sgn w b then b else a
  | 6 => if fp then fpBack t (fabs' x) else modW w (if sgn w a < 0 then -sgn w a else sgn w a)
  | 7 => if fp then fpBack t (fneg x) else modW w (-sgn w a)
  | 8 => a &&& b
  | 9 => a ||| b
  | 10 => a ^^^ b
  | 11 => a * 2 ^ (b % w) % 2 ^ w
  | 12 => modW w (sgn w a / 2 ^ (b % w))
  | 13 => ones w (if fp then (fp32Val x).eq (fp32Val y) else a = b)
  | 14 => ones w (if fp then (fp32Val x).lt (fp32Val y) else sgn w a < sgn w b)
  | 15 => ones w (if fp then (fp32Val x).lt (fp32Val y) || (fp32Val x).eq (fp32Val y) else sgn w a ≤ sgn w b)
  | _ => a / 2 ^ (b % w)

/-- Latency entry of a VX.OP (Table 6-4). -/
def vxOpEntry (f t : Nat) : Nat := if (f = 1 || f = 2 || f = 3) && vxIsFp t then 1 else 2

/-- A repeat of a VX instruction is counted (R207). -/
def State.vxCount (s : State) (k : Ctx) : State := s.countLine k.l .vxRep

def State.vxOpRep (w : FmtO) (s : State) (k : Ctx) (o : Outst) : State × Outst :=
  let f := w.fld 13 5
  let t := w.fld 10 3
  let s2 := w.fld 0 4
  let wd := typeWidth t
  let row := vxRowSel w.src.toNat && vxRowSel s2 && w.dst = 6
  let s := s.vxCount k
  let (s, a) := s.vxOperand k row wd w.src.toNat w.toff.toNat
  let (s, b) := if s2 = 4 then (s, 0) else s.vxOperand k row wd s2 (w.fld 4 6)
  let r := ((vxLanes row wd a).zip (vxLanes row wd b)).map fun p => vxOpLane f t p.1 p.2
  (s.vxEmit k (vxOpEntry f t) (vxDest w.dst (w.fld 18 6) row k.j) (BitVec.ofNat 4096 (packNat wd r)), o)

def execVxOp (q : Queue) (w : FmtO) (s : State) : Host.Outcome State Fault Refusal :=
  s.issueRep .vx q (.vxOp q w) (State.vxOpRep w)

/-- The lanes of three sources, zipped. -/
def zip3 (a b c : List Nat) : List (Nat × Nat × Nat) := a.zip (b.zip c)

def State.vx3Rep (w : FmtO) (wd entry : Nat) (f : Nat → Nat → Nat → Nat) (s : State) (k : Ctx) (o : Outst) :
    State × Outst :=
  let s2 := w.fld 0 4
  let s3 := w.fld 10 4
  let row := vxRowSel w.src.toNat && vxRowSel s2 && vxRowSel s3 && w.dst = 6
  let s := s.vxCount k
  let (s, a) := s.vxOperand k row wd w.src.toNat w.toff.toNat
  let (s, b) := s.vxOperand k row wd s2 (w.fld 4 6)
  let (s, c) := s.vxOperand k row wd s3 (w.fld 14 6)
  let r := (zip3 (vxLanes row wd a) (vxLanes row wd b) (vxLanes row wd c)).map fun p => f p.1 p.2.1 p.2.2
  (s.vxEmit k entry (vxDest w.dst (w.fld 22 6) row k.j) (BitVec.ofNat 4096 (packNat wd r)), o)

/-- One repeat of VX.FMA: SRC × SRC2 + SRC3 with one rounding (Table 6-2). -/
def State.fmaRep (w : FmtO) : State → Ctx → Outst → State × Outst :=
  let t := w.fld 20 2
  State.vx3Rep w (typeWidth t) 1 fun a b c => fpBack t (ffma (widenLane t a) (widenLane t b) (widenLane t c))

def execVxFma (q : Queue) (w : FmtO) (s : State) : Host.Outcome State Fault Refusal :=
  s.issueRep .vx q (.vxFma q w) (State.fmaRep w)

/-- One repeat of VX.SEL: the SRC lane where the SRC3 lane is not zero, else the SRC2 lane (Table 6-2). -/
def State.selRep (w : FmtO) : State → Ctx → Outst → State × Outst :=
  let wd := match w.fld 20 2 with | 0 => 32 | 1 => 16 | _ => 8
  State.vx3Rep w wd 2 fun a b c => if c ≠ 0 then a else b

def execVxSel (q : Queue) (w : FmtO) (s : State) : Host.Outcome State Fault Refusal :=
  s.issueRep .vx q (.vxSel q w) (State.selRep w)

/-- The functions of Table 6-6. -/
def vxFn (f : Nat) (x : W32) : W32 :=
  match f with
  | 0 => fexp2 x | 1 => flog2 x | 2 => frcp x | 3 => frsqrt x | 4 => fsqrt x | 5 => fexp x | 6 => fln x
  | 7 => fsigm x | 8 => ftanh x | 9 => ferf x | _ => fgelu x
/-- Latency entry of a VX.FN function (Table 6-4). -/
def vxFnEntry (f : Nat) : Nat :=
  match f with
  | 0 => 3 | 1 => 3 | 2 => 4 | 3 => 4 | 4 => 5 | 5 => 6 | 6 => 6 | 7 => 7 | 8 => 7 | 9 => 8 | _ => 9

def State.vxFnRep (w : FmtO) (s : State) (k : Ctx) (o : Outst) : State × Outst :=
  let f := w.fld 0 4
  let t := w.fld 4 3
  let wd := typeWidth t
  let row := vxRowSel w.src.toNat && w.dst = 6
  let s := s.vxCount k
  let (s, a) := s.vxOperand k row wd w.src.toNat w.toff.toNat
  let r := (vxLanes row wd a).map fun c => fpBack t (vxFn f (widenLane t c))
  (s.vxEmit k (vxFnEntry f) (vxDest w.dst (w.fld 7 6) row k.j) (BitVec.ofNat 4096 (packNat wd r)), o)

def execVxFn (q : Queue) (w : FmtO) (s : State) : Host.Outcome State Fault Refusal :=
  s.issueRep .vx q (.vxFn q w) (State.vxFnRep w)

/-! ### Accumulator reads (R189, R200) -/

/-- One sheaf read to FP32, BF16 or FP16 with its events. -/
def readLane (f : EFmt) (a : Int) (x : Sheaf) : Nat × BitVec 3 :=
  let (c, sat) := x.read a f
  (c, evBits sat x.oow false)

/-- The OR of the events of lanes. -/
def evOr (l : List (Nat × BitVec 3)) : BitVec 3 := l.foldl (fun e p => e ||| p.2) 0

/-- An FP64 element of a row (R200). -/
def readFp64 (rowAnchor : BitVec 12) (off : Int) (x : Sheaf) : Nat × BitVec 3 :=
  if rowAnchor.toInt = -2048 || off = -1940 then (EFmt.fp64.nan, evBits false x.oow false) else readLane .fp64 (rowAnchor.toInt + off) x

/-- What repeat `b` of a row reads in MODE (Table 6-7): the beat or register, and the events. -/
def accBeat (mode : Nat) (row : Bool) (a : BitVec 12) (sh : List Sheaf) (offs : BeatData) (b : Nat) : VecReg × BitVec 3 :=
  let lanes (w n : Nat) (f : EFmt) :=
    let l := ((sh.drop (n * b)).take n).map (readLane f a.toInt)
    (BitVec.ofNat 4096 (packNat w (l.map (·.1))), evOr l)
  match mode with
  | 0 => if row then lanes 32 128 .fp32 else lanes 32 32 .fp32
  | 1 => lanes 16 64 .bf16
  | 2 => lanes 16 64 .fp16
  | 3 => ((sheafBeat ((sh.drop (7 * b)).take 7)).setWidth 4096, 0)
  | _ =>
    let l := (List.range 16).map fun i =>
      let n := 16 * b + i
      readFp64 a (offs.extractLsb' (16 * (n % 64)) 16).toInt (sh.getD n Sheaf.cleared)
    (BitVec.ofNat 4096 (packNat 64 (l.map (·.1))), evOr l)

def State.accrdBegin (w : FmtO) (s : State) (k : Ctx) (o : Outst) : State × Outst :=
  let ar := if w.fld 20 1 = 1 then ((((s.line k.l).q .vx k.t).arOf (w.fld 21 4)).toNat % 128) else 0
  (s, { o with nums := [w.fld 0 7 + ar] })

def State.accrdRep (w : FmtO) (s : State) (k : Ctx) (o : Outst) : State × Outst :=
  let mode := w.fld 7 3
  let rowForm := w.dst = 6
  let bpr := accBeats mode rowForm
  let row := o.nums.headD 0 + k.j / bpr
  let s := s.vxCount k
  let (s, o) :=
    if mode = 4 && k.j % 4 = 0 then
      let (s, b) := s.vxOperand k false 16 (w.fld 10 4) (w.fld 14 6)
      (s, { o with buf := [getPart b 0] })
    else (s, o)
  if 127 < row then (s.faultK k .vxRow, o)
  else
    let m := (s.line k.l).mx
    let (v, ev) := accBeat mode rowForm (m.anchorAt row k.x) (m.rowFor row k.t k.x) (o.buf.headD 0) (k.j % bpr)
    let dreg := if mode = 4 then 0 else w.fld 14 6
    (s.vxEmit k 0 (vxDest w.dst dreg rowForm k.j) v ev, o)

def execVxAccrd (q : Queue) (w : FmtO) (s : State) : Host.Outcome State Fault Refusal :=
  s.issueRep .vx q (.vxAccrd q w) (State.accrdRep w) (State.accrdBegin w)

/-! ### Conversions (R195, R196) and random draws (R197) -/

/-- The three scalars of R197: step, base position and stream, seed. -/
structure Draw where
  step   : W64
  base   : Nat
  stream : Nat
  seed   : W64
  deriving DecidableEq, Repr, Inhabited

def State.drawOf (s : State) (k : Ctx) (r : Nat) : Draw :=
  let b := s.scalar k (r + 1)
  { step := s.scalar k r, base := b.toNat % 2 ^ 48, stream := b.toNat / 2 ^ 48
    seed := let n := (s.scalar k (r + 2)).toNat % 16
            match s.job.seeds[n]? with | some v => v | none => Config.missingSeed n }
/-- The random word of element `e` counted from the base (R197). -/
def Draw.word (d : Draw) (e : Nat) : Nat := randomWord d.seed d.stream d.step ((d.base + e) % 2 ^ 48)

/-- The rounding of element `e` under RND. Table 4-9 gives RTZ for the integer types alone; R119 rounds to BF16 and FP16 to nearest even, and the
model so to the other floating-point types (log entry 76). -/
def cvtRnd (w : FmtO) (d : Draw) (e : Nat) : Rnd :=
  let toInt := w.fld 4 4 = 3 || w.fld 4 4 = 4 || w.fld 4 4 = 5 || w.fld 4 4 = 11
  match w.fld 9 2 with | 0 => .rne | 1 => if toInt then .rtz else .rne | _ => .sr (d.word e)

/-- Byte of a scale beat for block `b` of group `g` (R196). -/
def scaleByte (t g b : Nat) : Nat := if t = 10 then 8 * (g / 2 % 16) + 4 * (g % 2) + b else 4 * (g % 32) + b

/-- The element codes of a group gathered so far, from its source beats or its register. -/
def groupCodes (w : FmtO) (buf : List BeatData) (g : Nat) : List Nat :=
  let t := w.fld 0 4
  if w.src = 6 then (buf.flatMap fun b => lanesOf 32 b 32)
  else if vxBits t = 4 then (lanesOf 4 (buf.headD 0) 256 |>.drop (128 * (g % 2))).take 128
  else buf.flatMap fun b => lanesOf (vxBits t) b (1024 / vxBits t)

/-- The elements of a group as FP32 values (R117, R131); block scales apply when FROM is an element type with MXB = 1. -/
def groupVals (w : FmtO) (codes : List Nat) (scale : BeatData) (g : Nat) : List W32 :=
  let t := w.fld 0 4
  let unscale := w.fld 8 1 = 1 && vxMxElem t
  codes.zipIdx.map fun p =>
    if unscale then unscaleLane t p.1 (scale.toNat / 2 ^ (8 * scaleByte t g (p.2 / 32)) % 256) else widenLane t p.1

/-- Elements `lo` to `lo + n - 1` of a group converted, with their events, and the four scale codes when TO is an MX
element type. The elements of a block with scale code 0xFF are bytes of `free`: R132 states none (log entry 65). -/
def cvtElems (w : FmtO) (d : Draw) (free : BeatData) (g : Nat) (vals : List W32) (lo n : Nat) : List (Nat × BitVec 3) × List Nat :=
  let t := w.fld 4 4
  if w.fld 8 1 = 1 && vxMxElem t then
    let sc := (List.range 4).map fun b => blockScale t ((vals.drop (32 * b)).take 32)
    (((vals.drop lo).take n).zipIdx.map fun p =>
      let e := lo + p.2
      if sc.getD (e / 32) 127 = 255 then ((laneOf 8 free e).toNat % 2 ^ mxCodeBits t, 0)
      else blockElem t (cvtRnd w d (g * 128 + e)) (sc.getD (e / 32) 127) p.1, sc)
  else
    (((vals.drop lo).take n).zipIdx.map fun p => narrowLane t (cvtRnd w d (g * 128 + lo + p.2)) p.1, [])

/-- A beat with byte `i` set to `v` where it was zero. -/
def orByte (b : BeatData) (i v : Nat) : BeatData := b ||| BitVec.ofNat 1024 (v % 256 * 2 ^ (8 * i))

/-- One issue sc of a VX.CVT: group g = j div k, phase j mod k (R195, R196). `buf` holds the group's source beats, `buf2` the shared
E2M1 beat, the source's scale beat, the destination's scale beat and the events of the group so far, `nums` the first half of an E2M1
destination beat. A group's events are reported once, with its last destination beat (log entry 76). RSREG to RSREG + 2 are read in each issue sc of a
repeat (R197; DESIGN CHOICE, log entry 113). -/
def State.cvtStep (w : FmtO) (s : State) (k : Ctx) (o : Outst) : State × Outst :=
  let f := w.fld 0 4
  let t := w.fld 4 4
  let kk := cvtK w
  let g := k.j / kk
  let ph := k.j % kk
  let groups := o.total / kk
  let ns := groupBeats w.src f
  let nd := groupBeats w.dst t
  let mxb := w.fld 8 1 = 1
  let toMx := mxb && vxMxElem t
  let s := if ph = 0 then s.vxCount k else s
  let kg : Ctx := { k with j := g }
  -- block scales of the source
  let (s, scale) :=
    if mxb && vxMxElem f && ph = 0 && g % 32 = 0 then s.dequeue k (w.fld 17 4 - 8) (expTag k.c0 w.toff)
    else (s, o.buf2.getD 1 0)
  -- source beats
  let buf := if ph = 0 then [] else o.buf
  let (s, buf, share) :=
    if ns ≤ ph then (s, buf, o.buf2.getD 0 0)
    else if w.src = 6 then
      let (s, v) := s.vxOperand kg true 32 6 w.toff.toNat
      (s, (List.range 4).map fun p => getPart v p, 0)
    else if vxBits f = 4 && g % 2 = 1 then (s, [o.buf2.getD 0 0], o.buf2.getD 0 0)
    else
      let (s, b) := s.takeBeat k w.src.toNat w.toff
      (s, buf ++ [b], b)
  let d := if w.fld 9 2 = 2 then s.drawOf k (w.fld 11 6) else default
  let vals := groupVals w (groupCodes w buf g) scale g
  let entry := if w.fld 9 2 = 2 then 11 else 10
  let made := o.buf2.getD 2 0
  if ph < kk - nd then (s, { o with buf := buf, buf2 := [share, scale, made, 0] })
  else
    let di := ph - (kk - nd)
    let per := if w.dst = 6 then 128 else if vxBits t = 4 then 128 else 1024 / vxBits t
    let (s, free) := if toMx && nanBlock vals then s.freeBeat else (s, 0)
    let (es, scs) := cvtElems w d free g vals (di * per) per
    let sofar : BitVec 3 := evOr es ||| (if di = 0 then 0 else (o.buf2.getD 3 0).setWidth 3)
    let ev : BitVec 3 := if di + 1 = nd then sofar else 0
    let codes := es.map (·.1)
    let lastG := g + 1 = groups
    -- the scale beat of an MX destination
    let acc := if toMx then (scs.zipIdx.foldl (fun b p => orByte b (scaleByte t g p.2) p.1) (if g % 32 = 0 then 0 else made)) else 0
    let due := k.x + s.vxLat k.l entry
    let s := if toMx && (g % 32 = 31 || lastG) then
        s.emit k due (.dq (w.fld 17 4 - 8)) (acc.setWidth 4096)
      else s
    let (s, nums) :=
      if w.dst ≠ 6 && vxBits t = 4 then
        if g % 2 = 0 && !lastG then (if ev = 0 then s else s.emit k due .none 0 ev, codes)
        else
          let all := if g % 2 = 0 then codes else o.nums ++ codes
          (s.emit k due (destOf w.dst 0) (BitVec.ofNat 4096 (packNat 4 all)) ev, [])
      else
        let wd := if w.dst = 6 then 32 else vxBits t
        let dest := if w.dst = 6 then vxDest w.dst (w.fld 21 6) true g else destOf w.dst 0
        (s.emit k due dest (BitVec.ofNat 4096 (packNat wd codes)) ev, [])
    (s, { o with buf := buf, buf2 := [share, scale, acc, sofar.setWidth 1024], nums := nums })

/-- The number of issue sc is repeats × k (R195). -/
def cvtBegin (w : FmtO) (s : State) (_k : Ctx) (o : Outst) : State × Outst := (s, { o with total := o.total * cvtK w })

def execVxCvt (q : Queue) (w : FmtO) (s : State) : Host.Outcome State Fault Refusal :=
  s.issueRep .vx q (.vxCvt q w) (State.cvtStep w) (cvtBegin w)

def State.dropRep (w : FmtO) (s : State) (k : Ctx) (o : Outst) : State × Outst :=
  let t := w.fld 0 3
  let wd := typeWidth t
  let row := vxRowSel w.src.toNat && w.dst = 6
  let n := if row then 128 else 1024 / wd
  let s := s.vxCount k
  let (s, a) := s.vxOperand k row wd w.src.toNat w.toff.toNat
  let d := s.drawOf k (w.fld 3 6)
  let tr := s.scalar k (w.fld 9 6)
  let r := (vxLanes row wd a).zipIdx.map fun p =>
    fpBack t (dropLane (d.word (k.j * n + p.2)) (tr.toNat % 2 ^ 32) (tr.extractLsb' 32 32) (widenLane t p.1))
  (s.vxEmit k 11 (vxDest w.dst (w.fld 15 6) row k.j) (BitVec.ofNat 4096 (packNat wd r)), o)

/-- VX.DROP (R143, R197). -/
def execVxDrop (q : Queue) (w : FmtO) (s : State) : Host.Outcome State Fault Refusal :=
  s.issueRep .vx q (.vxDrop q w) (State.dropRep w)

/-! ### Rotary unit (R198) -/

def State.ropeRep (w : FmtO) (s : State) (k : Ctx) (o : Outst) : State × Outst :=
  let s := s.vxCount k
  let (s, v) := s.vxOperand k true 32 6 w.toff.toNat
  let p := ((s.scalar k (w.fld 0 6)).toNat + k.j) % 2 ^ 24
  let freq := (s.line k.l).vx.freq
  let r := (List.range 64).flatMap fun i =>
    let (c, sn) := rotary p (freq.look ((w.fld 6 8 + i) % 256) 0).toNat
    let y := rotate (laneOf 32 v (2 * i)) (laneOf 32 v (2 * i + 1)) c sn
    [y.1.toNat, y.2.toNat]
  (s.vxEmit k 12 (vxDest 6 (w.fld 14 6) true k.j) (BitVec.ofNat 4096 (packNat 32 r)), o)

def execVxRope (q : Queue) (w : FmtO) (s : State) : Host.Outcome State Fault Refusal :=
  s.issueRep .vx q (.vxRope q w) (State.ropeRep w)

/-! ### Running rows (R191, R192) -/

/-- The initial value of a running row of a kind at an anchor (R191). -/
def RunRow.init (k : RowKind) (a : BitVec 12) : RunRow :=
  { kind := k, anchor := a
    lanes := BitVec.ofNat 4096 (packNat 32 (List.replicate 128 (match k with | .max => 0xFF800000 | .min => 0x7F800000 | _ => 0)))
    sheafs := match k with | .sheaf => clearedRow | _ => [] }
/-- A row that a job reset leaves: no kind (R191). -/
def RunRow.noKind : RunRow := { kind := .none, anchor := 0, lanes := 0, sheafs := [] }

/-- One FP32 lane folded in. -/
def RunRow.foldLane (r : RunRow) (k : Nat) (x : W32) : RunRow :=
  match r.kind with
  | .max => { r with lanes := BitVec.ofNat 4096 (packNat 32 ((lanesOf 32 r.lanes 128).set k (fmax (laneOf 32 r.lanes k) x).toNat)) }
  | .min => { r with lanes := BitVec.ofNat 4096 (packNat 32 ((lanesOf 32 r.lanes 128).set k (fmin (laneOf 32 r.lanes k) x).toNat)) }
  | .sheaf => { r with sheafs := r.sheafs.set k ((r.sheafs.getD k Sheaf.cleared).addTerm (fp32Val x) r.anchor.toInt) }
  | .none => r

/-- One update applied (R192). -/
def RunRow.apply (r : RunRow) (u : RowUpd) : RunRow :=
  if u.sh then
    if r.kind = .sheaf then
      (beatSheafs (getPart u.data 0)).zipIdx.foldl (fun r p =>
        let k := 7 * (u.part % 19) + p.2
        if k ≤ 127 then { r with sheafs := r.sheafs.set k ((r.sheafs.getD k Sheaf.cleared).add p.1) } else r) r
    else r
  else if u.beat then
    (List.range 32).foldl (fun r i => r.foldLane (32 * (u.part % 4) + i) (laneOf 32 u.data i)) r
  else (List.range 128).foldl (fun r k => r.foldLane k (laneOf 32 u.data k)) r

/-- The updates visible in sc `x` applied in issue order (R192). -/
def LineState.settleRows (L : LineState) (x : Nat) : LineState :=
  let (now, later) := L.vx.rrPend.partition fun u => u.due ≤ x
  let apply (t : Tbl RunRow) (u : RowUpd) := t.upd u.rr RunRow.noKind fun r => r.apply u
  { L with vx.rr := now.foldl apply L.vx.rr, vx.rrPend := later }

def LineState.runRow (L : LineState) (n : Nat) : RunRow := L.vx.rr.look n RunRow.noKind

/-- VX.RCLR (R191). Updates that become visible after it apply to the newly set row, as R192 says of CLR (log entry 80). -/
def State.rclrRep (w : FmtO) (s : State) (k : Ctx) (o : Outst) : State × Outst :=
  let kind : RowKind := match w.fld 2 2 with | 0 => .max | 1 => .min | _ => .sheaf
  let s := s.countLine k.l .vxRep
  (s.updLine k.l fun L =>
    let L := (L.settleRows k.x).touch k.t k.x (some (w.fld 0 2))
    { L with vx.rr := L.vx.rr.put (w.fld 0 2) (RunRow.init kind (BitVec.ofNat 12 (w.fld 4 12))) }, o)

def execVxRclr (q : Queue) (w : FmtO) (s : State) : Host.Outcome State Fault Refusal :=
  s.issueRep .vx q (.vxRclr q w) (State.rclrRep w)

/-- A row kind that does not suit: none, or not SHEAF under SH = 1 (R192). -/
def rowUnfit (r : RunRow) (sh : Bool) : Bool := r.kind = .none || (sh && r.kind ≠ .sheaf)

def State.raccRep (w : FmtO) (s : State) (k : Ctx) (o : Outst) : State × Outst :=
  let row := w.src = 6
  let sh := w.fld 2 1 = 1
  let s := s.vxCount k
  let (s, v) := s.vxOperand k row 32 w.src.toNat w.toff.toNat
  let r := (s.line k.l).runRow (w.fld 0 2)
  if rowUnfit r sh then (s.faultK k .vxRrkind, o)
  else
    let L := s.line k.l
    let due := k.x + s.vxLat k.l 14
    let u : RowUpd :=
      { due := due, rr := w.fld 0 2, task := k.t, beat := !row, sh := sh, part := k.j, data := v, unconf := L.unconf k.t k.x }
    let oow := r.kind = .sheaf && !sh &&
      ((lanesOf 32 v (if row then 128 else 32)).any fun c => outOfWindow r.anchor.toInt (EFmt.fp32.decode c))
    let s := s.updLine k.l fun L => ({ L with vx.rrPend := L.vx.rrPend ++ [u] } : LineState).touch k.t k.x (some (w.fld 0 2))
    (if oow then s.emit k due .none 0 2 else s, o)

def execVxRacc (q : Queue) (w : FmtO) (s : State) : Host.Outcome State Fault Refusal :=
  s.issueRep .vx q (.vxRacc q w) (State.raccRep w)

/-- A sheaf packed in a natural number, for the snapshot that VX.RRD takes at its issue sc. -/
def Sheaf.pack (x : Sheaf) : Nat := x.v.toNat + 2 ^ 144 * (x.st.toNat + 4 * (if x.oow then 1 else 0))
def Sheaf.unpack (n : Nat) : Sheaf := ⟨BitVec.ofNat 144 n, BitVec.ofNat 2 (n / 2 ^ 144), n / 2 ^ 146 % 2 = 1⟩

/-- VX.RRD reads the row at its issue sc and clears it when CLR is 1 (R192). -/
def State.rrdBegin (w : FmtO) (s : State) (k : Ctx) (o : Outst) : State × Outst :=
  let s := s.updLine k.l fun L => L.settleRows k.x
  let r := (s.line k.l).runRow (w.fld 0 2)
  if rowUnfit r (w.fld 2 1 = 1) then (s.faultK k .vxRrkind, { o with nums := [] })
  else
    let snap := if r.kind = .sheaf then r.anchor.toNat :: r.sheafs.map Sheaf.pack else 4096 :: lanesOf 32 r.lanes 128
    let s := if w.fld 3 1 = 1 then
        s.updLine k.l fun L =>
          ({ L with vx.rr := L.vx.rr.put (w.fld 0 2) (RunRow.init r.kind r.anchor) } : LineState).touch k.t k.x (some (w.fld 0 2))
      else s
    (s, { o with nums := snap })

def State.rrdRep (w : FmtO) (s : State) (k : Ctx) (o : Outst) : State × Outst :=
  let row := w.dst = 6
  let s := s.vxCount k
  match o.nums with
  | [] => (s, o)
  | a :: l =>
    let dest := vxDest w.dst (w.fld 4 6) row k.j
    if w.fld 2 1 = 1 then
      let b := sheafBeat (((l.map Sheaf.unpack).drop (7 * (k.j % 19))).take 7)
      (s.vxEmit k 15 dest (b.setWidth 4096), o)
    else
      let part := if row then l else (l.drop (32 * (k.j % 4))).take 32
      let r := part.map fun c => if a = 4096 then (c, 0) else readLane .fp32 (BitVec.ofNat 12 a).toInt (Sheaf.unpack c)
      (s.vxEmit k 15 dest (BitVec.ofNat 4096 (packNat 32 (r.map (·.1)))) (evOr r), o)

def execVxRrd (q : Queue) (w : FmtO) (s : State) : Host.Outcome State Fault Refusal :=
  s.issueRep .vx q (.vxRrd q w) (State.rrdRep w) (State.rrdBegin w)

/-! ### Rotary table loads (R198) -/

/-- The entries of a VX.RFLD are in force together, from the sc after its last repeat (Table 6-4). -/
def State.rfldRep (w : FmtO) (s : State) (k : Ctx) (o : Outst) : State × Outst :=
  let s := s.vxCount k
  let (s, b) := s.takeBeat k w.src.toNat w.toff
  let got := o.nums ++ (List.range 16).map fun i => (b.extractLsb' (64 * i) 40).toNat
  if k.j + 1 = o.total then (s.updLine k.l fun L => L.putFreq k.t k.x (w.fld 0 8) got, { o with nums := got })
  else (s, { o with nums := got })

def execVxRfld (q : Queue) (w : FmtO) (s : State) : Host.Outcome State Fault Refusal :=
  s.issueRep .vx q (.vxRfld q w) (State.rfldRep w)

/-! ### Scalar summaries (R193, R194) -/

/-- The empty state of a kind. -/
def Summ.start (typ : Nat) (anchor : BitVec 12) : Summ :=
  { typ := BitVec.ofNat 3 typ, e := 0, best := 0, bestIx := 0, int := 0, nan := false, any := false, anchor := anchor
    sheaf := Sheaf.cleared }

/-- A lane greater than the best so far: by value on FP types, signed on integers; a NaN above every number (ARGMAX). -/
def summGreater (t : Nat) (x y : Nat) : Bool :=
  if vxIsFp t then
    let a : W32 := BitVec.ofNat 32 x
    let b : W32 := BitVec.ofNat 32 y
    if (fp32Val b).isNan then false else if (fp32Val a).isNan then true else (fp32Val b).lt (fp32Val a)
  else (BitVec.ofNat 64 y).toInt < (BitVec.ofNat 64 x).toInt

/-- One lane folded into the state of KIND (Table 6-8). `c` is the code of the lane. -/
def Summ.lane (z : Summ) (kind t : Nat) (c : Nat) : Summ :=
  let w := typeWidth t
  -- the lane as FP32, or sign-extended to 64 bits
  let v : Nat := if vxIsFp t then (widenLane t c).toNat else modW 64 (sgn w c)
  let z' := { z with e := z.e + 1, any := true }
  match kind with
  | 0 =>
    let m := if vxIsFp t then (fmax (z.best.setWidth 32) (BitVec.ofNat 32 v)).toNat
             else if summGreater t v z.best.toNat then v else z.best.toNat
    { z' with best := BitVec.ofNat 64 (if z.any then m else if vxIsFp t then (fmax (BitVec.ofNat 32 v) (BitVec.ofNat 32 v)).toNat else v) }
  | 7 =>
    let m := if vxIsFp t then (fmin (z.best.setWidth 32) (BitVec.ofNat 32 v)).toNat
             else if summGreater t z.best.toNat v then v else z.best.toNat
    { z' with best := BitVec.ofNat 64 (if z.any then m else if vxIsFp t then (fmin (BitVec.ofNat 32 v) (BitVec.ofNat 32 v)).toNat else v) }
  | 1 =>
    let q := if vxIsFp t && (fp32Val (BitVec.ofNat 32 v)).isNan then 0x7FC00000 else v
    if !z.any || summGreater t v z.best.toNat then { z' with best := BitVec.ofNat 64 q, bestIx := z.e } else z'
  | 2 => { z' with sheaf := z.sheaf.addTerm (fp32Val (BitVec.ofNat 32 v)) z.anchor.toInt }
  | 3 => { z' with int := z.int + sgn w c }
  | 4 => { z' with int := z.int + (if c = 0 then 0 else 1) }
  | _ =>
    match EFmt.fp64.decode c with
    | .fin n m e => match fp64Exp (.fin n m e) with
      | some x => { z' with int := if z.any && z.bestIx = 1 then max z.int x else x, bestIx := 1 }
      | none => z'
    | _ => { z' with nan := true }

/-- The scalar result of a state (Table 6-8), with the events of the read of SUM. -/
def Summ.result (z : Summ) (kind : Nat) : W64 × BitVec 3 :=
  match kind with
  | 0 => (z.best, 0)
  | 7 => (z.best, 0)
  | 1 => (BitVec.ofNat 64 (z.bestIx % 2 ^ 32 + 2 ^ 32 * (z.best.toNat % 2 ^ 32)), 0)
  | 2 => let (c, sat) := z.sheaf.read z.anchor.toInt .fp32; (BitVec.ofNat 64 c, evBits sat z.sheaf.oow false)
  | 5 => (BitVec.ofInt 64 (if z.nan then -1940 else z.int), 0)
  | _ => (BitVec.ofInt 64 z.int, 0)

def summKey (t kind : Nat) : Nat := t * 8 + kind

def State.summBegin (w : FmtO) (s : State) (k : Ctx) (o : Outst) : State × Outst :=
  let kind := w.fld 3 3
  let typ := w.fld 0 3
  let fresh := Summ.start typ (BitVec.ofNat 12 (w.fld 14 12))
  let keep (L : LineState) : Bool := w.fld 6 1 = 1 && (L.vx.summ.find (summKey k.t kind)).any fun z => z.typ.toNat = typ
  (s.updLine k.l fun L => if keep L then L else { L with vx.summ := L.vx.summ.put (summKey k.t kind) fresh }, o)

/-- One repeat of VX.SUMM (R193). The kind FLAGS reads the sticky flags in the issue sc of its last repeat and clears them there (log entry 86). -/
def State.summRep (w : FmtO) (s : State) (k : Ctx) (o : Outst) : State × Outst :=
  let kind := w.fld 3 3
  let t := w.fld 0 3
  let sh := kind = 2 && w.fld 7 1 = 1
  let row := vxRowSel w.src.toNat && w.dst = 4
  let s := s.vxCount k
  let key := summKey k.t kind
  let lat := s.vxLat k.l 13
  let last := k.j + 1 = o.total
  if kind = 6 then
    if last then
      (s.updLine k.l fun L =>
        let f := L.vx.sticky.look k.t 0
        let L := L.writeSreg k.x k.t (w.fld 8 6) (k.x + lat) (f.setWidth 64) true
        { L with vx.sticky := L.vx.sticky.put k.t 0 }, o)
    else (s, o)
  else
    let wd := if kind = 5 then 64 else typeWidth t
    let (s, v) := s.vxOperand k row wd w.src.toNat w.toff.toNat
    let z := (s.line k.l).vx.summ.look key default
    let codes := vxLanes row wd v
    let z' := if sh then (beatSheafs (getPart v 0)).foldl (fun z x => { z with sheaf := z.sheaf.add x, e := z.e + 1, any := true }) z
              else codes.foldl (fun z c => z.lane kind t c) z
    let oowLane := kind = 2 && !sh && (codes.any fun c => outOfWindow z.anchor.toInt (fp32Val (widenLane t c)))
    let s := s.updLine k.l fun L => { L with vx.summ := L.vx.summ.put key z' }
    let (res, rev) := z'.result kind
    let ev : BitVec 3 := (if oowLane then 2 else 0) ||| (if last then rev else 0)
    let dest : Dest := if last && kind = 2 then destOf w.dst 0 else .none
    let s := if ev = 0 && dest = .none then s else s.emit k (k.x + lat) dest ((sheafBeat [z'.sheaf]).setWidth 4096) ev
    (if last then s.updLine k.l fun L => L.writeSreg k.x k.t (w.fld 8 6) (k.x + lat) res true else s, o)

def execVxSumm (q : Queue) (w : FmtO) (s : State) : Host.Outcome State Fault Refusal :=
  s.issueRep .vx q (.vxSumm q w) (State.summRep w) (State.summBegin w)

/-! ### FP64 slices (R199) -/

def State.f64sRep (w : FmtO) (s : State) (k : Ctx) (o : Outst) : State × Outst :=
  let s := s.vxCount k
  let (s, v) := s.vxOperand k false 64 w.src.toNat w.toff.toNat
  let b := getPart v 0
  let exps : List Int :=
    if w.fld 3 4 = 5 then List.replicate 16 ((s.scalar k (w.fld 7 6)).extractLsb' 0 32).toInt
    else
      let r := w.fld 7 6
      let v := (s.line k.l).vreg ((r % 32 + r / 32 * (k.j / 4)) % 32) k.t k.x
      (List.range 16).map fun i => (laneOf 32 v ((16 * k.j + i) % 128)).toInt
  let ds := (List.range 16).map fun i => (f64Digit (EFmt.fp64.decode (laneOf 64 b i).toNat) (exps.getD i 0) (w.fld 0 3)).toNat
  let all := o.nums ++ ds
  if k.j % 8 = 7 || k.j + 1 = o.total then
    (s.vxEmit k 16 (destOf w.dst 0) (BitVec.ofNat 4096 (packNat 8 all)), { o with nums := [] })
  else (s, { o with nums := all })

def execVxF64s (q : Queue) (w : FmtO) (s : State) : Host.Outcome State Fault Refusal :=
  s.issueRep .vx q (.vxF64s q w) (State.f64sRep w)

end Sys2Proof.Machine
end

