-- ==== Sys2Proof/Machine/Words.lean ====
section
/-! DEFINITION. Word channels (R230 to R234): routes, sends, arrivals and negative acknowledgements; the distance between bays
(R219) and flag changes on their way to a home (R220 to R222). -/

namespace Sys2Proof.Machine

/-- Bridge hops between two bays (R219). -/
def hops (a b : Nat) : Nat := (a / 4 + b / 4) % 2 + (if a % 4 ≤ b % 4 then b % 4 - a % 4 else a % 4 - b % 4)

/-- The issue is made under an unconfirmed prediction of its task (R239, Table 7-8). -/
def State.predicted (s : State) (k : Ctx) : Bool := ((s.line k.l).unconf k.t k.x).isSome

/-! ### Flags -/

/-- The home of a flag named on a line: the line, its bay, or the bay of the module flag (Table 7-5). -/
def flagHome (cls : FlagClass) (line idx : Nat) : Nat :=
  match cls with | .line => line | .bay => bayOf line | .module => idx / 128
/-- The index within the home. -/
def flagIx (cls : FlagClass) (idx : Nat) : Nat := match cls with | .module => idx % 128 | _ => idx
/-- The class of a FCLS code. -/
def flagClass (c : Nat) : FlagClass := match c with | 0 => .line | 1 => .bay | _ => .module
def clsCode : FlagClass → Nat | .line => 0 | .bay => 1 | .module => 2
/-- Ls, Lp and Lr of Table 7-6 for a flag and a line. -/
def flagLat (cls : FlagClass) (line home : Nat) : Nat :=
  match cls with | .line => 1 | .bay => 3 | .module => 4 + 4 * hops (bayOf line) home

/-- A flag change is put on its way (R220, R222). -/
def State.flagChange (s : State) (cls : FlagClass) (home ix : Nat) (set : Bool) (src : ChgSrc) (eff : Nat) : State :=
  { s with flags.chgs := s.flags.chgs ++ [FlagChg.mk cls home ix set src eff] }

/-- The values of a class at a home: now, and at the start of the current sc (R221). -/
def State.flagWord (s : State) (cls : FlagClass) (home : Nat) : BitVec 128 :=
  match cls with
  | .line => (s.line home).cc.lf.setWidth 128
  | .bay => s.flags.bf.look home 0
  | .module => s.flags.mf.look home 0
def State.flagBase (s : State) (cls : FlagClass) (home : Nat) : BitVec 128 :=
  match cls with
  | .line => (s.line home).cc.lfBase.setWidth 128
  | .bay => s.flags.bfBase.look home 0
  | .module => s.flags.mfBase.look home 0
/-- The single-waiter declarations (R226). -/
def State.flagSw (s : State) (cls : FlagClass) (home : Nat) : BitVec 128 :=
  match cls with
  | .line => (s.line home).cc.lfSw.setWidth 128
  | .bay => s.flags.bfSw.look home 0
  | .module => s.flags.mfSw.look home 0
def State.setFlagWord (s : State) (cls : FlagClass) (home : Nat) (v : BitVec 128) : State :=
  match cls with
  | .line => s.updLine home fun L => { L with cc.lf := v.setWidth 64 }
  | .bay => { s with flags.bf := s.flags.bf.put home v }
  | .module => { s with flags.mf := s.flags.mf.put home v }

/-- One bit of a flag word set or cleared. -/
def putBit (v : BitVec 128) (i : Nat) (b : Bool) : BitVec 128 :=
  if b then v ||| ((1 : BitVec 128) <<< i) else v &&& ~~~((1 : BitVec 128) <<< i)

/-- The place of a change in the order of R221. -/
def FlagChg.rank (c : FlagChg) : Nat :=
  match c.src, c.set with
  | .consume, _ => 0 | .program, false => 1 | .program, true => 2 | .other, false => 3 | .other, true => 4 | .late, _ => 5

/-- A number put in its place, and a list sorted. -/
def insertNat (n : Nat) (l : List Nat) : List Nat :=
  match l with
  | [] => [n]
  | x :: r => if n ≤ x then n :: x :: r else x :: insertNat n r
def sortNat (l : List Nat) : List Nat := l.foldr insertNat []

/-- A word with the changes of one home applied in the order of R221, effect sc by effect sc. -/
def applyChanges (v : BitVec 128) (cs : List FlagChg) : BitVec 128 :=
  let effs := sortNat (cs.map (·.eff))
  effs.eraseDups.foldl (fun v e =>
    (List.range 6).foldl (fun v r =>
      (cs.filter fun c => c.eff == e && c.rank == r).foldl (fun v c => putBit v c.idx c.set) v) v) v

/-- The changes of a home with effect sc up to `e`. -/
def FlagState.dueAt (f : FlagState) (cls : FlagClass) (home e : Nat) : List FlagChg :=
  f.chgs.filter fun c => c.cls == cls && c.home == home && c.eff ≤ e

/-- The changes that reach a home with effect in the current sc, from its value at the start of the sc (R221). -/
def State.settleFlags (s : State) (cls : FlagClass) (home : Nat) : State :=
  s.setFlagWord cls home (applyChanges (s.flagBase cls home) (s.flags.dueAt cls home s.sc))

/-! ### Word channels -/

/-- The fields of a route (Table 7-11). -/
def routeLine (r : W32) : Nat := (r.extractLsb' 0 9).toNat
def routeIw (r : W32) : Nat := (r.extractLsb' 9 3).toNat
def routeOn (r : W32) : Bool := r.getLsbD 12
def routeOnNack (r : W32) : Bool := r.getLsbD 13
def routeSig (r : W32) : Option Nat := if r.getLsbD 14 then some (r.extractLsb' 15 6).toNat else none

/-- Lw of R231. -/
def wordLat (src dst : Nat) : Nat :=
  if src = dst then 2 else if bayOf src = bayOf dst then 6 else 6 + 4 * hops (bayOf src) (bayOf dst)

/-- A word sent by line `l` on route `n` in the current sc (R231, R232): a second one in the sc is WC_SLOT. A route with ENABLE
0 sends nothing. -/
def State.sendWord (s : State) (k : Ctx) (n : Nat) (v : W64) : State :=
  let L := s.line k.l
  let r := L.cc.routes.look n 0
  if !routeOn r then s
  else if L.cc.injected = s.sc + 1 then s.faultK k .wcSlot
  else
    let w : WordFly := { src := k.l, route := n, word := v, sent := s.sc, due := s.sc + wordLat k.l (routeLine r), pc := k.pc
                         task := k.t, st := k.st.code }
    { (s.updLine k.l fun L => { L with cc.injected := s.sc + 1 }) with words := s.words ++ [w] }

/-- Why an inbound queue cannot take a word in sc `x` (Table 7-7); `down` says that the line's bay is in reset. -/
def LineState.refusal (L : LineState) (n x : Nat) (down : Bool) : Option Nat :=
  let q := L.cc.iw.look n default
  if L.inReset || down then some 2
  else if !(q.armed && q.since < x) || (L.q .cc q.owner).ended then some 1
  else if 16 ≤ q.words.length then some 3
  else none

/-- One word reaches its queue, or is dropped with a NACK (R231, R233). -/
def State.arrive (s : State) (w : WordFly) : State :=
  let r := (s.line w.src).cc.routes.look w.route 0
  let d := routeLine r
  match (s.line d).refusal (routeIw r) w.due (s.bay (bayOf d)).inReset with
  | some reason =>
    let n : NackFly := { src := w.src, route := w.route, reason := reason, due := w.sent + 2 * (w.due - w.sent), pc := w.pc
                         task := w.task, st := w.st }
    { s with nacks := s.nacks ++ [n] }
  | none =>
    let s := s.updLine d fun L =>
      { L with cc.iw := L.cc.iw.upd (routeIw r) default fun q => { q with words := q.words ++ [(w.word, w.due)] } }
    match routeSig r with
    | some f => s.flagChange .line d f true .program w.due
    | none => s

/-- The words that reach line `l` in sc `x`, in the order they were sent. -/
def State.arrivals (s : State) (l x : Nat) : State :=
  let here (w : WordFly) : Bool := w.due ≤ x && routeLine ((s.line w.src).cc.routes.look w.route 0) == l
  let now := s.words.filter here
  now.foldl State.arrive { s with words := s.words.filter fun w => !here w }

def execWordArrival (l : LineId) (s : State) : Host.Outcome State Fault Refusal :=
  .next (if s.live && !s.held then s.arrivals l s.sc else s)

/-- A negative acknowledgement reaches the sending line (R233). -/
def State.nackOne (s : State) (n : NackFly) : State :=
  let r := (s.line n.src).cc.routes.look n.route 0
  if routeOnNack r then
    s.updLine n.src fun L =>
      ({ L with cc := { L.cc with nackCnt := L.cc.nackCnt.upd n.route 0 fun c => min (c + 1) 0xFFFF
                                  lastRsn := L.cc.lastRsn.put n.route n.reason } } : LineState).count .ccNack
  else s.faultAt n.due .wcNack (n.route * 4 + n.reason) ⟨n.src, n.st, n.task, true, n.pc⟩

/-- The acknowledgements that reach line `l` in sc `x`. -/
def State.nacksAt (s : State) (l x : Nat) : State :=
  let now := s.nacks.filter fun n => n.due ≤ x && n.src == l
  now.foldl State.nackOne { s with nacks := s.nacks.filter fun n => !(n.due ≤ x && n.src == l) }

def execWordNack (l : LineId) (s : State) : Host.Outcome State Fault Refusal :=
  .next (if s.live && !s.held then s.nacksAt l s.sc else s)

end Sys2Proof.Machine
end

