-- ==== Sys2Proof/Machine/Control.lean ====
section
/-! DEFINITION. The control core (spec/07_control_core.md): scalar instructions, branches, flags and waits, words, the expert
load table, predictions. -/

namespace Sys2Proof.Machine

/-- A CC instruction of Table 7-1 issues: it counts, has its effect, and the pc moves on. -/
def State.issueCc (s : State) (q : Queue) (i : Instr) (f : State → Ctx → State) : Host.Outcome State Fault Refusal :=
  s.issueOne .cc q i fun s => f (s.countLine q.line .ccIss) (s.ctx .cc q s.sc 0)

/-- The same without a move of the pc: the effect sets it. -/
def State.issueCcBranch (s : State) (q : Queue) (i : Instr) (f : State → Ctx → State) : Host.Outcome State Fault Refusal :=
  s.issueWith .cc q i fun s =>
    let s := (s.draws q i).countLine q.line .ccIss
    f s (s.ctx .cc q s.sc 0)

/-! ### Scalar instructions (Tables 7-1 to 7-3) -/

/-- A scalar register written by the CC, readable `lat` sc after the issue. -/
def State.setScalar (s : State) (k : Ctx) (r lat : Nat) (v : W64) : State :=
  s.updLine k.l fun L => L.writeSreg k.x k.t r (k.x + lat) v false

/-- 1 or 0. -/
def bit64 (b : Bool) : W64 := if b then 1 else 0
/-- Bits [31:0]. -/
def low32 (v : W64) : W32 := v.setWidth 32

/-- CC.OP (Table 7-2). -/
def ccFunc (f : Nat) (a b : W64) : W64 :=
  match f with
  | 0 => a + b | 1 => a - b | 2 => a * b | 3 => a &&& b | 4 => a ||| b | 5 => a ^^^ b
  | 6 => a <<< (b.toNat % 64) | 7 => a.sshiftRight (b.toNat % 64) | 8 => a >>> (b.toNat % 64)
  | 9 => if a.slt b then a else b | 10 => if a.slt b then b else a
  | 11 => if a < b then a else b | 12 => if a < b then b else a
  | 13 => bit64 (a == b) | 14 => bit64 (a.slt b) | 15 => bit64 (a < b)
  | 16 => (fadd (low32 a) (low32 b)).setWidth 64
  | 17 => (fsub (low32 a) (low32 b)).setWidth 64
  | 18 => (fmul (low32 a) (low32 b)).setWidth 64
  | 19 => (fmin (low32 a) (low32 b)).setWidth 64
  | 20 => (fmax (low32 a) (low32 b)).setWidth 64
  | 21 => bit64 ((fp32Val (low32 a)).lt (fp32Val (low32 b)))
  | 22 => bit64 ((fp32Val (low32 a)).eq (fp32Val (low32 b)))
  | 23 => BitVec.ofInt 64 (toInt 32 .rne (fp32Val (low32 a))).1
  | 24 => (fp32Of (Val.int (low32 a).toInt)).setWidth 64
  | _ => a

/-- Latency of a CC.OP function (Table 7-3). -/
def State.ccLat (s : State) (l f : Nat) : Nat :=
  if f = 2 || (16 ≤ f && f ≤ 24) then s.lat 3 2 ((s.line l).cc.pad.extractLsb' 0 2).toNat else 1

def execCcOp (q : Queue) (w : FmtO) (s : State) : Host.Outcome State Fault Refusal :=
  s.issueCc q (.ccOp q w) fun s k =>
    let b : W64 := if w.fld 23 1 = 1 then BitVec.ofNat 64 (w.fld 12 6) else s.scalar k (w.fld 12 6)
    s.setScalar k (w.fld 0 6) (s.ccLat k.l (w.fld 18 5)) (ccFunc (w.fld 18 5) (s.scalar k (w.fld 6 6)) b)

/-- CC.LI: a value sign-extended from 34 bits. -/
def execCcLi (q : Queue) (w : FmtW) (s : State) : Host.Outcome State Fault Refusal :=
  s.issueCc q (.ccLi q w) fun s k =>
    s.setScalar k (w.imm.extractLsb' 34 6).toNat 1 ((w.imm.extractLsb' 0 34).signExtend 64)

/-- CC.LIH: bits [63:32] of SD; bits [31:0] keep what the CC reads at the issue. -/
def execCcLih (q : Queue) (w : FmtW) (s : State) : Host.Outcome State Fault Refusal :=
  s.issueCc q (.ccLih q w) fun s k =>
    let r := (w.imm.extractLsb' 34 6).toNat
    s.setScalar k r 1 (w.imm.extractLsb' 0 32 ++ low32 (s.scalar k r))

/-- A dynamic feature that the loaded image enables (Table 11-1, DYN). -/
def State.dynOn (s : State) (b : Nat) : Bool := match s.job.img with | some i => i.dyn.getLsbD b | none => false

/-- CC.SRRD; SEL 3 is refused at load unless DYN.CLKRD_EN is 1, and counts in the NDC (R56). -/
def execCcSrrd (q : Queue) (w : FmtO) (s : State) : Host.Outcome State Fault Refusal :=
  if w.fld 6 4 = 3 && !s.dynOn 3 then stuck
  else s.issueCc q (.ccSrrd q w) fun s k =>
    let v : W64 := match w.fld 6 4 with
      | 0 => BitVec.ofNat 64 k.l
      | 1 => BitVec.ofNat 64 k.t
      | 2 => s.coord.setWidth 64
      | _ => BitVec.ofNat 64 s.time.cnt.cc
    let s := if w.fld 6 4 = 3 then s.countNdc .clk k.unit else s
    s.setScalar k (w.fld 0 6) 1 v

/-! ### Branches (R215 to R217) -/

/-- TARGET of a station in a branch entry, when VALID. -/
def LineState.target (L : LineState) (e : Nat) (st : Station) : Option Nat :=
  let v := L.cc.branch.look e 0
  if v.getLsbD (13 * st.code + 12) then some (v.extractLsb' (13 * st.code) 12).toNat else none

/-- The redirect of one station of a task to the target of an entry. -/
def LineState.redirectOne (L : LineState) (t e from_ : Nat) (st : Station) : LineState :=
  match L.target e st with
  | some pc => L.updQ st t fun z => z.redirect pc from_
  | none => L

/-- A taken branch in sc c: the CC issues its target from c + 1, the other stations from c + 3, and a VX without a target goes on (R216). -/
def LineState.takeBranch (L : LineState) (t e c : Nat) : LineState :=
  [Station.pt, .ls, .px, .mx, .vx, .cc].foldl (fun L st => L.redirectOne t e (if st = .cc then c + 1 else c + 3) st)
    (if (L.target e .vx).isSome then L.cutRfld t c else L)

/-- COND of Table 7-4. -/
def ccCond (c : Nat) (a b : W64) : Bool :=
  match c with
  | 0 => true
  | 1 => a == 0 | 2 => a != 0 | 3 => a.slt 0 | 4 => !a.slt 0
  | 5 => a.getLsbD (b.toNat % 64)
  | 6 => a.slt b | 7 => a < b
  | 8 => (fp32Val (low32 a)).lt (fp32Val (low32 b))
  | _ =>
    let x := fp32Val (low32 a)
    let y := fp32Val (low32 b)
    !x.isNan && !y.isNan && !x.lt y

/-- COND of a branch word, on the scalar registers as the CC reads them at issue. -/
def State.condOf (s : State) (k : Ctx) (w : FmtC) : Bool :=
  ccCond (w.fld 8 4) (s.scalar k w.sreg.toNat) (s.scalar k (w.fld 12 6))

/-- The CC goes on at the next word unless the entry moves its pc. -/
def State.branchTo (s : State) (q : Queue) (e : Nat) : State :=
  let moves := ((s.line q.line).target e .cc).isSome
  let s := (s.countLine q.line .ccBr).updLine q.line fun L => L.takeBranch q.task e s.sc
  if moves then s else s.advance .cc q

def execCcBr (q : Queue) (w : FmtC) (s : State) : Host.Outcome State Fault Refusal :=
  s.issueCcBranch q (.ccBr q w) fun s k =>
    if s.condOf k w then s.branchTo q (w.fld 0 8) else s.advance .cc q

/-! ### Flags and waits (R218 to R229) -/

/-- Deadline waits of the module with their line and task. -/
def State.deadlineWaits (s : State) : List (Nat × Nat × WaitSt) :=
  s.lines.flatMap fun e => (e.2.cc.waits.filter fun w => w.2.deadline.isSome).map fun w => (e.1, w.1, w.2)

/-- A set reaches its home: every GRN_DEADLINE request for the flag is withdrawn (R228). -/
def State.setReaches (s : State) (cls : FlagClass) (home ix : Nat) : State :=
  (s.deadlineWaits.filter fun w => w.2.2.cls == cls && flagHome cls w.1 w.2.2.idx == home && flagIx cls w.2.2.idx == ix).foldl
    (fun s w => s.dropHold 5 (.wait w.1 w.2.1)) s

/-- A change from the host, a granary engine or a dynamic packet reaches the home now: effect at the sc of the first unheld cc after it, and
before sc 0 when the job is not released (R222). -/
def State.outsideChange (s : State) (home ix : Nat) (set : Bool) : State :=
  let s := if s.live then s.flagChange .module home ix set .other s.nextSc
    else
      let one (t : Tbl (BitVec 128)) : Tbl (BitVec 128) := t.upd home 0 fun v => putBit v ix set
      { s with flags := { s.flags with mf := one s.flags.mf, mfBase := one s.flags.mfBase } }
  if set then s.setReaches .module home ix else s

/-- CC.SET and CC.CLR: effect in sc c + Ls; deferred under a prediction, up to 16 (R220, R243). -/
def State.progFlag (s : State) (k : Ctx) (w : FmtC) (set : Bool) : State :=
  let cls := flagClass w.level.toNat
  let idx := w.fld 0 10
  let home := flagHome cls k.l idx
  let L := s.line k.l
  match L.unconf k.t k.x, L.cc.preds.find k.t with
  | some _, some p =>
    if 16 ≤ p.flags.length then s.faultK k .specDefer 1
    else s.setLine k.l { L with cc.preds := L.cc.preds.put k.t { p with flags := p.flags ++ [⟨cls, idx, set⟩] } }
  | _, _ => s.flagChange cls home (flagIx cls idx) set .program (k.x + flagLat cls k.l home)

def execCcSet (q : Queue) (w : FmtC) (s : State) : Host.Outcome State Fault Refusal :=
  s.issueCc q (.ccSet q w) fun s k => s.progFlag k w true
def execCcClr (q : Queue) (w : FmtC) (s : State) : Host.Outcome State Fault Refusal :=
  s.issueCc q (.ccClr q w) fun s k => s.progFlag k w false

/-- The changes with effect in the current sc reach their home, and settle there (R221, R228). -/
def State.changesReach (s : State) (cls : FlagClass) (home : Nat) : State :=
  ((s.flags.dueAt cls home s.sc).filter fun c => c.set).foldl (fun s c => s.setReaches cls home c.idx) (s.settleFlags cls home)

def execFlagChangeEffect (cls : FlagClass) (home : Nat) (s : State) : Host.Outcome State Fault Refusal :=
  .next (if s.live && !s.held then s.changesReach cls home else s)

/-- A flag wait begins (R220, R224, R225, R228, R229); under a prediction it is SPEC_PATH with detail 2. -/
def State.startWait (s : State) (k : Ctx) (w : FmtC) (consume : Bool) (dl long : Option Nat) : State :=
  if s.predicted k then s.faultK k .specPath 2
  else
    let cls := flagClass w.level.toNat
    let idx := w.fld 0 10
    let lat := flagLat cls k.l (flagHome cls k.l idx)
    let z : WaitSt :=
      { cls := cls, idx := idx, consume := consume, deadline := dl.map (k.x + ·), long := long, lending := long.isSome
        issue := k.x, first := match dl with | some d => k.x + d | none => k.x + lat
        lr := lat, pc := k.pc, probed := 0 }
    s.updLine k.l fun L => { L with cc.waits := L.cc.waits.put k.t z }

/-- The deadline of a wait word, when DLE is 1. -/
def waitDl (w : FmtC) : Option Nat := if w.fld 10 1 = 1 then some (w.fld 16 16) else none

/-- DL below Lp is refused at load (R228). -/
def dlOk (q : Queue) (w : FmtC) : Bool :=
  match waitDl w with
  | some d => flagLat .module q.line (flagHome .module q.line (w.fld 0 10)) ≤ d
  | none => true

def execCcWait (q : Queue) (w : FmtC) (s : State) : Host.Outcome State Fault Refusal :=
  if !dlOk q w then stuck else s.issueCc q (.ccWait q w) fun s k => s.startWait k w false (waitDl w) none

def execCcWaitc (q : Queue) (w : FmtC) (s : State) : Host.Outcome State Fault Refusal :=
  if !dlOk q w then stuck else s.issueCc q (.ccWaitc q w) fun s k => s.startWait k w true (waitDl w) none

/-- CC.WAITL declares an expected length of EXP × 1,024 sc (R229). -/
def execCcWaitl (q : Queue) (w : FmtC) (s : State) : Host.Outcome State Fault Refusal :=
  s.issueCc q (.ccWaitl q w) fun s k => s.startWait k w (w.fld 10 1 = 1) none (some (w.fld 16 16 * 1024))

/-- The pending waits on a flag, by line and task (R225). -/
def State.waitsOn (s : State) (cls : FlagClass) (home ix : Nat) : List (Nat × Nat × WaitSt) :=
  s.lines.flatMap fun e => (e.2.cc.waits.filter fun w =>
    w.2.cls == cls && flagHome cls e.1 w.2.idx == home && flagIx cls w.2.idx == ix).map fun w => (e.1, w.1, w.2)

/-- The unit of a waiting task. -/
def waitUnit (w : Nat × Nat × WaitSt) : UnitRef := ⟨w.1, 5, w.2.1, true, w.2.2.pc⟩

/-- A wait is released by its probe in sc `x` (R220). -/
def State.release (s : State) (x : Nat) (w : Nat × Nat × WaitSt) : State :=
  s.updLine w.1 fun L =>
    ({ L with cc.waits := L.cc.waits.del w.2.1 } : LineState).updQ .cc w.2.1 fun z => { z with notBefore := x + w.2.2.lr }

/-- Multi-releases and contentions count at the home (R227). -/
def State.countMrel (s : State) (cls : FlagClass) (home : Nat) : State :=
  match cls with | .line => s.countLine home .ccMrel | _ => s.countBay home .flgMrel
def State.countCont (s : State) (cls : FlagClass) (home n : Nat) : State :=
  match cls with | .line => s.countLine home .ccCont n | _ => s.countBay home .flgCont n

/-- Of the waits that see a flag set, by line and task: the non-consuming ones all, and the first of the consuming ones (R225). When a further set
reaches the flag in the sc (`fresh`), ordinary and deadline waits see different sets, and the first of each is released. -/
def released (l : List (Nat × Nat × WaitSt)) (fresh : Bool) : List (Nat × Nat × WaitSt) :=
  let eat := l.filter fun w => w.2.2.consume
  l.filter (fun w => !w.2.2.consume) ++
    (if fresh then (eat.filter fun w => w.2.2.deadline.isNone).take 1 ++ (eat.filter fun w => w.2.2.deadline.isSome).take 1
     else eat.take 1)

/-- The probes of one flag in the current sc (R220, R221, R224 to R228): ordinary waits see the value before the changes of the
sc, deadline waits the value after them. -/
def State.probeFlag (s : State) (cls : FlagClass) (home ix : Nat) : State :=
  let x := s.sc
  let ws := (s.waitsOn cls home ix).filter fun w => w.2.2.probed != x + 1 && w.2.2.first ≤ x
  let ord := ws.filter fun w => w.2.2.deadline.isNone
  let dls := ws.filter fun w => w.2.2.deadline == some x
  if ws = [] then s else
  -- R226
  let firsts := ws.filter fun w => w.2.2.first == x
  let later := if ord.any fun w => w.2.2.first < x then firsts else firsts.drop 1
  let s := if (s.flagSw cls home).getLsbD ix then
      later.foldl (fun s w => s.faultAt x .flagSw (clsCode cls) (waitUnit w) UnitRef.none 0 w.2.2.idx) s
    else s
  -- the value that each kind of wait sees, and the one after a consumption by an ordinary wait
  let after (t : State) : Bool := (applyChanges (t.flagBase cls home) (t.flags.dueAt cls home x)).getLsbD ix
  let v0 := (s.flagBase cls home).getLsbD ix
  let v1 := after s
  let fresh := after (s.flagChange cls home ix false .consume x)
  let see := ws.filter fun w => if w.2.2.deadline.isNone then v0 else w.2.2.deadline == some x && v1
  let rel := released see fresh
  let s := rel.foldl (fun s w => s.release x w) s
  let s := if rel.any fun w => w.2.2.consume && w.2.2.deadline.isNone then s.flagChange cls home ix false .consume x else s
  let s := if rel.any fun w => w.2.2.consume && w.2.2.deadline.isSome then s.flagChange cls home ix false .late x else s
  let missed := dls.filter fun w => !rel.contains w
  let s := missed.foldl (fun s w => s.faultAt x .flagDl (clsCode cls) (waitUnit w) UnitRef.none 0 w.2.2.idx) s
  -- counts and marks
  let s := if 2 ≤ rel.length then s.countMrel cls home else s
  let cont := (if v0 then (ord.filter fun w => !rel.contains w).length else 0) + (if v1 then missed.length else 0)
  let s := if cont = 0 then s else s.countCont cls home cont
  let rest := (ord.filter fun w => !rel.contains w) ++ missed
  rest.foldl (fun s w => s.updLine w.1 fun L =>
    { L with cc.waits := L.cc.waits.put w.2.1 { w.2.2 with probed := x + 1 } }) s

def execFlagProbe (cls : FlagClass) (home ix : Nat) (s : State) : Host.Outcome State Fault Refusal :=
  .next (if s.live && !s.held then s.probeFlag cls home ix else s)

/-- The cc in which a requester looks 8 cc ahead to the cc of sc `d` (R41): no request is active, and the cc `now + 8` is that of
sc d. Of two requesters whose sc falls in the same cc only the first in the order of the look-ahead raises its request in it; the others find
the cc again when it has withdrawn, and the counters of Table 2-8 show it so (DESIGN CHOICE, log entry 89). -/
def State.eightBefore (s : State) (d : Nat) : Bool := s.live && s.causes == 0 && s.scIn 8 == d

/-- The check of a deadline wait 8 cc before the cc of its sc D: GRN_DEADLINE when the flag will be clear (R228). -/
def State.checkDeadline (s : State) (w : Nat × Nat × WaitSt) : State :=
  match w.2.2.deadline with
  | none => s
  | some d =>
    let home := flagHome w.2.2.cls w.1 w.2.2.idx
    let v := applyChanges (s.flagBase w.2.2.cls home) (s.flags.dueAt w.2.2.cls home d)
    if s.eightBefore d && !v.getLsbD (flagIx w.2.2.cls w.2.2.idx) && !s.hasHold 5 (.wait w.1 w.2.1)
    then s.raiseHold 5 (.wait w.1 w.2.1) none else s

def execDeadlineCheck (q : Queue) (s : State) : Host.Outcome State Fault Refusal :=
  match (s.line q.line).cc.waits.find q.task with
  | some w => .next (s.checkDeadline (q.line, q.task, w))
  | none => .next s

/-- The expected length of a CC.WAITL has run out: its line stops lending (R419). -/
def State.endLending (s : State) (l t : Nat) : State :=
  match (s.line l).cc.waits.find t with
  | some w =>
    match w.long with
    | some n =>
      if w.lending && w.issue + n ≤ s.sc then
        s.updLine l fun L => { L with cc.waits := L.cc.waits.put t { w with lending := false } }
      else s
    | none => s
  | none => s

def execWaitlExpectedEnd (q : Queue) (s : State) : Host.Outcome State Fault Refusal := .next (s.endLending q.line q.task)

/-! ### Harvest points (R60 to R62, R65) -/

/-- CC.HARVEST on the harvest line takes effect at sc h: the boundary between h + 8 and h + 9, with the requests that were pending
before the cc (R65). -/
def State.harvestAt (s : State) (h : Nat) (onReq : Bool) : State :=
  { s with hrv.bounds := s.hrv.bounds ++ [Boundary.mk h s.time.now s.hrv.pendWas false false onReq] }

/-- CC.HARVEST (R60, R61). Under an unconfirmed prediction it records SPEC_PATH with detail 3 (Table 7-8) on every line, also on one where R60 makes
it a no-operation (DEDUCED, log entry 94). -/
def execCcHarvest (q : Queue) (w : FmtC) (s : State) : Host.Outcome State Fault Refusal :=
  s.issueCc q (.ccHarvest q w) fun s k =>
    if s.predicted k then s.faultK k .specPath 3
    else if (match s.job.img with | some i => i.hline | none => none) != some k.l then s
    else if w.fld 0 1 = 0 then s.harvestAt k.x false
    else if s.hrv.armedWas && s.hrv.reqSc.toNat ≤ k.x then
      { (s.harvestAt k.x true) with hrv.armed := false }
    else s

/-! ### Words (R231 to R234) -/

def execCcWsend (q : Queue) (w : FmtO) (s : State) : Host.Outcome State Fault Refusal :=
  s.issueCc q (.ccWsend q w) fun s k =>
    let v := s.scalar k (w.fld 4 6)
    let n := w.fld 0 4
    let L := s.line k.l
    match L.unconf k.t k.x, L.cc.preds.find k.t with
    | some _, some p =>
      if 8 ≤ p.words.length then s.faultK k .specDefer 2
      else
        let d : DefWord := ⟨0, n, v, k.t, k.pc⟩
        s.setLine k.l { L with cc.preds := L.cc.preds.put k.t { p with words := p.words ++ [d] } }
    | _, _ => s.sendWord k n v

/-- CC.WRECV: the head word, readable in c + 2; under a prediction it is kept to be returned (R240). -/
def execCcWrecv (q : Queue) (w : FmtO) (s : State) : Host.Outcome State Fault Refusal :=
  s.issueCc q (.ccWrecv q w) fun s k =>
    let n := w.fld 0 3
    let L := s.line k.l
    let z := L.cc.iw.look n default
    match (if z.armed && z.owner = k.t && z.since < k.x then z.words else []) with
    | [] => s.faultK k .iwUnderflow n
    | (v, a) :: r =>
      if k.x ≤ a then s.faultK k .iwUnderflow n
      else
        let preds := match L.unconf k.t k.x, L.cc.preds.find k.t with
          | some _, some p => L.cc.preds.put k.t { p with taken := p.taken ++ [(n, v)] }
          | _, _ => L.cc.preds
        (s.setLine k.l { L with cc := { L.cc with iw := L.cc.iw.put n { z with words := r }, preds := preds } }).setScalar
          k (w.fld 3 6) 2 v

/-- CC.WARM arms a queue for the issuing task from the next sc, or disarms it (R234). -/
def execCcWarm (q : Queue) (w : FmtO) (s : State) : Host.Outcome State Fault Refusal :=
  s.issueCc q (.ccWarm q w) fun s k =>
    let n := w.fld 0 3
    let z := (s.line k.l).cc.iw.look n default
    let put (z : InQueue) : State := s.updLine k.l fun L => { L with cc.iw := L.cc.iw.put n z }
    if s.predicted k then s.faultK k .specPath 4
    else if w.fld 3 1 = 0 then put { z with armed := false, words := [] }
    else if z.armed && z.owner ≠ k.t then s.faultK k .wcArm n
    else if z.armed then s
    else put { armed := true, owner := k.t, since := k.x, words := [] }

/-! ### Expert load exchange (R235 to R237) -/

/-- A CC.ELB meets the table in sc c + 24; it is refused at load unless DYN.ELB_EN is 1. -/
def State.issueElb (s : State) (q : Queue) (i : Instr) (w : FmtO) (op : Nat) : Host.Outcome State Fault Refusal :=
  if !s.dynOn 1 then stuck
  else s.issueCc q i fun s k =>
    if s.predicted k then s.faultK k .specPath 5
    else
      let s := if op = 2 then s.countNdc .elb k.unit else s
      let e : ElbOp := { op := op, line := k.l, task := k.t, sd := w.fld 0 6, entry := w.fld 12 8
                         add := low32 (s.scalar k (w.fld 6 6)), eff := k.x + 24 }
      { s with elb.ops := s.elb.ops ++ [e] }

def execCcElbAdd (q : Queue) (w : FmtO) (s : State) : Host.Outcome State Fault Refusal := s.issueElb q (.ccElbAdd q w) w 0
def execCcElbRead (q : Queue) (w : FmtO) (s : State) : Host.Outcome State Fault Refusal := s.issueElb q (.ccElbRead q w) w 1
def execCcElbReadv (q : Queue) (w : FmtO) (s : State) : Host.Outcome State Fault Refusal := s.issueElb q (.ccElbReadv q w) w 2

/-- The word a READ or READV returns (R237). -/
def ElbState.result (e : ElbState) (o : ElbOp) : W64 :=
  if o.op = 1 then (e.loc.look o.entry 0).setWidth 64
  else
    let v := e.view.look o.entry default
    BitVec.ofNat 64 (v.value.toNat + 2 ^ 32 * v.coord.toNat + (if v.valid then 2 ^ 47 else 0))

/-- The result of a CC.ELB: a prediction that began after its issue keeps it (R240). -/
def LineState.writeElb (L : LineState) (x t r u : Nat) (v : W64) : LineState :=
  let keep (p : Pred) : Pred :=
    { p with sregs := (({ L with cc.sreg := p.sregs } : LineState).writeSreg x t r u v false).cc.sreg }
  let L' := L.writeSreg x t r u v false
  match L.cc.preds.find t with
  | some p => { L' with cc.preds := L'.cc.preds.put t (keep p) }
  | none => L'

/-- The operations that meet the table in sc `x`: every ADD, then the reads, whose results are readable 24 sc later. -/
def State.elbAt (s : State) (x : Nat) : State :=
  let now := s.elb.ops.filter fun o => o.eff ≤ x
  let s := { s with elb.ops := s.elb.ops.filter fun o => x < o.eff }
  let loc := (now.filter fun o => o.op = 0).foldl (fun t o => Tbl.upd t o.entry 0 fun v => v + o.add) s.elb.loc
  let s := { s with elb.loc := loc }
  (now.filter fun o => o.op ≠ 0).foldl (fun s o =>
    s.updLine o.line fun L => L.writeElb x o.task o.sd (o.eff + 24) (s.elb.result o)) s

/-- A received report writes its view entries with the sender's coordinate and VALID (R236). -/
def State.viewReport (s : State) (coord : BitVec 15) (first : Nat) (entries : List W32) : State :=
  let put (t : Tbl ElbView) (p : W32 × Nat) : Tbl ElbView :=
    if first + p.2 < 256 then t.put (first + p.2) ⟨p.1, coord, true⟩ else t
  let view := (entries.take 64).zipIdx.foldl put s.elb.view
  { s with elb.view := view }

def execExpertLoadReport (coord : BitVec 15) (first : Fin 256) (entries : List W32) (s : State) :
    Host.Outcome State Fault Refusal := .next (s.viewReport coord first entries)

end Sys2Proof.Machine
end

