-- ==== Sys2Proof/Machine/Power.lean ====
section
/-! DEFINITION. Power (spec/13_power.md): windows, duty periods, core voltage, shares and lending, the ramp governor. Currents of
shares and ceilings are in 0.1 A, running means of the governor in mA, currents of a cc in 10 mA. -/

namespace Sys2Proof.Machine

/-- Class limit in W (Table 13-2). -/
def classLimit (c : Nat) : Nat := 1800 + 200 * c
def State.bayPwr (s : State) (b : Nat) : BayPower := s.pwr.bays.look b BayPower.reset
def State.updPwr (s : State) (b : Nat) (f : BayPower → BayPower) : State :=
  { s with pwr.bays := s.pwr.bays.upd b BayPower.reset f }
/-- S_b in mA: the mean of the last 64 cc (R411). -/
def sbOf (b : BayPower) : Nat := b.recent.sum * 10 / 64
def State.sb (s : State) (b : Nat) : Nat := sbOf (s.bayPwr b)

/-! ### Lending (R419) -/

/-- A task of a line has ended: each of its enabled queues has. -/
def LineState.taskEnded (L : LineState) (t : Nat) : Bool :=
  [Station.pt, .ls, .px, .mx, .vx, .cc].all fun st => !(L.q st t).enabled || (L.q st t).ended
/-- A CC.WAITL of the task is pending within its expected length. -/
def LineState.lendWait (L : LineState) (t x : Nat) : Bool :=
  match L.cc.waits.find t with | some w => w.lending && w.issue < x | none => false
/-- The line lends. -/
def LineState.lends (L : LineState) (x : Nat) : Bool :=
  let ts := (List.range 4).filter fun t => L.taskEn.getLsbD t
  ts.any (fun t => L.lendWait t x) && ts.all fun t =>
    L.taskEnded t || (match L.cc.waits.find t with | some w => w.long.isSome | none => false)
/-- PWR_Bb_WAITL: lending lines of a bay. -/
def State.lendingLines (s : State) (b : Nat) : Nat :=
  if s.time.running then (s.lines.filter fun e => bayOf e.1 = b && e.2.lends s.sc).length else 0
/-- Current lent to a bay: each lending bay's part in proportion to the shares of the others. -/
def State.lentTo (s : State) (b : Nat) : Nat :=
  let share (c : Nat) : Nat := (s.bayPwr c).share
  ((List.range 8).filter (· ≠ b)).foldl (fun n a =>
    let others := (((List.range 8).filter (· ≠ a)).map share).foldl (· + ·) 0
    if others = 0 then n else n + share a * s.lendingLines a / 64 * share b / others) 0
/-- The ceiling on S_b: share and lent current, at most 320 A. -/
def State.ceiling (s : State) (b : Nat) : Nat := min 3200 ((s.bayPwr b).share + s.lentTo b)

/-! ### Windows (R411, R412, R425) -/

/-- Valid sensors of die `d` (even: compute die of bay d div 2, odd: its base die). -/
def dieSensors (l : List (Nat × Bool)) (d : Nat) : List Nat := (((l.drop (16 * d)).take 16).filter (·.2)).map (·.1)
/-- Stack temperatures (Table 9-8). -/
def State.stackTemps (s : State) : List Nat := (List.range 32).map fun k => ((s.bay (k / 4)).stk.look k default).temp

/-- PWR_TMAX: the highest reading, its bay and sensor. -/
def State.hottest (s : State) (l : List (Nat × Bool)) : W32 :=
  let dies := (l.zipIdx.filter fun p => p.1.2).map fun p => (p.1.1, p.2 / 32, p.2 % 32)
  let stk := s.stackTemps.zipIdx.map fun p => (p.1, p.2 / 4, 32 + p.2 % 4)
  let m := (dies ++ stk).foldl (fun a b => if a.1 < b.1 then b else a) (0, 0, 0)
  BitVec.ofNat 32 (m.1 % 256 + 256 * m.2.1 + 2048 * m.2.2)

/-- Input power not drawn by the core rails, in 10 microwatt. -/
def State.nonCore (s : State) (w : PowerWindow) : Nat :=
  w.pin * 100000 - ((List.range 8).map fun b => w.sb.getD b 0 * (5000 + 25 * (s.bayPwr b).code)).foldl (· + ·) 0

/-- The over-limit parts of R412: class, ceilings, temperatures, sensors. -/
def State.overLimit (s : State) (w : PowerWindow) : Bool × Bool × Bool × Bool :=
  let dies := (List.range 16).map (dieSensors w.sensors)
  (classLimit s.pwr.clsWin < w.pin,
   (List.range 8).any fun b => s.ceiling b < w.sb.getD b 0,
   (dies.any fun d => d.any (95 < ·)) || s.stackTemps.any (100 < ·),
   dies.any fun d => d.length < 12)

/-- The near-limit condition of R413. -/
def State.nearLimit (s : State) (w : PowerWindow) : Bool :=
  97 * classLimit s.pwr.clsWin < 100 * w.pin ||
  ((List.range 8).any fun b => 97 * s.ceiling b < 100 * w.sb.getD b 0) ||
  ((List.range 16).any fun d => (dieSensors w.sensors d).any (93 < ·)) || s.stackTemps.any (98 < ·)

/-- A bay's record of a window; the highest mean and the least margin are those of a segment of a job. -/
def BayPower.window (b : BayPower) (w : PowerWindow) (i : Nat) (job : Bool) : BayPower :=
  let a := w.sb.getD i 0
  let m := w.margin.getD i 0
  let b := { b with marginW := min m 255 }
  if job then { b with peak := max b.peak a, margin := if b.seen then min b.margin (min m 255) else min m 255, seen := true } else b

/-- The end of a 10 microsecond window. -/
def State.windowEnd (s : State) (w : PowerWindow) : State :=
  let (p, a, t, v) := s.overLimit w
  let job := s.time.running
  let near := s.nearLimit w
  let pnc := s.nonCore w
  let hot := s.hottest w.sensors
  let s := s.powerAlert ((if 45 < w.inlet then 4 else 0) ||| (if w.flow < 200 then 8 else 0))
  let z := s.pwr
  let s := { s with
    pwr := { z with
      clsWin := z.cls, limP := p, limS := a, limT := t
      over_ := z.over_ || (job && (p || a || t || v)), near := z.near || (job && near)
      pinLast := w.pin, vinLast := w.vin, iinLast := w.iin
      pinPeak := if job then max z.pinPeak w.pin else z.pinPeak
      pncPeak := if job && z.pinPeak ≤ w.pin then pnc else z.pncPeak
      tmax := hot, cool := BitVec.ofNat 32 (w.inlet % 256 + 256 * (w.outlet % 256) + 65536 * (w.flow % 65536))
      enUj := z.enUj + 10 * w.pin, balUj := z.balUj + w.ballast, sensors := w.sensors } }
  (List.range 8).foldl (fun s b => s.updPwr b fun x => x.window w b job) s

def execPowerWindowEnd (w : PowerWindow) (s : State) : Host.Outcome State Fault Refusal :=
  .next (if s.powered then s.windowEnd w else s)

/-! ### Duty (R413, R414) -/

/-- The duty level and the count of calm periods after a period: an over-limit window raises the level, the fourth period in a row without
a window near a limit lowers it. -/
def PowerState.nextDuty (p : PowerState) : Nat × Nat :=
  let d := if p.over_ then min 8 (p.duty + 1) else p.duty
  if p.near then (d, 0) else if p.calm = 3 then (d - 1, 0) else (d, p.calm + 1)

/-- 8 cc before a duty period the level is adjusted, once, and THERMAL raised for 4,096 × d cc (log entry 68); after a management failover the
level keeps its value until the standby is ready (R432). -/
def State.dutyPeriod (s : State) : State :=
  if !s.time.running || s.time.cnt.cc % 65536 ≠ 65528 || s.pwr.dutyAt = s.time.cnt.cc then s
  else
    let (d, c) := if s.mod.mgmt then s.pwr.nextDuty else (s.pwr.duty, s.pwr.calm)
    let up := if s.pwr.duty < d then 1 else 0
    let s := { s with
      pwr := { s.pwr with
        duty := d, calm := c, over_ := false, near := false, dutyAt := s.time.cnt.cc, dutyUp := sat32 (s.pwr.dutyUp + up) } }
    if s.hasHold 6 .power then s else s.raiseHold 6 .power (some (4096 * d))

def execDutyPeriodEnd (s : State) : Host.Outcome State Fault Refusal := .next s.dutyPeriod

/-! ### Core voltage and shares (R415 to R418) -/

/-- The code that R416 chooses for a bay. -/
def State.chosenCode (s : State) (b : BayPower) : Nat :=
  if s.pwr.vctrl.getLsbD 0 then
    if !b.seen then b.code
    else if b.margin < 20 then min 72 (b.code + 4) else if 35 < b.margin then b.code - 1 else b.code
  else min 72 (s.pwr.vctrl.extractLsb' 8 7).toNat

/-- A bay whose least margin of the segment, at code 72, is below 20 ps sets PWR_ALERT.MARGIN (R416). -/
def State.lowMargin (s : State) : State :=
  if (List.range 8).any fun b => (s.bayPwr b).seen && (s.bayPwr b).margin < 20 && (s.bayPwr b).code = 72 then s.powerAlert 0x20 else s
/-- The codes that R416 chooses from the margins of the segment and the codes in force in it. -/
def State.chosenCodes (s : State) : List Nat := (List.range 8).map fun b => s.chosenCode (s.bayPwr b)
/-- The chosen codes are entered: a change goes to NEXT and waits for the next boundary (R417). -/
def State.enterCodes (s : State) (codes : List Nat) : State :=
  (List.range 8).foldl (fun s b =>
    let c := codes.getD b 0
    if c = (s.bayPwr b).code then s.updPwr b fun x => { x with next := c, pend := false }
    else { (s.updPwr b fun x => { x with next := c, pend := true, since := s.time.now }) with hrv.pend := s.hrv.pend ||| 1 }) s

/-- The codes entered before cc `c` take effect at step 5 of a boundary; HRV_PEND.VOLT stays while a later one waits. -/
def State.applyCodes (s : State) (c : Nat) : State :=
  let s := (List.range 8).foldl (fun s b => s.updPwr b fun x =>
    if x.pend && x.since < c then { x with code := x.next, pend := false } else x) s
  if (List.range 8).any fun b => (s.bayPwr b).pend then s else { s with hrv.pend := s.hrv.pend &&& ~~~1 }

/-- The shares of R418, from the segment's highest windows; the segment's records restart. Without management the shares keep their values
(R432). -/
def State.setShares (s : State) : State :=
  let vcore := ((List.range 8).map fun b => 5000 + 25 * (s.bayPwr b).code).foldl (· + ·) 0 / 8
  let budget := (classLimit s.pwr.cls * 100000 - s.pwr.pncPeak) / vcore
  let total := ((List.range 8).map fun b => (s.bayPwr b).peak).foldl (· + ·) 0
  let s := if total = 0 || !s.mod.mgmt then s else
    (List.range 8).foldl (fun s b => s.updPwr b fun x => { x with share := min 3200 (budget * x.peak / total) }) s
  (List.range 8).foldl (fun s b => s.updPwr b fun x => { x with peak := 0, seen := false, margin := 0 })
    { s with pwr.pinPeak := 0, pwr.pncPeak := 0 }

/-- A start descriptor: duty 0, every share 320 A (R413, R418); the records and counters of the segment start anew (R69, R427). -/
def State.powerStart (s : State) : State :=
  (List.range 8).foldl (fun s b => s.updPwr b fun x => { x with share := 3200, peak := 0, seen := false, margin := 0 })
    { s with pwr := { s.pwr with
        duty := 0, calm := 0, over_ := false, near := false, dutyAt := 0, pinPeak := 0, pncPeak := 0
        enUj := 0, enL := 0, balUj := 0, balL := 0, dutyUp := 0, dutyUpL := 0 } }

/-! ### The ramp governor (R423, R424) -/

/-- Cc of climb that a bay needs: from S_b to within 6 A of the demand, at 75 mA per cc. -/
def climb (sb demand : Nat) : Nat := (demand - 6000 - sb + 74) / 75

/-- RAMP is raised for the largest climb of the bays, whose demands are given in mA, less the hold lead, during which the climb has
begun. -/
def State.rampRaise (s : State) (demand : List Nat) : State :=
  let n := ((List.range 8).map fun b => climb (s.sb b) (demand.getD b 0)).foldl max 0
  if n ≤ 8 then s else s.raiseHold 7 (.ramp 0) (some (n - 8))

/-- After PWR_KEEP held cc the ballast lets S_b fall (R423). -/
def State.keepExpire (s : State) : State :=
  if s.held && s.pwr.keepHold ≤ s.time.curHold then { s with pwr.falling := true } else s

def execBallastKeepExpire (s : State) : Host.Outcome State Fault Refusal := .next s.keepExpire

/-- The current that the stations of a bay draw in the current sc (R421). -/
def State.stationsDraw (s : State) (b : Nat) : Nat := ((s.lines.filter fun e => bayOf e.1 = b).map fun e => e.2.draw.headD 0).sum

/-- The actual current of a bay in a cc, from the value that leaves the mean (R423): while RAMP is raised (`up`) S_b climbs by 75 mA a cc; in a
held cc it is kept, or falls by 75 mA; in an unheld one the ballast adds what keeps S_b from falling by more than 6 A and 75 mA a cc below any
earlier value (R420). -/
def BayPower.current (p : BayPower) (demand : Nat) (up held keep : Bool) : Nat :=
  let old := p.recent.getD 63 0
  if up then max demand (old + 480)
  else if held then (if keep then old else max demand (old - 480))
  else max demand (p.level + old - (p.recent.sum + 38880))
/-- A cc is over: its current enters the mean, and the level from which S_b may fall sinks by 75 mA, to no less than S_b. -/
def BayPower.pass (p : BayPower) (i : Nat) : BayPower :=
  let recent := (i :: p.recent).take 64
  { p with recent := recent, level := max (p.level - 480) recent.sum }

/-- The running means follow the stations and the ballast (R411, R423, log entry 87). -/
def State.ballastCc (s : State) : State :=
  let s := s.keepExpire
  let m := s.time.hist.getD 7 0
  let held := s.live && s.held
  let up := m.getLsbD 7 || s.time.reqs.any fun r => r.cause == 7 && r.active s.time.now
  let keep := held && !m.getLsbD 6 && !s.pwr.falling
  let demand (b : Nat) : Nat := if s.live && !s.held then s.stationsDraw b else 0
  let s := (List.range 8).foldl (fun s b => s.updPwr b fun p =>
    p.pass (p.current (demand b) up held keep)) s
  let s := if held then s else { s with pwr.falling := false, pwr.keepHold := s.pwr.keep }
  if s.live && !s.held then { s with lines := s.lines.map fun e => (e.1, { e.2 with draw := e.2.draw.tail }) } else s

/-! ### The owner (R379) -/

/-- The requester is the owner's host. -/
def State.isOwner (s : State) (w : Requester) : Bool := match w with | .host p => p.val == s.host.owner | _ => false

end Sys2Proof.Machine
end

