-- ==== Sys2Proof/Machine/Audit.lean ====
section
/-! DEFINITION. The ramp audit of stage 7 (R420 to R422, Tables 13-5 and 13-6): the audit path of the lines of a bay, the current it
draws, and the ramp limit. Currents are in units of 10 mA. -/

namespace Sys2Proof.Machine

/-! ### The audit path (Table 13-6) -/

/-- A count operand on the path: the COUNT field, or 1. -/
def auditCount (w : FmtC) : Nat := if w.csrc = 0 then w.count.toNat else 1

/-- The queue passes its instruction; past index 4,095 it ends. -/
def QState.auditPass (z : QState) (target x : Nat) : QState :=
  let y := z.pass target x
  if 4095 < y.pc then { y with pc := 4095, ended := true } else y

/-- A wait's task goes on after its first probe, or at sc D (R220, R228). -/
def auditWait (l x : Nat) (w : FmtC) (dl : Option Nat) : Nat :=
  let cls := flagClass w.level.toNat
  let lat := flagLat cls l (flagHome cls l (w.fld 0 10))
  (match dl with | some d => x + d | none => x + lat) + lat

/-- A branch taken on the path. -/
def LineState.auditBranch (L : LineState) (t e x : Nat) : LineState :=
  let moves := (L.target e .cc).isSome
  let L := L.takeBranch t e x
  if moves then L else L.updQ .cc t fun z => z.auditPass z.pc x

/-- A repeating instruction issues one repeat. -/
def QState.auditRepeat (z : QState) (i : Instr) (x : Nat) : QState :=
  let o : Outst := match z.outst with
    | some o => o
    | none =>
      { instr := i, total := z.repLatch.getD (i.repcnt + 1), done := 0, c0 := x, base := 0, stride := 0, base2 := 0, str2 := 0
        nums := [], buf := [], buf2 := [] }
  let z := { z with repLatch := none }
  if o.done + 1 < o.total && !isBackground i then { z with outst := some { o with done := o.done + 1 }, notBefore := x + 1 }
  else ({ z with outst := none } : QState).auditPass z.pc x

/-- BAR on the path: with every station of MASK at the same BID, all go on. -/
def LineState.auditBar (L : LineState) (st : Station) (t x : Nat) (w : FmtC) : LineState :=
  let L := L.updQ st t fun z => { (z.auditPass z.pc x) with barWait := some (w.bid, w.mask), repLatch := none }
  if (maskStations w.mask).all fun st' => (match (L.q st' t).barWait with | some (b, _) => b == w.bid | none => false) then
    (maskStations w.mask).foldl (fun L st' => L.updQ st' t fun z => { z with barWait := none, notBefore := x + 1 }) L
  else L

/-- LOOP on the path. -/
def QState.auditLoop (z : QState) (w : FmtC) (x : Nat) : QState :=
  let n := auditCount w
  if n = 0 then z.auditPass w.target.toNat x
  else { z with loops := z.loops.put w.level.toNat ⟨z.pc + 1, w.target.toNat, n⟩, pc := z.pc + 1, notBefore := x + 1 }

/-- The effect of an issue on the path. -/
def LineState.auditStep (L : LineState) (st : Station) (l t x : Nat) (i : Instr) : LineState :=
  let wait (w : FmtC) (dl : Option Nat) : LineState :=
    L.updQ st t fun z => { (z.auditPass z.pc x) with notBefore := auditWait l x w dl }
  match i with
  | .endQueue _ _ _ => L.updQ st t fun z => { z with ended := true }
  | .loop _ _ w => L.updQ st t fun z => z.auditLoop w x
  | .rep _ _ w => L.updQ st t fun z => { (z.auditPass z.pc x) with repLatch := some (auditCount w) }
  | .bar _ _ w => L.auditBar st t x w
  | .ccBr _ w => if w.fld 8 4 = 0 then L.auditBranch t (w.fld 0 8) x else L.updQ st t fun z => z.auditPass z.pc x
  | .ccPredict _ w => L.auditBranch t (w.fld 0 8) x
  | .ccBrResolve _ _ => L.updQ st t fun z => z.auditPass z.pc x
  | .ccWait _ w => wait w (waitDl w)
  | .ccWaitc _ w => wait w (waitDl w)
  | .ccWaitl _ w => wait w none
  | _ => L.updQ st t fun z => z.auditRepeat i x

/-- One station of a line in sc x: the rotation's task, if it can issue. -/
def auditStation (l x : Nat) (a : LineState × List Nat) (st : Station) : LineState × List Nat :=
  match a.1.rotTask st x with
  | none => a
  | some t =>
    if !a.1.queueReady st t x then a
    else
      match a.1.nextOf st l t with
      | none => a
      | some (i, _) =>
        let z := a.1.q st t
        let n := match z.outst with | some o => o.total | none => z.repLatch.getD (i.repcnt + 1)
        let (lo, hi, w) := rampWeight i
        let span := if isBackground i then n else hi + 1 - lo
        (a.1.auditStep st l t x i, if w = 0 || n = 0 then a.2 else addDraw a.2 lo span w)

/-- One sc of the lines of a bay. -/
def auditLines (x : Nat) (ls : Tbl LineState) (d : List Nat) : Tbl LineState × List Nat :=
  match ls with
  | [] => ([], d)
  | (l, L) :: r =>
    let (L, d) := [Station.pt, .ls, .px, .mx, .vx, .cc].foldl (auditStation l x) (L, d)
    let (r, d) := auditLines x r d
    ((l, L) :: r, d)

/-! ### The look-ahead of the ramp governor (R424, log entry 87) -/

/-- What an instruction draws in all while it issues in every sc: an MX.MM draws over eight (Table 13-5). -/
def fullWeight (i : Instr) : Nat :=
  let (lo, hi, w) := rampWeight i
  match i with | .mxMm _ _ => w * (hi + 1 - lo) | _ => w
/-- What the instruction that a station is due to issue in sc x draws. -/
def LineState.dueWeight (L : LineState) (l x : Nat) (st : Station) : Nat :=
  match L.rotTask st x with
  | some t => if L.queueReady st t x then (match L.nextOf st l t with | some (i, _) => fullWeight i | none => 0) else 0
  | none => 0
/-- How many sc an MX.LW, or a background transfer of `n` beats, goes on from its issue (Table 13-5); 0 of any other instruction. -/
def longSpan (i : Instr) (n : Nat) : Nat := if isBackground i then n else match i with | .mxLw _ _ => 128 | _ => 0
/-- What an MX.LW or a background transfer that a station is due to issue in sc y still draws in a later sc x. -/
def LineState.startsWeight (L : LineState) (l y x : Nat) (st : Station) : Nat :=
  match L.rotTask st y with
  | some t =>
    if L.queueReady st t y then
      match L.nextOf st l t with
      | some (i, _) => if x < y + longSpan i ((L.q st t).repLatch.getD (i.repcnt + 1)) then (rampWeight i).2.2 else 0
      | none => 0
    else 0
  | none => 0
/-- What the MX.LW and the background transfer of a line that are under way draw in sc x (Table 13-5). -/
def LineState.underWay (L : LineState) (x : Nat) : Nat :=
  (match L.mx.lw with | some w => if x < w.c + 128 then (rampWeight (.mxLw default default)).2.2 else 0 | none => 0) +
  (match L.bg with | some b => if x < b.c + b.total then (rampWeight b.instr).2.2 else 0 | none => 0)
/-- The lines of a bay, taken along the audit path through `n` sc from sc `y`, and what the MX.LW and background transfers that begin on the way draw in
sc `x`. -/
def pathAhead (n y x : Nat) (ls : Tbl LineState) (w : Nat) : Tbl LineState × Nat :=
  match n with
  | 0 => (ls, w)
  | n + 1 => pathAhead n (y + 1) x (auditLines y ls []).1 (w + (ls.map fun e => ([Station.pt, .mx].map (e.2.startsWeight e.1 y x)).sum).sum)
/-- The demand of a bay's stations in the cc 8 cc ahead, in mA: the instructions due in it, and the loads and background transfers under way. -/
def State.demandAhead (s : State) (b : Nat) : Nat :=
  let x := s.scIn 8
  let mine := s.lines.filter fun e => bayOf e.1 = b && e.2.hasLine
  let (ls, w) := pathAhead (x - s.sc) s.sc x mine 0
  10 * ((ls.map fun e => ([Station.pt, .ls, .px, .mx, .vx, .cc].map (e.2.dueWeight e.1 x)).sum).sum + (mine.map fun e => e.2.underWay x).sum + w)
/-- The governor looks at the cc 8 cc ahead in every cc in which no cause is raised, and so in the cc of the last withdrawal too (R424). -/
def State.rampLook (s : State) : State :=
  if s.live && s.causes = 0 then s.rampRaise ((List.range 8).map s.demandAhead) else s

/-- The operand carries nothing: the demand and the moment are the governor's own (R424). -/
def execRampRaise (_look : Unit) (s : State) : Host.Outcome State Fault Refusal := .next s.rampLook

/-! ### The ramp limit (R420) -/

/-- Sum of the last 64 values. -/
def sum64 (l : List Nat) : Nat := (l.take 64).sum

/-- |S[n] - S[n - k]| ≤ 6 + 0.075 k for the older sums, k counted from `k`; sums are 64 times S in 10 mA. -/
def rampOk (s : Nat) (old : List Nat) (k : Nat) : Bool :=
  match old with
  | [] => true
  | o :: r => 2 * (s - o + (o - s)) ≤ 64 * (1200 + 15 * k) && rampOk s r (k + 1)

/-- The first sc that fails, from sc x on: `is` the last 64 values, `ss` the last 800 sums, both newest first. -/
def auditBay (fuel x : Nat) (ls : Tbl LineState) (d is ss : List Nat) : Option Nat :=
  match fuel with
  | 0 => none
  | f + 1 =>
    let (ls, d) := auditLines x ls d
    let is := (d.headD 0 :: is).take 64
    let s := sum64 is
    if rampOk s ss 1 then auditBay f (x + 1) ls d.tail is ((s :: ss).take 800) else some x

/-- The audit of a bay over sc 0 to 1,048,575; a bay without lines draws nothing. -/
def auditFails (ls : Tbl LineState) : Option Nat :=
  if ls.isEmpty then none else auditBay 1048576 0 ls [] [] (List.replicate 800 0)

end Sys2Proof.Machine
end

