-- ==== Sys2Proof/Machine/Cells.lean ====
section
/-! DEFINITION. Packet cells, circuits, positions and hall-wide slot indices of the fabric (R319 to R325, R340, R341). -/

namespace Sys2Proof.Machine

/-! ### CRC-32C (R319, R321) -/

def crcBit (c : W32) : W32 := if c.getLsbD 0 then (c >>> 1) ^^^ 0x82F63B78 else c >>> 1
def crcByte (c : W32) (b : Byte) : W32 :=
  crcBit (crcBit (crcBit (crcBit (crcBit (crcBit (crcBit (crcBit (c ^^^ b.setWidth 32))))))))
/-- CRC-32C of a list of bytes. -/
def crc32c (bs : List Byte) : W32 := ~~~(bs.foldl crcByte 0xFFFFFFFF)

/-! ### Packets (Table 10-6) -/

/-- `n` header bits from bit `lo`. -/
def Packet.f (p : Packet) (lo n : Nat) : Nat := (p.header.extractLsb' lo n).toNat
def Packet.typ (p : Packet) : Nat := p.f 0 4
def Packet.vc (p : Packet) : Nat := p.f 4 2
def Packet.circ (p : Packet) : Nat := p.f 16 12
def Packet.src (p : Packet) : BitVec 15 := p.header.extractLsb' 48 15
def Packet.dst (p : Packet) : BitVec 15 := p.header.extractLsb' 64 15
def Packet.sendSc (p : Packet) : Nat := p.f 80 48
def Packet.addr (p : Packet) : Nat := p.f 128 42
def Packet.seq (p : Packet) : Nat := p.f 192 32
/-- The signal of a packet: flag and whether it sets. -/
def Packet.sig (p : Packet) : Option (Nat × Bool) := if p.f 10 1 = 1 then some (p.f 32 10, p.f 11 1 = 0) else none

/-- The bits that Table 10-6 requires to be zero are zero and TYPE is not reserved (R323). -/
def Packet.clean (p : Packet) : Bool :=
  p.typ ≤ 3 && p.f 6 2 = 0 && p.f 13 3 = 0 && p.f 28 4 = 0 && p.f 42 6 = 0 && p.f 63 1 = 0 && p.f 79 1 = 0 &&
  p.f 128 7 = 0 && p.f 170 22 = 0 && (p.typ = 3 || p.f 224 32 = 0) && (p.typ ≠ 1 || p.vc = 0) && p.vc ≠ 3

/-- A header (Table 10-6); CTL is zero but for dynamic control. -/
def mkHeader (typ vc op : Nat) (sig : Option (Nat × Bool)) (last : Bool) (circ : Nat) (src dst : BitVec 15)
    (sendSc addr seq : Nat) (ctl : Nat := 0) : BitVec 256 :=
  let (e, clr, ix) := match sig with | some (i, set) => (1, if set then 0 else 1, i) | none => (0, 0, 0)
  BitVec.ofNat 256 (typ + 2 ^ 4 * vc + 2 ^ 8 * op + 2 ^ 10 * e + 2 ^ 11 * clr + 2 ^ 12 * (if last then 1 else 0) +
    2 ^ 16 * circ + 2 ^ 32 * ix + 2 ^ 48 * src.toNat + 2 ^ 64 * dst.toNat + 2 ^ 80 * (sendSc % 2 ^ 48) + 2 ^ 128 * addr +
    2 ^ 192 * (seq % 2 ^ 32) + 2 ^ 224 * ctl)

/-- The packet on another virtual channel. -/
def Packet.onVc (p : Packet) (v : Nat) : Packet :=
  { p with header := (p.header &&& ~~~(0x30 : BitVec 256)) ||| BitVec.ofNat 256 (16 * v) }

/-- The CRC of a cell: bytes 0 to 291 (R321). -/
def Packet.crc (p : Packet) (seqWord : Nat) : W32 :=
  crc32c (leBytes 32 p.header.toNat ++ leBytes 256 p.payload.toNat ++ leBytes 4 seqWord)

/-- The trailer of a launched packet cell. -/
def Packet.trailer (p : Packet) (seq : Nat) : BitVec 128 := BitVec.ofNat 128 (seq + 2 ^ 32 * (p.crc seq).toNat)

/-- What a control message says, as numbers: its kind here, which is no message kind of the manual, and its arguments. -/
def Message.parts : Message → Nat × Nat × Nat
  | .flag ix set => (0, ix, if set then 1 else 0)
  | .busy tag addr => (1, tag, addr)
  | .done tag addr => (2, tag, addr)
  | .abort origin => (3, origin.toNat, 0)
  | .manage kind arg => (4, kind, arg)

/-- The packet of a dynamic item: a control message is of TYPE 3 on VC0; its CTL and payload are free (Table 10-6, R343; log entry 12). -/
def DynItem.packet (own : BitVec 15) : DynItem → Packet
  | .cell p => p
  | .msg d m =>
    let src := match m with | .abort o => o | _ => own
    let body := Config.controlBody m.parts.1 m.parts.2.1 m.parts.2.2
    ⟨mkHeader 3 0 0 none false 0 src d 0 0 0 body.1.toNat, body.2⟩

/-! ### Circuits (Table 10-7) -/

/-! ### The frame marker (Table 10-4) -/

/-- Bytes 0 to 63 of a frame: the frame number, the sender's coordinate and port, S div 64. -/
def frameMarker (frame coord port split : Nat) : List Byte :=
  let head := List.replicate 8 0xA5 ++ leBytes 8 frame ++ leBytes 2 coord ++ leBytes 1 port ++ leBytes 1 split ++ List.replicate 40 0
  head ++ leBytes 4 (crc32c head).toNat

/-- `n` bits of a circuit table entry from bit `lo`. -/
def cf (e : BitVec 256) (lo n : Nat) : Nat := (e.extractLsb' lo n).toNat
def cIn (e : BitVec 256) : Nat := cf e 0 4
/-- The sending ports. -/
def cOuts (e : BitVec 256) : List Nat := ([cf e 4 4, cf e 8 4].filter fun p => p < 12).eraseDups
def cPer (e : BitVec 256) : Nat := 2 ^ cf e 12 3
def cRes (e : BitVec 256) : Nat := cf e 15 6
def cValid (e : BitVec 256) : Bool := e.getLsbD 21
def cDelta (e : BitVec 256) : Nat := cf e 32 10
def cAllow (e : BitVec 256) : Nat := cf e 42 8
def cBase (e : BitVec 256) : Nat := cf e 50 7
def cOp (e : BitVec 256) : Nat := cf e 57 2
def cDlv (e : BitVec 256) : Nat := cf e 59 2
def cLocal (e : BitVec 256) : Nat := cf e 64 12
def cNext (e : BitVec 256) : Nat := cf e 76 12
def cLand (e : BitVec 256) : Nat := cf e 96 9
/-- An end (R324). -/
def cEnd (e : BitVec 256) : Bool := cIn e ≠ 15 && (cDlv e ≠ 0 || cOp e ≠ 0 || cNext e ≠ 0)

def State.circuit (s : State) (c : Nat) : BitVec 256 := s.fab.circ.look c 0
def State.cs (s : State) (c : Nat) : CircState := s.fab.cs.look c default
def State.updCs (s : State) (c : Nat) (f : CircState → CircState) : State :=
  { s with fab.cs := s.fab.cs.upd c default f }
/-- The port in whose transmit buffer the packets of a local operand circuit wait: the receiving port of the end that combines with them
(R332; log entry 72). -/
def localPort (t : Tbl (BitVec 256)) (c : Nat) : Option Nat := (t.find? fun e => cOp e.2 ≠ 0 && cLocal e.2 = c).map fun e => cIn e.2
/-- Ports that an entry uses. -/
def cPorts (e : BitVec 256) : List Nat := (if cIn e < 12 then [cIn e] else []) ++ cOuts e

/-! ### Positions and indices (R320, R325) -/

/-- S of FAB_SPLIT. -/
def State.splitS (s : State) : Nat := 64 * s.fab.split
/-- Nominal sc of an index. -/
def nominal (S n : Nat) : Nat := 2560 * (n / S) + 5 * (n % S) / 2
/-- The first index with a nominal sc of at least `x`. -/
def indexFrom (S x : Nat) : Nat :=
  let p := (2 * (x % 2560) + 4) / 5
  if p < S then x / 2560 * S + p else (x / 2560 + 1) * S
/-- The circuit owns an index: S is a multiple of every period. -/
def cOwns (e : BitVec 256) (n : Nat) : Bool := n % cPer e == cRes e
/-- The first index from `n` on that the circuit owns. -/
def ownedFrom (e : BitVec 256) (n : Nat) : Nat := n + (cRes e + cPer e - n % cPer e) % cPer e
/-- The position whose launch cc is the current cc: launch cc F + floor(5p / 2). -/
def State.position (s : State) : Option Nat :=
  let o := s.fab.htc % 2560
  if o % 5 = 0 then some (2 * (o / 5)) else if o % 5 = 2 then some (2 * (o / 5) + 1) else none

/-- The send sc that a 48-bit SENDSC stands for near the current sc. -/
def State.fullSc (s : State) (v : Nat) : Nat :=
  let a := s.sc / 2 ^ 48 * 2 ^ 48 + v
  if a + 2 ^ 47 < s.sc then a + 2 ^ 48 else if s.sc + 2 ^ 47 < a && 2 ^ 48 ≤ a then a - 2 ^ 48 else a

/-! ### Combining (R340) -/

/-- Lanes of `w` bits of two beats combined. -/
def lanes2 (w : Nat) (f : BitVec w → BitVec w → BitVec w) (x y : BeatData) : BeatData :=
  BitVec.ofNat 1024 (ofLanes w ((List.range (1024 / w)).map fun k => f (laneOf w x k) (laneOf w y k)))

/-- One BF16 lane: widened, added in FP32, rounded to BF16. -/
def addBf16 (a b : BitVec 16) : BitVec 16 :=
  let wide (c : BitVec 16) : W32 := c.setWidth 32 <<< 16
  BitVec.ofNat 16 (EFmt.bf16.encode .rne .inf false (fp32Val (fadd (wide a) (wide b)))).1

/-- Half of a payload. -/
def halfOf (p : BitVec 2048) (h : Nat) : BeatData := p.extractLsb' (1024 * h) 1024
/-- A payload from its beats. -/
def payloadOf (lo hi : BeatData) : BitVec 2048 := (hi ++ lo : BitVec 2048)

/-- The payload combined with the local operand by OP. -/
def combine (op : Nat) (a b : BitVec 2048) : BitVec 2048 :=
  let f (x y : BeatData) : BeatData :=
    match op with
    | 1 => addSheafBeats x y
    | 2 => lanes2 32 fadd x y
    | _ => lanes2 16 addBf16 x y
  payloadOf (f (halfOf a 0) (halfOf b 0)) (f (halfOf a 1) (halfOf b 1))

/-! ### Ports -/

def State.port (s : State) (p : Nat) : FabPort := s.fab.ports.look p default
def State.updPort (s : State) (p : Nat) (f : FabPort → FabPort) : State :=
  { s with fab.ports := s.fab.ports.upd p default f }
/-- The port is UP. -/
def State.portUp (s : State) (p : Nat) : Bool := (s.port p).st == 5
/-- Port 2 lies opposite port 0 (Table 10-1). -/
def partner (p : Nat) : Nat := if p % 4 < 2 then p + 2 else p - 2
/-- Cells in a port's transmit buffer: origin, through and local operand packets share it (R333). -/
def State.txCells (s : State) (p : Nat) : Nat :=
  (s.port p).tx.length + ((s.fab.locals.filter fun e => localPort s.fab.circ e.1 = some p).map fun e => e.2.length).sum
/-- AUX of a fabric fault record (Table 11-9). -/
def fabAux (circ port : Nat) : Nat := circ % 4096 + 65536 * (port % 16)
/-- A fabric fault of a port or the module. -/
def State.faultFab (s : State) (x : Nat) (k : FaultKind) (detail circ port : Nat) : State :=
  s.faultAt x k detail UnitRef.engine UnitRef.none 0 (fabAux circ port)

/-! ### Coordinates (Table 1-4) and routes of dynamic packets (R341) -/

/-- Field `d` of a coordinate: 0 x, 1 y, 2 z. -/
def axis (c : BitVec 15) (d : Nat) : Nat := c.toNat / 2 ^ (10 - 5 * d) % 32
/-- A coordinate with field `d` replaced. -/
def setAxis (c : BitVec 15) (d v : Nat) : BitVec 15 := c - BitVec.ofNat 15 (axis c d * 2 ^ (10 - 5 * d)) + BitVec.ofNat 15 (v * 2 ^ (10 - 5 * d))
/-- The size of the torus in dimension `d` (FAB_SHAPE). -/
def State.size (s : State) (d : Nat) : Nat := s.fab.shape.toNat / 2 ^ (5 * d) % 32 + 1
/-- A coordinate lies in the torus in use (R32). -/
def State.inTorus (s : State) (c : BitVec 15) : Bool := (List.range 3).all fun d => axis c d < s.size d
/-- The coordinate one place on in the direction of port `p`, or against it. -/
def State.beside (s : State) (c : BitVec 15) (p : Nat) (against : Bool) : BitVec 15 :=
  let d := p / 4
  let n := s.size d
  let plus := (p % 4 < 2) != against
  setAxis c d ((axis c d + (if plus then 1 else n - 1)) % n)

/-- The sum of the six coordinate fields. -/
def fieldSum (a b : BitVec 15) : Nat := ((List.range 3).map fun d => axis a d + axis b d).foldl (· + ·) 0

/-- The sending port and the virtual channel of a dynamic packet at this module (R341): `via` is the port and the channel on
which it came. -/
def State.route (s : State) (src dst : BitVec 15) (control : Bool) (via : Option (Nat × Nat)) : Option (Nat × Nat) :=
  ((List.range 3).find? fun d => axis s.coord d != axis dst d).map fun d =>
    let n := s.size d
    let ahead := (axis dst d + n - axis s.coord d) % n
    let plus := 2 * ahead ≤ n
    let lo := 4 * d + (if plus then 0 else 2)
    let want := lo + fieldSum src dst % 2
    let other := if want = lo then lo + 1 else lo
    let p := if !s.portUp want && s.portUp other then other else want
    let edge := if plus then axis s.coord d = n - 1 else axis s.coord d = 0
    let kept := match via with | some (q, v) => q / 4 = d && v = 2 | none => false
    (p, if control then 0 else if edge || kept then 2 else 1)

end Sys2Proof.Machine
end

