-- ==== Sys2Proof/Machine/Port.lean ====
section
/-! DEFINITION. The port station (spec/09_memory_tiers.md, R283 to R287, R302, R303): near-tier repeats, background transfers,
words, granary move descriptors. -/

namespace Sys2Proof.Machine

/-- The address of a PT access, or the REGION or NT_ALIGN fault (R285, R357). A misaligned access to a neighbour's local store or to a bay buffer is
LS_ALIGN as well (R249, R275; log entry 82). -/
def State.ptAddr (s : State) (k : Ctx) (r kind : Nat) (write : Bool) (x : Nat) : State × Option Nat :=
  match s.locate k r kind write x with
  | (s, none) => (s, none)
  | (s, some a) =>
    if a % 128 = 0 then (s, some a)
    else
      let s := s.faultK k .ntAlign 0 a
      (if kind = 3 then s else s.faultK k .lsAlign (if kind = 2 then 1 else 0) a, none)

/-- An instruction of the line uses its memory port (0) or second port (1) in the current sc (R331). -/
def State.usesPort (s : State) (k : Ctx) (port : Nat) : State :=
  s.updLine k.l fun L =>
    let bit : BitVec 2 := (1 : BitVec 2) <<< port
    { L with ptUsed := if L.ptUsedAt = k.x + 1 then L.ptUsed ||| bit else bit, ptUsedAt := k.x + 1 }

/-! ### PT.GET and PT.PUT -/

/-- A near-tier read of repeat time t (Table 9-2). -/
def State.ntRead (s : State) (k : Ctx) (a : Nat) (dst : BitVec 4) : State :=
  let s := s.usesPort k 0
  let sl := (ntMap s.zone a).1
  let far := if sl / 32 = bayOf k.l then 0 else 1
  let s := s.access
    { unit := k.unit, kind := .own, owner := .nt sl, write := false, addr := a, order := k.x + 8 + 8 * far
      due := k.x + 172 + 8 * far, data := 0, ret := some (s.retOf k dst (k.x + 180 + 16 * far)), unconf := none
      taken := false, slotted := false }
  if far = 0 then s else s.crossAt (k.x + 184) (sl / 32) (bayOf k.l) k.unit 0

/-- A near-tier write of repeat time t. -/
def State.ntWrite (s : State) (k : Ctx) (a : Nat) (d : BeatData) : State :=
  let s := s.usesPort k 0
  let sl := (ntMap s.zone a).1
  let far := if sl / 32 = bayOf k.l then 0 else 1
  let t := k.x + 8 + 8 * far
  let s := s.access
    { unit := k.unit, kind := .own, owner := .nt sl, write := true, addr := a, order := t, due := t, data := d
      ret := none, unconf := none, taken := false, slotted := false }
  if far = 0 then s else s.crossAt (k.x + 8) (bayOf k.l) (sl / 32) k.unit 0

def State.ptGetRep (w : FmtM) (s : State) (k : Ctx) (o : Outst) : State × Outst :=
  match s.ptAddr k w.region.toNat 3 false (lsOffset w k o) with
  | (s, none) => (s, o)
  | (s, some a) => (s.ntRead k a w.data, o)

def execPtGet (q : Queue) (w : FmtM) (s : State) : Host.Outcome State Fault Refusal :=
  s.issueRep .pt q (.ptGet q w) (State.ptGetRep w)

def State.ptPutRep (w : FmtM) (s : State) (k : Ctx) (o : Outst) : State × Outst :=
  if s.predicted k then (s.faultK k .specPath 1, o)
  else
    let (s, d) := s.takeBeat k w.data.toNat w.toff
    match s.ptAddr k w.region.toNat 3 true (lsOffset w k o) with
    | (s, none) => (s, o)
    | (s, some a) => (s.ntWrite k a d, o)

def execPtPut (q : Queue) (w : FmtM) (s : State) : Host.Outcome State Fault Refusal :=
  s.issueRep .pt q (.ptPut q w) (State.ptPutRep w)

/-! ### Background transfers (R284) -/

/-- One beat of a bay-buffer transfer (Table 9-2). -/
def State.bbBeat (s : State) (k : Ctx) (w : FmtM) (write valid : Bool) (u : Option Nat) (x : Nat) : State :=
  let (s, d) := if write then s.takeBeat k w.data.toNat w.toff else (s, 0)
  match s.ptAddr k w.region.toNat 2 write x with
  | (s, none) => s
  | (s, some a) =>
    let b := (a - 0x18000000000) / 0x4000000
    let far := if b = bayOf k.l then 0 else 1
    let t := k.x + 4 + 8 * far
    let ret : Option Ret := if write then none else
      some { (s.retOf k w.data (k.x + 10 + 16 * far)) with unconf := u, valid := valid }
    let s := s.access
      { unit := k.unit, kind := .own, owner := .bb b, write := write, addr := a % 0x4000000, order := t, due := t
        data := d, ret := ret, unconf := none, taken := false, slotted := false }
    if far = 0 then s
    else if write then s.crossAt (k.x + 8) (bayOf k.l) b k.unit 1
    else s.crossAt (k.x + 16) b (bayOf k.l) k.unit 1

/-- One beat of a neighbour transfer (R256, R257). -/
def State.nbrBeat (s : State) (k : Ctx) (w : FmtM) (write valid : Bool) (u : Option Nat) (x : Nat) : State :=
  let (s, d) := if write then s.takeBeat k w.data.toNat w.toff else (s, 0)
  match nbrOf k.l (w.region.toNat / 16) with
  | none => s
  | some n =>
    match s.ptAddr k (w.region.toNat % 16) 1 write x with
    | (s, none) => s
    | (s, some a) =>
      let ret : Option Ret := if write then none else
        some { (s.retOf k w.data (k.x + 7)) with unconf := u, valid := valid }
      s.access
        { unit := k.unit, kind := .neighbour, owner := .ls n, write := write, addr := a, order := k.x + 3, due := k.x + 3
          data := d, ret := ret, unconf := none, taken := false, slotted := false }

/-- The beat that a background write would take out of the line is unconfirmed (Table 7-8). -/
def State.bgPath (s : State) (k : Ctx) (i : Instr) : Bool :=
  match i with
  | .ptBput _ w => s.beatMark k w.data.toNat == some k.t
  | .ptNput _ w => s.beatMark k w.data.toNat == some k.t
  | _ => false

/-- Beat `b.done` of the transfer in progress moves in the current sc; a write of an unconfirmed beat is SPEC_PATH (R243). -/
def State.bgBeat (s : State) (l : Nat) (b : Background) : State :=
  let t := match b.instr.home with | some (_, q) => q.task.val | none => 0
  let k : Ctx := { st := .pt, l := l, t := t, x := s.sc, c0 := b.c, j := b.done, pc := b.pc }
  let s := (s.usesPort k 1).updLine l fun L => { L.drawn b.instr with bg := some { b with done := b.done + 1 } }
  if s.bgPath k b.instr then s.faultK k .specPath 1
  else match b.instr with
  | .ptBget _ w => s.bbBeat k w false b.valid b.unconf (repOffset b.base b.stride w.offset b.done)
  | .ptBput _ w => s.bbBeat k w true b.valid b.unconf (repOffset b.base b.stride w.offset b.done)
  | .ptNget _ w => s.nbrBeat k w false b.valid b.unconf (repOffset b.base b.stride w.offset b.done)
  | .ptNput _ w => s.nbrBeat k w true b.valid b.unconf (repOffset b.base b.stride w.offset b.done)
  | _ => s

/-- The beat of a background transfer that is due in the current sc, when it has not moved. -/
def State.bgStep (s : State) (l : Nat) : State :=
  match (s.line l).bg with
  | some b => if b.done < b.total && b.c + b.done ≤ s.sc then s.bgBeat l b else s
  | none => s

/-- The AR update of a transfer under POST; a prediction that began after the issue keeps it (R240), and one that was refuted
discards it. -/
def LineState.bgPost (L : LineState) (t n : Nat) (b : Background) : LineState :=
  let v := b.base + BitVec.ofNat 40 b.total * b.stride
  let put (z : QState) : QState := { z with ar := z.ar.put n v }
  let L' := L.updQ .pt t put
  if !b.valid then L
  else match L.cc.preds.find t, b.unconf with
    | some p, none =>
      { L' with cc.preds := L'.cc.preds.put t { p with queues := (p.queues.take 1).map put ++ p.queues.drop 1 } }
    | _, _ => L'

/-- The end of a background transfer in the sc of its last beat: the AR update under POST replaces what the queue wrote
since the issue (R284). -/
def State.bgEnd (s : State) (l : Nat) : State :=
  match (s.line l).bg with
  | none => s
  | some b =>
    if b.done < b.total then s
    else
      let s := s.updLine l fun L => { L with bg := none }
      match b.instr.home, b.instr.fmtM? with
      | some (_, q), some w =>
        if w.post then s.updLine l fun L => L.bgPost q.task w.arn.toNat b else s
      | _, _ => s

/-- The address of the first access of a background transfer (Table 9-1): an entry of the region table and the offset that R93 forms. -/
def State.bgAddr (s : State) (i : Instr) (o : Outst) : Nat :=
  match i.fmtM? with
  | some w =>
    let nbr : Bool := match i with | .ptNget _ _ => true | .ptNput _ _ => true | _ => false
    (s.region (if nbr then w.region.toNat % 16 else w.region.toNat)).base + repOffset o.base o.stride w.offset 0
  | none => 0

/-- A background transfer issues: its first beat moves in the issue sc, and the queue goes on (R284). -/
def State.issueBg (s : State) (q : Queue) (i : Instr) (writes : Bool) : Host.Outcome State Fault Refusal :=
  s.issueWith .pt q i fun s =>
    let o := s.outstOf .pt q i
    let s := s.updQ .pt q fun z => { z with repLatch := none }
    let k := s.ctx .pt q s.sc 0
    let s :=
      if o.total = 0 then s
      else if writes && s.predicted k then s.faultK k .specPath 1
      else if (s.line q.line).bg.isSome then s.faultK k .ptPort2 0 (s.bgAddr i o)
      else s.bgBeat q.line
        { instr := i, c := s.sc, total := o.total, done := 0, base := o.base, stride := o.stride, pc := k.pc
          unconf := (s.line q.line).unconf q.task s.sc, valid := true }
    s.advance .pt q

def execPtBget (q : Queue) (w : FmtM) (s : State) : Host.Outcome State Fault Refusal := s.issueBg q (.ptBget q w) false
def execPtBput (q : Queue) (w : FmtM) (s : State) : Host.Outcome State Fault Refusal := s.issueBg q (.ptBput q w) true
def execPtNget (q : Queue) (w : FmtM) (s : State) : Host.Outcome State Fault Refusal := s.issueBg q (.ptNget q w) false
def execPtNput (q : Queue) (w : FmtM) (s : State) : Host.Outcome State Fault Refusal := s.issueBg q (.ptNput q w) true

def execBackgroundBeat (l : LineId) (s : State) : Host.Outcome State Fault Refusal :=
  .next (if s.live && !s.held then s.bgStep l else s)

/-! ### Words and move descriptors -/

def State.ptSendRep (w : FmtO) (s : State) (k : Ctx) (o : Outst) : State × Outst :=
  if s.predicted k then (s.faultK k .specPath 1, o)
  else
    let (s, b) := s.takeBeat k w.src.toNat w.toff
    (s.sendWord k (w.fld 0 4) (b.extractLsb' 0 64), o)

/-- PT.SEND: bytes 0 to 7 of each beat as a word on route WC. -/
def execPtSend (q : Queue) (w : FmtO) (s : State) : Host.Outcome State Fault Refusal :=
  s.issueRep .pt q (.ptSend q w) (State.ptSendRep w)

/-- Descriptor i of a beat (Table 9-5): the move, and whether its reserved bits are zero. -/
def descriptor (b : BeatData) (i entry : Nat) : Move × Bool :=
  let f (lo n : Nat) : Nat := b.toNat / 2 ^ (256 * i + lo) % 2 ^ n
  ({ src := f 0 42, dst := f 64 42, len := f 128 32, fidx := f 160 10, flagEn := f 175 1 = 1, dl := f 192 64
     entry := entry, moved := 0, begun := false, ended := false },
   f 42 22 = 0 && f 106 22 = 0 && f 170 5 = 0 && f 176 16 = 0)

/-- A range lies within one region that the image declares for moves. -/
def State.moveRegion (s : State) (a n : Nat) : Bool :=
  match s.job.img with
  | some i => i.regions.any fun g => (g.kind = 2 || g.kind = 3 || g.kind = 4) && g.move && g.base ≤ a && a + n ≤ g.base + g.size
  | none => false

/-- An address in the granary range, or in the near-tier or bay-buffer range (Table 1-8). -/
def inGranary (a : Nat) : Bool := 0x20000000000 ≤ a
def inNearOrBay (a : Nat) : Bool := a < 0x18020000000

/-- The rule of Table 9-6 that a descriptor breaks: of several the lowest code (DESIGN CHOICE, log entry 118). -/
def State.descCode (s : State) (m : Move) (clean : Bool) : Option Nat :=
  let cap := 0x20000000000 + s.gr.capacity
  let ok (a : Nat) : Bool := inGranary a || inNearOrBay a
  let fits (a : Nat) : Bool := s.moveRegion a m.len && (!inGranary a || a + m.len ≤ cap)
  if !((inGranary m.src && ok m.dst) || (inGranary m.dst && ok m.src)) then some 1
  else if !(fits m.src && fits m.dst) then some 2
  else if m.src % 128 ≠ 0 || m.dst % 128 ≠ 0 || m.len % 128 ≠ 0 || m.len = 0 then some 3
  else if m.src < m.dst + m.len && m.dst < m.src + m.len then some 4
  else if !clean then some 5
  else if m.dl < m.entry then some 6
  else none

/-- One descriptor of a beat consumed in the current sc (R302, R303). -/
def State.takeDescriptor (s : State) (k : Ctx) (b : BeatData) (i : Nat) : State :=
  let (m, clean) := descriptor b i (k.x + 16)
  if !m.flagEn && m.len = 0 then s
  else match s.descCode m clean with
    | some c =>
      { s.faultK k .grDesc c 0 i with gr.err := if s.gr.err.isSome then s.gr.err else some c }
    | none =>
      { s with gr.fly := s.gr.fly ++ [{ due := k.x + 16, line := k.l, task := k.t, pc := k.pc, ix := i, move := m }] }

def State.ptGmvRep (w : FmtM) (s : State) (k : Ctx) (o : Outst) : State × Outst :=
  let s := s.usesPort k 0
  if s.predicted k then (s.faultK k .specPath 1, o)
  else
    let (s, b) := s.takeBeat k w.data.toNat w.toff
    ((List.range 4).foldl (fun s i => s.takeDescriptor k b i) s, o)

def execPtGmv (q : Queue) (w : FmtM) (s : State) : Host.Outcome State Fault Refusal :=
  s.issueRep .pt q (.ptGmv q w) (State.ptGmvRep w)

/-! ### PT_READ_RETURN (R286) -/

/-- The PT and LS results of a line that are due in sc `x`. -/
def State.readReturns (s : State) (st : Station) (l x : Nat) : State :=
  let (due, rest) := (s.line l).dueOuts st x
  due.foldl (fun s o => s.land l o) (s.updLine l fun L => { L with outs := rest })

def execPtReadReturn (l : LineId) (s : State) : Host.Outcome State Fault Refusal :=
  .next (if s.live && !s.held then s.readReturns .pt l s.sc else s)

end Sys2Proof.Machine
end

