-- ==== Sys2Proof/Machine/Fabric.lean ====
section
/-! DEFINITION. The fabric: links and replay (R321, R323, R345), scheduled circuits (R325 to R333), PT.FGET and PT.FPUT (R334 to
R337), dynamic traffic (R339 to R343). -/

namespace Sys2Proof.Machine

/-! ### Launching and receiving cells -/

/-- The port has launched no packet cell in the position of the current cc (Table 10-4). -/
def State.positionFree (s : State) (p : Nat) : Bool := (s.port p).posAt ≠ s.fab.htc + 1

/-- A packet cell as it goes out: the item, and the cell it makes, with its trailer (R321, R322). -/
def State.cellOut (s : State) (p seq : Nat) (i : DynItem) : Sent :=
  .cell p seq i (i.packet s.coord) ((i.packet s.coord).trailer seq)

/-- A port launches a cell in its position with the next link sequence number; it keeps the last 256 (R321, R345). -/
def State.launch (s : State) (p : Nat) (i : DynItem) : State :=
  let P := s.port p
  (s.updPort p fun P =>
    { P with posAt := s.fab.htc + 1, seq := (P.seq + 1) % 2 ^ 31, sent := Launched.mk P.seq i :: P.sent.take 255
             cnt := { P.cnt with tx := wrap64 (P.cnt.tx + 1) } }).send (s.cellOut p P.seq i)

/-- A port resends the next cell of a replay. -/
def State.launchAgain (s : State) (p : Nat) : State :=
  match (s.port p).resend with
  | [] => s
  | c :: r =>
    (s.updPort p fun P => { P with posAt := s.fab.htc + 1, resend := r, cnt := { P.cnt with tx := wrap64 (P.cnt.tx + 1) } }).send (s.cellOut p c.seq c.item)

/-- A port that carries a circuit of the running job fails (R347). -/
def State.portLost (s : State) (p : Nat) : State :=
  if s.fab.circ.any fun e => cValid e.2 && (cPorts e.2).contains p then s.faultFab s.nextSc .fabPort p 0 p else s

/-- An UP port becomes FAILED (R346). -/
def State.portFail (s : State) (p code : Nat) : State :=
  if s.portUp p then ((s.updPort p fun P => { P with st := 6, failcode := code }).setAlert 5).portLost p else s

/-- A REPLAY request: every cell from the number on is sent again; the eighth request for one cell fails the port (R345,
R346). -/
def State.replayFrom (s : State) (p num : Nat) : State :=
  let P := s.port p
  let n := if P.asked.1 = num && P.asked.2 ≠ 0 then P.asked.2 + 1 else 1
  let s := s.updPort p fun P =>
    { P with asked := (num, n), replays := sat32 (P.replays + 1), maxrep := max P.maxrep (min n 15)
             resend := (P.sent.filter fun c => (c.seq + 2 ^ 31 - num) % 2 ^ 31 < 2 ^ 30).reverse }
  if 8 ≤ n then s.portFail p 1 else s

def execReplayRequest (port : PortId) (seq : BitVec 31) (s : State) : Host.Outcome State Fault Refusal :=
  .next (if s.portUp port then s.replayFrom port seq.toNat else s)

/-- Places of a link sequence number after the one expected (R345). -/
def FabPort.ahead (P : FabPort) (n : Nat) : Nat := (n % 2 ^ 31 + 2 ^ 31 - P.expect) % 2 ^ 31
/-- A replay of every cell from the one expected on: it brings again at least the cell of number `n`, which the port has seen launched. -/
def FabPort.inReplay (P : FabPort) (n : Nat) (ask : Bool) : FabPort :=
  { P with ask := ask, replaying := true, upTo := if P.replaying && P.ahead n ≤ P.ahead P.upTo then P.upTo else n % 2 ^ 31 }
/-- The cell expected has come: a replay that brought its last cell is over. -/
def FabPort.inOrder (P : FabPort) : FabPort :=
  { P with expect := (P.expect + 1) % 2 ^ 31, replaying := P.replaying && P.expect ≠ P.upTo }

/-- The cells of a replay asked for would have come by now: a request that has been lost is sent again (log entry 90). -/
def State.askOver (s : State) (p : Nat) : Bool := (s.port p).askAt + 2 * (s.port p).lat + 64 ≤ s.time.now

/-- A cell reaches an UP port (R321, R323, R345): the packet to use, when it is in order and clean. The FEC's findings in the codewords
since the cell before count (Table 10-11). -/
def State.receive (s : State) (p : Nat) (c : LinkCell) : State × Option Packet :=
  let P := s.port p
  let k : Packet := ⟨c.header, c.payload⟩
  let word := (c.trailer.extractLsb' 0 32).toNat
  if P.st ≠ 5 then (s, none)
  else
    let s := s.updPort p fun P =>
      { P with cnt := { P.cnt with rx := wrap64 (P.cnt.rx + 1) }, fecCe := sat32 (P.fecCe + c.fecCe), fecUe := sat32 (P.fecUe + c.fecUe) }
    if c.trailer.extractLsb' 32 32 ≠ k.crc word then (s.updPort p fun P => P.inReplay P.expect true, none)
    else if k.typ = 0 then (if k.clean then s else s.updPort p fun P => { P with crc := sat32 (P.crc + 1) }, none)
    else
      let d := P.ahead word
      if d = 0 then
        let s := s.updPort p FabPort.inOrder
        if k.clean then (s, some k) else (s.updPort p fun P => { P with crc := sat32 (P.crc + 1) }, none)
      else if d ≤ 256 then (s.updPort p fun P => P.inReplay word (P.ask || !P.replaying || s.askOver p), none)
      else (s, none)

/-! ### Origin packets (R326) -/

/-- A packet of circuit `c` claims index `n` on every sending port and waits in their transmit buffers. -/
def State.claim (s : State) (c q n : Nat) (pkt : Packet) : State :=
  (cOuts (s.circuit c)).foldl (fun s p =>
    let s := if s.fab.claims.contains (p, n) then s.faultFab s.sc .fabSlot 1 c p else s
    let s := { s with fab.claims := (s.fab.claims.filter fun e : Nat × Nat => s.sc ≤ nominal s.splitS e.2) ++ [(p, n)] }
    s.updPort p fun P => { P with tx := P.tx ++ [TxCell.mk c q false (nominal s.splitS n) pkt] }) s

/-- The header and payload of an origin packet; DST is a free value (log entry 107). -/
def State.originPacket (s : State) (r : ReadyPkt) (q n : Nat) : Packet :=
  ⟨mkHeader 1 0 (cOp (s.circuit r.circ)) r.sig r.last r.circ s.coord (Config.circuitDst r.circ) (nominal s.splitS n) r.addr q, r.payload⟩

/-- One packet becomes ready: a local operand waits for its partner (R332), any other claims its send slot. -/
def State.makeReady (s : State) (r : ReadyPkt) : State :=
  let e := s.circuit r.circ
  let k := s.cs r.circ
  let s := s.updCs r.circ fun k => { k with made := k.made + 1 }
  if cOuts e = [] then { s with fab.locals := s.fab.locals.upd r.circ [] (· ++ [r]) }
  else
    let n := ownedFrom e (max k.nextIx (indexFrom s.splitS r.due))
    (s.updCs r.circ fun k => { k with nextIx := n + 1 }).claim r.circ k.made n (s.originPacket r k.made n)

/-- The packets of a circuit that are ready by the current sc. -/
def State.packetsReady (s : State) (c : Nat) : State :=
  let mine (r : ReadyPkt) : Bool := r.circ == c && r.due ≤ s.sc
  (s.fab.ready.filter mine).foldl State.makeReady { s with fab.ready := s.fab.ready.filter fun r => !mine r }

def execScheduledPacketReady (circ : Fin 4096) (s : State) : Host.Outcome State Fault Refusal :=
  .next (if s.live && !s.held then s.packetsReady circ else s)

/-! ### Departure (R327, R329) -/

/-- The departure-ready cc of a waiting packet has come. -/
def State.txReady (s : State) (c : TxCell) : Bool :=
  if c.through then c.at_ ≤ s.time.now else !s.time.running || c.at_ < s.sc || (c.at_ = s.sc && s.live && !s.held)

/-- The origin knows that packet q - A has been used at every end. -/
def State.hasCredit (s : State) (c : TxCell) : Bool :=
  let e := s.circuit c.circ
  c.through || cAllow e == 0 || (cOuts e).all fun p => c.q < (s.port p).count.look c.circ 0 + cAllow e

/-- The first packet of its circuit in the buffer. -/
def firstOfCircuit (l : List TxCell) (c : TxCell) : Bool := (l.find? fun d => d.circ == c.circ) == some c

/-- The packet that departs in position `pos`. -/
def State.departing (s : State) (p pos : Nat) : Option TxCell :=
  let l := (s.port p).tx
  l.find? fun c => s.txReady c && s.hasCredit c && cOwns (s.circuit c.circ) pos && firstOfCircuit l c

/-- A scheduled position of a port in the current cc. -/
def State.departure (s : State) (p : Nat) : State :=
  match s.position with
  | none => s
  | some pos =>
    if !s.portUp p || s.splitS ≤ pos || !s.positionFree p then s
    else if (s.port p).resend ≠ [] then s.launchAgain p
    else match s.departing p pos with
      | none => s
      | some c =>
        let s := s.updPort p fun P => { P with tx := P.tx.erase c }
        let s := if c.through then { s with fab.cnt.fwd := wrap64 (s.fab.cnt.fwd + 1) }
                 else { s with fab.cnt.sch := wrap64 (s.fab.cnt.sch + 1) }
        s.launch p (.cell c.pkt)

def execScheduledPacketDeparture (port : PortId) (s : State) : Host.Outcome State Fault Refusal := .next (s.departure port)

/-- The packets of a circuit that a PT.FPUT has handed over and that are not ready yet, with the send slots that they will claim (R326,
R335). -/
def State.handedOver (s : State) (c : Nat) : List TxCell :=
  let e := s.circuit c
  let one (acc : List TxCell × Nat × Nat) (r : ReadyPkt) : List TxCell × Nat × Nat :=
    let n := ownedFrom e (max acc.2.1 (indexFrom s.splitS r.due))
    (acc.1 ++ [⟨c, acc.2.2, false, nominal s.splitS n, default⟩], n + 1, acc.2.2 + 1)
  ((s.fab.ready.filter fun r => r.circ == c).foldl one ([], (s.cs c).nextIx, (s.cs c).made)).1

/-- The packets in lead buffers that go on with a circuit NEXT at their use sc (R330). -/
def State.goOn (s : State) : List TxCell :=
  s.fab.ports.flatMap fun P => P.2.lead.filterMap fun e =>
    let t := s.circuit e.circ
    if cNext t ≠ 0 then some ⟨cNext t, e.q, false, nominal s.splitS (e.n + cDelta t), e.pkt⟩ else none

/-- The packets that a port sends or will send, as far as the module knows them. -/
def State.toSend (s : State) (p : Nat) : List TxCell :=
  let later := ((s.fab.ready.map (·.circ)).eraseDups.flatMap s.handedOver) ++ s.goOn
  (s.port p).tx ++ later.filter fun c => (cOuts (s.circuit c.circ)).contains p

/-- The sending port looks 8 cc ahead of the send sc of its packets: FAB_LEAD where the lead entry is not free (R52). -/
def State.leadCheck (s : State) (p : Nat) : State :=
  (s.toSend p).foldl (fun s c =>
    if !c.through && s.eightBefore c.at_ && !s.hasCredit c && !s.hasHold 3 (.packet c.circ c.q)
    then s.raiseHold 3 (.packet c.circ c.q) none else s) s

def execFabLeadCheck (port : PortId) (s : State) : Host.Outcome State Fault Refusal := .next (s.leadCheck port)

/-- Lead entries that have become free withdraw their requests. -/
def State.leadFreed (s : State) : State :=
  let free (r : HoldReq) : Bool :=
    match r.src with
    | .packet c q => r.cause == 3 && s.hasCredit ⟨c, q, false, 0, default⟩
    | _ => false
  { s with time.reqs := s.time.reqs.filter fun r => !free r }

/-! ### Arrival (R327, R328, R365) -/

/-- The part of the job on this module has ended. -/
def State.partEnded (s : State) : Bool := !s.time.running && !(s.time.loaded && s.job.faultSc.isNone)

/-- A scheduled packet of an UP port. -/
def State.scheduledArrival (s : State) (p : Nat) (k : Packet) : State :=
  let c := k.circ
  let e := s.circuit c
  let x := s.fullSc k.sendSc
  let n := indexFrom s.splitS x
  let z := s.cs c
  let first := (s.port p).peer.any fun d => d.1 == k.src
  let slotOk := nominal s.splitS n == x && cOwns e n && z.afterIx ≤ n
  let endOk := !cEnd e || k.seq == z.expSeq % 2 ^ 32
  if s.partEnded then { s with job.endDisc := sat32 (s.job.endDisc + 1) }
  else if !cValid e || cIn e ≠ p || (first && !slotOk) || !endOk then s.faultFab s.nextSc .fabSlot 2 c p
  else
    let s := s.updCs c fun z => { z with afterIx := n + 1, expSeq := z.expSeq + 1 }
    if cEnd e then
      let at_ := cBase e + z.expSeq % max 1 (cAllow e)
      ((s.updPort p fun P => { P with lead := P.lead ++ [⟨c, z.expSeq, n, k, at_⟩] }).dropHold 2 (.packet c z.expSeq)).dropHold 4
        (.packet c z.expSeq)
    else
      (cOuts e).foldl (fun s o => s.updPort o fun P => { P with tx := P.tx ++ [⟨c, z.expSeq, true, s.time.now + 4, k⟩] }) s

/-- Packet `q` of a circuit is in the lead buffer of the circuit's port. -/
def State.inLead (s : State) (c q : Nat) : Bool := (s.port (cIn (s.circuit c))).lead.any fun e => e.circ == c && e.q == q

/-- The receiving port looks 8 cc ahead of a packet's use sc (R51): the image's plan of the packet, its SEQ and index, comes with
the command. A packet that is absent while its port takes a replay counts as one of the replay: LINK_REPLAY (DESIGN CHOICE, log entry 110). -/
def State.lateCheck (s : State) (c q n : Nat) : State :=
  let e := s.circuit c
  let u := nominal s.splitS (n + cDelta e)
  let cause := if (s.port (cIn e)).replaying then 4 else 2
  if cEnd e && s.eightBefore u && !s.inLead c q && !s.hasHold 2 (.packet c q) && !s.hasHold 4 (.packet c q)
  then s.raiseHold cause (.packet c q) none else s

def execFabLateCheck (circ : Fin 4096) (seq index : Nat) (s : State) : Host.Outcome State Fault Refusal :=
  .next (s.lateCheck circ seq index)

/-! ### Use (R329 to R332, R337) -/

/-- A beat of a memory delivery in sc `x` (R331). Its address is a multiple of 128: a packet with another is discarded (R323). -/
def State.deliverBeat (s : State) (land aux a x : Nat) (d : BeatData) : State :=
  let u : UnitRef := ⟨land, 6, 0, true, 0⟩
  if a < 0x18000000000 then
    let sl := (ntMap s.zone a).1
    let far := if sl / 32 = bayOf land then 0 else 1
    let t := x + 8 + 8 * far
    let s := { s with uses := s.uses ++ [⟨u, .fabric, .nt sl, true, a, t, t, d, none, none, false, false⟩]
                      fab.lands := s.fab.lands ++ [⟨x, land, 0, aux⟩] }
    if far = 0 then s else s.crossAt (x + 8) (bayOf land) (sl / 32) u 0
  else
    let b := (a - 0x18000000000) / 0x4000000
    let far := if b = bayOf land then 0 else 1
    let t := x + 4 + 8 * far
    let s := { s with uses := s.uses ++ [⟨u, .fabric, .bb b, true, a % 0x4000000, t, t, d, none, none, false, false⟩]
                      fab.lands := s.fab.lands ++ [⟨x, land, 1, aux⟩] }
    if far = 0 then s else s.crossAt (x + 8) (bayOf land) b u 1

/-- A delivery's address lies within a near-tier or bay-buffer region with the W bit set (R357). -/
def State.landRegion (s : State) (a : Nat) : Bool :=
  match s.job.img with
  | some i => i.regions.any fun g => (g.kind = 2 || g.kind = 3) && g.w && g.base ≤ a && a + 256 ≤ g.base + g.size
  | none => false

/-- A delivery to memory at use sc `u`; `aux` names the circuit and its port. -/
def State.deliverMem (s : State) (land aux u : Nat) (k : Packet) (data : BitVec 2048) : State :=
  if !s.landRegion k.addr then s.faultAt u .region 0 ⟨land, 6, 0, true, 0⟩ UnitRef.none k.addr
  else
    let s := (s.deliverBeat land aux k.addr u (halfOf data 0)).deliverBeat land aux (k.addr + 128) (u + 1) (halfOf data 1)
    match k.sig with
    | some (f, set) => { s with fab.sigs := s.fab.sigs ++ [⟨u + 17, land, f, set⟩] }
    | none => s

/-- The used packet goes on with circuit NEXT in slot index `m` (R330): an index that NEXT does not own is FAB_SLOT with
detail 3. -/
def State.sendNext (s : State) (next m q : Nat) (k : Packet) (data : BitVec 2048) : State :=
  let e := s.circuit next
  if !cOwns e m then s.faultFab s.sc .fabSlot 3 next ((cOuts e).getD 0 15)
  else
    s.claim next q m
      ⟨mkHeader 1 0 (cOp e) k.sig (k.f 12 1 = 1) next s.coord (Config.circuitDst next) (nominal s.splitS m) k.addr q, data⟩

/-- Packet `q` of a local operand circuit, when it is ready (R332). -/
def State.localOperand (s : State) (c q : Nat) : Option ReadyPkt :=
  let used := (s.cs c).used
  if q < used then none else ((s.fab.locals.look c []).drop (q - used)).head?

/-- The local operand's packets up to `q` have been used. -/
def State.takeLocal (s : State) (c q : Nat) : State :=
  let n := q + 1 - (s.cs c).used
  { (s.updCs c fun z => { z with used := q + 1 }) with fab.locals := s.fab.locals.upd c [] (·.drop n) }

/-- The end functions of a packet at its use sc: memory, stream, NEXT (R330). -/
def State.endFunctions (s : State) (e : LeadEnt) (data : BitVec 2048) : State :=
  let t := s.circuit e.circ
  let u := s.sc
  let s := match cDlv t with
    | 1 => s.deliverMem (cLand t) (fabAux e.circ (cIn t)) u e.pkt data
    | 2 => { s with fab.strm := s.fab.strm.put e.circ ⟨e.circ, u, data, e.pkt.sig⟩ }
    | _ => s
  if cNext t ≠ 0 then s.sendNext (cNext t) (e.n + cDelta t) e.q e.pkt data else s

/-- The use of a packet in the current sc (R329, R330, R332, R340). -/
def State.usePacket (s : State) (e : LeadEnt) : State :=
  let t := s.circuit e.circ
  let p := cIn t
  let s := (s.updPort p fun P =>
    { P with lead := P.lead.erase e, due := if P.due.contains e.circ then P.due else P.due ++ [e.circ] }).updCs e.circ
    fun z => { z with used := e.q + 1 }
  if cOp t = 0 then s.endFunctions e e.pkt.payload
  else
    let s := s.packetsReady (cLocal t)
    match s.localOperand (cLocal t) e.q with
    | none => s.faultFab s.sc .fabLocal 0 e.circ p
    | some r =>
      let s := { (s.takeLocal (cLocal t) e.q) with fab.cnt.red := sat32 (s.fab.cnt.red + 1) }
      s.endFunctions e (combine (cOp t) e.pkt.payload r.payload)

/-- The packets of a circuit whose use sc is the current sc are used. -/
def State.useCircuit (s : State) (c : Nat) : State :=
  let t := s.circuit c
  let now := (s.port (cIn t)).lead.filter fun e => e.circ == c && nominal s.splitS (e.n + cDelta t) == s.sc
  if cEnd t then now.foldl State.usePacket s else s

def execScheduledPacketUse (circ : Fin 4096) (s : State) : Host.Outcome State Fault Refusal :=
  .next (if s.live && !s.held then s.useCircuit circ else s)

/-- Signals of memory deliveries whose sc has come: a CC.SET or CC.CLR that the landing line issues in it (R337). -/
def State.signals (s : State) (l : Nat) : State :=
  let mine (f : SignalFly) : Bool := f.line == l && f.due ≤ s.sc
  (s.fab.sigs.filter mine).foldl
    (fun s f => s.flagChange .module (f.flag / 128) (f.flag % 128) f.set .program (f.due + flagLat .module l (f.flag / 128)))
    { s with fab.sigs := s.fab.sigs.filter fun f => !mine f }

def execSignalApply (l : LineId) (s : State) : Host.Outcome State Fault Refusal :=
  .next (if s.live && !s.held then s.signals l else s)

/-- An instruction of the landing line used the port in the sc of a memory delivery (R331). -/
def State.landCheck (s : State) (x : Nat) : State :=
  (s.fab.lands.filter fun f => f.at_ ≤ x).foldl (fun s f =>
    let L := s.line f.line
    if f.at_ = x && L.ptUsedAt = x + 1 && L.ptUsed.getLsbD f.port then
      s.faultAt x .fabLand f.port ⟨f.line, 6, 0, true, 0⟩ UnitRef.none 0 f.aux
    else s) { s with fab.lands := s.fab.lands.filter fun f => x < f.at_ }

/-! ### PT.FGET and PT.FPUT (R334 to R336) -/

/-- The stream packet of the circuit that a PT.FGET names, for an end with DLV 0b10 on the issuing line. -/
def State.streamOf (s : State) (k : Ctx) (r : Nat) : Option StreamPkt :=
  let g := s.region r
  let e := s.circuit g.circ
  if g.kind = 5 && !g.dyn && g.circ ≠ 0 && cEnd e && cDlv e = 2 && cLand e = k.l then s.fab.strm.find g.circ else none

/-- One repeat of PT.FGET: the beat is present 4 sc later; a wrong sc or circuit is FAB_USE, an access outside the region REGION (R357). -/
def State.ptFgetRep (w : FmtM) (s : State) (k : Ctx) (o : Outst) : State × Outst :=
  let s := s.usesPort k 0
  let c := (s.region w.region.toNat).circ
  let s := s.useCircuit c
  match s.locate k w.region.toNat 5 false (lsOffset w k o), (s.useCircuit c).streamOf k w.region.toNat with
  | (s, none), _ => (s, o)
  | (s, some _), some p =>
    if p.u + k.j % 2 ≠ k.x then (s.faultK k .fabUse 0 0 (fabAux c (cIn (s.circuit c))), o)
    else
      let s := s.emit k (k.x + 4) (destOf w.data 0) ((halfOf p.payload (k.j % 2)).setWidth 4096)
      let s := match k.j % 2, p.sig with
        | 1, some (f, set) =>
          -- a signal is no path for an unconfirmed result (Table 7-8)
          if s.predicted k then s.faultK k .specPath 1 else
          s.flagChange .module (f / 128) (f % 128) set .program (k.x + flagLat .module k.l (f / 128))
        | _, _ => s
      (s, o)
  | (s, some _), none => (s.faultK k .fabUse 0 0 (fabAux c (cIn (s.circuit c))), o)

def execPtFget (q : Queue) (w : FmtM) (s : State) : Host.Outcome State Fault Refusal :=
  s.issueRep .pt q (.ptFget q w) (State.ptFgetRep w)

/-- The destinations of a dynamic region: its multicast group, or its destination coordinate (R334, R339). -/
def State.dynDests (s : State) (g : Region) : List (BitVec 15) :=
  if g.circ = 0 then [BitVec.ofNat 15 g.dest] else s.fab.mcast.look g.circ []

/-- A dynamic region names a module outside the torus: an access to it is outside the declared regions (R31, R32). -/
def Region.offTorus (g : Region) (s : State) : Bool := g.dyn && g.circ = 0 && !s.inTorus (BitVec.ofNat 15 g.dest)

/-- An access of a dynamic region of this module lies beyond the fitted granary (R27, R32). -/
def Region.pastOwn (g : Region) (s : State) (a : Nat) : Bool :=
  g.dyn && g.circ = 0 && g.dest = s.coord.toNat && 0x20000000000 + s.gr.capacity < a + 128

/-- A packet of a dynamic region (R339, R343). -/
def State.dynPacket (s : State) (k : Ctx) (g : Region) (tag addr : Nat) (payload : BitVec 2048) (last : Bool) : State :=
  let sig := if last && g.sigEn then some (g.sig, !g.sigClr) else none
  let mk (d : BitVec 15) : DynOut :=
    { due := k.x + 16, tag := tag, dst := d
      pkt := ⟨mkHeader 2 1 0 sig last g.circ s.coord d 0 addr tag, payload⟩ }
  let outq := s.fab.outq ++ (s.dynDests g).map mk
  let xfers := if last then s.fab.xfers.map fun x => if x.tag = tag then { x with whole := true } else x else s.fab.xfers
  { s with fab.outq := outq, fab.xfers := xfers }

/-- The payload of a pair of repeats is handed to the fabric: ready at t + 16 (R335). -/
def State.fput (s : State) (k : Ctx) (g : Region) (o : Outst) (addr : Nat) (payload : BitVec 2048) : State × Outst :=
  let last := k.j + 1 == o.total
  if g.dyn then
    if k.j = 1 then
      let tag := s.fab.nextTag
      let x : Transfer := ⟨tag, false, if g.cflagEn then some g.cflag else none⟩
      let s := { s with fab.nextTag := (tag + 1) % 2 ^ 32, fab.xfers := s.fab.xfers ++ [x] }
      (s.dynPacket k g tag addr payload last, { o with nums := [addr, tag] })
    else (s.dynPacket k g (o.nums.getD 1 0) addr payload last, o)
  else
    let r : ReadyPkt :=
      { circ := g.circ, due := k.x + 16, addr := addr, payload := payload, last := last
        sig := if last && g.sigEn then some (g.sig, !g.sigClr) else none }
    ({ s with fab.ready := s.fab.ready ++ [r] }, o)

def State.ptFputRep (w : FmtM) (s : State) (k : Ctx) (o : Outst) : State × Outst :=
  let s := s.usesPort k 0
  if s.predicted k then (s.faultK k .specPath 1, o)
  else
    let (s, d) := s.takeBeat k w.data.toNat w.toff
    match s.locate k w.region.toNat 5 true (lsOffset w k o) with
    | (s, none) => (s, o)
    | (s, some a) =>
      if (s.region w.region.toNat).offTorus s || (s.region w.region.toNat).pastOwn s a then (s.faultK k .region w.region.toNat (lsOffset w k o) w.region.toNat, o)
      else if k.j % 2 = 0 then (s, { o with buf := [d], nums := a :: o.nums.drop 1 })
      else s.fput k (s.region w.region.toNat) o (o.nums.getD 0 a) (payloadOf (o.buf.getD 0 0) d)

def execPtFput (q : Queue) (w : FmtM) (s : State) : Host.Outcome State Fault Refusal :=
  s.issueRep .pt q (.ptFput q w) (State.ptFputRep w)

/-! ### Dynamic traffic (R339, R341 to R343) -/

/-- Forwarding entries of a channel: 8 for VC0, 32 for the data channels (R342). -/
def vcEntries (v : Nat) : Nat := if v = 0 then 8 else 32
def FabPort.credits (P : FabPort) (v : Nat) : Nat := P.credit.look v (vcEntries v)

/-- A forwarding entry at a receiving port is free again. -/
def State.freeEntry (s : State) (src : Option (Nat × Nat)) : State :=
  match src with
  | some (p, v) => s.updPort p fun P => { P with freed := P.freed.upd v 0 (· + 1) }
  | none => s

def DynItem.dst : DynItem → BitVec 15
  | .cell p => p.dst
  | .msg d _ => d
def DynItem.srcOr (own : BitVec 15) : DynItem → BitVec 15
  | .cell p => p.src
  | .msg _ _ => own
def DynItem.isControl : DynItem → Bool
  | .cell p => p.typ == 3
  | .msg _ _ => true
def DynItem.onVc (i : DynItem) (v : Nat) : DynItem :=
  match i with
  | .cell p => .cell (p.onVc v)
  | .msg d m => .msg d m

/-- A dynamic item goes to the queue of its sending port (R341). -/
def State.queueItem (s : State) (i : DynItem) (src : Option (Nat × Nat)) : State :=
  match s.route (i.srcOr s.coord) i.dst i.isControl src with
  | none => s.freeEntry src
  | some (p, v) => s.updPort p fun P => { P with vc := P.vc.upd v [] (· ++ [⟨i.onVc v, s.time.now, src⟩]) }

/-- A dynamic write or flag change that takes effect in the running job counts in the NDC (R343, R56). -/
def State.dynConsumed (s : State) : State := if s.time.running then s.countNdc .dynfab UnitRef.engine else s

/-- The copies that a BUSY or DONE names. -/
def Retained.named (r : Retained) (dst : BitVec 15) (tag addr : Nat) : Bool := r.dst == dst && r.tag == tag && r.pkt.addr == addr

/-- BUSY: the copy stays in the retention buffer until the resend 4 microseconds later (BUSY_RESEND). -/
def State.busyFrom (s : State) (dst : BitVec 15) (tag addr : Nat) : State :=
  { s with fab.resends := s.fab.resends ++ (s.fab.retain.filter fun r => r.named dst tag addr).map fun r => (s.time.now + 3200, r) }

/-- The transfer is complete: every packet handed over, every destination has answered DONE (R339). -/
def State.transferDone (s : State) (x : Transfer) : State :=
  let s := { s with fab.xfers := s.fab.xfers.erase x }
  match x.cflag with
  | some f => (s.outsideChange (f / 128) (f % 128) true).dynConsumed
  | none => s

/-- A destination's DONE frees the retained copy. -/
def State.doneFrom (s : State) (dst : BitVec 15) (tag addr : Nat) : State :=
  let s := { s with fab.retain := s.fab.retain.filter fun r => !r.named dst tag addr }
  (s.fab.xfers.filter fun x => x.tag == tag && x.whole && s.fab.outq.all (·.tag != tag) && s.fab.retain.all (·.tag != tag)).foldl
    State.transferDone s

/-- What a message says to the module that sent it: an own copy of a group is answered without the fabric (R339). -/
def State.ownMessage (s : State) (m : Message) : State :=
  match m with
  | .busy tag a => s.busyFrom s.coord tag a
  | .done tag a => s.doneFrom s.coord tag a
  | _ => s

/-- A control message of this module. -/
def State.message (s : State) (dst : BitVec 15) (m : Message) : State :=
  if dst = s.coord then s.ownMessage m
  else { (s.queueItem (.msg dst m) none) with fab.cnt.dyn := wrap64 (s.fab.cnt.dyn + 1) }

/-- A data packet for this module: the receive buffer of 64, or BUSY (R339). -/
def State.dynReceive (s : State) (k : Packet) : State :=
  if 64 ≤ s.fab.recvBuf.length then s.message k.src (.busy k.seq k.addr)
  else { s with fab.recvBuf := s.fab.recvBuf ++ [k] }

/-- A dynamic packet for this module: data into the receive buffer, an expert load report into the view (R236); every other
control packet reaches the model as a row of its own. -/
def State.dynForMe (s : State) (k : Packet) : State :=
  if k.typ = 2 then s.dynReceive k
  else if k.f 224 8 = 0x20 then
    s.viewReport k.src (k.f 232 8) ((List.range (k.f 240 8 % 64 + 1)).map fun i => laneOf 32 k.payload i)
  else s

/-- A packet of this module enters the fabric, or reaches the module itself. -/
def State.inject (s : State) (k : Packet) : State :=
  let s := { s with fab.cnt.dyn := wrap64 (s.fab.cnt.dyn + 1) }
  if k.dst = s.coord then s.dynForMe k else s.queueItem (.cell k) none

/-- One handed-over packet enters when the retention buffer of 64 has room (R339). -/
def State.injectOne (s : State) (d : DynOut) : State :=
  if (d.due ≤ s.sc || !s.time.running) && s.fab.retain.length < 64 then
    ({ s with fab.outq := s.fab.outq.erase d, fab.retain := s.fab.retain ++ [Retained.mk d.tag d.dst d.pkt] }).inject d.pkt
  else s
def State.injectDue (s : State) : State := s.fab.outq.foldl State.injectOne s

/-- A dynamic packet of an UP port. -/
def State.dynArrival (s : State) (p : Nat) (k : Packet) : State :=
  let src := some (p, k.vc)
  if s.coordOk && k.dst = s.coord then (s.dynForMe k).freeEntry src
  else s.queueItem (.cell k) src

/-- A packet is held in the receiving port. -/
def State.accept (s : State) (p : Nat) (k : Packet) : State := if k.typ = 1 then s.scheduledArrival p k else s.dynArrival p k

/-- A received packet is held D cc after its launch: the port adds what the link's latency H lacks (R317). A dynamic packet waits
for the module's own coordinate as well (R35). -/
def State.hold (s : State) (p : Nat) (k : Packet) : State :=
  let n := (s.port p).decl - (s.port p).lat
  if n = 0 && (k.typ = 1 || s.coordOk) then s.accept p k
  else s.updPort p fun P => { P with delay := P.delay ++ [(s.time.now + n, k)] }

/-- The packets of a port whose delay is over. -/
def State.portHolds (s : State) (p : Nat) : State :=
  let over_ (e : Nat × Packet) : Bool := e.1 ≤ s.time.now && (e.2.typ = 1 || s.coordOk)
  if (s.port p).delay.any over_ then
    ((s.port p).delay.filter over_).foldl (fun s e => s.accept p e.2)
      (s.updPort p fun P => { P with delay := P.delay.filter fun e => !over_ e })
  else s
def State.delayed (s : State) : State := (List.range 12).foldl State.portHolds s

def execScheduledPacketArrival (port : PortId) (cell : LinkCell) (s : State) : Host.Outcome State Fault Refusal :=
  match s.receive port cell with
  | (s, some k) => .next (if k.typ = 1 then s.hold port k else s)
  | (s, none) => .next s

def execDynamicDataArrival (port : PortId) (cell : LinkCell) (s : State) : Host.Outcome State Fault Refusal :=
  match s.receive port cell with
  | (s, some k) => .next (if k.typ = 2 || k.typ = 3 then s.hold port k else s)
  | (s, none) => .next s

/-- An ABORT of another module, which this one forwards (R347). -/
def DynItem.foreignAbort (own : BitVec 15) : DynItem → Bool
  | .msg _ (.abort o) => o ≠ own
  | _ => false

/-- The channel that sends in a dynamic position (R342). -/
def FabPort.pickVc (P : FabPort) : Option Nat :=
  let head (v : Nat) : Option Nat :=
    if P.credits v = 0 then none else ((P.vc.look v []).head?).map (·.since)
  match head 0, head 1, head 2 with
  | some _, _, _ => some 0
  | none, some a, some b => if b < a then some 2 else some 1
  | none, some _, none => some 1
  | none, none, some _ => some 2
  | none, none, none => none

/-- The head of a channel is sent. -/
def State.sendVc (s : State) (p v : Nat) : State :=
  match (s.port p).vc.look v [] with
  | [] => s
  | d :: r =>
    let s := s.updPort p fun P => { P with vc := P.vc.put v r, credit := P.credit.put v (P.credits v - 1) }
    let s := if d.src.isSome || d.item.foreignAbort s.coord then { s with fab.cnt.fwd := wrap64 (s.fab.cnt.fwd + 1) } else s
    (s.freeEntry d.src).launch p d.item

/-- A dynamic position of a port in the current cc. -/
def State.dynForward (s : State) (p : Nat) : State :=
  let s := s.injectDue
  match s.position with
  | none => s
  | some pos =>
    if !s.portUp p || pos < s.splitS || !s.positionFree p then s
    else if (s.port p).resend ≠ [] then s.launchAgain p
    else match (s.port p).pickVc with
      | some v => s.sendVc p v
      | none => s

def execDynamicForward (port : PortId) (s : State) : Host.Outcome State Fault Refusal := .next (s.dynForward port)

def execDynamicFlagChange (flag : Fin 1024) (set : Bool) (s : State) : Host.Outcome State Fault Refusal :=
  .next ((s.outsideChange (flag / 128) (flag % 128) set).dynConsumed)

def execBusyNotice (dst : BitVec 15) (tag : W32) (addr : BitVec 42) (s : State) : Host.Outcome State Fault Refusal :=
  .next (s.busyFrom dst tag.toNat addr.toNat)

/-- The retained copy is sent again. -/
def execBusyResend (dst : BitVec 15) (tag : W32) (addr : BitVec 42) (s : State) : Host.Outcome State Fault Refusal :=
  let due (e : Nat × Retained) : Bool := e.1 ≤ s.time.now && e.2.named dst tag.toNat addr.toNat
  .next ((s.fab.resends.filter due).foldl (fun s e => s.inject e.2.pkt)
    { s with fab.resends := s.fab.resends.filter fun e => !due e })

def execDoneNotice (dst : BitVec 15) (tag : W32) (addr : BitVec 42) (s : State) : Host.Outcome State Fault Refusal :=
  .next (s.doneFrom dst tag.toNat addr.toNat)

/-- The first ABORT: forwarded on every UP port, and the job stops (R347). -/
def State.abortFrom (s : State) (origin : BitVec 15) : State :=
  if s.fab.abort.isSome then s
  else
    let s := { s with fab.abort := some origin }
    let one : DynEnt := ⟨.msg origin (.abort origin), s.time.now, none⟩
    let s := (List.range 12).foldl (fun s p =>
      if s.portUp p then s.updPort p fun P => { P with vc := P.vc.upd 0 [] (· ++ [one]) } else s) s
    s.faultAt s.nextSc .fabAbort 0 UnitRef.engine UnitRef.none 0 (origin.toNat + 0x8000)

def execAbortNotice (origin : BitVec 15) (s : State) : Host.Outcome State Fault Refusal := .next (s.abortFrom origin)

/-- A report of up to 64 entries from index `first` on (R236). -/
def State.report (s : State) (dst : BitVec 15) (first : Nat) (es : List W32) : Packet :=
  ⟨mkHeader 3 0 0 none false 0 s.coord dst 0 0 0 (0x20 + 2 ^ 8 * first + 2 ^ 16 * (es.length - 1)),
   BitVec.ofNat 2048 (ofLanes 32 es)⟩

/-- One report to every member of the group. -/
def State.reportTo (s : State) (group : List (BitVec 15)) (first : Nat) (es : List W32) : State :=
  group.foldl (fun s d => s.inject (s.report d first es)) s

/-- Every 65,536 cc an exporting module sends its entries ELB_LO to ELB_HI, once (R236). -/
def State.sendReports (s : State) : State :=
  match s.job.img with
  | none => s
  | some i =>
    if !s.live || s.time.cnt.cc % 65536 ≠ 0 || s.elb.sentAt = some s.time.cnt.cc || !i.elbExp || !i.dyn.getLsbD 1 then s
    else
      let s := { s with elb.sentAt := some s.time.cnt.cc }
      let group := s.fab.mcast.look i.elbGrp []
      (List.range 4).foldl (fun s b =>
        let lo := i.elbLo + 64 * b
        if lo ≤ i.elbHi then
          s.reportTo group lo ((List.range (min 64 (i.elbHi + 1 - lo))).map fun j => s.elb.loc.look (lo + j) 0)
        else s) s

def execExpertLoadReportSend (s : State) : Host.Outcome State Fault Refusal := .next s.sendReports

end Sys2Proof.Machine
end

