-- ==== Sys2Proof/Machine/Granary.lean ====
section
/-! DEFINITION. Granary moves: entry into the queue, chunks, completion, freeing, scrubbing (R300 to R306). -/

namespace Sys2Proof.Machine

/-! ### The move queue (R302 to R304) -/

/-- An entry is held: through sc DL, and then until its move has completed (R304). -/
def Move.held (m : Move) (x : Nat) : Bool := x ≤ m.dl || !m.ended
/-- The entries that are no longer held are freed. -/
def State.freeMoves (s : State) : State := { s with gr.queue := s.gr.queue.filter fun m => m.held s.sc }

/-- A descriptor enters the queue, or records GR_QFULL (R304). -/
def State.enterMove (s : State) (f : MoveFly) : State :=
  if 64 ≤ s.gr.queue.length then
    s.faultAt f.due .grQfull 0 ⟨f.line, 0, f.task, true, f.pc⟩ UnitRef.none 0 f.ix
  else { s with gr.queue := s.gr.queue ++ [f.move] }

/-- The descriptors whose entry sc is now. -/
def State.enterMoves (s : State) : State :=
  let now := s.gr.fly.filter fun f => f.due ≤ s.sc
  now.foldl State.enterMove (({ s with gr.fly := s.gr.fly.filter fun f => s.sc < f.due } : State).freeMoves)

def execMoveDescriptorEntry (s : State) : Host.Outcome State Fault Refusal :=
  .next (if s.live && !s.held then s.enterMoves else s)

def execMoveEntryFree (s : State) : Host.Outcome State Fault Refusal := .next s.freeMoves

/-! ### Channels (R16, R301, Table 9-9) -/

/-- The channel of a granary address. -/
def State.channelOf (s : State) (a : Nat) : Option Nat := (s.phys a).map fun p => (p - 0x20000000000) / 0x4000000000
def State.updPair (s : State) (u : Nat) (f : GrPair → GrPair) : State :=
  { s with gr.pairs := s.gr.pairs.upd u default f }

/-- Local address of a DIMM's offset: the inverse of R301. -/
def GranaryState.unmap (g : GranaryState) (dimm o : Nat) : Option Nat :=
  (g.pop.idxOf? dimm).map fun i => 0x20000000000 + (o / 4096 * g.pop.length + i) * 4096 + o % 4096

/-- The bytes below granary offset `y` that lie on socket `i` of a population of `n` (R301). -/
def socketBytes (n i y : Nat) : Nat := y / (4096 * n) * 4096 + min 4096 (y % (4096 * n) - 4096 * i)

/-- Bytes moved on the channels of a granary range count at their pairs (GR_CNT_BYTES). -/
def State.countBytes (s : State) (a n : Nat) : State :=
  if !inGranary a then s
  else
    let N := s.gr.pop.length
    let y := a - 0x20000000000
    s.gr.pop.zipIdx.foldl (fun s e =>
      let m := socketBytes N e.2 (y + n) - socketBytes N e.2 y
      if m = 0 then s else s.updPair (e.1 / 2) fun p => { p with cnt := p.cnt.upd 0 0 fun v => wrap64 (v + m) }) s

/-- The burst at granary address `a` holds an error that its code does not correct; one that a read has found stays until it is written (R301). -/
def State.burstBad (s : State) (a : Nat) : Bool := (s.phys a).any fun p => s.marks.any fun m => m.1 = markAt p && m.2
def State.burstMark (s : State) (a : Nat) : State := match s.phys a with | some p => s.mark p true | none => s
/-- The uncorrectable bursts among the `n` bytes at granary address `a`. -/
def State.badBursts (s : State) (a n : Nat) : List Nat :=
  (s.marks.filterMap fun m =>
    let y := m.1 - 0x20000000000
    if m.2 && 0x20000000000 ≤ m.1 then (s.gr.unmap (y / 0x4000000000) (y % 0x4000000000)).filter fun x => a / 64 * 64 ≤ x && x < a + n
    else none).insertionSort (· ≤ ·)

/-- A corrected or uncorrectable burst of a granary read at `a` counts at its pair; `src` 0 move or copy, 1 scrub. -/
def State.burstFound (s : State) (a : Nat) (bad : Bool) (src : Nat) : State :=
  match s.channelOf a with
  | none => s
  | some c => s.updPair (c / 2) fun p =>
      if bad then { p with ue := sat32 (p.ue + 1), ueAddr := if p.ueAddr.isSome then p.ueAddr else some (a / 64 * 64, src == 1) }
      else { p with ce := sat32 (p.ce + 1) }

/-- A read of `n` bytes at granary address `a`, in which `found` is what the symbol code meets first: its bursts are counted (R301). -/
def State.readBursts (s : State) (a n : Nat) (found : BurstFinding) : State :=
  let t := match found with
    | .clean => s
    | .corrected b => if inGranary a && 64 * b.val < n && !s.burstBad (a + 64 * b.val) then s.burstFound (a + 64 * b.val) false 0 else s
    | .uncorrectable b => if inGranary a && 64 * b.val < n then s.burstMark (a + 64 * b.val) else s
  (t.badBursts a n).foldl (fun t b => t.burstFound b true 0) t

/-- The module reads `n` bytes at granary address `a` for itself: they count on their channels, and so do the uncorrectable bursts among them, which
hold no value to read (R301, Table 9-9). -/
def State.grRead (s : State) (a n : Nat) : State :=
  let t := (s.readBursts a n .clean).countBytes a n
  (t.badBursts a n).foldl (fun t b => t.undefineLocal b 64) t

/-! ### Chunks (R305) -/

/-- The held entry with a chunk left that comes first: lowest DL, then earliest entry. -/
def GranaryState.pick (g : GranaryState) : Option Move :=
  (g.queue.filter fun m => m.moved < m.len).foldl (fun b m => match b with
    | none => some m
    | some x => if m.dl < x.dl then some m else some x) none

/-- The first entry equal to `m` replaced. -/
def changeMove (m : Move) (f : Move → Move) (l : List Move) : List Move :=
  match l with
  | [] => []
  | x :: r => if x = m then f x :: r else x :: changeMove m f r

/-- Source and destination of the next row of a chunk, and its address on the near-tier or bay-buffer side; none of a move within the
granary. -/
def Chunk.src (c : Chunk) : Nat := c.move.src + c.move.moved
def Chunk.dst (c : Chunk) : Nat := c.move.dst + c.move.moved
def Chunk.side (c : Chunk) : Option Nat :=
  if !inGranary c.move.src then some (c.src + c.done) else if !inGranary c.move.dst then some (c.dst + c.done) else none

/-- A row of a bay buffer that an engine, a copy or a host moves counts at its bay as one that a line reads or writes does (Table 8-8; log entry 119); a
near-tier or granary row has counters of its own. -/
def State.countBuffer (s : State) (a : Nat) (write : Bool) : State :=
  if 0x18000000000 ≤ a && a < 0x18020000000 then s.countBay ((a - 0x18000000000) / 0x4000000) (if write then .bbWr else .bbRd) else s

/-- What an engine's read of a row of the near tier or a bay buffer finds (R268, R296, R297): an uncorrectable near-tier access is NT_UE at
the sc of the first unheld cc, and leaves its 64 bytes of the destination undefined. R269 names no fault for an engine's read of a bay buffer: an
uncorrectable word is counted, and its 8 bytes of the destination are undefined (DESIGN CHOICE, log entry 37). -/
def State.engineRow (s : State) (r dst : Nat) : State :=
  match s.phys r with
  | none => s
  | some p =>
    if 0x18000000000 ≤ r then
      ((s.rowMarks p).filter fun m => m.2).foldl (fun t m =>
        match t.phys (dst + (m.1 - p)) with | some d => t.undefine d 8 | none => t)
        (s.bbErrors ((r - 0x18000000000) / 0x4000000) ((r - 0x18000000000) % 0x4000000) 0)
    else
      let sl := (ntMap s.zone r).1
      s.ntRow sl r p 0 fun s a =>
        let t := s.faultAt s.nextSc .ntUe (sl / 8) UnitRef.engine UnitRef.none a
        match t.phys (dst + (a - r)) with | some d => t.undefine d 64 | none => t

/-- What the symbol code finds in a chunk with a granary source: it is counted; an uncorrectable burst, found now or before, leaves its bytes of the
destination undefined and is GR_UE with the channel (R301). -/
def State.chunkFinding (s : State) (c : Chunk) : State :=
  let t := s.readBursts c.src c.len c.found
  (t.badBursts c.src c.len).foldl (fun t a =>
    let t := match t.phys (c.dst + (a - c.src)) with | some p => t.undefine p 64 | none => t
    t.faultAt t.nextSc .grUe ((t.channelOf a).getD 0) UnitRef.engine UnitRef.none a) t

/-- A chunk is in progress on the channels of pair `u` (Table 9-9, BUSY): one that moves row by row, or one that has moved whole in the current
cc. -/
def State.chunkOn (s : State) (u : Nat) : Bool :=
  let now := match s.gr.cur with | some c => [(c.src, c.len), (c.dst, c.len)] | none => []
  (now ++ s.gr.chunks).any fun e => [e.1, e.1 + e.2 - 1].any fun a => inGranary a && (s.channelOf a).any fun n => n / 2 = u
/-- A chunk of `n` bytes at `a` moves whole in the current cc. -/
def State.wholeChunk (s : State) (a n : Nat) : State := { s with gr.chunks := s.gr.chunks ++ [(a, n)] }

/-- The last row of a chunk has moved: its bytes count, the engines take the next chunk (R305). -/
def State.endChunk (s : State) (c : Chunk) : State :=
  let t := ((s.countBytes c.src c.len).countBytes c.dst c.len).chunkFinding c
  { t with gr := { t.gr with cur := none, queue := changeMove c.move (fun x => { x with moved := x.moved + c.len }) t.gr.queue } }

/-- One row of the chunk in progress moves; `found` is what a read of a near-tier row finds. -/
def State.chunkRow (s : State) (found : EccFinding) : State :=
  match s.gr.cur with
  | none => s
  | some c =>
    let src := c.src + c.done
    let dst := c.dst + c.done
    let s := if inGranary src then s else match s.phys src with | some p => s.lay p found | none => s
    let s := s.writeLocal dst (s.readLocal src 128)
    let s := if inGranary src then s else s.engineRow src dst
    let s := (s.countBuffer src false).countBuffer dst true
    if c.done + 128 < c.len then { s with gr.cur := some { c with done := c.done + 128 } } else s.endChunk c

/-- A chunk of a program move begins. On the near-tier and bay-buffer side its rows take slots (R305); a move within the granary takes none. -/
def State.beginChunk (s : State) (m : Move) (found : BurstFinding) : State :=
  let n := m
  let m := { n with begun := true }
  let s := { s with gr.queue := changeMove n (fun _ => m) s.gr.queue }
  let c : Chunk := ⟨m, min 4096 (m.len - m.moved), 0, found⟩
  if c.side.isSome then { s with gr.cur := some c }
  else (((s.wholeChunk c.src c.len).wholeChunk c.dst c.len).writeLocal c.dst (s.readLocal c.src c.len)).endChunk c

/-- The engines have a row to move through the granary slot of a slice in the current cc, and have not used it (R289, R305). -/
def State.ownsSlot (s : State) (sl : Nat) : Bool :=
  (s.gr.cur.bind Chunk.side).any fun a =>
    a < 0x18000000000 && (ntMap s.zone a).1 = sl && s.live && !s.held && s.granarySlot 0 s.sc && s.gr.ownCc ≠ some s.time.now
/-- The next row of the chunk in progress takes the granary slot of its slice in the current cc, once; `found` is what a read of it finds (R289,
R297, R305). -/
def State.ownSlot (s : State) (sl : Nat) (found : EccFinding) : State :=
  if s.ownsSlot sl then { ((s.chunkRow found).countBay (sl / 32) .ntFree) with gr.ownCc := some s.time.now } else s

/-- The next row of the chunk in progress takes a slot that is the engines' own in the current cc: a granary slot of its slice, or the port of
its bay-buffer slice when no scheduled access uses it (R277, R305). -/
def State.engineRows (s : State) : State :=
  match s.gr.cur.bind Chunk.side with
  | none => s
  | some a =>
    if a < 0x18000000000 then s.ownSlot (ntMap s.zone a).1 .clean
    else
      let b := (a - 0x18000000000) / 0x4000000
      let busy : Bool := s.uses.any fun u => u.due == s.sc && u.owner == .bb b && bbSlice u.addr == bbSlice (a % 0x4000000)
      if s.live && !s.held && busy then s else s.chunkRow .clean

/-- A committed free slot of the engines: the row of the chunk in progress, when it lies in the slice. -/
def State.engineSlot (s : State) (f : FreeCommit) : Option State :=
  match s.gr.cur.bind Chunk.side with
  | some a => if a < 0x18000000000 && (ntMap s.zone a).1 = f.slice then some (s.chunkRow f.found) else none
  | none => none

/-- The address lies in a region of the running job's image (R343). -/
def State.inJob (s : State) (a : Nat) : Bool :=
  match s.job.img with
  | some i => i.regions.any fun g => g.kind = 4 && g.base ≤ a && a < g.base + g.size
  | none => false

/-- The progress of a pull shows with the packets that write its slot (Table 14-11, RCV_SNAP_PROG). -/
def State.pullProgress (s : State) (a : Nat) : State :=
  let b := (if s.rcv.pullTo = 0 then s.rcv.slotA else s.rcv.slotB).toNat + 4096
  if s.rcv.pullAct && b ≤ a && a < b + s.rcv.slotsz * 2 ^ 20 then { s with rcv.prog := (a - b + 256) / 2 ^ 20, rcv.pullGot := a - b + 256 } else s

/-- The first packet of the dynamic receive buffer is written to the granary, its signal set, and DONE answered (R339, R343). One whose address
is no place of the fitted granary is an access outside the declared regions: REGION at this module (R27, log entry 105). -/
def State.writeDynamic (s : State) : State :=
  match s.fab.recvBuf with
  | [] => s
  | k :: rest =>
    let s := { s with fab.recvBuf := rest }
    if inGranary k.addr && (s.phys k.addr).isSome then
      let s := (((s.wholeChunk k.addr 256).writeLocal k.addr (leBytes 256 k.payload.toNat)).countBytes k.addr 256).pullProgress k.addr
      let s := match k.sig with
        | some (f, set) => s.outsideChange (f / 128) (f % 128) set
        | none => s
      let s := if s.inJob k.addr || k.sig.isSome then s.dynConsumed else s
      s.message k.src (.done k.seq k.addr)
    else s.faultAt s.sc .region 0 UnitRef.none UnitRef.none k.addr

/-! ### Completion (R305) -/

/-- The first move of which every byte is written and which has not completed. -/
def GranaryState.whole (g : GranaryState) : Option Move := g.queue.find? fun m => m.moved == m.len && !m.ended

/-- MOVE_COMPLETE: the move has completed, and its flag set reaches the home. -/
def State.completeMove (s : State) : State :=
  match s.gr.whole with
  | none => s
  | some m =>
    let s := { s with gr.queue := changeMove m (fun x => { x with ended := true }) s.gr.queue }
    let s := s.updPair 0 fun p => { p with cnt := p.cnt.upd 1 0 fun v => sat32 (v + 1) }
    if m.flagEn then s.outsideChange (m.fidx / 128) (m.fidx % 128) true else s

def execMoveComplete (s : State) : Host.Outcome State Fault Refusal := .next s.completeMove

/-! ### Scrubbing (R301) -/

/-- A channel scrubs its next burst when it has no chunk to move: what it finds is counted; a corrected burst is written back. -/
def State.scrub (s : State) (c : Nat) (found : BurstFinding) : State :=
  let o := s.gr.scrub.look c 0
  if s.gr.pick.isSome || s.gr.cur.isSome then s
  else match s.gr.unmap c o with
    | none => s
    | some a =>
      let cap := capBytes (s.gr.dimms.look c default).cap
      let s := { s with gr.scrub := s.gr.scrub.put c (if o + 64 < cap then o + 64 else 0) }
      match found, s.burstBad a with
      | .clean, false => s
      | .corrected _, false => s.burstFound a false 1
      | _, _ => ((s.burstMark a).burstFound a true 1).setAlert 3

def execGranaryScrub (channel : Fin 8) (found : BurstFinding) (s : State) : Host.Outcome State Fault Refusal :=
  .next (s.scrub channel found)

end Sys2Proof.Machine
end

