-- ==== Sys2Proof/Machine/Mailbox.lean ====
section
/-! DEFINITION. Ports, interrupts and mailboxes (R379, R397, R400 to R405). -/

namespace Sys2Proof.Machine

def State.hp (s : State) (p : Nat) : HostPort := s.host.ports.look p HostPort.reset
def State.updHp (s : State) (p : Nat) (f : HostPort → HostPort) : State :=
  { s with host.ports := s.host.ports.upd p HostPort.reset f }
/-- A bit of HST_ERR is set. -/
def State.hostErr (s : State) (p n : Nat) : State := s.updHp p fun h => { h with err := bitOn h.err n, errCc := bitOn h.errCc n }
/-- The port is down (R380). -/
def State.portDown (s : State) (p : Nat) : Bool := (s.hp p).perst || !(s.hp p).up

/-- Enable and function mask of the MSI-X capability (R373, log entry 71). -/
def HostPort.msixOn (h : HostPort) : Bool := (h.config.look 0x50 0).getLsbD 31
def HostPort.msixHeld (h : HostPort) : Bool := (h.config.look 0x50 0).getLsbD 30 || !(h.config.look 0x04 0).getLsbD 2
/-- The command register (R373, log entry 71): the function claims accesses of its BARs, and makes requests of its own. -/
def HostPort.memOn (h : HostPort) : Bool := (h.config.look 0x04 0).getLsbD 1
def HostPort.masters (h : HostPort) : Bool := (h.config.look 0x04 0).getLsbD 2
/-- Device control as PCIe resets it: read requests of 512 bytes. -/
def HostPort.devCtl (h : HostPort) : W32 := (h.config.find 0x68).getD 0x2000
/-- The longest read request of the port: as device control says, and 4,096 bytes at most (R373). -/
def HostPort.readMax (h : HostPort) : Nat := min 4096 (128 * 2 ^ (h.devCtl.extractLsb' 12 3).toNat)

/-- The access of a requester is claimed: a host's by the function's BARs while its memory space is enabled. -/
def State.claims (s : State) (w : Requester) : Bool := match w with | .host p => (s.hp p).memOn | _ => true
/-- Bits of the AER uncorrectable status are set (R10, R373, R375). -/
def State.logAer (s : State) (p : Nat) (m : W32) : State := s.updHp p fun h => { h with aer := h.aer ||| m, aerCc := h.aerCc ||| m }
/-- An access that the function does not claim is an Unsupported Request (R373, log entry 71). -/
def State.unclaimed (s : State) (w : Requester) : State :=
  match w with
  | .host p => (s.send (.regError w)).logAer p 0x100000
  | _ => s

/-- `n` bytes of host memory at `a` are read, in requests that cross no multiple of their greatest length (R373). -/
def State.readHost (s : State) (p a n : Nat) : State :=
  let m := (s.hp p).readMax
  if n = 0 then s
  else
    (List.range ((a % m + n + m - 1) / m)).foldl (fun s i =>
      let lo := max a (a / m * m + i * m)
      s.send (.hostRead p lo (min (a + n) (a / m * m + (i + 1) * m) - lo))) s

/-- An MSI-X message of a vector, or its pending bit while the vector or the function is masked or the function makes no requests (R397). With MSI-X not enabled the function
sends none (log entry 71). -/
def State.msix (s : State) (p v : Nat) : State :=
  let h := s.hp p
  if !h.msixOn then s
  else if (h.msix.look v 0).getLsbD 96 || h.msixHeld then s.updHp p fun h => { h with pba := h.pba ||| ((1 : BitVec 64) <<< v) }
  else s.send (.msix p v)
/-- A pending vector that no mask holds any more sends its message. -/
def State.msixPending (s : State) (p v : Nat) : State :=
  let h := s.hp p
  if h.msixOn && !h.msixHeld && !(h.msix.look v 0).getLsbD 96 && h.pba.getLsbD v then
    (s.updHp p fun h => { h with pba := bitOff h.pba v }).send (.msix p v)
  else s

def State.box (s : State) (b : MailboxId) : Mailbox := s.host.boxes.look (boxKey b) default
def State.updBox (s : State) (b : MailboxId) (f : Mailbox → Mailbox) : State :=
  { s with host.boxes := s.host.boxes.upd (boxKey b) default f }

/-- SRC_ID of Table 11 of the mailbox rules (Table 12-11). -/
def State.srcId (s : State) (w : Requester) : Nat :=
  match w with
  | .host p => p.val
  | .firmware b => 8 + b.val
  | _ => if s.rcv.standby then 3 else 2

/-- The requester is an end of the mailbox; `some true` the management controller's end (R401). -/
def endOf (b : MailboxId) (w : Requester) : Option Bool :=
  match b, w with
  | _, .mgmt => some true
  | .open_ p, .host q => if p = q then some false else none
  | .secure p, .host q => if p = q then some false else none
  | .internal i, .firmware c => if c.val / 2 = i.val then some false else none
  | _, _ => none

/-- The end of the mailbox that an access of the requester reaches; a host's only while its function claims it. -/
def State.boxEnd (s : State) (b : MailboxId) (w : Requester) : Option Bool := if s.claims w then endOf b w else none

/-- The end that a SRC_ID belongs to. -/
def idIsMgmt (src : Nat) : Bool := src == 2 || src == 3

/-- The boot ROM serves as the management end of the non-secure mailbox of the port that HOSTROLE names, while it waits for a package and
after a failed boot (R462, R463). -/
def State.romServes (s : State) (b : MailboxId) : Bool :=
  (s.mod.bootWait || s.mod.bootFail) &&
  (match b with | .open_ p => p.val == s.mod.straps.hostrole.toNat | _ => false)

/-- An end is dead (R404). -/
def State.endDead (s : State) (b : MailboxId) (mgmt : Bool) : Bool :=
  if mgmt then !s.mod.mgmt && !s.romServes b
  else
    let host (p : Nat) : Bool := s.portDown p || (s.hp p).d3hot
    let bay (c : Nat) : Bool := !s.mod.bayReady.getLsbD c || (s.bay c).inReset
    match b with
    | .open_ p => host p
    | .secure p => host p
    | .internal i => bay (2 * i) && bay (2 * i + 1)

/-- An end is interrupted (R402): a host by HST_MB_VEC, the others inside the module. -/
def State.interrupt (s : State) (b : MailboxId) (mgmt : Bool) : State :=
  let toHost (p : Nat) : State :=
    let v := (s.hp p).mbVec
    if v.getLsbD 6 then s.msix p (v.extractLsb' 0 6).toNat else s
  if mgmt then s.send (.mailbox b true)
  else match b with
    | .open_ p => toHost p
    | .secure p => toHost p
    | .internal _ => s.send (.mailbox b false)

/-- A dropped write or claim. -/
def State.boxDrop (s : State) (b : MailboxId) : State := s.updBox b fun m => { m with drop := sat32 (m.drop + 1) }

/-- A register-bus error answers the requester; a host's write is counted, and logged in AER as a Completer Abort (R375). -/
def State.busError (s : State) (w : Requester) (write : Bool) : State :=
  let s := s.send (.regError w)
  match w with
  | .host p => if write then (s.updHp p fun h => { h with errCnt := sat32 (h.errCnt + 1) }).logAer p 0x8000 else s
  | _ => s

/-- An access by one that is no end of the mailbox does nothing; one that the host's function does not claim is an Unsupported Request. -/
def State.noEnd (s : State) (w : Requester) : State := if s.claims w then s else s.unclaimed w

/-- An access of an end of the mailbox, with the rule for a dead peer (R404). -/
def State.boxAccess (s : State) (b : MailboxId) (w : Requester) (write : Bool) (f : State → Bool → State) : State :=
  match s.boxEnd b w with
  | none => s.noEnd w
  | some me =>
    if s.endDead b (!me) && !(s.box b).deadMode then
      (if write then s.boxDrop b else s).busError w write
    else f s me

/-- The claimant of a CLAIMED mailbox is this requester. -/
def State.claimant (s : State) (b : MailboxId) (w : Requester) : Bool := (s.box b).st == 1 && (s.box b).src == s.srcId w

/-- A read of MB_CLAIM (R402, R403). -/
def State.claimBox (s : State) (box : MailboxId) (who : Requester) : State :=
  s.boxAccess box who false fun s _ =>
    let id := s.srcId who
    let m := s.box box
    if !m.allow.getLsbD id then (s.boxDrop box).send (.regData who (BitVec.ofNat 32 id))
    else if m.st = 0 then
      (s.updBox box fun m => { m with st := 1, src := id, msg := [] }).send (.regData who (BitVec.ofNat 32 (16 + id)))
    else s.send (.regData who (BitVec.ofNat 32 (if s.claimant box who then 16 + id else id)))

def execMbClaim (box : MailboxId) (who : Requester) (s : State) : Host.Outcome State Fault Refusal := .next (s.claimBox box who)

/-- A write of MB_MSGw (R402). -/
def State.msgWrite (s : State) (box : MailboxId) (who : Requester) (w : Nat) (value : W32) : State :=
  s.boxAccess box who true fun s _ =>
    if s.claimant box who then s.updBox box fun m => { m with msg := m.msg.put w value } else s.boxDrop box

def execMbMsgWrite (box : MailboxId) (who : Requester) (w : Fin 16) (value : W32) (s : State) :
    Host.Outcome State Fault Refusal := .next (s.msgWrite box who w value)

/-- Doorbell bits are set: the receiver is interrupted unless a host has masked every one of them. -/
def State.ring (s : State) (b : MailboxId) (sender : Bool) (v : W32) : State :=
  let s := s.updBox b fun m => { m with st := 2, db := m.db ||| v, rung := m.rung ||| v }
  let m := s.box b
  if sender && m.db &&& ~~~m.mask = 0 then s else s.interrupt b (!sender)

/-- A write of MB_DBSET meets the reset of the same cc that has cut its sender off; the management controller's SRC_ID may have changed with the
reset (R11). -/
def State.cutOff (s : State) (b : MailboxId) (who : Requester) : Bool :=
  (s.boxEnd b who).isSome && (s.box b).st == 0 && (s.box b).cutOff.any fun src => src == s.srcId who || (who == .mgmt && idIsMgmt src)

/-- MB_DBSET (R402, R404). A write in the cc of a reset that cut its sender off leaves its doorbell bits set, whether the receiver is dead
by then or not (R11, log entry 70). -/
def State.dbset (s : State) (box : MailboxId) (who : Requester) (value : W32) : State :=
  if s.cutOff box who then s.updBox box fun m => { m with db := m.db ||| value, rung := m.rung ||| value }
  else s.boxAccess box who true fun s me =>
    let m := s.box box
    if s.claimant box who then
      if value = 0 then s
      else if s.endDead box (!me) then (s.updBox box fun m => { m with st := 0, aborted := true }).interrupt box me
      else s.ring box me value
    else if m.st = 2 && m.src = s.srcId who then s.ring box me value
    else s.boxDrop box

def execMbDbset (box : MailboxId) (who : Requester) (value : W32) (s : State) : Host.Outcome State Fault Refusal :=
  .next (s.dbset box who value)

/-- The receiver, `me`, has cleared the doorbell: the mailbox is emptied, and the sender interrupted (R402). -/
def State.drainBox (s : State) (b : MailboxId) (me : Bool) : State :=
  (s.updBox b fun m => { m with st := 0, db := 0, emptied := true, drained := some (m.src, m.emptied) }).interrupt b (!me)

/-- The write meets a message that a reset of the same cc has taken from its receiver `me` (R405). -/
def Mailbox.taken (m : Mailbox) (me : Bool) : Bool := m.st == 0 && m.met != 0 && m.cutOff.any fun src => idIsMgmt src != me

/-- MB_DBCLR (R402). A write that would have emptied a message which a reset has met in the same cc sets ABORTED: the reset stands (R405). -/
def State.dbclr (s : State) (box : MailboxId) (who : Requester) (value : W32) : State :=
  match s.boxEnd box who with
  | none => s.noEnd who
  | some me =>
    let m := s.box box
    if m.st = 2 && idIsMgmt m.src != me then
      let db := m.db &&& ~~~value
      if db = 0 then s.drainBox box me else s.updBox box fun m => { m with db := db }
    else if m.taken me then
      let db := m.met &&& ~~~value
      s.updBox box fun m => { m with met := db, aborted := m.aborted || db == 0 }
    else s.boxDrop box

def execMbDbclr (box : MailboxId) (who : Requester) (value : W32) (s : State) : Host.Outcome State Fault Refusal :=
  .next (s.dbclr box who value)

/-- A message of the management end on a mailbox, with doorbell bit 0: it claims the mailbox, and posts when the claim is granted (R402). -/
def State.postBox (s : State) (b : MailboxId) (m0 m1 : Nat) : State :=
  let c := s.claimBox b .mgmt
  if c.claimant b .mgmt then ((c.msgWrite b .mgmt 0 (BitVec.ofNat 32 m0)).msgWrite b .mgmt 1 (BitVec.ofNat 32 m1)).dbset b .mgmt 1 else c

def execMbUnclaim (box : MailboxId) (who : Requester) (s : State) : Host.Outcome State Fault Refusal :=
  .next (if (s.boxEnd box who).isNone then s.noEnd who
    else if s.claimant box who then s.updBox box fun m => { m with st := 0 } else s.boxDrop box)

def execMbAck (box : MailboxId) (who : Requester) (s : State) : Host.Outcome State Fault Refusal :=
  .next (if (s.boxEnd box who).isSome then s.updBox box fun m => { m with aborted := false, emptied := false } else s.noEnd who)

/-- The claimant or sender that a reset meets: the one in force, or the one whose message has been emptied in the same cc (R405). -/
def Mailbox.sender (m : Mailbox) : Option Nat := if m.st ≠ 0 then some m.src else m.drained.map (·.1)

/-- The domain of an end enters reset (R405). Doorbell bits that the sender has set in the same cc end set (R11); the emptying write of the
same cc gives way, and ABORTED is set whichever end it is. -/
def State.boxReset (s : State) (b : MailboxId) (mgmt : Bool) : State :=
  let m := s.box b
  let other := m.sender.any fun src => idIsMgmt src != mgmt
  let told := m.drained.isSome
  let s := s.updBox b fun m =>
    { m with st := 0, db := m.rung, msg := [], aborted := m.aborted || other || told, cutOff := m.sender.or m.cutOff
             met := if m.st = 2 then m.db else m.met
             emptied := match m.drained with | some d => d.2 | none => m.emptied, drained := none }
  if other && !told then s.interrupt b (!mgmt) else s
/-- What a mailbox keeps of a cc is over. -/
def Mailbox.newCc (m : Mailbox) : Mailbox := { m with rung := 0, cutOff := none, met := 0, drained := none }

/-- Every mailbox. -/
def allBoxes : List MailboxId :=
  [.open_ 0, .open_ 1, .secure 0, .secure 1, .internal 0, .internal 1, .internal 2, .internal 3]

/-- MB_ALLOW of the secure mailboxes follows the owner; bits 2 and 3 stay set (R403, R468). -/
def State.allowOwner (s : State) : State :=
  [(0 : HostId), 1].foldl (fun s p => s.updBox (.secure p) fun m =>
    let bit : BitVec 16 := (1 : BitVec 16) <<< p.val
    { m with allow := if s.host.owner = p.val then m.allow ||| bit else m.allow &&& ~~~bit }) s

end Sys2Proof.Machine
end

