-- ==== Sys2Proof/Machine/Rings.lean ====
section
/-! DEFINITION. Rings (R383 to R388), completions, events and interrupts (R396 to R398), records and their checks (Tables 12-4 to
12-6), ownership (R379 to R381). -/

namespace Sys2Proof.Machine

def State.sq (s : State) (p q : Nat) : SubRing := (s.hp p).sqs.look q default
def State.updSq (s : State) (p q : Nat) (f : SubRing → SubRing) : State :=
  s.updHp p fun h => { h with sqs := h.sqs.upd q default f }
/-- A completion ring right after reset: its phase is 1 once it is enabled. -/
def State.cq (s : State) (p q : Nat) : ComRing := (s.hp p).cqs.look q default
def State.updCq (s : State) (p q : Nat) (f : ComRing → ComRing) : State :=
  s.updHp p fun h => { h with cqs := h.cqs.upd q default f }

/-! ### Doorbells and configuration (R383, R384) -/

def execSqDb (port : HostId) (ring : RingId) (value : W32) (s : State) : Host.Outcome State Fault Refusal :=
  let v := (value.extractLsb' 0 16).toNat
  let r := s.sq port ring
  .next (if !s.claims (.host port) then s.unclaimed (.host port)
    else if r.en && v < 2 ^ r.k then s.updSq port ring fun r => { r with tail := v } else s.hostErr port 0)

def execCqDb (port : HostId) (ring : RingId) (value : W32) (s : State) : Host.Outcome State Fault Refusal :=
  let v := (value.extractLsb' 0 17).toNat
  let r := s.cq port ring
  .next (if !s.claims (.host port) then s.unclaimed (.host port)
    else if r.en && v < 2 ^ (r.k + 1) then s.updCq port ring fun r => { r with head := v } else s.hostErr port 0)

/-- The requester is the host of the port (R406). -/
def isHost (who : Requester) (p : Nat) : Bool := match who with | .host q => q.val == p | _ => false

/-- HST_SQq_CFG. -/
def SubRing.configure (r : SubRing) (v : W32) : SubRing :=
  let en := v.getLsbD 5
  let r := { r with k := if r.en then r.k else (v.extractLsb' 0 5).toNat, cq := (v.extractLsb' 6 4).toNat }
  if en && !r.en then { r with en := true, head := 0, tail := 0, stopped := false, part := [], queue := [] }
  else if en then r
  else { r with en := false, part := [], queue := [] }

/-- HST_CQq_CFG. -/
def ComRing.configure (r : ComRing) (v : W32) : ComRing :=
  let en := v.getLsbD 5
  let r := { r with k := if r.en then r.k else (v.extractLsb' 0 5).toNat, vec := (v.extractLsb' 6 6).toNat
                    cnt := (v.extractLsb' 12 8).toNat, time := (v.extractLsb' 20 12).toNat }
  if en && !r.en then { r with en := true, head := 0, tail := 0, phase := true } else { r with en := en }

/-! ### Completions (R396) -/

/-- Size of a completion ring in records. -/
def ComRing.size (r : ComRing) : Nat := 2 ^ (r.k + 1)
def ComRing.full (r : ComRing) : Bool := (r.tail + 1) % r.size == r.head

/-- The 32 bytes of a completion record (Table 12-8). -/
def Completion.bytes (c : Completion) (phase : Bool) : List Byte :=
  leBytes 4 c.tag ++ leBytes 2 c.sqidx ++ leBytes 1 c.sq ++ leBytes 1 c.typ ++ leBytes 2 c.status ++ leBytes 2 c.detail ++
  leBytes 4 c.sqhead ++ leBytes 8 c.value ++ leBytes 4 c.value2 ++ leBytes 3 0 ++ leBytes 1 (if phase then 1 else 0)

/-- A CQ's message is due (R397). -/
def ComRing.due (r : ComRing) (now : Nat) : Bool :=
  max 1 r.cnt ≤ r.since || (r.time ≠ 0 && r.oldest.any fun t => t + 800 * r.time ≤ now)

/-- A due message goes, and both triggers restart (R397). -/
def State.cqInterrupt (s : State) (p q : Nat) : State :=
  let r := s.cq p q
  if r.due s.time.now then (s.updCq p q fun r => { r with since := 0, oldest := none }).msix p r.vec else s

/-- The first waiting record of a completion ring is posted, while the function makes requests (R373), and then the message that it makes due
(R396, R397). -/
def State.postFirst (s : State) (p q : Nat) : State :=
  let r := s.cq p q
  match r.wait with
  | [] => s
  | (sq, c) :: rest =>
    if !r.en || r.full || !(s.hp p).masters then s
    else
      let c := match sq with | some n => { c with sqhead := (s.sq p n).head } | none => c
      let t := (r.tail + 1) % r.size
      let s := s.send (.hostWrite p (r.base.toNat + 32 * r.tail) (c.bytes r.phase))
      let s := s.updCq p q fun r =>
        { r with tail := t, phase := if t = 0 then !r.phase else r.phase, since := r.since + 1
                 oldest := if r.oldest.isSome then r.oldest else some s.time.now, wait := rest }
      let s := match sq with
        | some n => s.updSq p n fun z => { z with cur := none }
        | none => s
      s.cqInterrupt p q

/-- Every completion ring sends the message whose time has come (R397). -/
def State.cqTimes (s : State) : State :=
  s.host.ports.foldl (fun s e => e.2.cqs.foldl (fun s c => s.cqInterrupt e.1 c.1) s) s

def execCqInterrupt (port : HostId) (cq : RingId) (s : State) : Host.Outcome State Fault Refusal :=
  .next (s.cqInterrupt port cq)

/-- An event (R398): of each kind one waits on the port, whichever CQ it waits for. -/
def State.event (s : State) (p : Nat) (c : Completion) : State :=
  let h := s.hp p
  let q := (h.evtCfg.extractLsb' 0 4).toNat
  let lost (s : State) : State := s.updHp p fun h => { h with evtLost := sat32 (h.evtLost + 1) }
  if !h.evtCfg.getLsbD 4 || !(s.cq p q).en then (lost s).hostErr p 3
  else
    let same (e : Option Nat × Completion) : Bool := e.1.isNone && e.2.typ == c.typ
    let s := if h.cqs.any fun e => e.2.wait.any same then lost s else s
    let s := s.updHp p fun h => { h with cqs := h.cqs.map fun e => (e.1, { e.2 with wait := e.2.wait.filter fun e => !same e }) }
    s.updCq p q fun r => { r with wait := r.wait ++ [(none, c)] }

/-- An event's record (Table 12-10). -/
def mkEvent (typ status detail value value2 : Nat) : Completion :=
  { tag := 0, sqidx := 0, sq := 0, typ := typ, status := status, detail := detail, sqhead := 0, value := value, value2 := value2 }

/-! ### Records (Tables 12-4 to 12-6) -/

/-- `n` bytes of a record from byte `o`. -/
def FetchedRec.f (r : FetchedRec) (o n : Nat) : Nat := ofLanes 512 r.units / 2 ^ (8 * o) % 2 ^ (8 * n)
def FetchedRec.typ (r : FetchedRec) : Nat := r.f 0 1
def FetchedRec.opt (r : FetchedRec) : Nat := r.f 2 1 % 128
def FetchedRec.quiet (r : FetchedRec) : Bool := 128 ≤ r.f 2 1

/-- Units, option mask and named body bytes of a record type. -/
def recShape (typ : Nat) : Nat × Nat × List (Nat × Nat) :=
  match typ with
  | 2 => (1, 1, [(8, 32)])
  | 3 => (3, 3, [(8, 35), (64, 192)])
  | 4 => (1, 1, [])
  | 5 => (1, 1, [])
  | 6 => (1, 0, [(8, 16)])
  | 7 => (1, 15, [(8, 10), (16, 24)])
  | 9 => (1, 0, [(8, 16)])
  | 10 => (1, 0, [(8, 20), (32, 64)])
  | 11 => (1, 1, [(8, 24)])
  | _ => (1, 0, [])

/-- The fields out of their range, as byte offsets. -/
def State.rangeErrs (s : State) (r : FetchedRec) : List Nat :=
  let inNear (a : Nat) : Bool := a < 0x18000000000 || (0x20000000000 ≤ a && a < 0x20000000000 + s.gr.capacity)
  let bad (o : Nat) (b : Bool) : List Nat := if b then [o] else []
  match r.typ with
  | 2 => bad 8 (r.f 8 8 % 64 ≠ 0) ++ bad 16 (r.f 16 8 % 128 ≠ 0 || 2 ^ 42 ≤ r.f 16 8) ++
         bad 24 (r.f 24 8 = 0 || r.f 24 8 % 128 ≠ 0 || 2 ^ 40 ≤ r.f 24 8)
  | 3 => bad 8 (r.f 8 8 % 128 ≠ 0 || !inNear (r.f 8 8)) ++ bad 16 (r.f 16 8 % 128 ≠ 0 || !inNear (r.f 16 8)) ++
         bad 24 (r.f 24 8 % 16 ≠ 0) ++ bad 32 (64 < r.f 32 2) ++ bad 34 (16 < r.f 34 1)
  | 7 => bad 2 (r.opt % 4 = 3) ++ bad 8 (2 ^ 15 ≤ r.f 8 2)
  | 9 => bad 8 (r.f 8 8 % 64 ≠ 0)
  | 10 => bad 8 (r.f 8 8 % 64 ≠ 0) ++ bad 16 (r.f 16 4 < 9229)
  | _ => []

/-- The byte offset of the first bad field of a record (R387). -/
def State.formatErr (s : State) (r : FetchedRec) : Option Nat :=
  let (u, m, named) := recShape r.typ
  let free (o : Nat) : Bool := o < 8 || named.any fun n => n.1 ≤ o && o < n.2
  let commit := r.typ = 11 && r.opt % 2 = 1
  let zeros := if commit then [] else (List.range (64 * u)).filter fun o => !free o && r.f o 1 ≠ 0
  let all := (if 11 < r.typ then [0] else []) ++ (if r.f 1 1 ≠ u then [1] else []) ++
    (if r.opt &&& m ≠ r.opt then [2] else []) ++ (if r.f 3 1 ≠ 0 then [3] else []) ++ zeros ++
    (if commit then [] else s.rangeErrs r)
  match all with
  | [] => none
  | a :: t => some (t.foldl min a)

/-- The open record of a ring has its completion record (Table 12-8), which waits to be posted. -/
def State.finish (s : State) (p q status detail value : Nat) : State :=
  let r := s.sq p q
  match r.cur with
  | none => s
  | some o =>
    if o.post.isSome then s
    else
      let c : Completion :=
        { tag := o.fr.f 4 4, sqidx := o.fr.idx, sq := q, typ := o.fr.typ, status := status, detail := detail
          sqhead := r.head, value := value, value2 := 0 }
      (s.updSq p q fun r => { r with cur := some { o with post := some c } }).updCq p r.cq fun z =>
        { z with wait := z.wait ++ [(some q, c)] }

/-- Records that stop the ring or have a reserved TYPE complete with FORMAT as they come to the front (R387). -/
def State.skim (s : State) (p q : Nat) : State :=
  let r := s.sq p q
  match r.cur, r.queue with
  | none, f :: rest =>
    if f.bad || 11 < f.typ then
      (s.updSq p q fun r => { r with queue := rest, cur := some ⟨f, none⟩ }).finish p q 1 (if 11 < f.typ then 0 else 1) 0
    else s
  | _, _ => s

/-- The open record of a ring completes: a QUIET record with status OK posts nothing, and the ring goes on (Table 12-4). -/
def State.complete (s : State) (p q status detail value : Nat) : State :=
  match (s.sq p q).cur with
  | none => s
  | some o =>
    if o.post.isNone && o.fr.quiet && status = 0 then (s.updSq p q fun r => { r with cur := none }).skim p q
    else s.finish p q status detail value

/-- Copies of a port in progress (R388). -/
def State.copying (s : State) (p : Nat) : Nat :=
  ((s.hp p).sqs.filter fun e => match e.2.cur with | some o => o.fr.typ = 2 && o.post.isNone | none => false).length
/-- Record types that hold job control (Table 12-5). -/
def jobControl (typ : Nat) : Bool := (3 ≤ typ && typ ≤ 8) || typ = 11

/-- The record at the front of a ring may begin: no earlier one of the ring is open, and job control or the eight copies of the port do not
stand against it (R388). -/
def State.mayBegin (s : State) (p q : Nat) : Bool :=
  let r := s.sq p q
  match r.cur, r.queue with
  | none, f :: _ =>
    r.en && !f.bad && !(f.typ = 2 && 8 ≤ s.copying p) && !(jobControl f.typ && f.typ ≠ 5 && s.host.jc.isSome)
  | _, _ => false
/-- The rotation has come to this ring: no ring that it passes first, SQ0 to SQ15 of port 0 and then of port 1, has a record that may begin
(R388). -/
def State.ringTurn (s : State) (p q : Nat) : Bool :=
  (List.range ((16 * p + q + 32 - s.host.turn % 32) % 32)).all fun i =>
    let n := (s.host.turn + i) % 32
    !s.mayBegin (n / 16) (n % 16)

/-- The record at the front of a ring begins, if it is of this type and the rotation has come to it; a KILL begins at once (R388). -/
def State.beginRec (s : State) (p q : Nat) (typ : Nat → Bool) : Option (State × FetchedRec) :=
  let r := s.sq p q
  match r.cur, r.queue with
  | none, f :: rest =>
    if s.mod.mgmt && r.en && typ f.typ && !f.bad && (f.typ = 5 || s.ringTurn p q) then
      let s := s.updSq p q fun r => { r with queue := rest, cur := some ⟨f, none⟩ }
      some (if f.typ = 5 then s else { s with host.turn := (16 * p + q + 1) % 32 }, f)
    else none
  | _, _ => none

/-- COMPLETION_POST: the first waiting record is posted, and the ring of its record goes on. -/
def execCompletionPost (port : HostId) (cq : RingId) (s : State) : Host.Outcome State Fault Refusal :=
  .next (match ((s.cq port cq).wait.head?).bind (·.1) with
    | some n => (s.postFirst port cq).skim port n
    | none => s.postFirst port cq)

/-- The record types that only the owner may submit (Table 12-5); an observer may copy device to host. -/
def ownerOnly (r : FetchedRec) : Bool :=
  match r.typ with
  | 2 => r.opt % 2 = 0
  | 3 | 4 | 5 | 6 | 7 | 8 | 11 => true
  | _ => false

/-- A record begins: malformed FORMAT, not permitted DENIED, else its effect. -/
def State.record (s : State) (p q : Nat) (typ : Nat → Bool) (f : State → FetchedRec → State) : State :=
  match s.beginRec p q typ with
  | none => s
  | some (s, r) =>
    match s.formatErr r with
    | some o => (s.complete p q 1 o 0).skim p q
    | none => (if ownerOnly r && s.host.owner ≠ p then s.complete p q 2 0 0 else f s r).skim p q

/-- A job-control record begins only when no other holds job control (R388). -/
def State.jobRecord (s : State) (p q : Nat) (typ : Nat → Bool) (f : State → FetchedRec → State) : State :=
  if s.host.jc.isSome then s else s.record p q typ f

/-- A record takes job control until it is accepted. -/
def State.holdJc (s : State) (p q : Nat) : State := { s with host.jc := some (p, q) }
def State.freeJc (s : State) (p q : Nat) : State := if s.host.jc = some (p, q) then { s with host.jc := none } else s

/-! ### Fetching (R385 to R387) -/

/-- Fetched units are cut into records; a PAD takes the ring to index 0. -/
def SubRing.cut (fuel : Nat) (r : SubRing) (us : List (BitVec 512)) : SubRing :=
  match fuel, us with
  | 0, _ => { r with part := us }
  | _, [] => { r with part := [] }
  | n + 1, u :: rest =>
    let size := 2 ^ r.k
    let typ := (u.extractLsb' 0 8).toNat
    let len := (u.extractLsb' 8 5).toNat
    if typ = 0 then { r with head := 0, part := [], queue := r.queue ++ [⟨r.head, [u], false⟩] }
    else if len = 0 || 16 < len || size < r.head + len then
      { r with part := [], stopped := true, queue := r.queue ++ [⟨r.head, [u], true⟩] }
    else if (u :: rest).length < len then { r with part := u :: rest }
    else
      cut n { r with head := (r.head + len) % size, queue := r.queue ++ [⟨r.head, (u :: rest).take len, false⟩] }
        ((u :: rest).drop len)

/-- Units of the next bale. -/
def SubRing.bale (r : SubRing) : Nat :=
  let size := 2 ^ r.k
  let at_ := r.head + r.part.length
  if at_ = r.tail then 0
  else min 32 (if at_ < r.tail then r.tail - at_ else size - at_)

/-- A bale is fetched from host memory (R385) while the function makes requests (R373); its units come with the command. -/
def State.fetch (s : State) (p q : Nat) (units : List (BitVec 512)) : State :=
  let r := s.sq p q
  let n := r.bale
  if !s.mod.mgmt || !(s.hp p).masters || !r.en || r.stopped || r.queue ≠ [] || n = 0 || units.length < n then s
  else
    let s := s.readHost p (r.base.toNat + 64 * (r.head + r.part.length)) (64 * n)
    (s.updSq p q fun r => SubRing.cut 64 r (r.part ++ units.take n)).skim p q

def execBaleFetch (port : HostId) (ring : RingId) (units : List (BitVec 512)) (s : State) :
    Host.Outcome State Fault Refusal := .next (s.fetch port ring units)

/-- A PAD posts nothing (R386). -/
def execPadRec (port : HostId) (ring : RingId) (s : State) : Host.Outcome State Fault Refusal :=
  .next (match s.beginRec port ring (· == 0) with
    | some (s, _) => (s.updSq port ring fun r => { r with cur := none }).skim port ring
    | none => s)

def execNopRec (port : HostId) (ring : RingId) (s : State) : Host.Outcome State Fault Refusal :=
  .next (s.record port ring (· == 1) fun s _ => s.complete port ring 0 0 0)

/-! ### Ownership (R379 to R381) -/

/-- The test access port locks (R473): the debug port makes no access from then on. -/
def State.lockTap (s : State) : State := { s with sec.unlocked := false }

/-- The other port becomes owner: how, 1 release, 2 takeover (R381, R468, R473). -/
def State.changeOwner (s : State) (how : Nat) : State :=
  let n := 1 - s.host.owner
  let s := { s with host.owner := n, host.lastTk := how == 2, host.changed := true
                    host.changes := min 255 (s.host.changes + 1) }
  let s := s.allowOwner.lockTap
  (s.event 0 (mkEvent 0xE2 0 how n 0)).event 1 (mkEvent 0xE2 0 how n 0)

/-- RELEASE (R394). -/
def execReleaseRec (port : HostId) (ring : RingId) (s : State) : Host.Outcome State Fault Refusal :=
  .next (s.jobRecord port ring (· == 8) fun s _ =>
    if s.portDown (1 - s.host.owner) then s.complete port ring 3 0 0
    else (s.complete port ring 0 0 0).changeOwner 1)

/-- Takeover by the end of cc `by_` (R380): 8,000,000 cc for each unit of TIMEOUT. -/
def State.takeover (s : State) (by_ : Nat) : State :=
  let o := s.host.owner
  let due := (s.hp o).downAt.any fun t => t + 8000000 * s.host.tkovr < by_
  if s.host.tkovr ≠ 0 && s.portDown o && due && !s.portDown (1 - o) then s.changeOwner 2 else s

/-- OWNER_TAKEOVER. In the cc in which the timeout expires the takeover stands at the end of the cc, after a link that returns in it (R380);
the command takes one that has expired before this cc. -/
def execOwnerTakeover (s : State) : Host.Outcome State Fault Refusal := .next (s.takeover s.time.now)

/-! ### Ports going up and down (R380, R382, R404, R405) -/

/-- Records of the port that have begun and run to their end after its reset: no completion of theirs is posted (R364, R382). -/
def HostState.detach (h : HostState) (p : Nat) : HostState :=
  let one (r : RecRef) : RecRef := if r.1 = p then (p, 16) else r
  { h with jc := h.jc.map one, loadRec := h.loadRec.map one, startRec := h.startRec.map one, killRec := h.killRec.map one
           snapRec := h.snapRec.map one, snapNext := h.snapNext.map one, fwRec := h.fwRec.map fun e => (one e.1, e.2)
           attest := h.attest.map fun e : RecRef × Nat × List Byte => (one e.1, e.2)
           mem := h.mem.filter fun m => !(m.ring.isSome && m.who == .host (Fin.ofNat 2 p)) }

/-- The bytes that a copy into the device has written when it is stopped with no completion are undefined (R382). -/
def State.cutCopies (s : State) (p : Nat) : State :=
  (s.host.mem.filter fun m => m.write && m.ring.isSome && m.who == .host (Fin.ofNat 2 p)).foldl
    (fun s m => s.undefineLocal m.addr m.done) s

/-- The registers of AER that are sticky: mask, severity and correctable mask. -/
def stickyConfig : List Nat := [0x108, 0x10C, 0x114]
/-- The reset of a port's items (Table 12-3): its HST block, rings and configuration space, and its mailboxes. The error log and its masks are
sticky: PERST# alone clears them, as PCIe gives (log entry 71). -/
def State.portReset (s : State) (p : HostId) : State :=
  let s := s.cutCopies p
  let s := { s with host := s.host.detach p }
  let s := s.updHp p fun h =>
    { HostPort.reset with
      up := h.up, perst := h.perst, downAt := h.downAt, aer := if h.perst then 0 else h.aer, aerCc := if h.perst then 0 else h.aerCc
      config := if h.perst then [] else h.config.filter fun e => stickyConfig.contains e.1
      rate := if h.up then h.rate else 0, width := if h.up then h.width else 0 }
  (s.boxReset (.open_ p) false).boxReset (.secure p) false

/-- The port goes down. -/
def State.goDown (s : State) (p : HostId) : State :=
  s.updHp p fun h => { h with downAt := if h.downAt.isSome then h.downAt else some s.time.now }

/-- PERST# is asserted or deasserted; hot reset and FLR act as an assertion followed by the link's return. -/
def execPerst (port : HostId) (asserted : Bool) (s : State) : Host.Outcome State Fault Refusal :=
  .next (if asserted then
      ((s.updHp port fun h => { h with perst := true, up := false, d3hot := false }).goDown port).portReset port
    else s.updHp port fun h => { h with perst := false })

def execLinkLeavesL0 (port : HostId) (s : State) : Host.Outcome State Fault Refusal :=
  .next (if (s.hp port).up then ((s.updHp port fun h => { h with up := false }).goDown port).portReset port else s)

def execPcieLinkUp (port : HostId) (rate width : Nat) (s : State) : Host.Outcome State Fault Refusal :=
  .next (if (s.hp port).perst then s
    else s.updHp port fun h => { h with up := true, d3hot := false, downAt := none, rate := rate % 8, width := width % 16 })

/-- D3hot makes the host's end of its mailboxes dead (R404); entering it is no reset. -/
def execD3hot (port : HostId) (entered : Bool) (s : State) : Host.Outcome State Fault Refusal :=
  .next (s.updHp port fun h => { h with d3hot := entered })

end Sys2Proof.Machine
end

