-- ==== Sys2Proof/Machine/Link.lean ====
section
/-! DEFINITION. Fabric links: control cells (Table 10-5), bring-up and calibration (R316 to R318), failures (R346), the hall
reference and hall time (R313 to R315), coordinated release (R344). -/

namespace Sys2Proof.Machine

/-- `n` bits of a control cell from byte `b`. -/
def kf (c : BitVec 256) (b n : Nat) : Nat := (c.extractLsb' (8 * b) n).toNat
/-- The CRC of a control cell holds (Table 10-5). -/
def kOk (c : BitVec 256) : Bool := c.extractLsb' 224 32 == crc32c (leBytes 28 c.toNat)

/-! ### Receiving control cells -/

/-- The peer expects number `n` next: the cells before it are out of the replay window. A number of no cell launched says nothing (log entry 109). -/
def FabPort.ack (P : FabPort) (n : Nat) : FabPort :=
  if (n + 2 ^ 31 - P.acked) % 2 ^ 31 ≤ (P.seq + 2 ^ 31 - P.acked) % 2 ^ 31 then { P with acked := n % 2 ^ 31 } else P

/-- What every control cell carries: freed forwarding entries, the number expected and a REPLAY request (Table 10-5). -/
def State.cellHead (s : State) (p : Nat) (c : BitVec 256) : State :=
  let back (P : FabPort) (v : Nat) : FabPort :=
    { P with credit := P.credit.put v (min (vcEntries v) (P.credits v + kf c (1 + v) 8)) }
  let s := s.updPort p fun P => (back (back (back P 0) 1) 2).ack (kf c 4 31)
  if c.getLsbD 63 && s.portUp p then s.replayFrom p (kf c 4 31) else s

/-- A control cell of a kind that passes its CRC, at a port that has frame lock; any other is discarded. -/
def State.cell (s : State) (p : Nat) (c : BitVec 256) (kind : Nat) (f : State → State) : State :=
  if 3 ≤ (s.port p).st && (s.port p).st ≤ 5 && kOk c && kf c 0 8 = kind then f (s.cellHead p c) else s

def execControlCellNone (port : PortId) (cell : BitVec 256) (s : State) : Host.Outcome State Fault Refusal :=
  .next (s.cell port cell 0 id)

/-- The used count that this module knows for a circuit which it sends on: the smallest of its branches (R329). -/
def State.branchCount (s : State) (c : Nat) : Nat :=
  match (cOuts (s.circuit c)).map fun p => (s.port p).count.look c 0 with
  | [] => 0
  | a :: r => r.foldl min a

/-- One credit record: a cumulative count of 16 bits (R329). A through module relays it. -/
def State.creditRecord (s : State) (p : Nat) (r : Nat) : State :=
  let c := r % 4096
  let e := s.circuit c
  if c = 0 || !cValid e || !(cOuts e).contains p then s
  else
    let s := s.updPort p fun P =>
      let old := P.count.look c 0
      { P with count := P.count.put c (old + (r / 65536 + 65536 - old % 65536) % 65536) }
    if cIn e = 15 then s.leadFreed
    else
      let n := s.branchCount c
      if n = (s.cs c).used then s
      else (s.updCs c fun z => { z with used := n }).updPort (cIn e) fun P =>
        { P with due := if P.due.contains c then P.due else P.due ++ [c] }

def execControlCellCredit (port : PortId) (cell : BitVec 256) (s : State) : Host.Outcome State Fault Refusal :=
  .next (s.cell port cell 1 fun s => (List.range 5).foldl (fun s i => s.creditRecord port (kf cell (8 + 4 * i) 32)) s)

/-- The lowest-numbered UP port with a peer whose HTC is valid (R315). -/
def State.timePort (s : State) : Option Nat := (List.range 12).find? fun p => s.portUp p && (s.port p).peerHtc

/-- The echo in a TIME cell of one that this port has sent in CALIB (Table 10-5, bytes 16 to 27): the round trip from its launch to now, and the
turnaround that the peer states (R317). -/
def State.echo (s : State) (c : BitVec 256) (P : FabPort) : FabPort :=
  if P.st = 4 && P.timeTx.contains (kf c 16 64) then { P with trip := some ((s.fab.htc + 2 ^ 64 - kf c 16 64) % 2 ^ 64, kf c 24 32) } else P

/-- A TIME cell: kept for the next TIME cell sent, and the source of hall time on a module that knows that it is not the root (R315). -/
def State.timeCell (s : State) (p : Nat) (c : BitVec 256) (valid : Bool) : State :=
  let t := kf c 8 64
  let s := s.updPort p fun P => { (s.echo c P) with timeRx := some (t, s.time.now), peerHtc := valid }
  if !s.fab.htcValid && s.fab.clk && valid && s.coordOk && s.coord ≠ 0 && s.timePort = some p then
    { s with fab.htc := (t + (s.port p).lat) % 2 ^ 64, fab.htcValid := true }
  else s

def execControlCellTime (port : PortId) (cell : BitVec 256) (peerValid : Bool) (s : State) :
    Host.Outcome State Fault Refusal :=
  .next (s.cell port cell 2 fun s => s.timeCell port cell peerValid)

/-- Whether every UP port's peer agrees with a coordinate of this module (R318). -/
def State.peersAgree (s : State) (c : BitVec 15) : Bool :=
  (List.range 12).all fun p => !s.portUp p ||
    (match (s.port p).peer with | some (d, _) => !(s.port p).peerCoord || s.beside d p true == c | none => true)

/-- Fabric discovery completes or finds a disagreement (R318). The root's hall time has run since CLK set (R315). -/
def State.discover (s : State) : State :=
  match s.fab.taken with
  | none => s
  | some c =>
    if s.fab.discDone then (if s.peersAgree c then s else { s with fab.discErr := true })
    else if s.peersAgree c then
      { s with fab.discDone := true, coord := c, coordOk := true, fab.htcValid := s.fab.htcValid || (c = 0 && s.fab.clk) }
    else { s with fab.discErr := true }

/-- An identity cell: the peer, the checks of R316, and discovery under COORD_MODE 1 (R318). -/
def State.identCell (s : State) (p : Nat) (c : BitVec 256) : State :=
  let coord : BitVec 15 := BitVec.ofNat 15 (kf c 16 15)
  let okc := c.getLsbD 143
  let good := kf c 18 8 = partner p && kf c 19 15 = s.fab.shape.toNat
  let s := s.updPort p fun P =>
    { P with peer := some (coord, kf c 18 4), peerCoord := okc
             st := if P.st = 3 && good then 4 else P.st
             timeTx := if P.st = 3 && good then [] else P.timeTx
             trip := if P.st = 3 && good then none else P.trip
             failcode := if P.st = 3 && !good then 4 else P.failcode }
  let s := if s.coordMode && okc && s.fab.taken.isNone then { s with fab.taken := some (s.beside coord p true) } else s
  s.discover

def execControlCellIdent (port : PortId) (cell : BitVec 256) (s : State) : Host.Outcome State Fault Refusal :=
  .next (s.cell port cell 3 fun s => s.identCell port cell)

/-! ### Launching control cells (R329, Table 10-5) -/

/-- A credit record of a circuit that this module receives on the port. -/
def State.creditOf (s : State) (c : Nat) : Nat := c + 65536 * ((s.cs c).used % 65536)

/-- Bytes 8 to 27 by kind. -/
def State.cellBody (s : State) (p kind : Nat) : Nat :=
  let P := s.port p
  match kind with
  | 1 => ofLanes 32 ((P.due.take 5).map fun c => BitVec.ofNat 32 (s.creditOf c))
  | 2 =>
    let (t, a) := P.timeRx.getD (0, 0)
    s.fab.htc + 2 ^ 64 * t + 2 ^ 128 * (if P.timeRx.isSome then (s.time.now - a) % 2 ^ 32 else 0)
  | 3 => s.part.serial.toNat + 2 ^ 64 * s.coord16.toNat + 2 ^ 80 * p + 2 ^ 88 * s.fab.shape.toNat
  | _ => 0

/-- The kind of the next control cell: CALIB sends 64 TIME cells first (R317), and credit goes out at the first one (R329); it is otherwise the
port's choice. -/
def FabPort.cellKind (P : FabPort) (kind : Nat) : Nat :=
  if P.st = 4 && P.timeTx.length < 64 then 2 else if P.st = 5 && P.due ≠ [] then 1 else kind

/-- A control cell position: a port with a link clock launches control cell i of the frame once, in the ten cc of positions 4i to 4i + 3 (Table
10-4; log entry 91). -/
def State.launchControl (s : State) (p kind : Nat) : State :=
  let P := s.port p
  if P.st < 2 || 5 < P.st || P.ctlAt = s.fab.htc / 10 + 1 then s
  else
    let kind := P.cellKind kind
    let freed (v : Nat) : Nat := min 255 (P.freed.look v 0)
    let head := kind + 2 ^ 8 * freed 0 + 2 ^ 16 * freed 1 + 2 ^ 24 * freed 2 + 2 ^ 32 * P.expect +
      2 ^ 63 * (if P.ask then 1 else 0)
    let body := head + 2 ^ 64 * s.cellBody p kind
    let crc := crc32c (leBytes 28 body)
    let rest := P.freed.map fun e => (e.1, e.2 - min 255 e.2)
    (s.updPort p fun P =>
      { P with
        ctlAt := s.fab.htc / 10 + 1, askAt := if P.ask then s.time.now else P.askAt, ask := false, freed := rest
        due := if kind = 1 then P.due.drop 5 else P.due
        timeTx := if kind = 2 && P.st = 4 then P.timeTx ++ [s.fab.htc] else P.timeTx }).send
      (.control p (BitVec.ofNat 256 (body + 2 ^ 224 * crc.toNat)))

def execControlCellLaunch (port : PortId) (kind : Fin 4) (s : State) : Host.Outcome State Fault Refusal :=
  .next (s.launchControl port kind)

/-! ### Port states (Table 10-3) -/

/-- A port leaves one state for another, when it is in it. -/
def State.portStep (s : State) (p from_ to_ : Nat) (f : FabPort → FabPort := id) : State :=
  if (s.port p).st = from_ then s.updPort p fun P => { (f P) with st := to_ } else s

/-- A link starts anew: sequence numbers, forwarding credits and buffers of the last 256 cells. -/
def FabPort.fresh (P : FabPort) : FabPort :=
  { P with failcode := 0, lat := 0, peer := none, peerCoord := false, peerHtc := false, timeRx := none, timeTx := [], trip := none
           seq := 0, expect := 0, sent := [], resend := [], ask := false, replaying := false, upTo := 0, acked := 0, delay := [], asked := (0, 0)
           credit := [], freed := [], posAt := 0, ctlAt := 0, askAt := 0 }

/-- The ports of a dimension of size 1 are not cabled (R311). -/
def State.cabled (s : State) (p : Nat) : Bool := s.size (p / 4) ≠ 1

/-- A cable is present: a module that is locked and has come through step 5 leaves DOWN (Table 10-3; Table 14-1, step 8). -/
def execCagePresent (port : PortId) (s : State) : Host.Outcome State Fault Refusal :=
  .next (if s.fab.clk && s.sec.booted then s.portStep port 0 1 FabPort.fresh else s)
def execCableRemoved (port : PortId) (s : State) : Host.Outcome State Fault Refusal := .next (s.portStep port 6 0)
def execEqualiserTrainingDone (port : PortId) (s : State) : Host.Outcome State Fault Refusal := .next (s.portStep port 1 2)
def execFrameLock (port : PortId) (s : State) : Host.Outcome State Fault Refusal := .next (s.portStep port 2 3)

/-- The calibrated latency of R317: half the round trip less the turnaround, rounded up; above 240 cc the link does not reach
UP. What an echo has shown stands; without one, the command brings the measurement (DESIGN CHOICE, log entry 108). -/
def State.calibrate (s : State) (p rt0 ta0 : Nat) : State :=
  let (rt, ta) := (s.port p).trip.getD (rt0, ta0)
  let h := (rt - ta + 1) / 2
  if (s.port p).st ≠ 4 then s
  else if 240 < h || !s.cabled p then s.updPort p fun P => { P with lat := min h 255 }
  else (s.updPort p fun P => { P with st := 5, lat := h }).discover

def execCalibrationDone (port : PortId) (roundTrip turnaround : Nat) (s : State) : Host.Outcome State Fault Refusal :=
  .next (s.calibrate port roundTrip turnaround)

def execFecLockLoss (port : PortId) (s : State) : Host.Outcome State Fault Refusal := .next (s.portFail port 2)
def execControlCellTimeout (port : PortId) (s : State) : Host.Outcome State Fault Refusal := .next (s.portFail port 3)
def execPhaseWanderOverflow (port : PortId) (s : State) : Host.Outcome State Fault Refusal := .next (s.portFail port 5)

/-! ### Reference and hall time (R313 to R315) -/

/-- The recovered clock of FAB_CTRL.REC_PORT is a source (R313). -/
def State.recValid (s : State) : Bool := s.fab.ctrl.getLsbD 0 && s.portUp (s.fab.ctrl.extractLsb' 1 4).toNat

/-- FAB_STATUS.REF: the first valid source, or holdover. -/
def State.pickRef (s : State) : Nat := if s.fab.aValid then 0 else if s.fab.bValid then 1 else if s.recValid then 2 else 3

def execReferenceInvalid (ref : RefInput) (s : State) : Host.Outcome State Fault Refusal :=
  let s := match ref with
    | .hrefA => { s with fab.aValid := false }
    | .hrefB => { s with fab.bValid := false }
    | .port => s
  let r := match ref with
    | .port => if s.fab.aValid then 0 else if s.fab.bValid then 1 else 3
    | _ => s.pickRef
  let s := if r = 3 && s.fab.ref ≠ 3 && s.fab.clk then s.setAlert 9 else s
  .next { s with fab.ref := r }

/-- The domains lock to the first valid source; the counter of hall time starts at zero when CLK sets, and is hall time on the root (R313,
R315). -/
def State.lockClock (s : State) (a b : Bool) : State :=
  let s := { s with fab.aValid := a, fab.bValid := b }
  let s := { s with fab.ref := s.pickRef }
  if s.fab.ref = 3 then s
  else if s.fab.clk then s
  else
    { s with fab.clk := true, fab.htc := 0, fab.htcValid := s.coordOk && s.coord = 0 }

def execClockLock (aValid bValid : Bool) (s : State) : Host.Outcome State Fault Refusal :=
  .next (if s.powered then s.lockClock aValid bValid else s)

/-- Holdover beyond 1 s (R314): CLK clears, every port goes DOWN, a running job faults; hall time is taken anew (log entry 73). -/
def State.holdoverEnd (s : State) : State :=
  if s.fab.ref ≠ 3 || !s.fab.clk then s
  else
    let down (s : State) (p : Nat) : State := s.updPort p fun P => { P with st := if P.st = 7 then 7 else 0 }
    let s := (List.range 12).foldl down { s with fab.clk := false, fab.htcValid := false }
    s.faultFab s.nextSc .fabClk 0 0 0

def execHoldoverExpire (s : State) : Host.Outcome State Fault Refusal := .next s.holdoverEnd

/-! ### Release (R36, R344, R453) -/

/-- The job is released: the next unheld cc from `at_` on is that of sc `sc0`. The START completes with the HTC of the release
(Table 12-5). -/
def State.releaseJob (s : State) (sc0 at_ htc : Nat) : State :=
  let s := { s with time.running := true, time.release := at_, time.cnt.scc := sc0, job.coordWait := none, job.startAt := none }
  match s.host.startRec with
  | some (p, q) => { (s.complete p q 0 0 htc) with host.startRec := none }
  | none => s

/-- A coordinated start that waits is released in the cc whose HTC equals FAB_START, or FAB_START + (sc mod 2,560) after a
restore (R344, R453). -/
def State.coordRelease (s : State) : State :=
  match s.job.coordWait with
  | some n => if s.fab.htc = s.fab.start.toNat + n % 2560 then s.releaseJob n s.time.now s.fab.htc else s
  | none => s

/-- A START without COORD releases its job in the cc after its acceptance (R394, R453). -/
def State.plainRelease (s : State) : State :=
  match s.job.startAt with
  | some (n, sc0) => if n = s.time.now then s.releaseJob sc0 n s.fab.htc else s
  | none => s

def execCoordinatedRelease (s : State) : Host.Outcome State Fault Refusal := .next s.coordRelease

end Sys2Proof.Machine
end

