-- ==== Sys2Proof/Machine/Harvest.lean ====
section
/-! DEFINITION. Holds that end or last too long (R40, R45), disabling a function (R437 to R440), harvest boundaries (R60 to R68,
Table 2-7). -/

namespace Sys2Proof.Machine

/-! ### Holds -/

/-- Requests whose stated length is over withdraw by themselves (R40). -/
def State.expireHolds (s : State) : State := { s with time.reqs := s.time.reqs.filter fun r => r.active s.time.now }

def execHoldRequestExpire (s : State) : Host.Outcome State Fault Refusal := .next s.expireHolds

/-- HOLD_TIMEOUT has been recorded: one hold records it once. -/
def State.timedOut (s : State) : Bool := s.job.holdOut

/-- A single hold that with this cc is longer than the limit in force (R45; cc of a snapshot do not count, R444): the fault names the
causes active now, at the sc of the first unheld cc (log entry 13). -/
def State.holdTimeout (s : State) : State :=
  if s.live && s.held && !s.timedOut && s.time.ctrlLoad.getLsbD 16 && !s.hasHold 9 .snapshot && s.time.limitLoad.toNat ≤ s.time.limHold then
    ({ s with job.holdOut := true } : State).faultAt s.nextSc .holdTimeout 0 UnitRef.none UnitRef.none 0 s.causes.toNat
  else s

def execHoldTimeout (s : State) : Host.Outcome State Fault Refusal := .next s.holdTimeout

/-! ### Functions and their use (R437, Table 14-5) -/

/-- A function's number: bays 0 to 7, channels 8 to 15, ports 16 to 27 (RCV_DISFORCE). -/
def funcIx : Func → Nat
  | .bay b => b.val
  | .channel n => 8 + n.val
  | .port p => 16 + p.val
/-- AUX of a DISABLE fault: kind and index (R438). -/
def funcAux : Func → Nat
  | .bay b => 16 * b.val
  | .channel n => 1 + 16 * n.val
  | .port p => 2 + 16 * p.val
/-- Every function. -/
def allFuncs : List Func :=
  (List.finRange 8).map .bay ++ (List.finRange 8).map .channel ++ (List.finRange 12).map .port

/-- The bay that carries a fabric port (Table 1-2). -/
def portBay (p : Nat) : Nat := [0, 7, 3, 4, 0, 7, 3, 4, 1, 5, 2, 6].getD p 0
/-- The bay that carries a granary channel (R16). -/
def channelBay (n : Nat) : Nat := [1, 1, 2, 2, 5, 5, 6, 6].getD n 0

/-- Ports that a circuit entry names. -/
def circuitPorts (e : BitVec 256) : List Nat := if cValid e then cPorts e else []

/-- A near-tier region lies in the slices of bay `b`: its group is global, or bay-local and in the bay's part. -/
def Region.inBay (g : Region) (zone : BitVec 24) (b : Nat) : Bool :=
  let z := g.base / 2 ^ 36
  let o := g.base % 2 ^ 36
  !zone.getLsbD z || (o / 2 ^ 33 ≤ b && b ≤ (o + g.size - 1) / 2 ^ 33)

/-- The part that is loaded uses the function (Table 14-5). -/
def State.partUses (s : State) (f : Func) : Bool :=
  match s.job.img with
  | none => false
  | some i =>
    let port (p : Nat) : Bool := s.fab.circ.any fun e => (circuitPorts e.2).contains p
    let channel (n : Nat) : Bool := s.gr.pop.contains n && i.regions.any fun g => g.kind = 4
    match f with
    | .port p => port p
    | .channel n => channel n
    | .bay b =>
      (s.lines.any fun e => e.2.hasLine && bayOf e.1 = b.val) ||
      (i.regions.any fun g => (g.kind = 3 && g.inBay s.zone b) || (g.kind = 2 && g.bay = b.val)) ||
      ((List.range 12).any fun p => portBay p = b.val && port p) || ((List.range 8).any fun n => channelBay n = b.val && channel n)
/-- The running job uses the function. -/
def State.jobUses (s : State) (f : Func) : Bool := s.time.running && s.partUses f

/-! ### Disables (R437 to R439) -/

/-- Table 9-4: the sockets of each population, largest first. -/
def populations : List (List Nat) := [[0, 1, 2, 3, 4, 5, 6, 7], [0, 2, 4, 6], [0, 4], [0]]

/-- The population in force (R439). -/
def State.population (s : State) : List Nat :=
  if s.gr.mismatch || s.gr.popErr then []
  else (populations.find? fun l => l.all fun n =>
    (s.gr.dimms.look n default).typ ≠ 0 && !s.rcv.disCh.getLsbD n).getD []
/-- The granary with the population in force. -/
def State.repopulate (s : State) : State := { s with gr.pop := s.population }

/-- A request to disable the function waits. -/
def State.disWaits (s : State) (f : Func) : Bool :=
  match f with
  | .bay b => s.rcv.disreq.getLsbD b
  | .channel n => s.rcv.disreq.getLsbD (8 + n)
  | .port p => s.fab.disreq.getLsbD p

/-- The function has no work in flight (Table 14-5): no access of a host or copy into or out of the bay, no committed free slot of its slices,
no chunk of the engines that moves its rows; a port's transmit buffers are empty, and its peer expects the number after the last cell launched, so that
its replay window is empty (log entry 109). -/
def State.idleFunc (s : State) (f : Func) : Bool :=
  let copies (hit : Nat → Nat → Bool) : Bool :=
    (s.host.mem.any fun m => hit m.addr m.len) || s.host.ports.any fun h => h.2.sqs.any fun q =>
    match q.2.cur with
    | some o => o.fr.typ = 2 && o.post.isNone && hit (o.fr.f 16 6) (o.fr.f 24 5)
    | none => false
  match f with
  | .bay b =>
    let mine (a n : Nat) : Bool :=
      (a < 0x18000000000 && ({ (default : Region) with base := a, size := n } : Region).inBay s.zone b) ||
        (0x18000000000 ≤ a && a < 0x18020000000 && (a - 0x18000000000) / 0x4000000 = b.val)
    !(copies mine) && !(s.free.any fun c => c.slice / 32 = b.val) &&
      !(s.gr.cur.any fun c => c.side.any fun a => mine a (c.len - c.done))
  | .channel n => !(copies fun a _ => inGranary a && s.gr.pop.contains n) && (s.gr.cur.isNone || !s.gr.pop.contains n)
  | .port p =>
    let P := s.port p
    s.txCells p = 0 && (P.st ≠ 5 || P.resend = [] && P.acked = P.seq) && P.vc.all fun e => e.2.isEmpty

/-- A disable takes effect (R437, R439): it shows in RCV_DISABLED, the ready bit clears, RCV_ALERT.DISABLED sets. -/
def State.disable (s : State) (f : Func) : State :=
  let s := { s with rcv.disSince := s.rcv.disSince.del (funcIx f) }
  let s := match f with
    | .bay b =>
      let carried : BitVec 8 := BitVec.ofNat 8 (((List.range 8).filter fun n => channelBay n = b.val).map (2 ^ ·)).sum
      { s with rcv.disBay := bitOn s.rcv.disBay b.val, rcv.disreq := bitOff s.rcv.disreq b.val
               mod.bayReady := bitOff s.mod.bayReady b.val, mod.chReady := s.mod.chReady &&& ~~~carried }
    | .channel n =>
      ({ s with rcv.disCh := bitOn s.rcv.disCh n.val, rcv.disreq := bitOff s.rcv.disreq (8 + n.val)
                mod.chReady := bitOff s.mod.chReady n.val } : State).repopulate
    | .port p =>
      ({ s with fab.disabled := bitOn s.fab.disabled p.val, fab.disreq := bitOff s.fab.disreq p.val } : State).updPort
        p fun P => { P with st := 7 }
  (s.setAlert 11).pendDisable

/-- DISABLE_TAKE_EFFECT: a waiting request takes effect when no job runs and its work in flight has completed (R437). -/
def State.disableNow (s : State) (f : Func) : State :=
  if s.disWaits f && !s.time.running && s.idleFunc f then s.disable f else s

def execDisableTakeEffect (f : Func) (s : State) : Host.Outcome State Fault Refusal := .next (s.disableNow f)

/-- The requests written before cc `c` that a running job does not stand against. -/
def State.disablesAt (s : State) (c : Nat) : List Func :=
  allFuncs.filter fun f => s.disWaits f && s.rcv.disSince.look (funcIx f) 0 < c && !s.jobUses f

/-! ### Map-outs and power groups (R265, R266, R273, R274) -/

/-- The spare that is free in an instruction store's map: the first of 8 (LS_ISMAP_s). -/
def freeSpare (m : W64) : Option Nat := (List.range 8).find? fun k => !m.getLsbD (8 * k + 6)

/-- What the spare of a row takes from the loader's copy (R273, R478): its 64 words, undefined when a host has written into the copy of the
store; none without a copy. -/
def State.copyRow (s : State) (l st row : Nat) : Option (List W64) :=
  if !(s.line l).hasLine then none
  else s.loaderRegion.map fun g =>
    let j := 6 * (s.lines.filter fun e => e.2.hasLine && e.1 < l).length + st
    let bs := if s.job.copyBad.contains j then (List.range 512).map (Config.freeByte s.freeIx) else s.readLocal (g.base + j * 32768 + row * 512) 512
    (List.range 64).map fun i => BitVec.ofNat 64 (leNat ((bs.drop (8 * i)).take 8))

/-- One row of an instruction store is mapped to a spare, which takes its content from the loader's copy (R273). A row that finds none free
stays (log entry 52). -/
def State.mapOut (s : State) (l st row : Nat) : State :=
  let L := s.line l
  let m := L.ls.isMap.look st 0
  match freeSpare m with
  | some k =>
    let ws := (s.copyRow l st row).getD []
    let store := ws.zipIdx.foldl (fun (t : Tbl W64) e => t.put (st * 4096 + row * 64 + e.2) e.1) L.istore
    { (s.setLine l { L with
        isBad := L.isBad.filter fun w => !(w / 4096 = st && w % 4096 / 64 = row)
        istore := store
        ls.isMap := L.ls.isMap.put st (m ||| BitVec.ofNat 64 ((row + 64) * 2 ^ (8 * k))) }) with
      freeIx := s.freeIx + 1 }
  | none => s

/-- The rows queued before cc `c` are mapped out. -/
def State.mapOuts (s : State) (c : Nat) : State :=
  let s := s.lines.foldl (fun s e =>
    let now := (s.line e.1).ls.mapQueue.filter fun r => r.2.2 < c
    let s := s.updLine e.1 fun L =>
      let rest := L.ls.mapQueue.filter fun r => c ≤ r.2.2
      { L with ls := { L.ls with mapQueue := rest, isErr := if rest = [] then L.ls.isErr &&& 1024 else L.ls.isErr } }
    now.foldl (fun s r => s.mapOut e.1 r.1 r.2.1) s) s
  if s.lines.any fun e => e.2.ls.mapQueue ≠ [] then s else { s with hrv.pend := s.hrv.pend &&& ~~~4 }

/-- A line's request that joined the boundary of sc `h` changes its groups: a group that powers down or up reads zeros when it is
powered again (R266). -/
def State.changeGroups (s : State) (l h : Nat) : State :=
  let L := s.line l
  if !L.ls.pgReqValid || h ≤ L.ls.pgReqSc then s
  else
    let s := (List.range 4).foldl (fun s g =>
      if L.ls.pgOn.getLsbD g = L.ls.pgReq.getLsbD g then s else s.zeroBytes (lsPhys l (g * 98304)) 98304) s
    s.updLine l fun L => { L with ls := { L.ls with pgOn := L.ls.pgReq, pgReqValid := false } }

/-- Every line's group change of a boundary. -/
def State.groupChanges (s : State) (h : Nat) : State :=
  let s := s.lines.foldl (fun s e => s.changeGroups e.1 h) s
  if s.lines.any fun e => e.2.ls.pgReqValid then s else { s with hrv.pend := s.hrv.pend &&& ~~~8 }

/-! ### Latching (Table 2-7, steps 1 and 2) -/

/-- The gleaner counters of a line and of a base die: they latch at step 6 (R271), the others at step 1. -/
def gleanerLine : List Nat := [LineCnt.glnRows, .glnCe, .glnPass, .glnIsPass].map LineCnt.ix
def gleanerBay : List Nat := [BayCnt.bbGlnPass, .bbGlnCe, .ntGlnPass, .ntGlnCe].map BayCnt.ix

/-- The counters whose keys `sel` takes go into their bank and restart; the others go on. -/
def latchKeys (sel : Nat → Bool) (cnt bank : Tbl Nat) : Tbl Nat × Tbl Nat :=
  (cnt.filter fun e => !sel e.1, (cnt.filter fun e => sel e.1).foldl (fun t e => t.put e.1 e.2) (bank.filter fun e => !sel e.1))

def LineState.latch (L : LineState) (gln : Bool) : LineState :=
  let (c, b) := latchKeys (fun k => gleanerLine.contains k == gln) L.cnt L.cntL
  { L with cnt := c, cntL := b }
def BayState.latch (z : BayState) (gln : Bool) : BayState :=
  let (c, b) := latchKeys (fun k => gleanerBay.contains k == gln) z.cnt z.cntL
  { z with cnt := c, cntL := b }
/-- Step 6: the gleaner counters of every line and base die latch and restart (R271). -/
def State.gleanerReport (s : State) : State :=
  let lines := s.lines.map fun e : Nat × LineState => (e.1, e.2.latch true)
  let bays := s.bays.map fun e : Nat × BayState => (e.1, e.2.latch true)
  { s with lines := lines, bays := bays }
def GrPair.latch (p : GrPair) : GrPair := { p with cntL := p.cnt, cnt := [] }
def FabPort.latch (p : FabPort) : FabPort := { p with cntL := p.cnt, cnt := default }
def PowerState.latch (p : PowerState) : PowerState :=
  { p with enL := p.enUj, enUj := 0, balL := p.balUj, balUj := 0, dutyUpL := p.dutyUp, dutyUp := 0 }

/-- Every counter of the stations, dies, links and the power manager, but for the gleaners', latches and restarts. -/
def State.latchUnits (s : State) : State :=
  { s with
    lines := s.lines.map fun e => (e.1, e.2.latch false)
    bays := s.bays.map fun e => (e.1, e.2.latch false)
    gr.pairs := s.gr.pairs.map fun e => (e.1, e.2.latch)
    fab.ports := s.fab.ports.map fun e => (e.1, e.2.latch)
    fab.cntL := s.fab.cnt, fab.cnt := default
    pwr := s.pwr.latch }

/-- Steps 1 and 2 for the boundary of sc h: the HRV bank takes the values of the cc in which sc h + 8 fell. -/
def State.latchBoundary (s : State) (h : Nat) : State :=
  let c := s.time.cnt
  let bank := { c with scc := h + 8, cc := c.cc - 1 }
  let s := s.latchUnits
  { s with
    time.cnt := { c with holdCc := 0, holdEv := 0, holdMax := 0, hcCc := [], hcEv := [] }
    hrv := { s.hrv with
      bank := bank, seq := (s.hrv.seq + 1) % 2 ^ 32
      lost := if s.hrv.unread then sat32 (s.hrv.lost + 1) else s.hrv.lost, unread := true
      lastSc := h + 8, lastCc := c.cc - 1, lastHold := 0 } }

/-! ### The boundary (R63, R64) -/

/-- Steps 3 to 5 or 7 are pending for a boundary: what joined it has something to do. -/
def State.needsHold (s : State) (b : Boundary) : Bool :=
  (b.joined.getLsbD 0 && s.pwr.bays.any fun e => e.2.pend && e.2.since < b.at_) ||
  (b.joined.getLsbD 1 && s.disablesAt b.at_ ≠ []) ||
  (b.joined.getLsbD 2 && s.lines.any fun e => e.2.ls.mapQueue.any fun r => r.2.2 < b.at_) ||
  (b.joined.getLsbD 3 && s.lines.any fun e => e.2.ls.pgReqValid && e.2.ls.pgReqSc < b.h && e.2.ls.pgReq != e.2.ls.pgOn) ||
  b.joined.getLsbD 4

/-- HARVEST, and SNAPSHOT when one is requested, are raised 8 cc before the cc of sc h + 9 (R64). -/
def State.raiseBoundary (s : State) (b : Boundary) : State :=
  if b.raised || !(b.latched || s.needsHold b) || !s.eightBefore (b.h + 9) then s
  else
    let s := s.raiseHold 8 .harvest none
    let s := if b.joined.getLsbD 4 then s.raiseHold 9 .snapshot none else s
    { s with hrv.bounds := s.hrv.bounds.map fun x => if x = b then { x with raised := true } else x }
def State.raiseBoundaries (s : State) : State := s.hrv.bounds.foldl State.raiseBoundary s

/-- The harvest completion event (R68, Table 12-10). -/
def State.harvestEvent (s : State) : State :=
  if s.hrv.ctrl.getLsbD 0 then s.event s.host.owner (mkEvent 0xE0 0 0 s.hrv.lastSc (s.hrv.seq)) else s

/-- The boundary due now: sc h + 8 has issued and steps 1 and 2 are not done. -/
def State.dueBoundary (s : State) : Option Boundary :=
  if s.live then s.hrv.bounds.find? fun b => !b.latched && b.h + 9 == s.sc else none

/-- The latched boundary whose actions are in progress. -/
def State.openBoundary (s : State) : Option Boundary := s.hrv.bounds.find? fun b => b.latched

/-- A boundary is over. -/
def State.closeBoundary (s : State) (b : Boundary) : State :=
  ({ s with hrv.bounds := s.hrv.bounds.filter (fun x => x != b), hrv.active := false } : State).harvestEvent

/-- Steps 3 to 6 of the boundary `b`. The new codes are chosen from the margins of the segment, at the codes that were in force in it (R416). -/
def State.boundarySteps (s : State) (b : Boundary) : State :=
  let s := if b.joined.getLsbD 1 then
      (s.disablesAt b.at_).foldl (fun s f => if s.idleFunc f then s.disable f else s) s else s
  let s := if b.joined.getLsbD 2 then s.mapOuts b.at_ else s
  let s := if b.joined.getLsbD 3 then s.groupChanges b.h else s
  let codes := s.chosenCodes
  let s := s.lowMargin
  let s := if b.joined.getLsbD 0 then s.applyCodes b.at_ else s
  (s.gleanerReport.enterCodes codes).setShares

/-- HARVEST_BOUNDARY: steps 1 and 2; a boundary without pending actions is over at once, in no held cc. When the cc of sc h + 9 is
held for another cause, HARVEST may still be to be raised (R41, R64). -/
def State.harvestBoundary (s : State) : State :=
  match s.dueBoundary with
  | none => s
  | some b =>
    let s := s.latchBoundary b.h
    let b' := { b with latched := true }
    if b.raised || s.needsHold b then
      { s with hrv := { s.hrv with bounds := s.hrv.bounds.map fun x => if x = b then b' else x, active := true } }
    else (s.boundarySteps b).closeBoundary b

def execHarvestBoundary (s : State) : Host.Outcome State Fault Refusal := .next s.harvestBoundary

/-- Step 7: a requested snapshot begins (R444). -/
def State.beginSnapshot (s : State) (b : Boundary) : State :=
  match s.rcv.snap with
  | some j =>
    { s with
      hrv.pend := s.hrv.pend &&& ~~~16
      rcv.snap := some { j with
        phase := 1, sc := b.h + 8
        wslot := if j.slot = 1 then 0 else if j.slot = 2 then 1 else if s.rcv.scan.latest = 1 then 1 else 0 } }
  | none => s

/-- A fault during steps 3 to 7 takes precedence: the steps not yet performed are not performed, their requests stay in HRV_PEND, and the
module is held for them no longer (R66). -/
def State.cutBoundary (s : State) : State :=
  if s.job.faultSc.isSome && s.openBoundary.isSome then
    let s := (s.dropHold 8 .harvest).dropHold 9 .snapshot
    { s with hrv := { s.hrv with bounds := s.hrv.bounds.filter (fun b => !b.latched), active := false } }
  else s

/-- HARVEST_ACTIONS_COMPLETE: steps 3 to 6 are complete and HARVEST is withdrawn; a requested snapshot begins, else the boundary is over
(R63, R64). Step 3 waits for the work in flight of a function that it disables (R437). -/
def State.actionsComplete (s : State) : State :=
  match s.openBoundary with
  | none => s
  | some b =>
    if s.job.faultSc.isSome || !s.hasHold 8 .harvest || (b.joined.getLsbD 1 && (s.disablesAt b.at_).any fun f => !s.idleFunc f) then s
    else
      let s := (s.boundarySteps b).dropHold 8 .harvest
      if b.joined.getLsbD 4 && s.rcv.snap.isSome then s.beginSnapshot b
      else (s.dropHold 9 .snapshot).closeBoundary b

def execHarvestActionsComplete (s : State) : Host.Outcome State Fault Refusal := .next s.actionsComplete

end Sys2Proof.Machine
end

