-- ==== Sys2Proof/Machine/Permute.lean ====
section
/-! DEFINITION. The permute station (spec/06_vector_permute.md, R202 to R206): tile buffers, transposition, gather and
scatter, compaction, lane permutation, FP6 packing. -/

namespace Sys2Proof.Machine

/-- Native latencies of Table 6-12, B0 and C0, by entry. -/
def pxNative : List (Nat × Nat) := [(131, 130), (2, 2), (3, 3), (4, 3), (2, 2)]
/-- Latency of an entry of Table 6-12 in force. -/
def State.pxLat (s : State) (l e : Nat) : Nat :=
  let n := pxNative.getD e (0, 0)
  s.lat n.1 n.2 (((s.line l).px.pad0.extractLsb' (4 * e) 4).toNat)

/-- A PX.TR of some task has repeats outstanding on tile buffer `tb`. -/
def LineState.trOutstanding (L : LineState) (tb : Nat) : Bool :=
  (List.range 4).any fun t =>
    match (L.q .px t).outst with
    | some o => (match o.instr with | .pxTr _ w => w.fld 0 2 == tb | _ => false)
    | none => false

/-- Tile buffer `tb` is busy in sc `x` (R204). -/
def LineState.tbBusy (L : LineState) (tb x : Nat) : Bool :=
  L.trOutstanding tb || (match L.px.busyUntil.find tb with | some u => x ≤ u | none => false)

/-- A row of a tile buffer as read in sc `x`. -/
def LineState.tbRow (L : LineState) (tb row x : Nat) : BeatData := (L.px.tb.look (tb * 128 + row) default).at x

/-- Issue of a PX instruction that names tile buffer `tb`: PX_TBUF for a busy buffer, and for a read of an INVALID one
(R204, Table 6-13). -/
def State.namesTb (s : State) (k : Ctx) (tb : Nat) (reads : Bool) : State :=
  let L := s.line k.l
  if L.tbBusy tb k.x then s.faultK k .pxTbuf 1 0 tb
  else if reads && L.px.invalid.getLsbD tb then s.faultK k .pxTbuf 2 0 tb
  else s

/-- A row write at output sc `due`. A row past 127, to which a count of REP takes a PX.TLD, is none: nothing is written (R203; DESIGN CHOICE, log entry
102). A write under a prediction is noted (Table 6-13). -/
def State.tbWrite (s : State) (k : Ctx) (tb row due : Nat) (b : BeatData) : State :=
  if 127 < row then s
  else
    let s := s.emit k due (.tbRow tb row) (b.setWidth 4096)
    match (s.line k.l).unconf k.t k.x with
    | some t => s.updLine k.l fun L => { L with px.wrote := L.px.wrote.upd t 0 (· ||| ((1 : BitVec 3) <<< tb)) }
    | none => s

/-- All 128 rows are rewritten: the buffer is valid again (Table 6-13). -/
def State.tbValid (s : State) (k : Ctx) (tb : Nat) : State :=
  s.updLine k.l fun L => { L with px.invalid := L.px.invalid &&& ~~~((1 : BitVec 3) <<< tb) }

/-- An output beat at latency entry `e`. -/
def State.pxEmit (s : State) (k : Ctx) (e : Nat) (dst : BitVec 4) (b : BeatData) : State :=
  s.emit k (k.x + s.pxLat k.l e) (destOf dst 0) (b.setWidth 4096)

/-- A repeat of a PX instruction is counted (Table 6-15). -/
def State.pxCount (s : State) (k : Ctx) : State := s.countLine k.l .pxRep

/-- A beat from its elements of `w` bits. -/
def beatOf (w : Nat) (es : List Nat) : BeatData := BitVec.ofNat 1024 (packNat w es)

/-! ### PX.TR -/

/-- Output beat i of a transposition of 128 rows with elements of `esz` bytes (Table 6-11). -/
def trBeat (esz : Nat) (rows : List BeatData) (i : Nat) : BeatData :=
  let n := 128 / esz
  let w := 8 * esz
  beatOf w ((List.range n).map fun m => (rows.getD (i % esz * n + m) 0).toNat / 2 ^ (w * (i / esz)) % 2 ^ w)

def State.trBegin (w : FmtO) (s : State) (k : Ctx) (o : Outst) : State × Outst := (s.namesTb k (w.fld 0 2) false, o)

def State.trRep (w : FmtO) (s : State) (k : Ctx) (o : Outst) : State × Outst :=
  let tb := w.fld 0 2
  let s := s.pxCount k
  let (s, b) := s.takeBeat k w.src.toNat w.toff
  let s := s.tbWrite k tb k.j k.x b
  let rows := o.buf ++ [b]
  let u := k.x + s.pxLat k.l 0
  let s := s.updLine k.l fun L => { L with px.busyUntil := L.px.busyUntil.put tb u }
  if k.j = 127 then
    let out (s : State) (i : Nat) := s.emit k (u - 127 + i) (destOf w.dst 0) ((trBeat (2 ^ w.fld 2 2) rows i).setWidth 4096)
    (((List.range 128).foldl out s).tbValid k tb, { o with buf := [] })
  else (s, { o with buf := rows })

def execPxTr (q : Queue) (w : FmtO) (s : State) : Host.Outcome State Fault Refusal :=
  if (s.q .px q).repLatch.isSome then stuck else s.issueRep .px q (.pxTr q w) (State.trRep w) (State.trBegin w)

/-! ### Row loads, outputs, gather, scatter -/

def State.tldRep (w : FmtO) (s : State) (k : Ctx) (o : Outst) : State × Outst :=
  let tb := w.fld 0 2
  let s := s.pxCount k
  let (s, b) := s.takeBeat k w.src.toNat w.toff
  let s := s.tbWrite k tb (w.fld 2 7 + k.j) (k.x + s.pxLat k.l 1) b
  (if w.fld 2 7 = 0 && k.j = 127 then s.tbValid k tb else s, o)

def execPxTld (q : Queue) (w : FmtO) (s : State) : Host.Outcome State Fault Refusal :=
  s.issueRep .px q (.pxTld q w) (State.tldRep w) fun s k o => (s.namesTb k (w.fld 0 2) false, o)

/-- PX.TRD (R203). A repeat that a count of REP takes past row 127 outputs a free beat (DESIGN CHOICE, log entry 102). -/
def State.trdRep (w : FmtO) (s : State) (k : Ctx) (o : Outst) : State × Outst :=
  let row := w.fld 2 7 + k.j
  let s := s.pxCount k
  let (s, b) := if row ≤ 127 then (s, (s.line k.l).tbRow (w.fld 0 2) row k.x) else s.freeBeat
  (s.pxEmit k 2 w.dst b, o)

def execPxTrd (q : Queue) (w : FmtO) (s : State) : Host.Outcome State Fault Refusal :=
  s.issueRep .px q (.pxTrd q w) (State.trdRep w) fun s k o => (s.namesTb k (w.fld 0 2) true, o)

/-- The index of repeat j of a held index beat of INT16 lanes. -/
def indexOf (b : BeatData) (j : Nat) : Nat := (laneOf 16 b (j % 64)).toNat

def State.gathRep (w : FmtO) (s : State) (k : Ctx) (o : Outst) : State × Outst :=
  let s := s.pxCount k
  let (s, ix) := if k.j % 64 = 0 then s.takeBeat k w.src.toNat w.toff else (s, o.buf.headD 0)
  let o := { o with buf := [ix] }
  let n := indexOf ix k.j
  if n = 0xFFFF then (s.pxEmit k 2 w.dst 0, o)
  else if 127 < n then (s.faultK k .pxIndex 0 0 n, o)
  else (s.pxEmit k 2 w.dst ((s.line k.l).tbRow (w.fld 0 2) n k.x), o)

def execPxGath (q : Queue) (w : FmtO) (s : State) : Host.Outcome State Fault Refusal :=
  s.issueRep .px q (.pxGath q w) (State.gathRep w) fun s k o => (s.namesTb k (w.fld 0 2) true, o)

def State.scatRep (w : FmtO) (s : State) (k : Ctx) (o : Outst) : State × Outst :=
  let s := s.pxCount k
  let (s, b) := s.takeBeat k w.src.toNat w.toff
  let (s, ix) :=
    if k.j % 64 = 0 then s.takeBeat k (w.fld 2 4) (BitVec.ofNat 6 (w.fld 6 6)) else (s, o.buf.headD 0)
  let o := { o with buf := [ix] }
  let n := indexOf ix k.j
  if n = 0xFFFF then (s, o)
  else if 127 < n then (s.faultK k .pxIndex 0 0 n, o)
  else (s.tbWrite k (w.fld 0 2) n (k.x + s.pxLat k.l 1) b, o)

def execPxScat (q : Queue) (w : FmtO) (s : State) : Host.Outcome State Fault Refusal :=
  s.issueRep .px q (.pxScat q w) (State.scatRep w) fun s k o => (s.namesTb k (w.fld 0 2) false, o)

/-! ### Compaction and lane permutation -/

/-- The kept elements moved to the lowest places, the rest zero (Table 6-11). -/
def compact (esz : Nat) (mask b : BeatData) : BeatData :=
  let w := 8 * esz
  beatOf w (((List.range (128 / esz)).filter fun k => laneOf 8 mask k ≠ 0).map fun k => b.toNat / 2 ^ (w * k) % 2 ^ w)

/-- PX.CMPX (R202). With LANE = 0 the rows after the kept ones become zero in the sc in which the row of the last repeat would be written (DESIGN
CHOICE, log entry 101). -/
def State.cmpxRep (w : FmtO) (s : State) (k : Ctx) (o : Outst) : State × Outst :=
  let s := s.pxCount k
  let (s, b) := s.takeBeat k w.src.toNat w.toff
  let m2 := BitVec.ofNat 6 (w.fld 9 6)
  if w.fld 4 1 = 1 then
    let (s, mask) := s.takeBeat k (w.fld 5 4) m2
    (s.pxEmit k 4 w.dst (compact (2 ^ w.fld 2 2) mask b), o)
  else
    let tb := w.fld 0 2
    let (s, mask) := if k.j = 0 then s.takeBeat k (w.fld 5 4) m2 else (s, o.buf.headD 0)
    let kept := o.nums.headD 0
    let due := k.x + s.pxLat k.l 1
    -- the mask beat has no lane for a source row past 127 (log entry 66)
    let (s, lane) := if k.j ≤ 127 then (s, laneOf 8 mask k.j) else (s.freeBeat.1, laneOf 8 s.freeBeat.2 0)
    let keep := lane ≠ 0
    let s := if keep then (s.tbWrite k tb kept due b).countLine k.l .pxKept else s
    let kept := if keep then kept + 1 else kept
    let o := { o with buf := [mask], nums := [kept] }
    if k.j + 1 = o.total then
      let s := (List.range (128 - kept)).foldl (fun s i => s.tbWrite k tb (kept + i) due 0) s
      (s.updLine k.l fun L => L.writeSreg k.x k.t (w.fld 15 6) (k.x + s.pxLat k.l 3) (BitVec.ofNat 64 kept) true, o)
    else (s, o)

def execPxCmpx (q : Queue) (w : FmtO) (s : State) : Host.Outcome State Fault Refusal :=
  s.issueRep .px q (.pxCmpx q w) (State.cmpxRep w) fun s k o =>
    (if w.fld 4 1 = 1 then s else s.namesTb k (w.fld 0 2) false, o)

/-- Element k of the result is source element idx[k], or zero when idx[k] is n or more (Table 6-11). -/
def lanePerm (esz : Nat) (ix b : BeatData) : BeatData :=
  let n := 128 / esz
  let w := 8 * esz
  beatOf w ((List.range n).map fun k =>
    let i := (laneOf 8 ix k).toNat
    if i < n then b.toNat / 2 ^ (w * i) % 2 ^ w else 0)

def State.lpermRep (w : FmtO) (s : State) (k : Ctx) (o : Outst) : State × Outst :=
  let s := s.pxCount k
  let (s, b) := s.takeBeat k w.src.toNat w.toff
  let (s, ix) :=
    if k.j = 0 then s.takeBeat k (w.fld 4 4) (BitVec.ofNat 6 (w.fld 8 6)) else (s, o.buf.headD 0)
  (s.pxEmit k 4 w.dst (lanePerm (2 ^ w.fld 2 2) ix b), { o with buf := [ix] })

def execPxLperm (q : Queue) (w : FmtO) (s : State) : Host.Outcome State Fault Refusal :=
  s.issueRep .px q (.pxLperm q w) (State.lpermRep w)

/-! ### FP6 packing (R116) -/

/-- Packed beat `p` of a group from the container beats gathered so far. -/
def packedBeat (src : List BeatData) (p : Nat) : BeatData :=
  let es := src.flatMap fun b => (lanesOf 8 b 128).map (· % 64)
  BitVec.ofNat 1024 (packNat 6 es / 2 ^ (1024 * p))
/-- Container beat `c` of a group from the packed beats gathered so far. -/
def containerBeat (src : List BeatData) (c : Nat) : BeatData :=
  let all := packNat 1024 (src.map (·.toNat))
  beatOf 8 ((List.range 128).map fun e => all / 2 ^ (6 * (128 * c + e)) % 64)

def State.pk6Rep (w : FmtO) (s : State) (k : Ctx) (o : Outst) : State × Outst :=
  let t := k.j % 4
  let s := s.pxCount k
  let (s, b) := s.takeBeat k w.src.toNat w.toff
  let buf := (if t = 0 then [] else o.buf) ++ [b]
  (if t = 0 then s else s.pxEmit k 4 w.dst (packedBeat buf (t - 1)), { o with buf := buf })

def State.up6Rep (w : FmtO) (s : State) (k : Ctx) (o : Outst) : State × Outst :=
  let t := k.j % 4
  let s := s.pxCount k
  let (s, buf) :=
    if t = 3 then (s, o.buf)
    else
      let (s, b) := s.takeBeat k w.src.toNat w.toff
      (s, (if t = 0 then [] else o.buf) ++ [b])
  (s.pxEmit k 4 w.dst (containerBeat buf t), { o with buf := buf })

def execPxPk6 (q : Queue) (w : FmtO) (s : State) : Host.Outcome State Fault Refusal :=
  s.issueRep .px q (.pxPk6 q w) (State.pk6Rep w)

def execPxUp6 (q : Queue) (w : FmtO) (s : State) : Host.Outcome State Fault Refusal :=
  s.issueRep .px q (.pxUp6 q w) (State.up6Rep w)

/-! ### PX_OUTPUT (R204) -/

/-- The PX results of a line due in sc `x`, in issue order. -/
def State.pxOutputs (s : State) (l x : Nat) : State :=
  let (due, rest) := (s.line l).dueOuts .px x
  due.foldl (fun s o => s.land l o) (s.updLine l fun L => { L with outs := rest })

def execPxOutput (l : LineId) (s : State) : Host.Outcome State Fault Refusal :=
  .next (if s.live && !s.held then s.pxOutputs l s.sc else s)

end Sys2Proof.Machine
end

