-- ==== Sys2Proof/Machine/Repeat.lean ====
section
/-! DEFINITION. Later repeats of repeating instructions (R89): one command issues the next repeat of the instruction that a queue
has outstanding. -/

namespace Sys2Proof.Machine

/-- What one repeat of an instruction does; an instruction without repeats of its own does nothing more. -/
def repStep (i : Instr) : State → Ctx → Outst → State × Outst :=
  match i with
  | .mxLw _ w => State.lwRep w
  | .mxSwap _ _ => State.swapRep
  | .mxAnchor _ w => State.anchorRep w
  | .mxRdreg _ w => State.rdregRep w
  | .mxMm _ w => State.mmRepeat w
  | .mxAclr _ w => State.aclrRepeat w
  | .vxOp _ w => State.vxOpRep w
  | .vxFma _ w => State.fmaRep w
  | .vxSel _ w => State.selRep w
  | .vxFn _ w => State.vxFnRep w
  | .vxAccrd _ w => State.accrdRep w
  | .vxCvt _ w => State.cvtStep w
  | .vxDrop _ w => State.dropRep w
  | .vxRope _ w => State.ropeRep w
  | .vxRclr _ w => State.rclrRep w
  | .vxRacc _ w => State.raccRep w
  | .vxRrd _ w => State.rrdRep w
  | .vxRfld _ w => State.rfldRep w
  | .vxSumm _ w => State.summRep w
  | .vxF64s _ w => State.f64sRep w
  | .pxTr _ w => State.trRep w
  | .pxTld _ w => State.tldRep w
  | .pxTrd _ w => State.trdRep w
  | .pxGath _ w => State.gathRep w
  | .pxScat _ w => State.scatRep w
  | .pxCmpx _ w => State.cmpxRep w
  | .pxLperm _ w => State.lpermRep w
  | .pxPk6 _ w => State.pk6Rep w
  | .pxUp6 _ w => State.up6Rep w
  | .lsRd _ w => State.lsRdRep w
  | .lsWr _ w => State.lsWrRep w
  | .lsFill _ w => State.lsFillRep w
  | .lsCopy _ w => State.lsCopyRep w
  | .lsPgrp _ w => State.pgrpRep w
  | .ptGet _ w => State.ptGetRep w
  | .ptPut _ w => State.ptPutRep w
  | .ptSend _ w => State.ptSendRep w
  | .ptGmv _ w => State.ptGmvRep w
  | .ptFget _ w => State.ptFgetRep w
  | .ptFput _ w => State.ptFputRep w
  | _ => fun s _ o => (s, o)

/-- REPEAT_ISSUE: the next repeat of the queue's outstanding instruction issues when the queue may issue (R89); without one, or while it
may not, nothing happens. -/
def execRepeatIssue (st : Station) (q : Queue) (s : State) : Host.Outcome State Fault Refusal :=
  match (s.q st q).outst with
  | none => .next s
  | some o => if s.mayIssue st q o.instr o.done then .next (s.nextRep st q o (repStep o.instr)) else .next s

end Sys2Proof.Machine
end

