-- ==== Sys2Proof/Machine/Sha.lean ====
section
/-! DEFINITION. SHAKE256 with a 512-bit output (FIPS 202; R353, R447, R457). The state array is kept as five planes of five lanes; the
constants of ρ and ι are computed as the standard defines them. -/

namespace Sys2Proof.Machine

/-- The state array: plane y holds its lanes x = 0 to 4. -/
abbrev Planes := List (List W64)

/-- Lane (x, y), both taken mod 5. -/
def Planes.lane (a : Planes) (x y : Nat) : W64 := (a.getD (y % 5) []).getD (x % 5) 0
/-- The state array whose lane (x, y) is `f x y`. -/
def planesOf (f : Nat → Nat → W64) : Planes := (List.range 5).map fun y => (List.range 5).map fun x => f x y

/-- The register of the round constants after `t` shifts: x^8 + x^6 + x^5 + x^4 + 1, from 1. -/
def rcReg (t : Nat) : Nat :=
  match t with
  | 0 => 1
  | k + 1 => let d := 2 * rcReg k; if 256 ≤ d then (d - 256) ^^^ 0x71 else d
/-- The constant of round `r`: bit 2^j - 1 is the register's low bit after j + 7r shifts. -/
def iotaWord (r : Nat) : W64 :=
  BitVec.ofNat 64 ((List.range 7).foldl (fun v j => v + rcReg (j + 7 * r) % 2 * 2 ^ (2 ^ j - 1)) 0)

/-- The places and rotations of ρ: the walk (x, y) → (y, 2x + 3y) from (1, 0), rotation (t + 1)(t + 2)/2 at its step t. -/
def rhoWalk (n t x y : Nat) : Tbl Nat :=
  match n with
  | 0 => []
  | k + 1 => (5 * y + x, (t + 1) * (t + 2) / 2 % 64) :: rhoWalk k (t + 1) y ((2 * x + 3 * y) % 5)
def rhoTable : Tbl Nat := rhoWalk 24 0 1 0

/-- θ: each lane takes the parities of two neighbouring columns. -/
def Planes.theta (a : Planes) : Planes :=
  let par := (List.range 5).map fun x => (List.range 5).foldl (fun v y => v ^^^ a.lane x y) 0
  planesOf fun x y => a.lane x y ^^^ par.getD ((x + 4) % 5) 0 ^^^ (par.getD ((x + 1) % 5) 0).rotateLeft 1
/-- ρ, then π: lane (x, y) comes from (x + 3y, x). -/
def Planes.rhoPi (a : Planes) : Planes :=
  planesOf fun x y => (a.lane (x + 3 * y) x).rotateLeft (rhoTable.look (5 * x + (x + 3 * y) % 5) 0)
/-- χ, then ι of round `r`. -/
def Planes.chiIota (a : Planes) (r : Nat) : Planes :=
  planesOf fun x y =>
    (a.lane x y ^^^ (a.lane (x + 2) y &&& ~~~a.lane (x + 1) y)) ^^^ (if x + y = 0 then iotaWord r else 0)

def Planes.permute (a : Planes) : Planes := (List.range 24).foldl (fun a r => (a.theta.rhoPi).chiIota r) a

/-- The `n` blocks of 136 bytes from the front of the string. -/
def rateBlocks (n : Nat) (bs : List Byte) : List (List Byte) :=
  match n with
  | 0 => []
  | k + 1 => bs.take 136 :: rateBlocks k (bs.drop 136)
/-- A block added to the 17 lanes of the rate, and the permutation. -/
def Planes.take (a : Planes) (block : List Byte) : Planes :=
  let lane (i : Nat) : W64 := BitVec.ofNat 64 (leNat ((block.drop (8 * i)).take 8))
  (planesOf fun x y => a.lane x y ^^^ (if 5 * y + x < 17 then lane (5 * y + x) else 0)).permute

/-- The zeros after the first padding byte; the last byte of the last block has bit 7 set. -/
def padBytes (len : Nat) : List Byte := leBytes (136 - len % 136) (0x1F + 2 ^ (8 * (136 - len % 136) - 1))

/-- SHAKE256-512 of a byte string; byte 0 is the least significant byte of the result. -/
def shake512 (bs : List Byte) : BitVec 512 :=
  let blocks := rateBlocks (bs.length / 136 + 1) (bs ++ padBytes bs.length)
  let a := blocks.foldl Planes.take (planesOf fun _ _ => 0)
  BitVec.ofNat 512 (ofLanes 64 (a.flatten.take 8))

end Sys2Proof.Machine
end

