-- ==== Sys2Proof/Machine/Snapshot.lean ====
section
/-! DEFINITION. Snapshots: slots and commit records (R442, R447), phases (R444, R445), replication (R448), the slot scan (R449), pulls
(R451). -/

namespace Sys2Proof.Machine

/-- The captured state that the bytes of a capture area hold: the manual gives the records no layout (R445), so what a pulled replica
holds is open (log entry 14). -/
opaque Config.captured : List Byte → Captured

/-! ### Slots and commit records (R442, R447) -/

def mib : Nat := 2 ^ 20
/-- Length of the capture area: 512 line records of 2 MiB, eight base-die records of 16 MiB. -/
def captureLen : Nat := 1152 * mib

/-- Base of slot A, slot B, buddy slot 0 and buddy slot 1. -/
def RecoverState.base (r : RecoverState) (k : Nat) : Nat :=
  (match k with | 0 => r.slotA | 1 => r.slotB | 2 => r.bslot0 | _ => r.bslot1).toNat

/-- The regions of the snapshot map, in index order (R443). -/
def State.mapRegions (s : State) : List Region :=
  match s.job.img with
  | some i => i.regions.filter fun g => (g.kind = 2 || g.kind = 3 || g.kind = 4) && g.w
  | none => []

/-- Each region of the map with its offset in the content: at the next 4 KiB boundary. -/
def placeRegions (o : Nat) (l : List Region) : List (Region × Nat) :=
  match l with
  | [] => []
  | g :: r =>
    let a := (o + 4095) / 4096 * 4096
    (g, a) :: placeRegions (a + g.size) r

/-- Content length: the capture area and the placed regions. -/
def State.contentLen (s : State) : Nat :=
  match (placeRegions captureLen s.mapRegions).getLast? with
  | some (g, o) => o + g.size
  | none => captureLen

/-- The parts of a slot's content, each with its offset: the capture area, then the regions of the map (R447). -/
def State.contentParts (s : State) : List (Region × Nat) :=
  ({ (default : Region) with kind := 3, base := s.rcv.cap.toNat, size := captureLen }, 0) :: placeRegions captureLen s.mapRegions

/-- The content that the parts form from offset `o` on, with zeros between them (R447). -/
def State.partBytes (s : State) (o : Nat) (l : List (Region × Nat)) : List Byte :=
  match l with
  | [] => []
  | (g, a) :: r => List.replicate (a - o) 0 ++ (s.readLocal g.base g.size ++ s.partBytes (a + g.size) r)

/-- Where the content has its byte `pos` from; none in the fill between two parts. -/
def State.contentAt (s : State) (pos : Nat) : Option Nat :=
  (s.contentParts.find? fun e => e.2 ≤ pos && pos < e.2 + e.1.size).map fun e => e.1.base + (pos - e.2)

/-- A commit record but for its digest (Table 14-7). -/
def commitBody (st slot : Nat) (coord : BitVec 15) (seq sc : Nat) (image : BitVec 512) (len htc : Nat)
    (content reloc : BitVec 512) : List Byte :=
  [0x41, 0x57, 0x53, 0x4E, 0x41, 0x50, 0x43, 0x52] ++ leBytes 2 1 ++ leBytes 1 st ++ leBytes 1 slot ++ leBytes 2 coord.toNat ++
  leBytes 2 0 ++ leBytes 4 seq ++ leBytes 4 0 ++ leBytes 8 sc ++ leBytes 64 image.toNat ++ leBytes 8 len ++ leBytes 8 htc ++
  leBytes 64 content.toNat ++ leBytes 64 reloc.toNat ++ List.replicate 3792 0
/-- A record with its digest. -/
def sealRecord (body : List Byte) : List Byte := body ++ leBytes 64 (shake512 body).toNat

/-- STATE of a commit record (R447): 2 COMMITTED, 1 INCOMPLETE, 0 empty. -/
def recState (r : List Byte) : Nat :=
  let st := (r.getD 10 0).toNat
  if (st = 1 || st = 2) && leNat ((r.drop 4032).take 64) = (shake512 (r.take 4032)).toNat then st else 0
/-- A field of a record. -/
def recField (r : List Byte) (o n : Nat) : Nat := leNat ((r.drop o).take n)
/-- The record with another STATE. -/
def recWith (r : List Byte) (st : Nat) : List Byte := sealRecord (((r.take 4032).set 10 (BitVec.ofNat 8 st)))

/-- The commit record of slot `k`, when slots are configured. -/
def State.slotRecord (s : State) (k : Nat) : List Byte :=
  if s.rcv.slotsz = 0 then [] else s.readLocal (s.rcv.base k) 4096

/-- The content digest of a slot: over LENGTH bytes from byte 4,096. -/
def State.contentDigest (s : State) (k len : Nat) : BitVec 512 := shake512 (s.readLocal (s.rcv.base k + 4096) len)

/-! ### The slot scan (R449) -/

/-- VALID, INC and LATEST from the commit records; an INCOMPLETE slot sets RCV_ALERT.SNAP_INC. -/
def State.slotScan (s : State) : State :=
  let s := if s.rcv.slotsz = 0 then s else (List.range 4).foldl (fun s k => s.grRead (s.rcv.base k) 4096) s
  let st (k : Nat) : Nat := recState (s.slotRecord k)
  let sc (k : Nat) : Nat := recField (s.slotRecord k) 24 8
  let latest := if st 0 = 2 && st 1 = 2 then (if sc 0 < sc 1 then 2 else 1) else if st 0 = 2 then 1 else if st 1 = 2 then 2 else 0
  let seq := if latest = 0 then 0 else recField (s.slotRecord (latest - 1)) 16 4
  let s := { s with rcv.scan := SlotScan.mk (st 0) (st 1) (st 2) (st 3) latest seq }
  if st 0 = 1 || st 1 = 1 || st 2 = 1 || st 3 = 1 then s.setAlert 7 else s

/-- The population has been checked and every channel of it is ready (Table 14-1, step 9). -/
def State.scanReady (s : State) : Bool := s.gr.dimms ≠ [] && s.gr.pop.all fun n => s.mod.chReady.getLsbD n
/-- SLOT_SCAN of bring-up: step 9 begins once every fitted channel is ready. -/
def execSlotScan (s : State) : Host.Outcome State Fault Refusal := .next (if s.scanReady then s.slotScan else s)

/-! ### Phases (R444, R445, Table 14-6) -/

/-- The job's state at the boundary (R445). -/
def State.captureNow (s : State) (sc : Nat) : Captured :=
  let c := s.time.cnt
  { sc := sc, lines := s.lines, flags := s.flags, words := s.words, nacks := s.nacks, uses := s.uses, cross := s.cross
    elb := s.elb, gr := s.gr, fab := s.fab
    lsMem := s.mem.filter fun m => 0x18100000000 ≤ m.1 && m.1 < 0x18110000000
    ndc := c.ndc, ndcY := c.ndcY, ndcE := c.ndcE, ndcD := c.ndcD, ndcC := c.ndcC, seq := s.hrv.seq }

/-- The pages of a granary range are undefined: page `p` of the granary lies on socket `p mod N` of its population, at page `p div N`
(R301). -/
def State.undefineGranary (s : State) (a n : Nat) : State :=
  let N := s.gr.pop.length
  let first := (a - 0x20000000000) / 4096
  let last := first + n / 4096
  if N = 0 then s
  else s.gr.pop.zipIdx.foldl (fun s e =>
    let p := first + (e.2 + N - first % N) % N
    s.undefine (grPhys e.1 (p / N * 4096)) ((last - p + N - 1) / N * 4096)) s

/-- The bytes of the capture area from `pos` on, whose layout the manual does not give, are undefined: one page of each slice for each MiB
(R293, R442). -/
def State.undefineCapture (s : State) (pos : Nat) : State :=
  let a := s.rcv.cap.toNat
  let k := pos / mib * 4096
  let p := pos % mib / 4096
  (List.range 256).foldl (fun s sl =>
    let o := if sl < p then k + 4096 else if sl = p then k + pos % 4096 else k
    s.undefine (ntPhys sl (a / 2 ^ 36 * 2 ^ 28 + a % 2 ^ 36 / mib * 4096 + o)) (captureLen / 256 - o)) s

/-- The content of slot `k` is cut short: the manual says of it only that the slot is INCOMPLETE (Table 14-9). -/
def State.cutSlot (s : State) (k : Nat) : State := s.undefineGranary (s.rcv.base k + 4096) (s.rcv.slotsz * mib - 4096)

/-- A snapshot in progress is interrupted (R450): the capture area in the capture phase, the slot's content in the write phase. -/
def State.cutSnapshot (s : State) : State :=
  match s.rcv.snap with
  | some j => if j.phase = 1 then s.undefineCapture j.pos else if j.phase = 2 then s.cutSlot j.wslot else s
  | none => s

/-- The record of the running part. -/
def State.partRecord (s : State) (j : SnapJob) (st htc : Nat) (content : BitVec 512) : List Byte :=
  match s.job.img with
  | some i => sealRecord (commitBody st j.wslot s.coord s.hrv.seq j.sc i.digest s.contentLen htc content i.reloc)
  | none => []

/-- What the bytes of the capture area hold, kept by their digest (log entry 14). -/
def State.keepCapture (s : State) (bytes : List Byte) (c : Captured) : State :=
  let d := shake512 bytes
  { s with rcv.caps := (s.rcv.caps.filter fun e : BitVec 512 × Captured => e.1 ≠ d) ++ [(d, c)] }

/-- Bytes written to the granary through its channels, which count them (Table 9-9). -/
def State.grWrite (s : State) (a : Nat) (bs : List Byte) : State := (s.writeLocal a bs).countBytes a bs.length

/-- Every move that entered by sc h + 8 has completed (R445). -/
def State.movesDone (s : State) : Bool := s.gr.queue.all fun m => m.ended
/-- No port resends or still delays a scheduled packet, and no hold waits for one: what the module itself knows of packets that are not yet in
their lead buffer (R445; log entry 88). -/
def State.packetsHere (s : State) : Bool :=
  ((List.range 12).all fun p => !(s.port p).replaying && (s.port p).delay.all fun e => e.2.typ ≠ 1) &&
  s.time.reqs.all fun r => r.cause ≠ 2 && r.cause ≠ 4

/-- Rows with a marked word in the `n` bytes from physical address `p`. -/
def State.markedRows (s : State) (p n : Nat) : List Nat :=
  ((s.marks.filter fun m => p ≤ m.1 && m.1 < p + n).map fun m => m.1 / 128 * 128).eraseDups

/-- The capture reads the local stores: a corrected word is counted and queued for its write-back, an uncorrectable one is LS_UE (R268, R269). -/
def State.captureReads (s : State) : State :=
  (s.markedRows 0x18100000000 0x10000000).foldl (fun s r =>
    let l := (r - 0x18100000000) / 0x80000
    let s := s.lsErrors l ((r - 0x18100000000) % 0x80000) 0
    match s.badWord r with
    | some w => s.faultAt s.nextSc .lsUe 0 UnitRef.engine UnitRef.none (w - lsPhys l 0)
    | none => s) s

/-- The copy of `n` bytes at local address `a` to a slot reads their rows: those of a bay buffer under R268 and R269, those of the near tier
under R296 and R297. -/
def State.copyReads (s : State) (a n : Nat) : State :=
  if a < 0x18000000000 then
    (s.markedRows 0 0x18000000000).foldl (fun s r =>
      let sl := r / 0x180000000
      let x := ntUnmap s.zone sl (r % 0x180000000)
      if a ≤ x && x < a + n then
        s.ntRow sl x r 0 fun s y => s.faultAt s.nextSc .ntUe (sl / 8) UnitRef.engine UnitRef.none y
      else s) s
  else if a < 0x18020000000 then
    (s.markedRows a n).foldl (fun s r =>
      let b := (r - 0x18000000000) / 0x4000000
      let s := s.bbErrors b ((r - 0x18000000000) % 0x4000000) 0
      match s.badWord r with
      | some w => s.faultAt s.nextSc .bbUe 0 UnitRef.engine UnitRef.none w
      | none => s) s
  else s

/-- Rows below row `r` of 8,192 that interleave over the 256 slices, of which each bay has 32 (R293). -/
def bayRows (b r : Nat) : Nat := r / 8192 * 1024 + min 1024 (r % 8192 - 1024 * b)
/-- Rows of the near-tier range of `n` bytes at `a` that lie in the slices of bay `b`. -/
def State.nearRows (s : State) (a n b : Nat) : Nat :=
  let z := a / 2 ^ 36
  let o := a % 2 ^ 36
  if s.zone.getLsbD z then (min (o + n) ((b + 1) * 2 ^ 33) - max o (b * 2 ^ 33)) / 128
  else bayRows b ((o + n) / 128) - bayRows b (o / 128)
/-- The rows of a near-tier range are accesses in granary and free slots (R290, Table 9-8, NT_CNT_FREE). -/
def State.countNear (s : State) (a n : Nat) : State :=
  (List.range 8).foldl (fun s b => let r := s.nearRows a n b; if r = 0 then s else s.countBay b .ntFree r) s

/-- The rows of a bay-buffer range count at their bay as reads (Table 8-8). -/
def State.countBuffers (s : State) (a n : Nat) : State :=
  (List.range 8).foldl (fun s b =>
    let lo := 0x18000000000 + b * 0x4000000
    let r := (min (a + n) (lo + 0x4000000) - max a lo) / 128
    if r = 0 then s else s.countBay b .bbRd r) s

/-- The next row that the snapshot in progress moves, when it lies in the near tier: of the capture area in the capture phase, of the content in the
write phase (Table 14-6). -/
def State.snapNear (s : State) : Option Nat :=
  match s.rcv.snap with
  | some j =>
    if j.phase = 1 && j.pos < captureLen then some (s.rcv.cap.toNat + j.pos)
    else if j.phase = 2 then (s.contentAt j.pos).filter fun a => a < 0x18000000000
    else none
  | none => none

/-- An uncorrectable burst in a granary region of the map, met by the copy into the slot whose content begins at `base`: it is counted, and its bytes
of the slot are undefined (R301). -/
def State.slotBad (s : State) (base a : Nat) : State :=
  match s.contentParts.find? fun e => e.1.kind = 4 && e.1.base ≤ a && a < e.1.base + e.1.size with
  | some e => (s.burstFound a true 0).undefineLocal (base + e.2 + (a - e.1.base)) 64
  | none => s

/-- The snapshot in progress moves its next row: a row of the records to the capture area, or a row of the content to the slot. -/
def State.snapRow (s : State) : State :=
  match s.rcv.snap with
  | some j =>
    if j.phase = 1 then { (s.undefineLocal (s.rcv.cap.toNat + j.pos) 128) with rcv.snap := some { j with pos := j.pos + 128 } }
    else
      let bytes := match s.contentAt j.pos with | some a => s.readLocal a 128 | none => List.replicate 128 0
      let base := s.rcv.base j.wslot + 4096
      let old := match s.contentAt j.pos with | some a => s.badBursts a 128 | none => []
      let s := match s.contentAt j.pos with | some a => ((s.copyReads a 128).countBytes a 128).countBuffer a false | none => s
      let s := old.foldl (fun s a => s.slotBad base a) (s.grWrite (base + j.pos) bytes)
      { s with
        rcv.snap := some { j with pos := j.pos + 128 }, rcv.prog := (j.pos + 128) / mib }
  | none => s

/-- A committed free slot of the snapshot: its next row, when it lies in the slice; `found` is what a read of it finds (R290, R297). -/
def State.snapSlotRow (s : State) (sl : Nat) (found : EccFinding) : Option State :=
  match s.snapNear with
  | some a =>
    if (ntMap s.zone a).1 = sl && s.job.faultSc.isNone then
      let s := match s.phys a, s.rcv.snap.any fun j => j.phase = 2 with | some p, true => s.lay p found | _, _ => s
      some s.snapRow
    else none
  | none => none

/-- A row of the content that is not of the near tier, or of the fill between two parts, needs no slot of a slice: one moves in a cc (log entry
74). -/
def State.snapCc (s : State) : State :=
  if (s.rcv.snap.any fun j => j.phase = 2 && j.pos < s.contentLen) && s.snapNear.isNone && s.job.faultSc.isNone then s.snapRow else s

/-- The capture phase ends, once its two waits are over; `here` says that every scheduled packet sent by sc h + 8 and used later at an end in this
module is in its lead buffer, which no state of this module alone shows (R445, log entry 88). The records are written, and the slot's record INCOMPLETE. A fault leaves it undone (R66). -/
def State.captureDone (s : State) (here : Bool) : State :=
  match s.rcv.snap with
  | some j =>
    if j.phase = 1 && s.movesDone && here && s.packetsHere && s.job.faultSc.isNone then
      let s := s.captureReads
      if s.job.faultSc.isSome then s else
      let s := (s.undefineCapture j.pos).countNear (s.rcv.cap.toNat + j.pos) (captureLen - j.pos)
      let s := s.keepCapture (s.readLocal s.rcv.cap.toNat captureLen) (s.captureNow j.sc)
      let s := s.grWrite (s.rcv.base j.wslot) (s.partRecord j 1 0 0)
      ({ s with rcv.snap := some { j with phase := 2, pos := 0 }, rcv.prog := 0 } : State).slotScan
    else s
  | none => s

def execSnapshotCaptureDone (s : State) (here : Bool := true) : Host.Outcome State Fault Refusal := .next (s.captureDone here)

/-- What is left of a part of the content from offset `pos` on: its address and length. -/
def partRest (pos : Nat) (e : Region × Nat) : Nat × Nat :=
  let o := max pos e.2 - e.2
  (e.1.base + o, e.1.size - o)

/-- A burst with an error in a granary region of the map, found by the copy and not known before (R301). -/
def State.slotBurst (s : State) (base : Nat) (f : BitVec 42 × Bool) : State :=
  let a := f.1.toNat / 64 * 64
  if (s.contentParts.any fun e => e.1.kind = 4 && e.1.base ≤ a && a < e.1.base + e.1.size) && !s.burstBad a then
    if f.2 then (s.burstMark a).slotBad base a else s.burstFound a false 0
  else s

/-- The write phase ends: the capture area and the map regions are in the slot; `found` is what the symbol code has met in granary regions. -/
def State.writeDone (s : State) (found : List (BitVec 42 × Bool)) : State :=
  match s.rcv.snap with
  | some j =>
    if j.phase = 2 && s.job.faultSc.isNone then
      let rest := s.contentParts.map (partRest j.pos)
      let s := rest.foldl (fun s e => s.copyReads e.1 e.2) s
      if s.job.faultSc.isSome then s else
      let base := s.rcv.base j.wslot + 4096
      let s := rest.foldl (fun s e => if e.1 < 0x18000000000 then s.countNear e.1 e.2 else (s.countBytes e.1 e.2).countBuffers e.1 e.2) s
      let old := rest.flatMap fun e => s.badBursts e.1 e.2
      let s := s.grWrite (base + j.pos) ((s.partBytes 0 s.contentParts).drop j.pos)
      let s := old.foldl (fun s a => s.slotBad base a) s
      let s := found.foldl (fun s f => s.slotBurst base f) s
      ({ s with rcv.snap := some { j with phase := 3 }, rcv.prog := s.contentLen / mib } : State).slotScan
    else s
  | none => s

def execSnapshotWriteDone (s : State) (found : List (BitVec 42 × Bool) := []) : Host.Outcome State Fault Refusal := .next (s.writeDone found)

/-- The replication of a slot to the buddy begins (R448). -/
def State.replicate (s : State) (b : BitVec 15) (slot : Nat) : State :=
  { s with rcv.repl := some b, rcv.prog := 0, rcv.sends := s.rcv.sends ++ [⟨b, slot, none, 0, s.fab.nextTag⟩]
           fab.nextTag := (s.fab.nextTag + 1) % 2 ^ 32 }

/-- The commit phase ends: the record is COMMITTED and read back, SNAPSHOT is withdrawn, the SNAPSHOT record completes, and with BUDDY the
replication of the slot begins with its first message (R444, R448). -/
def State.commitDone (s : State) : State :=
  match s.rcv.snap with
  | some j =>
    if j.phase = 3 && s.job.faultSc.isNone then
      let content := s.contentDigest j.wslot s.contentLen
      let s := (s.grWrite (s.rcv.base j.wslot) (s.partRecord j 2 s.fab.htc content)).grRead (s.rcv.base j.wslot) 4096
      let s := ({ s with rcv.snap := s.rcv.snapNext, rcv.snapNext := none, rcv.repl := none, rcv.replDone := false
                         rcv.sends := s.rcv.sends.filter fun z => 2 ≤ z.slot } : State).slotScan
      let s := s.dropHold 9 .snapshot
      let s := match s.host.snapRec with
        | some (p, q) => { (s.complete p q 0 0 j.sc) with host.snapRec := none }
        | none => s
      let s := { s with host.snapRec := s.host.snapNext, host.snapNext := none }
      let s := match j.buddy with
        | some b => (s.message b (.manage 0 j.wslot)).replicate b j.wslot
        | none => s
      match s.openBoundary with
      | some b => s.closeBoundary b
      | none => s
    else s
  | none => s

def execSnapshotCommitDone (s : State) : Host.Outcome State Fault Refusal := .next s.commitDone

/-! ### Replication (R448) -/

/-- Bytes of content that the record of slot `k` says. -/
def State.slotLen (s : State) (k : Nat) : Nat := recField (s.slotRecord k) 96 8

/-- The next packet of a slot that is sent to the base which its destination has named: 256 bytes of its content, and after them the message
with the commit record (R341, R448; log entry 29). One packet at a time waits to enter the fabric. -/
def State.sendSlot (s : State) (z : SlotSend) : State :=
  match z.base with
  | none => s
  | some b =>
    if s.fab.outq.any fun d => d.tag == z.tag then s
    else if z.pos < s.slotLen z.slot then
      let a := b + 4096 + z.pos
      let last := s.slotLen z.slot ≤ z.pos + 256
      let from_ := s.rcv.base z.slot + 4096 + z.pos
      let s := s.grRead from_ 256
      let pkt : Packet :=
        ⟨mkHeader 2 1 0 none last 0 s.coord z.dst 0 a z.tag, BitVec.ofNat 2048 (leNat (s.readLocal from_ 256))⟩
      { s with
        fab.outq := s.fab.outq ++ [⟨0, z.tag, z.dst, pkt⟩]
        rcv.sends := s.rcv.sends.replace z { z with pos := z.pos + 256 }
        rcv.prog := if z.slot < 2 then (z.pos + 256) / mib else s.rcv.prog }
    else { (s.message z.dst (.manage 4 z.slot)) with rcv.sends := s.rcv.sends.erase z }
def State.sendSlots (s : State) : State := if s.rcv.sends = [] then s else (s.rcv.sends.foldl State.sendSlot s).injectDue

/-- The origin's replication is over; the slots are scanned (R448, R449). -/
def State.replicationEnds (s : State) (ok : Bool) : State :=
  let s := { s with rcv.repl := none, rcv.sends := s.rcv.sends.filter fun z => 2 ≤ z.slot }
  (if ok then { s with rcv.replDone := true } else ({ s with rcv.buddyFail := true } : State).setAlert 8).slotScan

/-- The buddy reports the replica valid. -/
def State.replicationDone (s : State) : State := if s.rcv.repl.isSome then s.replicationEnds true else s

def execReplicationDone (s : State) : Host.Outcome State Fault Refusal := .next s.replicationDone

/-- A replication fails: BUDDY_FAIL and RCV_ALERT.BUDDY. -/
def State.replicationFails (s : State) : State := if s.rcv.repl.isSome then s.replicationEnds false else s

def execReplicationTimeout (s : State) : Host.Outcome State Fault Refusal := .next s.replicationFails

/-- The buddy slot that does not hold the latest COMMITTED replica, judged by SC. -/
def State.buddySlot (s : State) : Nat :=
  let st (k : Nat) : Bool := recState (s.slotRecord k) == 2
  let sc (k : Nat) : Nat := recField (s.slotRecord k) 24 8
  if st 2 && st 3 then (if sc 2 < sc 3 then 2 else 3) else if st 2 then 3 else 2

/-- The first message of a replication: the chosen buddy slot becomes INCOMPLETE, and the origin learns its base (log entry 29). -/
def State.replBegin (s : State) (src : BitVec 15) (r : List Byte) : State :=
  if s.rcv.slotsz = 0 then s
  else
    let k := s.buddySlot
    (({ (s.grWrite (s.rcv.base k) (recWith r 1)) with rcv.inRepl := some (src, k) } : State).slotScan).message src
      (.manage 3 (s.rcv.base k / mib))

/-- The buddy has named the base of its slot. -/
def State.replPlace (s : State) (src : BitVec 15) (base : Nat) : State :=
  let one (z : SlotSend) : SlotSend := if z.dst = src && z.slot < 2 && z.base.isNone then { z with base := some base } else z
  if s.rcv.repl = some src then { s with rcv.sends := s.rcv.sends.map one } else s

/-- Another module pulls a buddy slot of this one to a base of its own: the answer carries the commit record, and the content of a COMMITTED
replica of that module's coordinate follows (R451; log entry 29). -/
def State.serveSlot (s : State) (src : BitVec 15) (k base : Nat) : State :=
  let s := s.message src (.manage 6 k)
  if recState (s.slotRecord k) = 2 && recField (s.slotRecord k) 12 2 = src.toNat then
    { s with rcv.sends := s.rcv.sends ++ [⟨src, k, some base, 0, s.fab.nextTag⟩], fab.nextTag := (s.fab.nextTag + 1) % 2 ^ 32 }
  else s

/-- The last message: the commit record is written and both digests checked; the buddy reports. -/
def State.replEnd (s : State) (src : BitVec 15) (r : List Byte) : State :=
  match s.rcv.inRepl with
  | some (o, k) =>
    if o ≠ src then s
    else
      let s := { s with rcv.inRepl := none }
      let s := s.grWrite (s.rcv.base k) r
      let s := s.grRead (s.rcv.base k) (4096 + recField r 96 8)
      let ok := recState r = 2 && (s.contentDigest k (recField r 96 8)).toNat = recField r 112 64
      let s := if ok then s else s.grWrite (s.rcv.base k) (recWith r 1)
      (s.slotScan).message src (.manage (if ok then 1 else 2) k)
  | none => s

/-- A management message (R343, R448). -/
def State.manage (s : State) (src : BitVec 15) (m : ReplMsg) : State :=
  match m with
  | .first r => s.replBegin src r
  | .last r => s.replEnd src r
  | .place b => s.replPlace src (b.toNat * mib)
  | .ask k b => s.serveSlot src (2 + k.toNat) (b.toNat * mib)
  | .failed => if s.rcv.repl = some src then s.replicationFails else s

def execManagementMessage (src : BitVec 15) (m : ReplMsg) (s : State) : Host.Outcome State Fault Refusal := .next (s.manage src m)

/-! ### Pulls (R451) -/

/-- A snapshot phase, a replication or a pull is in progress, a replica that comes in among them. -/
def State.slotsBusy (s : State) : Bool :=
  (match s.rcv.snap with | some j => j.phase != 0 | none => false) || s.rcv.repl.isSome || s.rcv.inRepl.isSome || s.rcv.pullAct

/-- The local slot that RCV_PULL names. -/
def State.pullSlot (s : State) : Nat := if s.rcv.pull.getLsbD 15 then 1 else 0

/-- RCV_CMD.PULL: the module at RCV_PULL.COORD is asked for its buddy slot BSLOT; `record` is the commit record there. A replica that is not
COMMITTED or is of another coordinate is refused with PULL_FAIL, and nothing is asked for. -/
def State.pull (s : State) (r : List Byte) : State :=
  let k := s.pullSlot
  let bslot := if s.rcv.pull.getLsbD 16 then 1 else 0
  if recState r = 2 && recField r 12 2 = s.coord.toNat then
    let s := s.message (s.rcv.pull.extractLsb' 0 15) (.manage 5 (bslot + 2 * (s.rcv.base k / mib)))
    let s := s.grWrite (s.rcv.base k) (recWith r 1)
    { s with rcv.pullAct := true, rcv.pullTo := k, rcv.pullGot := 0, rcv.pullDone := false, rcv.pullFail := false, rcv.prog := 0 }
  else { s with rcv.pullDone := false, rcv.pullFail := true }

/-- The copy is written and checked; the packets that have brought some of it have counted it (R309). -/
def State.pullComplete (s : State) (r content : List Byte) : State :=
  if !s.rcv.pullAct then s
  else
    let k := s.rcv.pullTo
    let base := s.rcv.base k + 4096
    let s := (s.writeLocal base content).countBytes (base + s.rcv.pullGot) (content.length - s.rcv.pullGot)
    let s := { s with rcv.pullAct := false, rcv.prog := content.length / mib }
    let ok := recState r = 2 && recField r 12 2 = s.coord.toNat && recField r 96 8 = content.length &&
      recField r 112 64 = (shake512 content).toNat
    let s := if ok then s.grWrite (s.rcv.base k) (recWith r 2) else s
    ({ s with rcv.pullDone := ok, rcv.pullFail := !ok } : State).slotScan

def execPullComplete (record content : List Byte) (s : State) : Host.Outcome State Fault Refusal :=
  .next (s.pullComplete record content)

end Sys2Proof.Machine
end

