-- ==== Sys2Proof/Machine/Job.lean ====
section
/-! DEFINITION. The life of a job: its end (R365, R366, R475), job reset and clearing (R280, R299, R435), START, KILL, HARVEST and SNAPSHOT
records (R394). -/

namespace Sys2Proof.Machine

/-! ### The end of a job -/

/-- A record held by the job completes with ABORTED. -/
def State.abortRec (s : State) (r : Option RecRef) : State :=
  match r with
  | some (p, q) => s.complete p q 7 0 0
  | none => s

/-- Causes whose requests are withdrawn at the end of a job (R475). -/
def endCauses : List Nat := [2, 3, 4, 5, 8, 9]

/-- The job stops running (R38, R72, R475): requests raised for it are withdrawn, boundaries on their way are dropped, a snapshot in progress
ends, its record with ABORTED; requests of steps not performed stay in HRV_PEND. -/
def State.stopJob (s : State) : State :=
  let s := s.cutSnapshot
  let s := { s with
    time := { s.time with running := false, reqs := s.time.reqs.filter fun r => !endCauses.contains r.cause }
    hrv := { s.hrv with armed := false, armedWas := false, bounds := [], active := false }
    rcv.snap := match s.rcv.snap with | some j => if j.phase = 0 then some j else s.rcv.snapNext | none => none
    rcv.snapNext := none }
  { ((s.abortRec s.host.snapRec).abortRec s.host.snapNext) with host.snapRec := none, host.snapNext := none }

/-- DBG_FLT_STATUS (Table 11-12). -/
def State.fltStatus (s : State) : Nat := s.job.faults.length + 32 * (if s.job.faultSc.isSome && !s.time.running then 1 else 0)

/-- A background transfer that writes. -/
def Background.writes (b : Background) : Bool := match b.instr with | .ptBput _ _ => true | .ptNput _ _ => true | _ => false
/-- A timed access that writes, itself or by the write that follows it. -/
def MemUse.writes (u : MemUse) : Bool := u.write || (match u.kind with | .copyTo _ => true | _ => false)

/-- Every condition of R365 holds: every queue has issued END, every write has completed, the move queue is empty, no packet waits. -/
def State.partDone (s : State) : Bool :=
  s.live &&
  (s.lines.all fun e => !e.2.hasLine ||
    ((e.2.queues.all fun q => !q.2.enabled || q.2.ended) && (e.2.mx.commits.all fun c => c.dead) && !e.2.bg.any Background.writes)) &&
  !s.uses.any MemUse.writes && s.gr.fly.isEmpty && (s.gr.queue.all fun m => !m.held s.sc) && s.fab.ready.isEmpty &&
  (s.fab.ports.all fun e => e.2.tx.isEmpty) && (s.fab.locals.all fun e => e.2.isEmpty) && s.fab.outq.isEmpty

/-- A normal end: RUNNING and LOADED clear, JOB_END is posted (R365, R399). -/
def State.endNormal (s : State) : State :=
  let s := ({ s with time.loaded := false } : State).freeMoves.stopJob
  { (s.event s.host.owner (mkEvent 0xE1 0 0 s.time.cnt.scc s.fltStatus)) with job.endPosted := true }

/-- JOB_END. -/
def State.jobEnd (s : State) : State := if s.partDone && s.job.faultSc.isNone then s.endNormal else s

def execJobEnd (s : State) : Host.Outcome State Fault Refusal := .next s.jobEnd

/-- What issued by sc f completes its writes and packets, each memory access in its sc (R287); beats on streams and in pipelines are discarded (R366). A packet takes its send slot
and leaves as its port lets it; nothing more is recorded. -/
def State.flush (s : State) : State :=
  let t := s.fab.ready.foldl State.makeReady { s with fab.ready := [] }
  let s := { t with job := s.job }
  let n := (s.uses.map (·.due)).foldl max 0 + 3 - s.sc
  let s := (List.range n).foldl (fun t i => (t.meetReads (s.sc + i)).landWrites (s.sc + i)) s
  let s := s.lines.foldl (fun s e =>
    let y := ((s.line e.1).mx.commits.map (·.due)).foldl max 0
    (s.mxCommits e.1 y).updLine e.1 fun L =>
      { L with beats := [], outs := [], bg := none, mx := { L.mx with lw := none }, vx := { L.vx with rrPend := [] } }) s
  { s with uses := [], cross := [], words := [], nacks := [] }

/-- The job ends with the fault recorded at sc f: every record takes the SCH_CC of the cc of the end, the module stays loaded (R366,
R368). -/
def State.endFault (s : State) : State :=
  let s := s.flush.stopJob
  { s with job.faults := s.job.faults.map fun r => { r with cc := s.time.cnt.cc }, job.endPosted := false }

/-- Every coordinate of the torus (R310). -/
def State.torus (s : State) : List (BitVec 15) :=
  (List.range (s.size 0)).flatMap fun x => (List.range (s.size 1)).flatMap fun y => (List.range (s.size 2)).map fun z =>
    BitVec.ofNat 15 (1024 * x + 32 * y + z)

/-- FAULT_REPORTING (R454): ABORT to the torus unless the fault is FAB_ABORT, JOB_END with FAULT, RCV_ALERT.JOB_FAULT. -/
def State.faultReport (s : State) : State :=
  match s.job.faultSc with
  | some f =>
    if s.time.running || s.job.endPosted || !s.mod.mgmt then s
    else
      let kind := match s.job.faults with | r :: _ => r.kind | [] => 0
      let many := s.size 0 * s.size 1 * s.size 2 ≠ 1
      let s :=
        if many && kind ≠ 0x4D then s.torus.foldl (fun s c => s.message c (.abort s.coord)) s else s
      let s := s.event s.host.owner (mkEvent 0xE1 10 kind f s.fltStatus)
      ({ s with job.endPosted := true } : State).setAlert 6
  | none => s

def execFaultReporting (s : State) : Host.Outcome State Fault Refusal := .next s.faultReport

/-! ### Clearing (R280, R282, R299) -/

/-- A line's state after its clear starts: its registers are reset, its queues empty; map-outs are kept (R111, R274, R281). -/
def LineState.cleared (L : LineState) : LineState :=
  let i := LineState.idle
  { i with ls := { i.ls with isMap := L.ls.isMap, isErr := L.ls.isErr &&& 1024, mapQueue := L.ls.mapQueue } }

/-- A line whose memories of Table 8-6 are being cleared; its registers keep their values (R111, R280). -/
def LineState.wiped (L : LineState) : LineState :=
  let i := LineState.idle
  { L with
    beats := [], outs := [], bg := none, istore := [], isBad := [], draw := []
    dq := L.dq.map fun e => (e.1, { e.2 with entries := [] })
    mx := { L.mx with buf0 := i.mx.buf0, buf1 := i.mx.buf1, lw := none, acc := [], anchors := [], commits := [], copies := [] }
    vx := { L.vx with vr := [], rr := [], rrPend := [], freq := [], copies := [] }
    px := { L.px with tb := [], busyUntil := [], invalid := 0, wrote := [] }
    cc := { L.cc with iw := L.cc.iw.map fun e => (e.1, { e.2 with words := [] }) }
    ls := { L.ls with held := [], pgOn := 15 } }

/-- The fill engines of a bay start on its lines and its bay buffer, and with `nt` on its slices. -/
def BayState.startFill (b : BayState) (nt : Bool) : BayState :=
  let b := { b with clrLines := [], clrSlices := [], lineActive := true, bbActive := true, clear := false }
  if nt then { b with ntDone := [], ntActive := true, ntPos := [], ntClear := false } else b

/-- Fills start in every bay: all 256 slices clear at once (R280, R299). -/
def State.startFills (s : State) (nt : Bool) : State :=
  (List.range 8).foldl (fun s b => s.updBay b fun z => z.startFill nt) { s with mod.fillLine := true, mod.fillNt := s.mod.fillNt || nt }
/-- The clear alone: memories, not registers (R394). -/
def State.clearAll (s : State) (nt : Bool) : State :=
  let lines := s.lines.map fun e : Nat × LineState => (e.1, e.2.wiped)
  ({ s with lines := lines } : State).startFills nt

/-- A line is clear: zeros everywhere. -/
def State.lineDone (s : State) (l : Nat) : State :=
  let b := l / 64
  let s := (s.zeroBytes (lsPhys l 0) 0x60000).updLine l fun L => { L with inReset := false }
  s.updBay b fun z =>
    if z.lineActive && !z.clrLines.contains (l % 64) then
      let d := (l % 64) :: z.clrLines
      let on := d.length < 64
      { z with clrLines := d, lineActive := on, clear := !on && !z.bbActive }
    else z

/-- An undefined range without the `n` rows of 128 bytes at `a`, `a + step`, `a + 2 × step`, … -/
def UndefRange.cutRows (u : UndefRange) (a step n : Nat) : List UndefRange :=
  let lo := (u.base - a) / step
  let hi := min n ((u.base + u.len - a) / step + 1)
  (List.range (hi - lo)).foldl (fun l i => l.flatMap fun v => v.cut (a + step * (lo + i)) 128) [u]

/-- Zeros in a slice of a bay buffer: rows `128 × slice + 8,192 × i`. -/
def State.zeroSlice (s : State) (b slice : Nat) : State :=
  { s with
    mem := s.mem.filter fun m => !(bbPhys b 0 ≤ m.1 && m.1 < bbPhys b 0x4000000 && bbSlice (m.1 - bbPhys b 0) = slice)
    undef := s.undef.flatMap fun u => u.cutRows (bbPhys b (128 * slice)) 8192 8192
    marks := s.marks.filter fun m => !(bbPhys b 0 ≤ m.1 && m.1 < bbPhys b 0x4000000 && bbSlice (m.1 - bbPhys b 0) = slice)
    fixes := s.fixes.filter fun r => !(bbPhys b 0 ≤ r && r < bbPhys b 0x4000000 && bbSlice (r - bbPhys b 0) = slice) }

/-- A bay-buffer slice is clear, once (R282: from then on it answers host accesses). -/
def State.sliceDone (s : State) (b slice : Nat) : State :=
  if (s.bay b).clrSlices.contains slice then s else
  let s := s.zeroSlice b slice
  s.updBay b fun z =>
    if z.bbActive then
      let d := slice :: z.clrSlices
      let on := d.length < 64
      { z with clrSlices := d, bbActive := on, clear := !on && !z.lineActive }
    else z

/-- Rows of a near-tier slice. -/
def sliceRows : Nat := 0x180000000 / 128

/-- The fill engine of a slice writes the rows that are left: each is an access (R290, R299, R308; log entry 74). -/
def State.fillRest (s : State) (sl : Nat) : State :=
  let r := (s.bay (sl / 32)).ntPos.look sl 0
  ((s.zeroBytes (ntPhys sl (128 * r)) (128 * (sliceRows - r))).countBay (sl / 32) .ntFree (sliceRows - r)).updBay (sl / 32) fun z =>
    { z with ntPos := z.ntPos.put sl sliceRows }

/-- A near-tier slice is clear. -/
def State.ntSliceDone (s : State) (sl : Nat) : State :=
  let b := sl / 32
  if (s.bay b).ntActive && !(s.bay b).ntDone.contains sl then
    (s.fillRest sl).updBay b fun z =>
      let d := sl :: z.ntDone
      { z with ntDone := d, ntActive := d.length < 32, ntClear := 32 ≤ d.length }
  else s

/-- The fill engine's next row of a slice that it clears, in a slot (R287, R290, R299); with the last the slice is clear. -/
def State.fillRow (s : State) (sl : Nat) : Option State :=
  let z := s.bay (sl / 32)
  let r := z.ntPos.look sl 0
  if z.ntActive && !z.ntDone.contains sl && r < sliceRows then
    let t := (s.zeroBytes (ntPhys sl (128 * r)) 128).updBay (sl / 32) fun z => { z with ntPos := z.ntPos.put sl (r + 1) }
    some (if r + 1 = sliceRows then t.ntSliceDone sl else t)
  else none

/-- A line of a bay under a clear, or one in line reset. -/
def State.lineFilling (s : State) (l : Nat) : Bool :=
  ((s.bay (l / 64)).lineActive && !(s.bay (l / 64)).clrLines.contains (l % 64)) || (s.line l).inReset

/-- CLEAR_UNIT_DONE: a line, or a slice of its bay buffer, of a bay finishes clearing. -/
def execClearUnitDone (bay : BayId) (line : Bool) (unit : Fin 64) (s : State) : Host.Outcome State Fault Refusal :=
  .next (if line then (if s.lineFilling (bay * 64 + unit) then s.lineDone (bay * 64 + unit) else s)
         else if (s.bay bay).bbActive then s.sliceDone bay unit else s)

def execNtSliceClearDone (slice : Fin 256) (s : State) : Host.Outcome State Fault Refusal := .next (s.ntSliceDone slice)

/-- A bay's engines finish every line and slice of its on-chip memories that is left. -/
def State.finishChip (s : State) (b : Nat) : State :=
  let s := if (s.bay b).lineActive then
      let t := (List.range 64).foldl (fun s l => if s.lineFilling (b * 64 + l) then s.lineDone (b * 64 + l) else s) s
      t.updBay b fun z => { z with lineActive := false, clear := !z.bbActive }
    else s
  if (s.bay b).bbActive then
    let t := ((List.range 64).filter fun i => !(s.bay b).clrSlices.contains i).foldl (fun s i => s.zeroSlice b i) s
    t.updBay b fun z => { z with clrSlices := List.range 64, bbActive := false, clear := !z.lineActive }
  else s

/-- A bay's engines finish every unit that is left, its near-tier slices among them. -/
def State.finishBay (s : State) (b : Nat) : State :=
  let s := s.finishChip b
  if (s.bay b).ntActive then
    let t := ((List.range 32).filter fun i => !(s.bay b).ntDone.contains (32 * b + i)).foldl
      (fun s i => s.fillRest (32 * b + i)) s
    t.updBay b fun z =>
      { z with ntDone := (List.range 32).map fun i => 32 * b + i, ntActive := false, ntClear := true }
  else s

/-- FILL_COMPLETE: the engines have finished; every waiting KILL completes (R435, Table 12-5). -/
def State.fillComplete (s : State) : State :=
  let s := (List.range 8).foldl State.finishBay s
  let s := s.host.killRec.foldl (fun s r => s.complete r.1 r.2 0 0 0) s
  { s with host.killRec := [], mod.fillLine := false, mod.fillNt := false }

def execFillComplete (s : State) : Host.Outcome State Fault Refusal := .next s.fillComplete

/-- A fill runs, a line's after LINERST among them. -/
def State.filling (s : State) : Bool :=
  (s.bays.any fun e => e.2.lineActive || e.2.bbActive || e.2.ntActive) || s.lines.any fun e => e.2.inReset

/-! ### Job reset (R306, R435, R441) -/

/-- A COPY in progress completes with ABORTED (R392): no byte is counted as written, and a range of the device it was writing is
undefined. -/
def State.stopCopies (s : State) : State :=
  s.host.ports.foldl (fun s h => h.2.sqs.foldl (fun s q =>
    match q.2.cur with
    | some o =>
      if o.fr.typ = 2 && o.post.isNone then
        let s := { s with host.mem := s.host.mem.filter fun m => m.ring.isNone }
        let t := if o.fr.opt % 2 = 0 then s.undefineLocal (o.fr.f 16 6) (o.fr.f 24 5) else s
        t.complete h.1 q.1 7 0 0
      else s
    | none => s) s) s

/-- RCV_INTR: a move that had begun and not completed; the next part of its destination is undefined (R441). -/
def State.interruptMoves (s : State) : State :=
  let begun := s.gr.queue.filter fun m => !m.ended && m.begun
  let s := begun.foldl (fun s m => s.undefineLocal (m.dst + m.moved) (min 4096 (m.len - m.moved))) s
  { s with rcv.intr := (begun.map fun m => IntrRec.mk m.dst m.len m.moved).take 64, gr.queue := [], gr.cur := none, gr.abandoned := false, gr.fly := [] }

/-- The fabric after a job reset: circuits invalid, the job's buffers empty, ports as they are. -/
def FabState.jobReset (f : FabState) : FabState :=
  { f with
    circ := [], circOff := [], mcast := [], cs := [], claims := [], ready := [], locals := [], strm := [], sigs := [], lands := [], outq := []
    retain := [], resends := [], xfers := [], abort := none
    ports := f.ports.map fun e => (e.1, { e.2 with lead := [], tx := [], count := [], due := [] }) }

/-- The registers of the bays that count since the start or in a segment. -/
def BayState.restart (b : BayState) : BayState :=
  { b with bbCe := 0, bbUe := 0, bbAddr := 0, cnt := [], cntL := []
           stk := b.stk.map fun e => (e.1, { e.2 with ce := 0, ue := 0, ueAddr := none, rfm := 0 }) }
/-- The bays' registers that R111 and R308 reset. -/
def BayState.jobReset (b : BayState) : BayState :=
  let z := b.restart
  { z with trained := 0, hot := 0, stk := z.stk.map fun e => (e.1, { e.2 with temp := 0 }) }

/-- A job reset (R435). The report of a fault that has stopped the job goes out first (R398, R454). -/
def State.jobReset (s : State) (nt : Bool) : State :=
  let s := s.faultReport.stopJob.stopCopies.interruptMoves
  let s := { (s.abortRec s.host.startRec) with host.startRec := none }
  let bays := s.bays.map fun e : Nat × BayState => (e.1, e.2.jobReset)
  let lines := s.lines.map fun e : Nat × LineState => (e.1, e.2.cleared)
  let s := { s with
    time := { s.time with loaded := false, yield := false }
    job := default, flags := default, words := [], nacks := [], elb := default, uses := [], cross := []
    lines := lines
    bays := bays
    gr.pairs := [], gr.err := none, gr.statusOff := true
    fab := s.fab.jobReset }
  s.startFills nt

/-! ### START and KILL (R394) -/

/-- A start descriptor (R69, R72, R413, R418): registers and counters "since the start" restart. -/
def State.startReset (s : State) : State :=
  let r := s.job.resume
  let bank : SchBank := match r with
    | some z => { (default : SchBank) with scc := z.sc, ndc := z.ndc, ndcY := z.ndcY, ndcE := z.ndcE, ndcD := z.ndcD, ndcC := z.ndcC }
    | none => default
  let line (e : Nat × LineState) : Nat × LineState :=
    (e.1, { e.2 with cnt := [], cntL := [], ls := { e.2.ls with eccCe := 0, eccUe := 0, eccAddr := 0 } })
  let pair (e : Nat × GrPair) : Nat × GrPair := (e.1, { (default : GrPair) with cnt := [] })
  let bays := s.bays.map fun e : Nat × BayState => (e.1, e.2.restart)
  let ports := s.fab.ports.map fun e : Nat × FabPort => (e.1, { e.2 with cnt := default, cntL := default, fecCe := 0, fecUe := 0, crc := 0, replays := 0, maxrep := 0 })
  let s := { s with
    time := { s.time with cnt := bank, curHold := 0, limHold := 0 }
    hrv := { s.hrv with
      seq := match r with | some z => z.seq | none => 0
      lost := 0, bank := default, armed := false, armedWas := false, unread := false, lastSc := 0, lastCc := 0, lastHold := 0
      bounds := [], active := false }
    lines := s.lines.map line
    bays := bays
    gr.pairs := s.gr.pairs.map pair
    elb.sentAt := none
    fab := { s.fab with cnt := default, cntL := default, ports := ports } }
  s.powerStart

/-- HTC in the next cc. -/
def State.nextHtc (s : State) : Nat := if s.fab.clk then (s.fab.htc + 1) % 2 ^ 64 else s.fab.htc

/-- A START record. -/
def State.start (s : State) (p q : Nat) (r : FetchedRec) : State :=
  let sc0 := match s.job.resume with | some z => z.sc | none => 0
  if !s.time.loaded || s.time.running || s.job.faultSc.isSome || s.job.coordWait.isSome || s.job.startAt.isSome then s.complete p q 3 0 0
  else if r.opt % 2 = 0 then
    { s.startReset with host.startRec := some (p, q), job.startAt := some (s.time.now + 1, sc0) }
  else if s.fab.start.toNat % 2560 ≠ 0 || !s.fab.htcValid then s.complete p q 3 0 0
  else if s.fab.start.toNat ≤ s.fab.htc then s.complete p q 8 0 0
  else { s.startReset with host.startRec := some (p, q), job.coordWait := some sc0 }

def execStartJob (port : HostId) (ring : RingId) (s : State) : Host.Outcome State Fault Refusal :=
  .next (s.jobRecord port ring (· == 4) fun s r => s.start port ring r)

/-- A load in progress ends with KILLED (R364, R394). -/
def State.killLoad (s : State) : State :=
  match s.host.loadRec with
  | some (p, q) =>
    let s := { s with host.loadRec := none, host.loadFr := none
                      job.ldStage := 9, job.ldCode := 0x81, job.ldRefused := true, job.ldBusy := false }
    (s.complete p q 4 (0x81 + 256 * 9) 0).freeJc p q
  | none => s

/-- A KILL record: a job reset, and the fill engines; with no job loaded the clear alone (R394, R435). -/
def State.kill (s : State) (p q : Nat) (r : FetchedRec) : State :=
  let s := (if s.time.loaded then s.jobReset (r.opt % 2 = 1) else s.clearAll (r.opt % 2 = 1)).killLoad
  { s with host.killRec := s.host.killRec ++ [(p, q)] }

def execKillRec (port : HostId) (ring : RingId) (s : State) : Host.Outcome State Fault Refusal :=
  .next (s.record port ring (· == 5) fun s r => s.kill port ring r)

/-! ### HARVEST and SNAPSHOT records (R61, R62, R394, R442) -/

/-- ARMED sets; an on-request CC.HARVEST of the same cc does not take effect, whichever of the two comes first in the queue
(R61, R62). -/
def State.setArmed (s : State) : State :=
  { s with
    hrv.armed := true, hrv.armedWas := false
    hrv.bounds := s.hrv.bounds.filter fun b => !b.onReq || b.at_ != s.time.now }
/-- ARMED sets for a target sc (R394). -/
def State.arm (s : State) (target : BitVec 64) : State := ({ s with hrv.reqSc := target } : State).setArmed

def execHarvestRec (port : HostId) (ring : RingId) (s : State) : Host.Outcome State Fault Refusal :=
  .next (s.jobRecord port ring (· == 6) fun s r =>
    if s.time.running then (s.arm (BitVec.ofNat 64 (r.f 8 8))).complete port ring 0 0 0 else s.complete port ring 3 0 0)

/-- Two ranges overlap. -/
def overlap (a n b m : Nat) : Bool := a < b + m && b < a + n && n ≠ 0 && m ≠ 0

/-- The slot that a SNAPSHOT would write: 0 A, 1 B. -/
def State.snapSlot (s : State) (k : Nat) : Nat := if k = 1 then 0 else if k = 2 then 1 else if s.rcv.scan.latest = 1 then 1 else 0

/-- The areas of R442 do not serve: one is not configured, two overlap, one overlaps a region or lies beyond the fitted capacity, or the slot is too
short. -/
def State.areasBad (s : State) : Bool :=
  let sz := s.rcv.slotsz * mib
  let top := 0x20000000000 + s.gr.capacity
  let slots := (List.range 4).map s.rcv.base
  let cap := s.rcv.cap.toNat
  let areas := (slots.map fun a => (a, sz)) ++ [(cap, captureLen)]
  let regions := match s.job.img with
    | some i => (i.regions.filter fun g => g.kind = 3 || g.kind = 4 || g.kind = 6).map fun g => (g.base, g.size)
    | none => []
  let clash (l : List (Nat × Nat)) (a : Nat × Nat) : Bool := l.any fun b => overlap a.1 a.2 b.1 b.2
  s.rcv.slotsz = 0 || (slots.any fun a => a < 0x20000000000 || top < a + sz) ||
  0x18000000000 < cap + captureLen || (areas.zipIdx.any fun a => clash ((areas.drop (a.2 + 1))) a.1) ||
  (areas.any fun a => clash regions a) || sz < 4096 + s.contentLen

/-- A snapshot is requested and its boundary has not begun it (HRV_PEND.SNAP). -/
def State.snapPending (s : State) : Bool := (s.rcv.snap.any fun j => j.phase = 0) || s.rcv.snapNext.isSome

/-- A SNAPSHOT record: HRV_PEND.SNAP for the next boundary, and with ARM a harvest request. One that comes while another is captured, written or
committed follows it. -/
def State.snapshot (s : State) (p q : Nat) (r : FetchedRec) : State :=
  if !s.time.running || s.snapPending || s.areasBad then s.complete p q 3 0 0
  else
    let j : SnapJob :=
      { slot := r.opt % 4, buddy := if r.opt / 4 % 2 = 1 then some (BitVec.ofNat 15 (r.f 8 2)) else none
        phase := 0, wslot := s.snapSlot (r.opt % 4), sc := 0, pos := 0 }
    let s := { s with hrv.pend := s.hrv.pend ||| 16 }
    let s := if s.rcv.snap.isSome then { s with rcv.snapNext := some j, host.snapNext := some (p, q) }
      else { s with rcv.snap := some j, host.snapRec := some (p, q) }
    if r.opt / 8 % 2 = 1 then s.arm (BitVec.ofNat 64 (r.f 16 8)) else s

def execSnapshotRec (port : HostId) (ring : RingId) (s : State) : Host.Outcome State Fault Refusal :=
  .next (s.jobRecord port ring (· == 7) fun s r => s.snapshot port ring r)

end Sys2Proof.Machine
end

