-- ==== Sys2Proof/Machine/Image.lean ====
section
/-! DEFINITION. The Fellet image as the loader reads it: hall header, part table, part, sections (R353 to R356, R471). -/

namespace Sys2Proof.Machine

/-- A section of a part, with its place in the section table (R355). -/
structure Sect where
  ix   : Nat
  typ  : Nat
  unit : Nat
  zero : Bool
  off  : Nat
  len  : Nat
  deriving DecidableEq, Repr, Inhabited

/-- What the loader has read: the hall header, the part table, the signature block, the part and its table entry. -/
structure Part where
  hdr   : List Byte
  table : List Byte
  sig   : List Byte
  entry : List Byte
  bytes : List Byte
  sects : List Sect
  inMem : Bool
  deriving DecidableEq, Repr, Inhabited

/-- `n` bytes from byte `o` of a list. -/
def sub (l : List Byte) (o n : Nat) : List Byte := (l.drop o).take n
/-- The bytes of a list are zero from `o` to `p`. -/
def zeros (l : List Byte) (o p : Nat) : Bool := (sub l o (p + 1 - o)).all (· == 0)
/-- A list with bytes replaced from `o` on. -/
def patch (l : List Byte) (o : Nat) (bs : List Byte) : List Byte := l.take o ++ bs ++ l.drop (o + bs.length)

/-- A range lies in the near tier or in the fitted granary (R393). -/
def State.holds (s : State) (a n : Nat) : Bool :=
  a + n ≤ 0x18000000000 || (0x20000000000 ≤ a && a + n ≤ 0x20000000000 + s.gr.capacity)
/-- Bytes of a range that lies in device memory. -/
def State.take (s : State) (a n : Nat) : List Byte := if s.holds a n then s.readLocal a n else []

/-- The first `n` bytes of a range, or as many as its memory has. -/
def State.takeUpTo (s : State) (a n : Nat) : List Byte :=
  let last := if a < 0x18000000000 then 0x18000000000 else 0x20000000000 + s.gr.capacity
  s.take a (min n (last - a))

/-- Entry `i` of a section table. -/
def sectOf (part : List Byte) (i : Nat) : Sect :=
  let o := 256 + 24 * i
  { ix := i, typ := recField part o 2, unit := recField part (o + 2) 2, zero := zeros part (o + 4) (o + 7)
    off := recField part (o + 8) 8, len := recField part (o + 16) 8 }

/-- Parts of a torus of a shape: X × Y × Z. -/
def shapeParts (shape : Nat) : Nat := (shape % 32 + 1) * (shape / 32 % 32 + 1) * (shape / 1024 % 32 + 1)

/-- What stage 1 looks at in a part that is not read whole: the header, the section table, the regions and the circuits, as far as its memory goes. -/
def State.partHead (s : State) (p : Nat) : List Byte :=
  let head := s.takeUpTo p (256 + 24 * recField (s.takeUpTo (p + 10) 2) 0 2)
  let reach := (((List.range (recField head 10 2)).map (sectOf head)).filter fun x => x.typ = 1 || x.typ = 8).foldl (fun n x => max n (x.off + x.len)) head.length
  s.takeUpTo p reach

/-- The image that a LOAD names: the header at `h`, the part at `p`. Of a part whose length is not known, or does not fit, what stage 1
looks at is read, and stage 2 refuses the part (R393). -/
def State.readImage (s : State) (h p : Nat) : Part :=
  let hdr := s.take h 4096
  let n := shapeParts (recField hdr 12 2)
  let pt := recField hdr 32 8
  let table := s.take (h + pt) (80 * n)
  let so := recField hdr 4032 8
  let sl := recField hdr 4040 8
  let signed := so ≠ 0
  let sig := if signed && sl = 3392 then s.take (h + so) sl else []
  let coord := recField (s.takeUpTo (p + 8) 2) 0 2
  let entry := (((List.range n).map fun i => sub table (80 * i) 80).find? fun e => recField e 0 2 = coord).getD []
  let len := recField entry 16 8
  let short : Bool := len < 256 || !s.holds p len
  let bytes := if short then s.partHead p else s.take p len
  { hdr := hdr, table := table, sig := sig, entry := entry, bytes := bytes
    sects := (List.range (recField bytes 10 2)).map (sectOf bytes)
    inMem := s.holds h 4096 && s.holds (h + pt) (80 * n) && (!signed || sl ≠ 3392 || s.holds (h + so) sl) && !short }

/-! ### Header fields (Table 11-1) -/

def Part.f (p : Part) (o n : Nat) : Nat := recField p.hdr o n
def Part.profile (p : Part) : Nat := p.f 10 1
def Part.dyn (p : Part) (b : Nat) : Bool := p.f 11 1 / 2 ^ b % 2 = 1
def Part.coord (p : Part) : Nat := recField p.bytes 8 2
/-- Declared latency D of a port (R355). -/
def Part.d (p : Part) (port : Nat) : Nat := recField p.bytes (20 + port) 1
/-- The content of a section. -/
def Part.data (p : Part) (x : Sect) : List Byte := sub p.bytes x.off x.len
/-- The first section of a type and unit. -/
def Part.sect (p : Part) (typ unit : Nat) : Option Sect := p.sects.find? fun x => x.typ = typ && x.unit = unit
def Part.content (p : Part) (typ unit : Nat) : List Byte := match p.sect typ unit with | some x => p.data x | none => []
/-- Lines with a LINE section, in increasing order. -/
def Part.lines (p : Part) : List Nat := (List.range 512).filter fun l => (p.sect 2 l).isSome
/-- The image digest (R353). -/
def Part.digest (p : Part) : BitVec 512 := shake512 (patch p.hdr 4032 (List.replicate 16 0) ++ p.table)
/-- The part digest (R353). -/
def Part.partDigest (p : Part) : BitVec 512 := shake512 (patch p.bytes 12 (List.replicate 8 0))

/-! ### Sections (Table 11-2, Table 11-3) -/

/-- A region entry. -/
def regionOf (b : List Byte) : Region :=
  let bit (o k : Nat) : Bool := recField b o 8 / 2 ^ k % 2 = 1
  { kind := recField b 0 1, r := bit 1 0, w := bit 1 1, move := bit 1 2, input := bit 1 3, output := bit 1 4, fixed := bit 1 5
    bay := recField b 2 1 % 8, base := recField b 8 8, size := recField b 16 8
    circ := recField b 24 2 % 4096, dest := recField b 26 2 % 2 ^ 15, dyn := bit 26 15
    sig := recField b 28 2 % 1024, sigEn := bit 28 10, sigClr := bit 28 11, cflag := recField b 30 2 % 1024, cflagEn := bit 30 10 }
/-- The 64 regions of a part. -/
def Part.regions (p : Part) : List Region :=
  let d := p.content 1 0
  (List.range 64).map fun i => regionOf (sub d (32 * i) 32)
/-- The reserved bits of a region entry are zero. -/
def regionZeros (b : List Byte) : Bool :=
  recField b 1 1 < 64 && recField b 2 1 < 8 && zeros b 3 7 && recField b 8 8 < 2 ^ 42 && recField b 16 8 < 2 ^ 42 &&
  recField b 24 2 < 4096 && recField b 28 2 < 4096 && recField b 30 2 < 2048

/-- The words of a CODE section. -/
def wordsOf (d : List Byte) : List W64 := (List.range (d.length / 8)).map fun i => BitVec.ofNat 64 (recField d (8 * i) 8)
def Part.code (p : Part) (line st : Nat) : List W64 := wordsOf (p.content 3 (line * 8 + st))
/-- LN_CTRL, the rotation table and the data queues of a LINE section. -/
def lineCtrl (d : List Byte) : W32 := BitVec.ofNat 32 (recField d 0 4)
def lineRot (d : List Byte) (e : Nat) : W32 := BitVec.ofNat 32 (recField d (4 + 4 * e) 4)
def lineDq (d : List Byte) (n : Nat) : W32 := BitVec.ofNat 32 (recField d (260 + 4 * n) 4)
def linePg (d : List Byte) : Nat := recField d 292 1
/-- A station queue is task-enabled (R479): TASK_EN, and a rotation entry that enables the station for the task. -/
def taskEnabled (d : List Byte) (st t : Nat) : Bool :=
  (lineCtrl d).getLsbD (8 + t) &&
  (List.range (recField d 0 1 % 64 + 1)).any fun e =>
    (lineRot d e).getLsbD (3 * st + 2) && ((lineRot d e).extractLsb' (3 * st) 2).toNat = t

/-- A branch entry, a route, a circuit entry, a multicast group. -/
def Part.branch (p : Part) (line e : Nat) : BitVec 128 := BitVec.ofNat 128 (recField (p.content 4 line) (16 * e) 16)
def Part.route (p : Part) (line n : Nat) : W32 := BitVec.ofNat 32 (recField (p.content 5 line) (4 * n) 4)
def Part.circuit (p : Part) (c : Nat) : BitVec 256 := BitVec.ofNat 256 (recField (p.content 8 0) (32 * c) 32)
/-- The valid circuits of the part. -/
def Part.circuits (p : Part) : Tbl (BitVec 256) :=
  match p.sect 8 0 with
  | some _ => ((List.range 4096).map fun c => (c, p.circuit c)).filter fun e => e.1 ≠ 0 && cValid e.2
  | none => []
/-- The other entries of the circuit table that are not zero. -/
def Part.idleCircuits (p : Part) : Tbl (BitVec 256) :=
  match p.sect 8 0 with
  | some _ => ((List.range 4096).map fun c => (c, p.circuit c)).filter fun e => e.2 ≠ 0 && !(e.1 ≠ 0 && cValid e.2)
  | none => []
/-- The destinations of a group: the distinct coordinates of its 16 entries (log entry 17). -/
def Part.group (p : Part) (g : Nat) : List (BitVec 15) :=
  ((List.range 16).map fun i => BitVec.ofNat 15 (recField (p.content 9 0) (32 * g + 2 * i) 2)).eraseDups
def Part.groups (p : Part) : Nat := (p.content 9 0).length / 32
/-- Bit `i` of the FLAGS section from byte `o`. -/
def Part.flag (p : Part) (o i : Nat) : Bool := recField (p.content 7 0) (o + i / 8) 1 / 2 ^ (i % 8) % 2 = 1
def Part.flags (p : Part) (o n : Nat) : Nat := recField (p.content 7 0) o (n / 8)

/-- A record of an INIT section: its offset in the region and its bytes; none where it does not fit the section. -/
def initRecords (fuel : Nat) (d : List Byte) : Option (List (Nat × List Byte)) :=
  match fuel with
  | 0 => if d = [] then some [] else none
  | f + 1 =>
    if d = [] then some []
    else
      let n := recField d 8 8
      if d.length < 16 + n then none
      else (initRecords f (d.drop (16 + n))).map fun r => (recField d 0 8, sub d 16 n) :: r
def initOf (d : List Byte) : Option (List (Nat × List Byte)) := initRecords d.length d

/-- The image's descriptor, as the module keeps it. -/
def Part.info (p : Part) (regions : List Region) (reloc : BitVec 512) (signed : Bool) : ImageInfo :=
  { profile := p.profile, dyn := BitVec.ofNat 4 (p.f 11 1), shape := BitVec.ofNat 15 (p.f 12 2), split := p.f 14 1
    refresh := p.f 15 1, gshare := p.f 16 1, nseeds := p.f 17 1, arith := BitVec.ofNat 4 (p.f 18 2), zone := BitVec.ofNat 24 (p.f 20 3)
    hline := if p.f 24 2 / 2 ^ 15 = 1 then some (p.f 24 2 % 512) else none
    elbGrp := p.f 26 2 % 4096, digest := p.digest, reloc := reloc, signed := signed, regions := regions
    ports := (List.range 12).map p.d, elbExp := recField p.bytes 34 1 % 2 = 1, elbLo := recField p.bytes 32 1
    elbHi := recField p.bytes 33 1 }

end Sys2Proof.Machine
end

