-- ==== Sys2Proof/Machine/LoadCheck.lean ====
section
/-! DEFINITION. The loader's checks: stages 1 to 8 of Table 11-7. A check answers the refusal that it finds first. -/

namespace Sys2Proof.Machine

/-- A refusal: stage, code, DBG_LD_DETAIL and DBG_LD_DETAIL2 (Table 11-12). The rule-specific value is 0 where no rule names one. -/
structure LoadRefusal where
  stage : Nat
  code  : Nat
  d1    : Nat
  d2    : Nat
  deriving DecidableEq, Repr

/-- A refusal where the condition that is refused holds. -/
def refuse (bad : Bool) (stage code : Nat) (d1 d2 : Nat := 0) : Option LoadRefusal :=
  if bad then some ⟨stage, code, d1, d2⟩ else none
/-- The first refusal of a list of checks. -/
def firstOf (l : List (Option LoadRefusal)) : Option LoadRefusal := l.findSome? id
/-- DBG_LD_DETAIL of a record of a section, DBG_LD_DETAIL2 of a line and a station. -/
def det (x : Sect) (ix : Nat) : Nat := x.ix % 65536 + 65536 * (ix % 65536)
def det2 (line st : Nat) : Nat := line + 512 * st

/-! ### Stage 1: preconditions -/

/-- The state as it would use functions with this part loaded (Table 14-5). -/
def State.withPart (s : State) (p : Part) : State :=
  let line (t : Tbl LineState) (l : Nat) : Tbl LineState := t.put l { LineState.idle with hasLine := true }
  { s with
    job.img := some (p.info p.regions 0 false)
    fab.circ := p.circuits
    lines := p.lines.foldl line [] }

/-- A function is ready in MOD_READY. -/
def State.funcReady (s : State) (f : Func) : Bool :=
  match f with
  | .bay b => s.mod.bayReady.getLsbD b
  | .channel n => s.mod.chReady.getLsbD n
  | .port p => s.portUp p

def State.stage1 (s : State) (p : Part) : Option LoadRefusal :=
  let granary := p.regions.any fun g => g.kind = 4
  let t := s.withPart p
  firstOf [
    refuse (!s.coordOk || s.coord.toNat ≠ p.coord) 1 0x01,
    refuse (p.lines.any fun l => !s.mod.bayReady.getLsbD (l / 64)) 1 0x02,
    refuse ((List.range 12).any fun n => p.d n ≠ 0 && !s.portUp n) 1 0x02,
    refuse (granary && (s.gr.pop = [] || s.gr.pop.any fun n => !s.mod.chReady.getLsbD n)) 1 0x02,
    refuse (allFuncs.any fun f => t.partUses f && !s.funcReady f) 1 0x02]

/-! ### Stage 2: format -/

def ascii (t : String) : List Byte := t.toList.map fun c => BitVec.ofNat 8 c.toNat

/-- The hall header: MAGIC, VERSION, reserved bytes, values in range (Table 11-1). -/
def Part.headerBad (p : Part) : Bool :=
  sub p.hdr 0 8 ≠ ascii "FELLETIM" || p.f 8 2 ≠ 2 || 16 ≤ p.f 11 1 || 2 ^ 15 ≤ p.f 12 2 ||
  p.f 14 1 = 0 || 15 < p.f 14 1 || p.f 15 1 = 0 || 2 < p.f 15 1 || 4 < p.f 16 1 || 16 < p.f 17 1 ||
  16 ≤ p.f 18 2 || p.f 23 1 ≠ 0 || p.f 24 2 / 512 % 64 ≠ 0 || 4096 ≤ p.f 26 2 || (!p.dyn 1 && p.f 26 2 ≠ 0) ||
  p.f 28 4 ≠ shapeParts (p.f 12 2) || !zeros p.hdr 48 63 || !zeros p.hdr 128 4031 || !zeros p.hdr 4048 4095

/-- The part table: one entry for each coordinate, in increasing order, bytes 2 to 7 zero (R354). -/
def Part.tableBad (p : Part) : Bool :=
  let n := shapeParts (p.f 12 2)
  let e (i : Nat) : Nat := recField p.table (80 * i) 8
  ((List.range n).any fun i => 2 ^ 15 ≤ e i) || ((List.range (n - 1)).any fun i => e (i + 1) ≤ e i) || p.entry = []

/-- The part header (R355). -/
def Part.partBad (p : Part) : Bool :=
  sub p.bytes 0 8 ≠ ascii "FELLETPT" || 2 ≤ recField p.bytes 34 1 || !zeros p.bytes 35 255 || p.bytes.length < 256

/-- Length of a section of a type, and its unit (Table 11-2). -/
def sectShape (x : Sect) : Bool :=
  match x.typ with
  | 0x01 => x.len = 2048 && x.unit = 0
  | 0x02 => x.len = 293 && x.unit < 512
  | 0x03 => x.len % 8 = 0 && x.len ≤ 32768 && x.unit < 4096 && x.unit % 8 < 6
  | 0x04 => x.len = 4096 && x.unit < 512
  | 0x05 => x.len = 64 && x.unit < 512
  | 0x06 => x.len % 16 = 0 && x.unit < 512
  | 0x07 => x.len = 8704 && x.unit = 0
  | 0x08 => x.len = 131072 && x.unit = 0
  | 0x09 => x.len % 32 = 0 && x.len ≤ 131072 && x.unit = 0
  | 0x0A => x.unit < 64
  | 0x0B => x.len % 16 = 0 && x.unit = 0
  | _ => false

/-- FLAGS sets a bit of a line without a LINE section (R479). -/
def Part.flagsBad (p : Part) : Bool :=
  (List.range 512).any fun l => (p.sect 2 l).isNone && (p.flags (8 * l) 64 ≠ 0 || p.flags (4096 + 8 * l) 64 ≠ 0)

/-- A section-table entry breaks Table 11-2 or R479. -/
def Part.sectBad (p : Part) (x : Sect) : Bool :=
  !x.zero || !sectShape x || p.bytes.length < x.off + x.len ||
  (x.typ ≠ 0x0A && p.sects.any fun y => y.ix < x.ix && y.typ = x.typ && y.unit = x.unit) ||
  (x.typ = 0x03 && (p.sect 2 (x.unit / 8)).isNone) ||
  (x.typ = 0x07 && p.flagsBad) ||
  (x.typ = 0x0A && (initOf (p.data x)).isNone) ||
  (x.typ = 0x02 && (List.range 6).any fun st =>
    (List.range 4).any fun t => taskEnabled (p.data x) st t && (p.sect 3 (x.unit * 8 + st)).isNone)

def Part.stage2 (p : Part) : Option LoadRefusal :=
  firstOf ([
    refuse (p.headerBad || p.tableBad || !p.inMem || p.partBad) 2 0x10,
    refuse (leBytes 64 p.partDigest.toNat ≠ sub p.entry 24 56 ++ sub p.bytes 12 8) 2 0x11] ++
    (p.sects.map fun x => refuse (p.sectBad x) 2 0x12 (det x 0)) ++
    [refuse ((p.sect 1 0).isNone || p.bytes.length < 256 + 24 * p.sects.length) 2 0x12])

/-! ### Stage 3: signature (R471) -/

/-- The signature block of Table 15-6 passes. -/
def State.sigOk (s : State) (p : Part) : Bool :=
  let b := p.sig
  let slot := recField b 10 1
  p.f 4040 8 = 3392 && b.length = 3392 && sub b 0 8 = ascii "FELLETSG" && recField b 8 2 = 1 && slot < 4 && zeros b 11 15 &&
  zeros b 3389 3391 &&
  (match s.sec.keys.find slot with
    | some k => leBytes 64 (shake512 k).toNat = sub b 16 64 &&
        Config.verify k (ascii "AW8-IMAGE") (leBytes 64 p.digest.toNat) (sub b 80 3309)
    | none => false)

def State.stage3 (s : State) (p : Part) : Option LoadRefusal :=
  let needed := s.mod.straps.sigpol = 1 || s.sec.sigReq
  let signed : Bool := p.f 4032 8 ≠ 0
  firstOf [refuse (needed && !signed) 3 0x20, refuse (signed && !s.sigOk p) 3 0x21]

/-! ### Stage 4: profile (R361, R362, Table 11-6) -/

/-- A padded latency: AP2, AP1, B0 native, C0 native. -/
abbrev PadRow := Nat × Nat × Nat × Nat
def padMx : List PadRow := [(22, 24, 22, 20), (4, 5, 4, 3)]
def padVx : List PadRow :=
  [(4, 5, 4, 3), (4, 5, 4, 3), (2, 2, 2, 2), (11, 12, 11, 9), (8, 9, 8, 7), (9, 10, 9, 8), (15, 17, 15, 12), (26, 29, 26, 22),
   (40, 44, 40, 34), (48, 53, 48, 40), (3, 3, 3, 3), (6, 7, 6, 5), (7, 8, 7, 6), (6, 7, 6, 5), (3, 3, 3, 3), (4, 5, 4, 3)]
def padPx : List PadRow := [(131, 132, 131, 130), (2, 2, 2, 2), (3, 3, 3, 3), (4, 4, 4, 3), (2, 2, 2, 2)]
def padCc : List PadRow := [(3, 4, 3, 2)]

/-- The pad of a row. -/
def State.padOf (s : State) (ap1 : Bool) (r : PadRow) : Nat :=
  (if ap1 then r.2.1 else r.1) - (if s.isC0 then r.2.2.2 else r.2.2.1)
/-- The profile asks for less than the native latency. -/
def State.padShort (s : State) (ap1 : Bool) (r : PadRow) : Bool :=
  (if ap1 then r.2.1 else r.1) < (if s.isC0 then r.2.2.2 else r.2.2.1)
/-- Pad fields of four bits. -/
def State.padFields (s : State) (ap1 : Bool) (l : List PadRow) : W32 :=
  BitVec.ofNat 32 (ofLanes 4 (l.map fun r => BitVec.ofNat 4 (s.padOf ap1 r)))

/-- The instruction needs AP2. -/
def needsAp2 (i : Instr) : Bool :=
  match i with
  | .vxF64s _ _ => true
  | .vxAccrd _ w => w.fld 7 3 = 4
  | .mxLw _ w => w.fld 0 4 = 4 || w.fld 0 4 = 0xC
  | .mxMm _ w => w.fld 8 4 = 4 || w.fld 8 4 = 0xC
  | .vxCvt _ w => w.fld 0 4 = 0xA || w.fld 4 4 = 0xA
  | _ => false

/-- The instruction that a word of a CODE section is. -/
def codeInstr (x : Sect) (w : W64) : Option Instr :=
  match [Station.pt, .ls, .px, .mx, .vx, .cc].find? fun st => st.code = x.unit % 8 with
  | some st => decodeWord st ⟨Fin.ofNat 512 (x.unit / 8), 0⟩ w
  | none => none

/-- A check of every word of a CODE section, in index order. -/
def Part.eachWord (p : Part) (x : Sect) (f : Nat → W64 → Option LoadRefusal) : Option LoadRefusal :=
  ((wordsOf (p.data x)).zipIdx).findSome? fun e => f e.2 e.1

def State.stage4 (s : State) (p : Part) : Option LoadRefusal :=
  let ap1 : Bool := p.profile = 1
  firstOf ([
    refuse (p.profile ≠ 1 && p.profile ≠ 2) 4 0x30,
    refuse ((padMx ++ padVx ++ padPx ++ padCc).any (s.padShort ap1)) 4 0x31] ++
    (p.sects.map fun x => if x.typ = 3 && ap1 then
        p.eachWord x fun n w => refuse ((codeInstr x w).any needsAp2) 4 0x32 (det x n) (det2 (x.unit / 8) (x.unit % 8))
      else none))

/-! ### Stage 5: environment -/

def State.stage5 (s : State) (p : Part) (nseed : Nat) : Option LoadRefusal :=
  firstOf [
    refuse (p.f 12 2 ≠ s.fab.shape.toNat) 5 0x40,
    refuse (p.f 20 3 ≠ s.zone.toNat) 5 0x41,
    refuse ((List.range 4).any fun b => p.dyn b && !s.time.ctrl.getLsbD b) 5 0x42,
    refuse ((List.range 12).any fun n => p.d n ≠ 0 && p.d n < (s.port n).lat) 5 0x43,
    refuse (p.circuits.any fun e => (circuitPorts e.2).any fun n => s.fab.disabled.getLsbD n) 5 0x43,
    refuse (nseed < p.f 17 1) 5 0x44]

/-! ### Stage 6: static checks -/

/-- A word of format C or W, and its opcode (R92). -/
def isCw (w : W64) : Bool := w.getLsbD 63
def opcodeOf (w : W64) : Nat := (w.extractLsb' 54 8).toNat

/-- The word before index `n`, when it is REP: its COUNT operand, when that is the COUNT field (R97). The word that the index order puts after REP
is the one that follows it, also where a LOOP ends at the REP (DESIGN CHOICE, log entry 97). -/
def repBefore (ws : List W64) (x : Sect) (n : Nat) : Option (Option Nat) :=
  if n = 0 then none
  else match (ws[n - 1]?).bind (codeInstr x) with
    | some (.rep _ _ w) => some (if w.csrc = 0 then some w.count.toNat else none)
    | _ => none

/-- What REP may not stand before (R97, R203). -/
def repBad (x : Sect) (w : W64) (i : Instr) : Bool :=
  isCw w || (x.unit % 8 = 5 && 0x10 ≤ opcodeOf w) ||
  (match i with
    | .pxTr _ _ => true
    | _ => false)

/-- A PX.PK6 or PX.UP6 whose repeat count, of the REP before it or its own, is not a multiple of 4 (R203). A count that REP takes from a register
is not known at load (log entry 79). -/
def groupBad (i : Instr) (r : Option (Option Nat)) : Bool :=
  match i with
  | .pxPk6 _ w | .pxUp6 _ w => match r with | none => (w.repcnt.toNat + 1) % 4 ≠ 0 | some n => n.any fun c => c % 4 ≠ 0
  | _ => false

/-- The region kinds that PT instructions name (Table 9-1, R334). -/
def regionKindBad (rs : List Region) (i : Instr) : Bool :=
  let k (n : Nat) : Region := rs.getD n default
  match i with
  | .ptGet _ w | .ptPut _ w => (k w.region.toNat).kind ≠ 3
  | .ptBget _ w | .ptBput _ w => (k w.region.toNat).kind ≠ 2
  | .ptNget _ w | .ptNput _ w => (k (w.region.toNat % 16)).kind ≠ 1
  | .ptFget _ w | .ptFput _ w => (k w.region.toNat).kind ≠ 5
  | _ => false

/-- Dynamic fabric traffic is off unless the image enables it and SCH_CTRL permits it (R55, R334). -/
def State.dynamicOff (s : State) (p : Part) (rs : List Region) (i : Instr) : Bool :=
  match i with
  | .ptFget _ w | .ptFput _ w => (rs.getD w.region.toNat default).dyn && (!p.dyn 2 || !s.time.ctrl.getLsbD 2)
  | _ => false

/-- Rules of the station chapters that need the rest of the image. -/
def State.contextBad (s : State) (p : Part) (rs : List Region) (line n : Nat) (i : Instr) : Bool :=
  let off (r : Nat) : Bool := !(p.route line (r % 16)).getLsbD 12
  regionKindBad rs i || s.dynamicOff p rs i ||
  (match i with
    | .loop _ _ w => w.target.toNat ≤ n
    | .ccSrrd _ w => w.fld 6 4 = 3 && !p.dyn 3
    | .ccElbAdd _ _ | .ccElbRead _ _ | .ccElbReadv _ _ => !p.dyn 1
    | .ccWait q w | .ccWaitc q w => !dlOk q w
    | .ptSend _ w => off (w.fld 0 4)
    | .ccWsend _ w => off (w.fld 0 4)
    | _ => false)

/-- Whether the word is a BAR whose own bit is clear (R103). -/
def barBad (i : Instr) : Bool := match i with | .bar st _ w => !w.mask.getLsbD st.code | _ => false

/-- A data queue named against its declaration (R105). Three of four repeats of a PX.PK6 give a result, whatever count a REP before it sets. -/
def dqBad (d : List Byte) (st : Nat) (i : Instr) : Bool :=
  let js := List.range (max 4 (min (i.repcnt + 1) 65))
  let decl (n : Nat) (lo : Nat) : Bool := (lineDq d n).getLsbD 6 && ((lineDq d n).extractLsb' lo 3).toNat = st
  (js.any fun j => (i.dqSrc j).any fun n => !decl n 3) || (js.any fun j => (i.dqDst j).any fun n => !decl n 0)

/-- A prediction or its resolving branch names an entry without all six VALID bits (R239). -/
def entryBad (p : Part) (line : Nat) (i : Instr) : Bool :=
  let short (e : Nat) : Bool := !(List.range 6).all fun st => (p.branch line e).getLsbD (13 * st + 12)
  match i with
  | .ccPredict _ w | .ccBrResolve _ w => short (w.fld 0 8)
  | _ => false

/-- The checks of one CODE section. -/
def State.checkCode (s : State) (p : Part) (rs : List Region) (x : Sect) : Option LoadRefusal :=
  let line := x.unit / 8
  let st := x.unit % 8
  let ws := wordsOf (p.data x)
  let d := p.content 2 line
  p.eachWord x fun n w =>
    let no (bad : Bool) (code : Nat) : Option LoadRefusal := refuse bad 6 code (det x n) (det2 line st)
    match codeInstr x w with
    | none => no true 0x50
    | some i =>
      firstOf [
        no (barBad i) 0x51,
        no (!i.wf || s.contextBad p rs line n i || ((repBefore ws x n).isSome && repBad x w i) || groupBad i (repBefore ws x n)) 0x50,
        no (dqBad d st i) 0x51,
        no (entryBad p line i) 0x54]

/-- A declared pair of a data queue is of one of the two forms of R105. -/
def pairOk (wr rd : Nat) : Bool :=
  (wr < 2 && 2 ≤ rd && rd ≤ 4) || (rd < 2 && 2 ≤ wr && wr ≤ 4) || (wr = 4 && rd = 3)

/-- A LINE section: reserved bits, tasks of the rotation table (R90; an entry names a task where its enable bit is set and it stands below
ROT_LEN, log entry 75), data queues (R105). -/
def lineBad (d : List Byte) : Bool :=
  let c := lineCtrl d
  c.toNat / 8192 ≠ 0 || c.getLsbD 6 || c.getLsbD 7 || 16 ≤ linePg d ||
  ((List.range 64).any fun e => (lineRot d e).toNat / 2 ^ 18 ≠ 0) ||
  ((List.range (c.toNat % 64 + 1)).any fun e => (List.range 6).any fun st =>
    (lineRot d e).getLsbD (3 * st + 2) && !c.getLsbD (8 + ((lineRot d e).extractLsb' (3 * st) 2).toNat)) ||
  ((List.range 8).any fun n =>
    let q := lineDq d n
    q.toNat / 128 ≠ 0 || (q.getLsbD 6 && !pairOk (q.extractLsb' 0 3).toNat (q.extractLsb' 3 3).toNat))

/-- The groups of a near-tier range are all of one kind. -/
def State.groupsAre (s : State) (loc : Bool) (a n : Nat) : Bool :=
  (List.range ((a + n - 1) / 2 ^ 36 + 1 - a / 2 ^ 36)).all fun i => s.zone.getLsbD (a / 2 ^ 36 + i) == loc

/-- A region lies where its kind allows (R356). Scheduled packets are delivered to the near tier or a bay buffer
(R331), dynamic ones to the granary (R343); of the modules that one can name, this one's fitted capacity alone is known (log entry 105). -/
def State.regionFits (s : State) (g : Region) (lines : Nat) : Bool :=
  let a := g.base
  let n := g.size
  a % 128 = 0 && n % 128 = 0 && n ≠ 0 &&
  (match g.kind with
    | 1 => a + n ≤ 0x60000
    | 2 => 0x18000000000 + g.bay * 0x4000000 ≤ a && a + n ≤ 0x18000000000 + (g.bay + 1) * 0x4000000
    | 3 =>
      a + n ≤ 0x18000000000 &&
      (if s.zone.getLsbD (a / 2 ^ 36) then
        s.groupsAre true a n && a / 2 ^ 33 = (a + n - 1) / 2 ^ 33 && a % 2 ^ 36 / 2 ^ 33 = g.bay
      else s.groupsAre false a n)
    | 4 => 0x20000000000 ≤ a && a + n ≤ 0x20000000000 + s.gr.capacity
    | 5 => a + n ≤ 2 ^ 42 && (if g.dyn then 0x20000000000 ≤ a && (g.circ ≠ 0 || g.dest ≠ s.coord.toNat || a + n ≤ 0x20000000000 + s.gr.capacity) else !g.w || a + n ≤ 0x18000000000 || (0x18000000000 ≤ a && a + n ≤ 0x18020000000))
    | _ => a + n ≤ 0x18000000000 && 0x8000 * 6 * lines ≤ n)

/-- Entry `i` of the region table breaks R356. -/
def State.entryBad (s : State) (lines i : Nat) (b : List Byte) : Bool :=
  let g := regionOf b
  if g.kind = 0 then false
  else 6 < g.kind || !regionZeros b || (if i < 16 then g.kind ≠ 1 else g.kind = 1) || !s.regionFits g lines

/-- The REGIONS section, and the loader region of R478. -/
def State.checkRegions (s : State) (p : Part) (x : Sect) : Option LoadRefusal :=
  let n := p.lines.length
  let d := p.data x
  firstOf (((List.range 64).map fun i => refuse (s.entryBad n i (sub d (32 * i) 32)) 6 0x52 (det x i)) ++
    [refuse (n ≠ 0 && !(p.regions.any fun g => g.kind = 6)) 6 0x52 (det x 0)])

/-- A circuit entry breaks R324, R333 or R338. -/
def Part.circuitBad (p : Part) (c : Nat) : Bool :=
  let e := p.circuit c
  let isEnd := cDlv e ≠ 0 || cOp e ≠ 0 || cNext e ≠ 0
  let d := if cIn e < 12 then p.d (cIn e) else 0
  let port (n : Nat) : Bool := n < 12 || n = 15
  if !cValid e then false
  else
    c = 0 || !port (cIn e) || !port (e.extractLsb' 4 4).toNat || !port (e.extractLsb' 8 4).toNat || 64 < cPer e || cPer e ≤ cRes e ||
    (e.extractLsb' 22 10).toNat ≠ 0 || (e.extractLsb' 61 3).toNat ≠ 0 || (e.extractLsb' 88 8).toNat ≠ 0 ||
    (e.extractLsb' 105 151).toNat ≠ 0 || cDlv e = 3 ||
    (isEnd && (cAllow e = 0 || 128 < cAllow e || cDelta e = 0 || 5 * cDelta e < 2 * (d + 8))) ||
    (cNext e ≠ 0 && !cValid (p.circuit (cNext e))) || (cOp e ≠ 0 && !cValid (p.circuit (cLocal e)))

/-- Allowances of the circuits that pass through a port's transmit buffer, those of local operands among them, and the declared lead of a
receiving port: that of the circuits that end at it (R52, R329, R333). -/
def Part.allowBad (p : Part) (port : Nat) : Bool :=
  let sum (f : Nat × BitVec 256 → Bool) : Nat := ((p.circuits.filter f).map fun e => cAllow e.2).sum
  let waits (e : Nat × BitVec 256) : Bool := (cOuts e.2).contains port || (cOuts e.2 = [] && localPort p.circuits e.1 = some port)
  256 < sum waits || 128 < sum fun e => cIn e.2 = port && cEnd e.2

/-- The checks of the CIRCUITS section. -/
def Part.checkCircuits (p : Part) (x : Sect) : Option LoadRefusal :=
  firstOf (((List.range 4096).map fun c => refuse (p.circuitBad c) 6 0x53 (det x c)) ++
    [refuse ((List.range 12).any p.allowBad) 6 0x53 (det x 0)])

/-- The destinations of every group lie in the torus (R339). -/
def State.checkGroups (s : State) (p : Part) (x : Sect) : Option LoadRefusal :=
  firstOf ((List.range p.groups).map fun g =>
    refuse ((p.group g).any fun c => (List.range 3).any fun d => s.size d ≤ axis c d) 6 0x53 (det x g))

/-- An INIT section (R479). -/
def Part.checkInit (p : Part) (x : Sect) : Option LoadRefusal :=
  let g := p.regions.getD x.unit default
  let recs := (initOf (p.data x)).getD []
  firstOf [
    refuse (g.kind < 1 || 4 < g.kind) 6 0x52 (det x 0),
    recs.zipIdx.findSome? fun e => refuse (g.size < e.1.1 + e.1.2.length) 6 0x52 (det x e.2)]

/-- The checks of one section. -/
def State.checkSect (s : State) (p : Part) (x : Sect) : Option LoadRefusal :=
  match x.typ with
  | 0x01 => s.checkRegions p x
  | 0x02 => refuse (lineBad (p.data x)) 6 0x51 (det x 0) (det2 x.unit 0)
  | 0x03 => s.checkCode p p.regions x
  | 0x04 => firstOf ((List.range 256).map fun e => refuse ((p.branch x.unit e).toNat / 2 ^ 78 ≠ 0) 6 0x54 (det x e) (det2 x.unit 0))
  | 0x05 => firstOf ((List.range 16).map fun n => refuse ((p.route x.unit n).toNat / 2 ^ 21 ≠ 0) 6 0x54 (det x n) (det2 x.unit 0))
  | 0x08 => p.checkCircuits x
  | 0x09 => s.checkGroups p x
  | 0x0A => p.checkInit x
  | _ => none

/-- Stage 6, in section-table order, and the expert load exchange (R236). -/
def State.stage6 (s : State) (p : Part) : Option LoadRefusal :=
  let grp := p.f 26 2 % 4096
  firstOf ((p.sects.map (s.checkSect p)) ++
    [refuse (p.dyn 1 && p.groups ≤ grp) 6 0x54,
     refuse (recField p.bytes 34 1 % 2 = 1 && recField p.bytes 33 1 < recField p.bytes 32 1) 6 0x54])

/-! ### Stage 8: relocation (R358 to R360) -/

/-- A relocation list entry: region and new BASE; none where a byte that is zero is not. -/
def relocEntry (b : BitVec 128) : Option (Nat × Nat) :=
  if (b.extractLsb' 8 56).toNat = 0 then some ((b.extractLsb' 0 8).toNat, (b.extractLsb' 64 64).toNat) else none

/-- The displacement of a region is accepted (Table 11-4). -/
def State.moveOk (s : State) (lines : Nat) (g : Region) (base : Nat) : Bool :=
  let d : Int := base - g.base
  let g' := { g with base := base }
  let step : Int := match g.kind with
    | 2 => 8192
    | 3 => if s.zone.getLsbD (g.base / 2 ^ 36) then 131072 else 1048576
    | 4 => 4096
    | _ => 1048576
  (d == 0) ||
  (!g.fixed && (g.kind = 2 || g.kind = 3 || g.kind = 4 || g.kind = 6) && d % step == 0 && s.regionFits g' lines &&
    (g.kind ≠ 3 || s.zone.getLsbD (g.base / 2 ^ 36) == s.zone.getLsbD (base / 2 ^ 36)))

/-- The regions after the list. -/
def relocated (rs : List Region) (l : List (Nat × Nat)) : List Region :=
  rs.zipIdx.map fun e => match l.find? fun r => r.1 = e.2 with | some r => { e.1 with base := r.2 } | none => e.1

/-- Two regions of kinds 2 to 4 overlap after relocation, and did not overlap in the image with the same displacement (R359). -/
def overlapBad (old new : List Region) : Bool :=
  let k (g : Region) : Bool := g.kind = 2 || g.kind = 3 || g.kind = 4
  let z := (old.zip new).filter fun e => k e.1
  z.zipIdx.any fun e => (z.drop (e.2 + 1)).any fun f =>
    overlap e.1.2.base e.1.2.size f.2.base f.2.size &&
    !(overlap e.1.1.base e.1.1.size f.1.base f.1.size && ((e.1.2.base : Int) - e.1.1.base == (f.2.base : Int) - f.1.base))

/-- The relocation list is accepted. -/
def State.relocBad (s : State) (p : Part) (l : List (BitVec 128)) : Option LoadRefusal :=
  let es := l.filterMap relocEntry
  let one (e : BitVec 128 × Nat) : Option LoadRefusal :=
    let bad : Bool := match relocEntry e.1 with
      | some (i, b) =>
        let g := p.regions.getD i default
        63 < i || g.kind = 0 || ((l.take e.2).filterMap relocEntry).any (fun x => x.1 = i) || !s.moveOk p.lines.length g b
      | none => true
    refuse bad 8 0x70 (65536 * (e.2 % 65536))
  firstOf ((l.zipIdx.map one) ++ [refuse (overlapBad p.regions (relocated p.regions es)) 8 0x70])

/-- The CC.LI and CC.LIH of a pair joined, and the pair that says a value (R360). -/
def pairValue (a b : W64) : Nat := (a.extractLsb' 8 32).toNat + 2 ^ 32 * (b.extractLsb' 8 32).toNat
def pairLow (a : W64) (v : Nat) : W64 := (a &&& ~~~((0x3FFFFFFFF : W64) <<< 8)) ||| (BitVec.ofNat 64 (v % 2 ^ 32) <<< 8)
def pairHigh (b : W64) (v : Nat) : W64 := (b &&& ~~~((0xFFFFFFFF : W64) <<< 8)) ||| (BitVec.ofNat 64 (v / 2 ^ 32 % 2 ^ 32) <<< 8)

/-- One relocation record applied to the part's bytes; none where its target lies outside (Table 11-5). -/
def Part.relocate (p : Part) (new : List Region) (b : List Byte) : Option Part :=
  let g := recField b 1 1
  let x := p.sects.getD (recField b 4 4) default
  let pos := recField b 8 8
  let d : Int := ((new.getD g default).base : Int) - (p.regions.getD g default).base
  let add (v : Nat) : Nat := ((v : Int) + d).toNat % 2 ^ 64
  let add (v : Nat) : Nat := if ((v : Int) + d) < 0 then ((v : Int) + d + 2 ^ 64).toNat % 2 ^ 64 else add v
  let word (o : Nat) : Nat := recField p.bytes o 8
  if p.sects.length ≤ recField b 4 4 || !zeros b 2 3 || 63 < g then none
  else match recField b 0 1 with
    | 1 => if x.typ = 0x0A && pos + 8 ≤ x.len then
        some { p with bytes := patch p.bytes (x.off + pos) (leBytes 8 (add (word (x.off + pos)))) } else none
    | 2 => if x.typ = 0x06 && 16 * pos + 16 ≤ x.len then
        some { p with bytes := patch p.bytes (x.off + 16 * pos + 8) (leBytes 8 (add (word (x.off + 16 * pos + 8)))) } else none
    | 3 =>
      let o := x.off + 8 * pos
      let li := BitVec.ofNat 64 (word o)
      let lih := BitVec.ofNat 64 (word (o + 8))
      if x.typ = 0x03 && x.unit % 8 = 5 && 8 * pos + 16 ≤ x.len && opcodeOf li = 0x11 && opcodeOf lih = 0x12 then
        let v := add (pairValue li lih)
        some { p with bytes := patch p.bytes o (leBytes 8 (pairLow li v).toNat ++ leBytes 8 (pairHigh lih v).toNat) }
      else none
    | _ => none

/-- The relocation records in order: the part patched, or the record that is refused. -/
def Part.relocAll (p : Part) (new : List Region) (x : Sect) (bs : List (List Byte)) (n : Nat) : Except LoadRefusal Part :=
  match bs with
  | [] => .ok p
  | b :: r =>
    match p.relocate new b with
    | some q => Part.relocAll q new x r (n + 1)
    | none => .error ⟨8, 0x71, det x n, 0⟩

/-- Stage 8: the part with its relocation records applied. -/
def Part.stage8 (p : Part) (new : List Region) : Except LoadRefusal Part :=
  match p.sect 0x0B 0 with
  | some x => p.relocAll new x ((List.range (x.len / 16)).map fun i => sub (p.data x) (16 * i) 16) 0
  | none => .ok p

/-! ### Stage 7: the ramp audit (R422) -/

/-- The lines of a bay as the audit walks them. -/
def Part.auditState (p : Part) (line : Nat) : LineState :=
  let d := p.content 2 line
  let words (st : Nat) : Tbl W64 := ((p.code line st).zipIdx.filter fun e => e.1 ≠ 0).map fun e => (st * 4096 + e.2, e.1)
  let qs : List (Nat × QState) := (List.range 4).flatMap fun t => (List.range 6).map fun st =>
    (t * 6 + st, { (default : QState) with enabled := taskEnabled d st t })
  { LineState.idle with
    hasLine := true, rotLen := recField d 0 1 % 64 + 1, taskEn := (lineCtrl d).extractLsb' 8 4
    rot := (List.range 64).map fun e => (e, (lineRot d e).extractLsb' 0 18)
    queues := qs
    istore := (List.range 6).flatMap words
    cc := { (LineState.idle).cc with branch := (List.range 256).map fun e => (e, (p.branch line e).extractLsb' 0 78) } }

def Part.stage7 (p : Part) : Option LoadRefusal :=
  (List.range 8).findSome? fun b =>
    match auditFails ((p.lines.filter fun l => bayOf l = b).map fun l => (l, p.auditState l)) with
    | some n => some ⟨7, 0x60, n % 2 ^ 32, 65536 * b⟩
    | none => none

end Sys2Proof.Machine
end

