-- ==== Sys2Proof/Machine/Loader.lean ====
section
/-! DEFINITION. LOAD: the record (R363, R393), stage 9 (R208, R223, R273, R362, R364, R478, R479) and stage 10, the restore (R452, R453). -/

namespace Sys2Proof.Machine

/-! ### The record -/

/-- A line of a bay that is not clear, as the fill engines start on it (R280). -/
def State.clearFor (s : State) (e : Nat × LineState) : Nat × LineState := if (s.bay (bayOf e.1)).clear then e else (e.1, e.2.wiped)

/-- The fill engines start on every bay that is not clear and on which none runs (R280). -/
def State.fillUnclear (s : State) : State :=
  let t : State := { s with lines := s.lines.map s.clearFor }
  (List.range 8).foldl (fun s b =>
    let z := s.bay b
    if z.clear || z.lineActive || z.bbActive then s
    else { (s.updBay b fun z => z.startFill false) with mod.fillLine := true }) t

/-- The relocation list is read from host memory (R393). -/
def State.readList (s : State) (p : Nat) (r : FetchedRec) : State :=
  s.readHost p (r.f 24 8) (16 * r.f 32 2)
/-- A LOAD record begins (R363). -/
def State.loadBegin (s : State) (p q : Nat) (r : FetchedRec) : State :=
  if s.time.loaded then s.complete p q 3 0 0
  else
    ({ (s.holdJc p q) with
      host.loadRec := some (p, q), host.loadFr := some r
      job.ldStage := 0, job.ldCode := 0, job.ldRefused := false, job.ldBusy := true
      job.ldDetail := 0, job.ldDetail2 := 0 } : State).fillUnclear.readList p r

def execLoadRec (port : HostId) (ring : RingId) (s : State) : Host.Outcome State Fault Refusal :=
  .next (s.jobRecord port ring (· == 3) fun s r => s.loadBegin port ring r)

/-! ### Stages 1 to 8 -/

/-- What a relocation list of `n` entries is read as: its bytes, as the digest of Table 14-7 takes them. -/
def relocDigest (l : List (BitVec 128)) : BitVec 512 := shake512 (l.flatMap fun e => leBytes 16 e.toNat)

/-- Stages 1 to 8 in order: the part with its relocation records applied and the regions in force, or the refusal. -/
def State.checkLoad (s : State) (p : Part) (nseed : Nat) (l : List (BitVec 128)) : Except LoadRefusal (Part × List Region) :=
  match firstOf [s.stage1 p, p.stage2, s.stage3 p, s.stage4 p, s.stage5 p nseed, s.stage6 p, p.stage7, s.relocBad p l] with
  | some r => .error r
  | none =>
    let new := relocated p.regions (l.filterMap relocEntry)
    match p.stage8 new with
    | .ok q => .ok (q, new)
    | .error r => .error r

/-! ### Stage 9 -/

/-- The instruction stores of a line. -/
def Part.stores (p : Part) (line : Nat) : Tbl W64 :=
  (List.range 6).flatMap fun st => ((p.code line st).zipIdx.filter fun e => e.1 ≠ 0).map fun e => (st * 4096 + e.2, e.1)

/-- The scalar registers of a line: readable from sc 0. -/
def Part.scalars (p : Part) (line : Nat) : Tbl SregHist :=
  let d := p.content 6 line
  (List.range (d.length / 16)).foldl (fun t i =>
    let w := recField d (16 * i) 8
    t.put (srKey (w % 4) (w / 256 % 64)) [(0, BitVec.ofNat 64 (recField d (16 * i + 8) 8))]) []

/-- Pad registers of a line (R362). -/
def State.mxPadReg (s : State) (ap1 : Bool) : W32 :=
  BitVec.ofNat 32 (s.padOf ap1 (padMx.getD 0 default) + 16 * s.padOf ap1 (padMx.getD 1 default))
def State.vxPad2Reg (s : State) (ap1 : Bool) : W32 := if ap1 then 0 else BitVec.ofNat 32 (5 - (if s.isC0 then 4 else 5))

/-- A line before the image's content: registers reset, the padding registers written. A line without a LINE section stays so (R362). -/
def State.padLine (s : State) (ap1 : Bool) (l : Nat) : LineState :=
  let L := (s.line l).cleared
  { L with
    inReset := false
    mx := { L.mx with pad := s.mxPadReg ap1 }
    vx := { L.vx with pad0 := s.padFields ap1 (padVx.take 8), pad1 := s.padFields ap1 (padVx.drop 8), pad2 := s.vxPad2Reg ap1 }
    px := { L.px with pad0 := s.padFields ap1 padPx }
    cc := { L.cc with pad := s.padFields ap1 padCc } }

/-- A line as stage 9 leaves it. -/
def State.lineOf (s : State) (p : Part) (l : Nat) : LineState :=
  let d := p.content 2 l
  let arith := p.f 18 2
  let c := lineCtrl d
  let L := s.padLine (p.profile = 1) l
  let qs : List (Nat × QState) := (List.range 4).flatMap fun t => (List.range 6).map fun st =>
    (t * 6 + st, { (default : QState) with enabled := taskEnabled d st t })
  let sw : BitVec 64 := BitVec.ofNat 64 (p.flags (4096 + 8 * l) 64)
  let lf : BitVec 64 := BitVec.ofNat 64 (p.flags (8 * l) 64)
  { L with
    hasLine := true, rotLen := c.toNat % 64 + 1, taskEn := c.extractLsb' 8 4, yield := c.getLsbD 12
    rot := (List.range 64).map fun e => (e, (lineRot d e).extractLsb' 0 18)
    queues := qs
    dq := (List.range 8).map fun n => (n, { (default : DataQueue) with cfg := lineDq d n })
    istore := p.stores l
    mx := { L.mx with cfg := BitVec.ofNat 32 (arith % 2) }
    vx := { L.vx with cfg := BitVec.ofNat 32 (arith / 2 % 8) }
    cc := { L.cc with
      sreg := p.scalars l, lf := lf, lfBase := lf, lfSw := sw
      branch := (List.range 256).map fun e => (e, (p.branch l e).extractLsb' 0 78)
      routes := (List.range 16).map fun n => (n, p.route l n) }
    ls := { L.ls with pgOn := BitVec.ofNat 4 (linePg d) } }

/-- Bay and module flags (Table 11-2): homes of 128 flags each. -/
def Part.homes (p : Part) (o : Nat) : Tbl (BitVec 128) := (List.range 8).map fun b => (b, BitVec.ofNat 128 (p.flags (o + 16 * b) 128))
def Part.flagState (p : Part) : FlagState :=
  { (default : FlagState) with
    bf := p.homes 8192, bfBase := p.homes 8192, bfSw := p.homes 8320, mf := p.homes 8448, mfBase := p.homes 8448, mfSw := p.homes 8576 }

/-- One INIT section: a local-store region is written in every line of the part, another in memory (R356, R479). -/
def State.initSection (s : State) (p : Part) (regions : List Region) (x : Sect) : State :=
  let g := regions.getD x.unit default
  ((initOf (p.data x)).getD []).foldl (fun s r =>
    if g.kind = 1 then p.lines.foldl (fun s l => s.setBytes (lsPhys l (g.base + r.1)) r.2) s
    else s.writeLocal (g.base + r.1) r.2) s

/-- The loader's copy of the instruction stores (R478): 4,096 words for each store of each line of the part. -/
def State.writeCopy (s : State) (p : Part) (regions : List Region) : State :=
  match regions.find? fun g => g.kind = 6 with
  | none => s
  | some g =>
    p.lines.zipIdx.foldl (fun s e => (List.range 6).foldl (fun s st =>
      let ws := p.code e.1 st
      let all := ws ++ List.replicate (4096 - ws.length) 0
      s.writeLocal (g.base + (6 * e.2 + st) * 32768) (all.flatMap fun w => leBytes 8 w.toNat)) s) s

/-- The fabric's tables and declared latencies. -/
def FabState.install (f : FabState) (p : Part) : FabState :=
  let f := f.jobReset
  let port (f : FabState) (n : Nat) : FabState := { f with ports := f.ports.upd n default fun P => { P with decl := p.d n } }
  (List.range 12).foldl port
    { f with split := p.f 14 1, circ := p.circuits, circOff := p.idleCircuits, mcast := (List.range p.groups).map fun g => (g, p.group g) }

/-- Bays whose on-chip memories the image fills or a job of it may write. -/
def Part.usesBay (p : Part) (b : Nat) : Bool := (p.lines.any fun l => bayOf l = b) || p.regions.any fun g => g.kind = 2 && g.bay = b

/-- Everything that stage 9 writes (Table 11-7), before the load is known to pass. MX_CFG.OOW_FAULT is set on the lines with a LINE section alone (R179;
DESIGN CHOICE, log entry 111). -/
def State.fillImage (s : State) (p : Part) (img : ImageInfo) : State :=
  let regions := img.regions
  let line (s : State) (l : Nat) : State := s.setLine l (if p.lines.contains l then s.lineOf p l else s.padLine (p.profile = 1) l)
  let s := (List.range 512).foldl line { s with job.img := some img, job.copyBad := [] }
  let s := { s with flags := p.flagState, words := [], nacks := [], elb := default, uses := [], cross := [], fab := s.fab.install p }
  let s := ((p.sects.filter fun x => x.typ = 0x0A).foldl (fun s x => s.initSection p regions x) s).writeCopy p regions
  let s := s.mapOuts (s.time.now + 1)
  (List.range 8).foldl (fun s b => if p.usesBay b then s.updBay b fun z => { z with clear := false } else s) s

/-- The module is loaded: the load has passed stage 9 (R71, R364, R441). -/
def State.setLoaded (s : State) (p : Part) (r : FetchedRec) : State :=
  let n := r.f 34 1
  { s with
    job := { s.job with
      seeds := (List.range n).map fun i => BitVec.ofNat 64 (r.f (64 + 8 * i) 8)
      ldStage := 9, endPosted := false, coordWait := none, startAt := none, resume := none }
    time := { s.time with
      loaded := true, yield := p.dyn 0, ctrlLoad := s.time.ctrl, limitLoad := s.time.limit
      cnt := { s.time.cnt with ndc := 0, ndcY := 0, ndcE := 0, ndcD := 0, ndcC := 0 } }
    rcv.intr := [] }

/-! ### Stage 10 (R452, R453) -/

/-- A line of the loaded image with the captured state of the line (R445): stores, tables, padding and counters stay as the loader set
them. -/
def LineState.restored (L C : LineState) : LineState :=
  { C with
    hasLine := L.hasLine, rotLen := L.rotLen, taskEn := L.taskEn, yield := L.yield, rot := L.rot, fault := false
    istore := L.istore, isBad := L.isBad, cnt := [], cntL := [], inReset := L.inReset
    mx := { C.mx with pad := L.mx.pad, cfg := L.mx.cfg, oow := false, oowCnt := 0, oowFirst := none, oowSc := 0 }
    vx := { C.vx with pad0 := L.vx.pad0, pad1 := L.vx.pad1, pad2 := L.vx.pad2, cfg := L.vx.cfg, status := 0, evFirst := none, evSc := 0 }
    px := { C.px with pad0 := L.px.pad0 }
    cc := { C.cc with branch := L.cc.branch, routes := L.cc.routes, lfSw := L.cc.lfSw, pad := L.cc.pad }
    ls := { C.ls with eccCe := 0, eccUe := 0, eccAddr := 0, isErr := L.ls.isErr, isMap := L.ls.isMap, mapQueue := L.ls.mapQueue } }

/-- A port with the captured packets and counts of the job. -/
def FabState.restored (f c : FabState) : FabState :=
  let port (e : Nat × FabPort) : Nat × FabPort :=
    let C := c.ports.look e.1 default
    (e.1, { e.2 with lead := C.lead, tx := C.tx, count := C.count, due := C.due })
  { f with cs := c.cs, claims := c.claims, ready := c.ready, locals := c.locals, strm := c.strm, sigs := c.sigs, lands := c.lands
           ports := f.ports.map port }

/-- The captured state is restored. -/
def State.restore (s : State) (c : Captured) : State :=
  let base := lsPhys 0 0
  let s := s.zeroBytes base 0x10000000
  let cells := c.lsMem.filter fun m => base ≤ m.1 && m.1 < base + 0x10000000
  let line (e : Nat × LineState) : Nat × LineState :=
    match c.lines.find e.1 with
    | some C => (e.1, if e.2.hasLine then e.2.restored C else e.2)
    | none => e
  { s with
    mem := cells.foldl (fun m e => Memory.set m e.1 e.2) s.mem
    lines := s.lines.map line
    flags := c.flags, words := c.words, nacks := c.nacks, uses := c.uses, cross := c.cross, elb := c.elb
    gr.queue := c.gr.queue, gr.fly := c.gr.fly
    fab := s.fab.restored c.fab
    job := { s.job with
      ldStage := 10
      resume := some { sc := c.sc + 1, ndc := c.ndc, ndcY := c.ndcY, ndcE := c.ndcE, ndcD := c.ndcD, ndcC := c.ndcC, seq := c.seq } } }

/-- What stands against a restore from slot `k` (Table 14-10); `ue` says that a read of the slot found an uncorrectable error. The commit
record is checked first, then the content as it is read. -/
def State.restoreBad (s : State) (k : Nat) (ue : Bool) : Option LoadRefusal :=
  let r := s.slotRecord k
  let (image, reloc) := match s.job.img with | some i => (i.digest.toNat, i.reloc.toNat) | none => (0, 0)
  firstOf [
    refuse (recState r ≠ 2) 10 0x90,
    refuse (recField r 32 64 ≠ image || recField r 12 2 ≠ s.coord.toNat || recField r 176 64 ≠ reloc) 10 0x91,
    refuse ue 10 0x93,
    refuse (recField r 96 8 ≠ s.contentLen || recField r 112 64 ≠ (s.contentDigest k (recField r 96 8)).toNat) 10 0x92]

/-- What the bytes of slot `k` hold of the job (log entry 14). -/
def State.capturedIn (s : State) (k : Nat) : Captured :=
  let bytes := s.readLocal (s.rcv.base k + 4096) captureLen
  match s.rcv.caps.find? fun e => e.1 = shake512 bytes with
  | some e => e.2
  | none => Config.captured bytes

/-- Map regions and captured state come back from the slot. -/
def State.restoreFrom (s : State) (k : Nat) : State :=
  let base := s.rcv.base k + 4096
  let s := (placeRegions captureLen s.mapRegions).foldl
    (fun s e => s.grWrite e.1.base (s.readLocal (base + e.2) e.1.size)) s
  s.restore (s.capturedIn k)

/-! ### The end of the load -/

/-- The load ends with a refusal (R363, R393). -/
def State.loadRefused (s : State) (p q : Nat) (r : LoadRefusal) : State :=
  let s := { s with
    host.loadRec := none, host.loadFr := none
    job := { s.job with
      ldStage := r.stage, ldCode := r.code, ldRefused := true, ldBusy := false
      ldDetail := BitVec.ofNat 32 r.d1, ldDetail2 := BitVec.ofNat 32 r.d2 } }
  (s.complete p q 4 (r.code + 256 * r.stage) 0).freeJc p q

/-- A load that has written memories ends without an image (R363, R364): the fill engines start on what it wrote, the registers of the lines are
as at reset, and the fabric's tables, S and declared latencies are as before it. -/
def State.undoLoad (s : State) (was : FabState) : State :=
  let lines := s.lines.map fun e : Nat × LineState => (e.1, { e.2.cleared with inReset := e.2.inReset })
  let s := { s with
    lines := lines, flags := default, elb := default, words := [], nacks := [], uses := [], cross := []
    gr.queue := [], gr.fly := [], fab := was.jobReset
    time := { s.time with loaded := false, yield := false }
    job := { s.job with img := none, seeds := [], resume := none } }
  s.fillUnclear

/-- The load ends well. -/
def State.loadDone (s : State) (p q : Nat) : State :=
  (({ s with host.loadRec := none, host.loadFr := none, job.ldBusy := false } : State).complete p q 0 0 0).freeJc p q

/-- What the symbol code meets while slot `k` is read: each burst counts (R301); whether one is uncorrectable (Table 14-10, 0x93). -/
def State.slotReads (s : State) (k : Nat) (found : List (BitVec 42 × Bool)) : State × Bool :=
  let base := s.rcv.base k
  let n := 4096 + s.contentLen
  let mine := found.filter fun f => base ≤ f.1.toNat && f.1.toNat < base + n && !s.burstBad f.1.toNat
  let s := mine.foldl (fun s f => if f.2 then s.burstMark f.1.toNat else s.burstFound (f.1.toNat / 64 * 64) false 0) s
  let s := (s.readBursts base n .clean).countBytes base n
  (s, s.badBursts base n ≠ [])

/-- Stages 9 and 10. -/
def State.finishLoad (s : State) (p q : Nat) (x : Part) (regions : List Region) (r : FetchedRec) (l : List (BitVec 128))
    (fillError : Bool) (found : List (BitVec 42 × Bool)) : State :=
  let f := s.fillImage x (x.info regions (relocDigest l) (x.f 4032 8 ≠ 0))
  let t := f.setLoaded x r
  let k := r.opt / 2 % 2
  if fillError then (f.undoLoad s.fab).loadRefused p q ⟨9, 0x80, 0, 0⟩
  else if r.opt % 2 = 0 then t.loadDone p q
  else
    let (t, slotError) := t.slotReads k found
    match t.restoreBad k slotError with
    | some z => ((t.mapRegions.foldl (fun s g => s.undefineLocal g.base g.size) t).undoLoad s.fab).loadRefused p q z
    | none => (t.restoreFrom k).loadDone p q

/-- LOAD_PROCEED: the fill engines have finished; `reloc` holds the relocation list read from host memory, `fillError` says
that an uncorrectable error was met during the fill; `found` holds the bursts with an error that the reading of the slot meets. -/
def State.loadProceed (s : State) (reloc : List (BitVec 128)) (fillError : Bool) (found : List (BitVec 42 × Bool)) : State :=
  match s.host.loadRec, s.host.loadFr with
  | some (p, q), some r =>
    if s.filling || !s.mod.mgmt || reloc.length < r.f 32 2 then s
    else
      let l := reloc.take (r.f 32 2)
      match s.checkLoad (s.readImage (r.f 8 8) (r.f 16 8)) (r.f 34 1) l with
      | .error z => s.loadRefused p q z
      | .ok (x, regions) => s.finishLoad p q x regions r l fillError found
  | _, _ => s

def execLoadProceed (reloc : List (BitVec 128)) (fillError : Bool) (found : List (BitVec 42 × Bool)) (s : State) :
    Host.Outcome State Fault Refusal :=
  .next (s.loadProceed reloc fillError found)

end Sys2Proof.Machine
end

