-- ==== Sys2Proof/Machine/Registers.lean ====
section
/-! DEFINITION. What registers read as (Tables 1-11 to 1-13, 2-8 to 2-13, 11-12, 12-13), the LO and HI pairs (R70), who gets an answer
on the host register bus (R431). -/

namespace Sys2Proof.Machine

/-- A bit at place `n` of a register. -/
def rb (b : Bool) (n : Nat) : Nat := if b then 2 ^ n else 0

/-! ### Status registers -/

/-- MOD_READY (Table 1-13, Table 14-2). -/
def State.modReady (s : State) : Nat :=
  rb s.fab.clk 0 + rb s.mod.mgmt 1 + rb (!s.portDown 0) 2 + rb (!s.portDown 1) 3 + 2 ^ 4 * s.mod.bayReady.toNat +
  ((List.range 12).map fun p => rb (s.portUp p) (12 + p)).sum + 2 ^ 24 * s.mod.chReady.toNat
/-- SCH_STATUS (Table 2-10); YIELD is of a job that runs. -/
def State.schStatus (s : State) : Nat :=
  rb s.time.loaded 0 + rb s.live 1 + rb s.held 2 + rb (s.live && s.time.yield) 3 + rb (s.time.cnt.ndc ≠ 0) 4 + 2 ^ 16 * s.causes.toNat
/-- HRV_STATUS (Table 2-12). -/
def State.hrvStatus (s : State) : Nat := rb s.hrv.armed 0 + rb (s.hrv.pend ≠ 0) 1 + rb s.hrv.unread 2 + rb s.hrv.active 3
/-- DBG_LD_STATUS (Table 11-12). -/
def State.ldStatus (s : State) : Nat := s.job.ldStage % 16 + 2 ^ 4 * (s.job.ldCode % 256) + rb s.job.ldRefused 12 + rb s.job.ldBusy 13
/-- HST_OWN (Table 12-13). -/
def State.hstOwn (s : State) : Nat := s.host.owner % 2 + rb s.host.lastTk 1 + rb s.host.changed 2 + 2 ^ 8 * s.host.changes
/-- MOD_COORD (Table 1-11). -/
def State.modCoord (s : State) : Nat := s.coord.toNat + rb s.coordOk 15 + rb s.coordMode 16
/-- The image digest of the loaded job; zero with none. -/
def State.imgDigest (s : State) : Nat := match s.job.img with | some i => i.digest.toNat | none => 0
/-- ALERT_N is driven low (R19): a bit of the alert summary is set, or the boot ROM holds it. -/
def State.alertN (s : State) : Bool := s.rcv.alert ≠ 0 || s.pwr.alert ≠ 0 || s.mod.bootFail
/-- DBG_HALT_STATUS (Table 11-12). -/
def State.haltStatus (s : State) : Nat := rb s.dbg.halted 0 + rb s.dbg.stepTo.isSome 1

/-- The status block of Table 12-7. -/
def State.statusBlock (s : State) : List Byte :=
  leBytes 4 s.modReady ++ leBytes 4 s.schStatus ++ leBytes 8 s.time.cnt.scc ++ leBytes 8 s.time.cnt.cc ++ leBytes 8 s.time.cnt.ndc ++
  leBytes 4 s.hrv.seq ++ leBytes 4 s.hrvStatus ++ leBytes 4 s.ldStatus ++ leBytes 4 s.fltStatus ++
  leBytes 8 (s.job.faultSc.getD 0) ++ leBytes 4 s.hstOwn ++ leBytes 4 s.modCoord ++ leBytes 64 s.imgDigest

/-- A STATUS record (R395). -/
def execStatusRec (port : HostId) (ring : RingId) (s : State) : Host.Outcome State Fault Refusal :=
  .next (s.record port ring (· == 9) fun s r => (s.send (.hostWrite port (r.f 8 8) s.statusBlock)).complete port ring 0 0 128)

/-! ### LO and HI pairs (R70) -/

/-- A pair of the SCH block, or of its bank in the HRV block, at offset `x`. -/
def SchBank.pair (b : SchBank) (x : Nat) : Option Nat :=
  if x = 0 then some b.scc else if x = 8 then some b.cc else if x = 0x18 then some b.holdCc else if x = 0x30 then some b.ndc
  else if 0x100 ≤ x && x < 0x1B0 && x % 16 = 0 then some (b.hcCc.look ((x - 0x100) / 16) 0)
  else none

/-- The counters of 64 bits of a line, by their offsets; the banks lie 0x40 above. -/
def linePairs : List (Nat × LineCnt) :=
  [(0x0840, .lsRd), (0x0848, .lsWr), (0x1040, .pxRep), (0x1840, .mxMm), (0x184C, .mxCold), (0x1C40, .vxRep), (0x2080, .ccIss)]
/-- The counters of 64 bits of a base die. -/
def bayPairs : List (Nat × BayCnt) :=
  [(0x0140, .bbRd), (0x0148, .bbWr), (0x0300, .ntRd), (0x0308, .ntWr), (0x0310, .ntFree), (0x0320, .pn)]

/-- A scalar register as a host reads it in sc `x`: the checkpoint's value under a prediction of its task (Table 7-8). -/
def LineState.hostSreg (L : LineState) (key x : Nat) : W64 :=
  histRead ((match L.cc.preds.find (key / 64) with | some p => p.sregs | none => L.cc.sreg).look key []) x

def State.linePair (s : State) (l x : Nat) : Option Nat :=
  let L := s.line l
  match linePairs.find? fun e => e.1 = x with
  | some (_, c) => some (L.cnt.look c.ix 0)
  | none =>
    match linePairs.find? fun e => e.1 + 0x40 = x with
    | some (_, c) => some (L.cntL.look c.ix 0)
    | none =>
      if x = 0x181C then some L.mx.oowSc else if x = 0x1C18 then some L.vx.evSc
      else if x = 0x2008 then some L.cc.lf.toNat else if x = 0x2010 then some L.cc.lfSw.toNat
      else if 0x900 ≤ x && x < 0x930 && x % 8 = 0 then some (L.ls.isMap.look ((x - 0x900) / 8) 0).toNat
      else if 0x2200 ≤ x && x < 0x2240 && x % 8 = 0 then
        some (match (L.cc.iw.look ((x - 0x2200) / 8) default).words with | w :: _ => w.1.toNat | [] => 0)
      else if 0x2800 ≤ x && x < 0x3000 && x % 8 = 0 then some (L.hostSreg ((x - 0x2800) / 8) s.sc).toNat
      else none

/-- An error address with its SRC and VALID bits, as a pair of registers shows it (Tables 9-8, 9-9). -/
def ueReg (a : Option (Nat × Bool)) : Nat := match a with | some (v, src) => v / 64 * 64 + rb src 42 + rb true 43 | none => 0

/-- The pair of controllers of the channels that a bay carries (R16). -/
def pairOfBay (b : Nat) : Option Nat := [none, some 0, some 1, none, none, some 2, some 3, none].getD b none

def State.bayPair (s : State) (b x : Nat) : Option Nat :=
  let B := s.bay b
  match bayPairs.find? fun e => e.1 = x with
  | some (_, c) => some (B.cnt.look c.ix 0)
  | none =>
    match bayPairs.find? fun e => e.1 + 0x40 = x with
    | some (_, c) => some (B.cntL.look c.ix 0)
    | none =>
      if 0x210 ≤ x && x < 0x290 && x % 0x20 = 0x1C then some (ueReg (B.stk.look (4 * b + (x - 0x210) / 0x20) default).ueAddr)
      else match pairOfBay b with
      | some u =>
        let p := s.gr.pairs.look u default
        if x = 0x410 then some (ueReg p.ueAddr) else if x = 0x440 then some (p.cnt.look 0 0) else if x = 0x480 then some (p.cntL.look 0 0) else none
      | none => none

def State.fabPair (s : State) (x : Nat) : Option Nat :=
  let P := s.port ((x - 0x1000) / 0x100)
  if x = 0x10 then some s.fab.htc else if x = 0x18 then some s.fab.start.toNat
  else if x = 0x40 then some s.fab.cnt.sch else if x = 0x48 then some s.fab.cnt.dyn else if x = 0x50 then some s.fab.cnt.fwd
  else if x = 0x60 then some s.fab.cntL.sch else if x = 0x68 then some s.fab.cntL.dyn else if x = 0x70 then some s.fab.cntL.fwd
  else if x < 0x1000 || 0x1C00 ≤ x then none
  else match x % 0x100 with
    | 0x40 => some P.cnt.tx | 0x48 => some P.cnt.rx | 0x60 => some P.cntL.tx | 0x68 => some P.cntL.rx
    | _ => none

/-- The value of the pair whose LO register stands at BAR0 offset `o` (Table 1-10). -/
def State.pair64 (s : State) (o : Nat) : Option Nat :=
  if o = 0x18 then some s.part.serial.toNat
  else if o < 0x10000 then none
  else if o < 0x20000 then
    let x := o - 0x10000
    if x = 0x18 then some s.hrv.reqSc.toNat else if x = 0x28 then some s.hrv.lastSc else if x = 0x30 then some s.hrv.lastCc
    else if 0x1000 ≤ x then s.hrv.bank.pair (x - 0x1000) else none
  else if o < 0x30000 then s.time.cnt.pair (o - 0x20000)
  else if o = 0x40040 then some (s.pwr.enUj / 1000)
  else if o = 0x40080 then some (s.pwr.enL / 1000)
  else if 0x400000 ≤ o && o < 0x1400000 then
    let b := (o - 0x400000) / 0x200000
    let y := (o - 0x400000) % 0x200000
    if y < 0x100000 then s.linePair (b * 64 + y / 0x4000) (y % 0x4000) else s.bayPair b (y - 0x100000)
  else if 0x1400000 ≤ o && o < 0x1500000 then s.fabPair (o - 0x1400000)
  else if o = 0x1700110 then some (s.job.faultSc.getD 0)
  else none

/-- The offset of a register access. -/
def RegTarget.off : RegTarget → Nat
  | .bar0 o => o.toNat | .bar2 o => o.toNat | .box _ o => o.toNat | .config o => o.toNat

/-! ### Configuration space (R373, R375, R406, log entry 71) -/

/-- Bits that a write sets of the command register, of a base register (a window of `2 ^ k` bytes decodes the bits above), of MSI-X control, of
the device controls, and of the masks and the severity of AER. -/
def State.configMask (s : State) (o : Nat) : W32 :=
  let high (k : Nat) : W32 := if 32 ≤ k then 0 else BitVec.ofNat 32 (2 ^ 32 - 2 ^ k)
  let over32 (k : Nat) : W32 := BitVec.ofNat 32 (2 ^ 32 - 2 ^ (k - 32))
  match o with
  | 0x04 => 6
  | 0x10 => high 25
  | 0x14 => 0xFFFFFFFF
  | 0x18 => high 20
  | 0x1C => 0xFFFFFFFF
  | 0x20 => high (30 + (if s.mod.straps.bar4sz = 1 then 4 else if s.mod.straps.bar4sz = 2 then 6 else 0))
  | 0x24 => over32 (max 32 (30 + (if s.mod.straps.bar4sz = 1 then 4 else if s.mod.straps.bar4sz = 2 then 6 else 0)))
  | 0x50 => 0xC0000000
  | 0x68 => 0x71EF
  | 0x88 => 0x1010
  | 0x108 => 0x5FF030
  | 0x10C => 0x5FF030
  | 0x114 => 0xF1C1
  | 0x150 => 4
  | _ => 0

/-- The configuration space of a port: the type 0 header; power management at 0x40 (D0 and D3hot, a state change that resets nothing), MSI-X at
0x50 (64 vectors, its table and PBA in the port's HST block, R406), PCI Express at 0x60 (payloads of 512 bytes, FLR, 64 GT/s x8, 10-bit
tags, no choice of the completion timeout), AER at 0x100, Device 3 at 0x148 (14-bit tags). -/
def State.configReg (s : State) (p : HostId) (o : Nat) : W32 :=
  let held := (s.hp p).config.look o 0
  match o with
  | 0x00 => 0xA8081F0E
  | 0x04 => held ||| 0x100000
  | 0x08 => 0x12000000
  | 0x10 => held ||| 4
  | 0x18 => held ||| 4
  | 0x20 => held ||| 0xC
  | 0x34 => 0x40
  | 0x40 => 0x00035001
  | 0x44 => if (s.hp p).d3hot then 0xB else 8
  | 0x50 => held ||| 0x003F6011
  | 0x54 => if p = 0 then 0x88000 else 0x98000
  | 0x58 => if p = 0 then 0x89000 else 0x99000
  | 0x60 => 0x00020010
  | 0x64 => 0x10008022
  | 0x68 => (s.hp p).devCtl
  | 0x6C => 0x86
  | 0x8C => 0x78
  | 0x70 => if (s.hp p).up then BitVec.ofNat 32 (2 ^ 16 * ((s.hp p).rate + 2) + 2 ^ 20 * (s.hp p).width) else 0
  | 0x84 => 0x30010
  | 0x100 => 0x14820001
  | 0x104 => (s.hp p).aer
  | 0x10C => ((s.hp p).config.find 0x10C).getD 0x462030
  | 0x114 => ((s.hp p).config.find 0x114).getD 0x2000
  | 0x148 => 0x0001002F
  | 0x14C => 6
  | _ => held

/-- A function-level reset (R373, R382): a port reset under which the link stays and, as PCIe gives, the payload size is kept. -/
def State.functionReset (s : State) (p : HostId) : State :=
  let size := (s.hp p).devCtl &&& 0xE0
  (s.portReset p).updHp p fun h => { h with config := h.config.put 0x68 (size ||| 0x2000) }
/-- A write of configuration space; the AER status is W1C (R10). Bits [1:0] of 0x44 name D0 or D3hot, bit 15 of 0x68 starts an FLR, and a
write that frees the MSI-X function or lets it make requests sends what is pending. -/
def State.configWrite (s : State) (p : HostId) (o : Nat) (v : W32) : State :=
  if o = 0x104 then s.updHp p fun h => { h with aer := w1c h.aer h.aerCc v }
  else if o = 0x44 then
    (if v &&& 3 = 3 then s.updHp p fun h => { h with d3hot := true }
     else if v &&& 3 = 0 then s.updHp p fun h => { h with d3hot := false } else s)
  else if o = 0x68 && v.getLsbD 15 then s.functionReset p
  else if s.configMask o = 0 then s
  else
    let s := s.updHp p fun h => { h with config := h.config.put o (v &&& s.configMask o) }
    if o = 0x50 || o = 0x04 then (List.range 64).foldl (fun s v => s.msixPending p v) s else s

/-- Whether a register access of BAR0 gets an answer (R431): before MGMT sets, the MOD block and the port's own HST block. -/
def State.answers (s : State) (who : Requester) (o : Nat) : Bool :=
  s.mod.mgmt || o < 0x10000 ||
  (match who with | .host p => 0x80000 + p.val * 0x10000 ≤ o && o < 0x90000 + p.val * 0x10000 | _ => false)

/-- An instruction of the test access port: BYPASS, IDCODE, or one of the others, among which are those of the debug port's accesses (R473). -/
inductive TapInstr where
  | bypass | idcode | other
  deriving DecidableEq, Repr
/-- The test access port accepts an instruction: while it is locked BYPASS and IDCODE only (R473). -/
def State.tapAccepts (s : State) (i : TapInstr) : Bool := s.sec.unlocked || i != .other
/-- The debug port makes an access (R370, R473): only while the test access port accepts its instructions. -/
def State.tapOpen (s : State) (who : Requester) : Bool := match who with | .debug => s.tapAccepts .other | _ => true

/-- The debug port reads while the module is held for cause DEBUG, or while no job runs (R370). -/
def State.debugReads (s : State) : Bool := !s.time.running || (s.time.hist.getD 7 0).getLsbD 10
/-- A register read of the requester gets no answer: it comes from a debug port that may not read, or before MGMT (R370, R431). -/
def State.readStopped (s : State) (who : Requester) (o : Nat) : Bool := (who == .debug && !s.debugReads) || !s.answers who o

end Sys2Proof.Machine
end

