-- ==== Sys2Proof/Machine/Window.lean ====
section
/-! DEFINITION. Host accesses to memory: areas of the local address map and what stands against an access (R26 to R32, R267, R280, R299,
R431), the local-store and accumulator windows (R29, R370), COPY records (R392), BAR4 (R378). -/

namespace Sys2Proof.Machine

/-! ### Areas (Table 1-8) -/

/-- An area of the local address map that holds a whole range. -/
inductive Area where
  | near | bb (bay : Nat) | ls (line : Nat) | acc | granary
  deriving DecidableEq, Repr

/-- The area that holds the `n` bytes from local address `a`. -/
def State.areaOf (s : State) (a n : Nat) : Option Area :=
  if a + n ≤ 0x18000000000 then some .near
  else if a < 0x18000000000 then none
  else if a < 0x18020000000 then
    let o := a - 0x18000000000
    if o % 0x4000000 + n ≤ 0x4000000 then some (.bb (o / 0x4000000)) else none
  else if a < 0x18100000000 then none
  else if a < 0x18110000000 then
    let o := a - 0x18100000000
    if o % 0x80000 + n ≤ 0x60000 then some (.ls (o / 0x80000)) else none
  else if 0x18200000000 ≤ a && a + n ≤ 0x18210000000 then some .acc
  else if 0x20000000000 ≤ a && a + n ≤ 0x20000000000 + s.gr.capacity then some .granary
  else none

/-- Slices of the near-tier pages of a range. -/
def State.slicesOf (s : State) (a n : Nat) : List Nat :=
  (List.range ((a % 4096 + n + 4095) / 4096)).map fun i => (ntMap s.zone (a / 4096 * 4096 + i * 4096)).1
/-- Lines of a range of the accumulator window. -/
def accLines (a n : Nat) : List Nat :=
  let o := a - 0x18200000000
  (List.range ((o % 0x80000 + n + 0x7FFFF) / 0x80000)).map fun i => o / 0x80000 + i

/-- Slices of a range of a bay buffer. -/
def bbSlices (a n : Nat) : List Nat := (List.range (min 64 ((a % 128 + n + 127) / 128))).map fun i => bbSlice (a + 128 * i)

/-- The memories of a range are ready (R431) and powered (R267). -/
def State.areaReady (s : State) (ar : Area) (a n : Nat) : Bool :=
  let bay (b : Nat) : Bool := s.mod.bayReady.getLsbD b
  match ar with
  | .near => (s.slicesOf a n).all fun sl => bay (sl / 32)
  | .bb b => bay b
  | .ls l =>
    let o := (a - 0x18100000000) % 0x80000
    bay (l / 64) && (List.range 4).all fun g => !overlap o n (g * 98304) 98304 || (s.line l).ls.pgOn.getLsbD g
  | .acc => (accLines a n).all fun l => bay (l / 64)
  | .granary =>
    let y := a - 0x20000000000
    let N := s.gr.pop.length
    s.gr.pop.zipIdx.all fun e => socketBytes N e.2 (y + n) = socketBytes N e.2 y || s.mod.chReady.getLsbD e.1

/-- A memory of a range is under a clear (R280, R299). -/
def State.areaClearing (s : State) (ar : Area) (a n : Nat) : Bool :=
  match ar with
  | .near => (s.slicesOf a n).any fun sl => (s.bay (sl / 32)).ntActive && !(s.bay (sl / 32)).ntDone.contains sl
  | .bb b => (s.bay b).bbActive && (bbSlices a n).any fun sl => !(s.bay b).clrSlices.contains sl
  | .ls l => s.lineFilling l
  | .acc => (accLines a n).any s.lineFilling
  | .granary => false

/-- The windows are closed: from the end of a load that passes stage 9 until its job ends (R29). -/
def State.windowsClosed (s : State) : Bool := s.time.loaded && !(s.job.faultSc.isSome && !s.time.running)
def Area.isWindow : Area → Bool
  | .ls _ => true | .acc => true | _ => false

/-- What stands against an access, as DETAIL of R392: 1 the range, 2 a clear, 3 a closed window. -/
def State.against (s : State) (closed : Bool) (a n : Nat) : Option Nat :=
  match s.areaOf a n with
  | none => some 1
  | some ar =>
    if !s.areaReady ar a n then some 1
    else if s.areaClearing ar a n then some 2
    else if ar.isWindow && closed then some 3
    else none

/-! ### Reading and writing -/

/-- A byte of the accumulator window: sheaf (row, column) holds 32 bytes, its value in bytes 0 to 17 (Table 1-8). -/
def State.accByte (s : State) (a : Nat) : Byte :=
  let o := a - 0x18200000000
  let i := o % 0x80000 / 32
  let rows := (s.line (o / 0x80000)).mx.acc.look (i / 128) (Stamped.of [])
  if o % 32 < 18 then byteOf (rows.cur.getD (i % 128) Sheaf.cleared).v (o % 32) else 0

/-- The byte that a host reads at local address `a`: a CONFIRMED held row stands before the banks (R259). -/
def State.hostByte (s : State) (a : Nat) : Byte :=
  if 0x18100000000 ≤ a && a < 0x18110000000 then
    let o := (a - 0x18100000000) % 0x80000
    match (s.line ((a - 0x18100000000) / 0x80000)).heldFor none (o / 128 * 128) with
    | some d => byteOf d (o % 128)
    | none => s.byte a
  else if 0x18200000000 ≤ a && a < 0x18210000000 then s.accByte a
  else match s.phys a with
    | some p => s.byte p
    | none => 0
def State.hostBytes (s : State) (a n : Nat) : List Byte := (List.range n).map fun i => s.hostByte (a + i)

/-- Rows that a range touches. -/
def rowsOf (a n : Nat) : List Nat := (List.range ((a % 128 + n + 127) / 128)).map fun i => a / 128 * 128 + 128 * i

/-- The finding of a read at byte `k` of the range is laid on its place: an uncorrectable word, or a burst of the granary. -/
def State.layHost (s : State) (a : Nat) (bad : Option Nat) : State :=
  match bad with
  | some k =>
    match s.phys (a + k) with
    | some p => s.mark p true
    | none => s
  | none => s

/-- The errors of one row read by a host are counted at its memory (R268, R269, R296, R297). -/
def State.hostRowErrors (s : State) (ar : Area) (r : Nat) : State :=
  match ar with
  | .ls l => s.lsErrors l ((r - 0x18100000000) % 0x80000) 0
  | .bb b => s.bbErrors b ((r - 0x18000000000) % 0x4000000) 0
  | .near =>
    match s.phys r with
    | some p => s.ntRow (ntMap s.zone r).1 r p 0 fun s _ => s
    | none => s
  | _ => s

/-- The first row of a range with an uncorrectable word; in the granary the first such burst. -/
def State.badRow (s : State) (ar : Area) (a n : Nat) : Option Nat :=
  match ar with
  | .granary => (s.badBursts a n).head?
  | .acc => none
  | _ => (rowsOf a n).find? fun r => match s.phys r with | some p => (s.badWord p).isSome | none => false

/-- A host read of a range: its errors are counted; the first bad row, if any. -/
def State.hostRead (s : State) (ar : Area) (a n : Nat) (bad : Option Nat) : State × Option Nat :=
  let s := match bad with | some k => if k < n then s.layHost a bad else s | none => s
  ((rowsOf a n).foldl (fun s r => s.hostRowErrors ar r) (if ar = .granary then s.readBursts a n .clean else s), s.badRow ar a n)

/-- A CONFIRMED held row of the written range goes to its bank first, and its entry is freed (R263). -/
def State.settleRow (s : State) (l r : Nat) : State :=
  match (s.line l).heldFor none r with
  | some d => (s.updLine l fun L => { L with ls.held := L.ls.held.filter fun e => !(e.2.addr == r && e.2.confirmed) }).lsBank l r d
  | none => s

/-- One byte of a sheaf written through the window. -/
def State.accSet (s : State) (a : Nat) (b : Byte) : State :=
  let o := a - 0x18200000000
  let i := o % 0x80000 / 32
  let k := o % 32
  if 18 ≤ k then s
  else s.updLine (o / 0x80000) fun L =>
    let old := L.mx.acc.look (i / 128) (Stamped.of (List.replicate 128 Sheaf.cleared))
    let x := old.cur.getD (i % 128) Sheaf.cleared
    let v : BitVec 144 := (x.v &&& ~~~((0xFF : BitVec 144) <<< (8 * k))) ||| (b.setWidth 144 <<< (8 * k))
    { L with mx := { L.mx with acc := L.mx.acc.put (i / 128) (Stamped.of (old.cur.set (i % 128) { x with v := v })) } }

def State.accBytes (s : State) (a : Nat) (bs : List Byte) : State :=
  match bs with
  | [] => s
  | b :: r => State.accBytes (s.accSet a b) (a + 1) r

/-- Bays whose on-chip memory a range of an area lies in. -/
def Area.bays (ar : Area) (a n : Nat) : List Nat :=
  match ar with
  | .bb b => [b]
  | .ls l => [l / 64]
  | .acc => (accLines a n).map (· / 64)
  | _ => []

/-- A host write of bytes; a bay whose on-chip memory it changes is no longer clear. -/
def State.hostWrite (s : State) (ar : Area) (a : Nat) (bs : List Byte) : State :=
  let s := (ar.bays a bs.length).foldl (fun s b => s.updBay b fun z => { z with clear := false }) s
  match ar with
  | .acc => s.accBytes a bs
  | .ls l =>
    let o := (a - 0x18100000000) % 0x80000
    ((rowsOf o bs.length).foldl (fun s r => s.settleRow l r) s).setBytes a bs
  | .granary => (s.writeLocal a bs).countBytes a bs.length
  | .near => (s.writeLocal a bs).touchCopy a bs.length
  | .bb _ => s.writeLocal a bs

/-! ### Accesses that take slots (R290, R305, R378, R392) -/

/-- Rows of the area are reached through slots, ports or the granary engines: an access goes on row by row. -/
def Area.slotted : Area → Bool
  | .near => true | .bb _ => true | .granary => true | _ => false

/-- The address at which an access goes on, and the bytes of it that lie in that row. -/
def MemAccess.next (m : MemAccess) : Nat := m.addr + m.done
def MemAccess.rowLen (m : MemAccess) : Nat := min (m.len - m.done) (128 - m.next % 128)

/-- The record of type `t` that has begun on a ring and not completed. -/
def State.openRec (s : State) (p q t : Nat) : Option FetchedRec :=
  match (s.sq p q).cur with
  | some o => if o.fr.typ = t && o.post.isNone then some o.fr else none
  | none => none

/-- An access is put in place; it ends with its last row. -/
def State.putAccess (s : State) (m : MemAccess) : State := { s with host.mem := s.host.mem ++ [m] }

/-- How an access ends: with all its bytes, at an uncorrectable error, or because something has come to stand against it (the DETAIL of
R392). -/
inductive AccessEnd where
  | whole | bad (x : Nat) | against (d : Nat)
  deriving DecidableEq, Repr

/-- An access ends: the completion of its COPY record, with what it has read posted before (R392), or the answer of a window. -/
def State.endAccess (s : State) (m : MemAccess) (e : AccessEnd) : State :=
  match m.ring, m.who with
  | some q, .host p =>
    match s.openRec p q 2 with
    | none => s
    | some r =>
      let t := if m.write || m.data = [] then s else s.send (.hostWrite p (r.f 8 8) m.data)
      (match e with
      | .whole =>
        if m.fail = 0 then t.complete p q 0 0 m.len
        else (t.undefineLocal (r.f 16 6 + m.len) (r.f 24 5 - m.len)).complete p q 6 m.fail m.len
      | .bad x => t.complete p q 9 0 (x - m.addr)
      | .against d => t.complete p q 5 d 0).skim p q
  | _, who =>
    match e with
    | .whole => if m.write then s else s.send (.memData who m.data)
    | _ => s.busError who m.write

/-- The next `n` bytes of an access move; `bad` is the byte of them at which a read finds an uncorrectable error. The access ends at its last
byte, at a bad one, or when its memory is no longer there or under a clear (log entry 15). -/
def State.stepAccess (s : State) (m : MemAccess) (n : Nat) (bad : Option Nat) : State :=
  let gone (s : State) : State := { s with host.mem := s.host.mem.erase m }
  match s.against false m.addr m.len, s.areaOf m.next n with
  | none, some ar =>
    let t : State := if m.write then s.hostWrite ar m.next ((m.data.drop m.done).take n) else s
    let (t, b) := if m.write then (t, none) else t.hostRead ar m.next n bad
    let t := if !m.write && ar == .granary then t.countBytes m.next n else t
    match b with
    | some x => (gone t).endAccess { m with data := m.data ++ t.hostBytes m.next (x - m.next) } (.bad x)
    | none =>
      let m' := { m with done := m.done + n, data := if m.write then m.data else m.data ++ t.hostBytes m.next n }
      if m'.done < m.len then { t with host.mem := t.host.mem.replace m m' } else (gone t).endAccess m' .whole
  | some d, _ => (gone s).endAccess m (.against d)
  | none, none => (gone s).endAccess m (.against 1)

/-- The byte that `bad` names among the next `n` of an access. -/
def MemAccess.badIn (m : MemAccess) (n : Nat) : Option Nat :=
  m.bad.bind fun k => if m.done ≤ k && k < m.done + n then some (k - m.done) else none

/-- The next row of an access to the near tier or a bay buffer moves; `found` is what the read finds. -/
def State.accessRow (s : State) (m : MemAccess) (found : EccFinding) : State :=
  let s := match s.phys (m.next / 128 * 128), m.write with
    | some p, false => s.lay p found
    | _, _ => s
  let s := s.countBuffer m.next m.write
  s.stepAccess m m.rowLen (m.badIn m.rowLen)

/-- The next chunk of an access to the granary moves through the engines; `found` is what the read finds: a corrected burst is counted. -/
def State.accessChunk (s : State) (m : MemAccess) (found : BurstFinding) : State :=
  let n := min (m.len - m.done) 4096
  let s := s.wholeChunk m.next n
  match found with
  | .corrected b =>
    (if !m.write && 64 * b.val < n && !s.burstBad (m.next + 64 * b.val) then s.burstFound (m.next + 64 * b.val) false 0 else s).stepAccess
      m n (m.badIn n)
  | .uncorrectable b => s.stepAccess m n (if 64 * b.val < n then some (64 * b.val) else m.badIn n)
  | .clean => s.stepAccess m n (m.badIn n)

/-- The accesses of a record that is over are dropped. -/
def State.dropAccess (s : State) (p q : Nat) : State :=
  { s with host.mem := s.host.mem.filter fun m => !(m.ring == some q && m.who == .host (Fin.ofNat 2 p)) }

/-! ### COPY records (R392) -/

/-- A COPY record begins: its range is checked, and the bytes that go to the device are read from host memory at HADDR, in requests of at most
4,096 bytes (R373, R392). -/
def State.copyBegin (s : State) (p q : Nat) (r : FetchedRec) : State :=
  match s.against s.windowsClosed (r.f 16 6) (r.f 24 5) with
  | some d => s.complete p q 5 d 0
  | none => if r.opt % 2 = 0 then s.readHost p (r.f 8 8) (r.f 24 5) else s

def execCopyRec (port : HostId) (ring : RingId) (s : State) : Host.Outcome State Fault Refusal :=
  .next (if 8 ≤ s.copying port then s else s.record port ring (· == 2) fun s r => s.copyBegin port ring r)

/-- The bytes of a copy have come from the host, or its read begins. A copy of a window moves whole and completes (Table 12-5); one of the near
tier, a bay buffer or the granary goes on row by row and completes with its last (R290, R305). An uncorrectable error ends it (R392). A window
that has closed meanwhile, or a memory under a clear, ends it as at its beginning (log entry 15). -/
def State.copyEnd (s : State) (p q : Nat) (r : FetchedRec) (data : List Byte) (bad : Option Nat) : State :=
  let a := r.f 16 6
  let n := r.f 24 5
  let write : Bool := r.opt % 2 = 0
  match s.against s.windowsClosed a n, s.areaOf a n with
  | some d, _ => s.complete p q 5 d 0
  | none, none => s
  | none, some ar =>
    if ar.slotted && n ≠ 0 then
      if (write && data.length < n) || s.host.mem.any (fun m => m.ring == some q && m.who == .host (Fin.ofNat 2 p)) then s
      else s.putAccess ⟨.host (Fin.ofNat 2 p), some q, a, n, write, if write then data.take n else [], bad, 0, 0⟩
    else if write then
      if data.length < n then s else (s.hostWrite ar a (data.take n)).complete p q 0 0 n
    else
      let (t, b) := s.hostRead ar a n bad
      match b with
      | some x => (t.send (.hostWrite p (r.f 8 8) (s.hostBytes a (x - a)))).complete p q 9 0 (x - a)
      | none => (t.send (.hostWrite p (r.f 8 8) (s.hostBytes a n))).complete p q 0 0 n

def execCopyComplete (port : HostId) (ring : RingId) (data : List Byte) (bad : Option Nat) (s : State) :
    Host.Outcome State Fault Refusal :=
  .next (match s.openRec port ring 2 with
    | some r => if (s.hp port).masters then (s.copyEnd port ring r data bad).skim port ring else s
    | none => s)

/-- DETAIL of status PCIE (Table 12-9). -/
def pcieDetail : PcieError → Nat
  | .ur => 1 | .ca => 2 | .timeout => 3 | .poisoned => 4

/-- The LOAD or FWUPD that holds job control reads host memory no more: it has ended. -/
def State.endRead (s : State) (p q : Nat) : State :=
  let load := s.host.loadRec = some (p, q)
  let s := if load then { s with host.loadRec := none, host.loadFr := none, job.ldBusy := false } else s
  ({ s with host.fwRec := if s.host.fwRec.any fun e => e.1 = (p, q) then none else s.host.fwRec } : State).freeJc p q

/-- A copy of `n` bytes to `a` is cut short after the `data` that has come: what has come is written, in its slots where the memory has slots
(R287, R392), and the rest is undefined. -/
def State.cutCopy (s : State) (p q : Nat) (e : PcieError) (a n : Nat) (data : List Byte) : State :=
  match s.areaOf a n with
  | some ar =>
    if ar.slotted && data ≠ [] then s.putAccess ⟨.host (Fin.ofNat 2 p), some q, a, data.length, true, data, none, 0, pcieDetail e⟩
    else ((s.hostWrite ar a data).undefineLocal (a + data.length) (n - data.length)).complete p q 6 (pcieDetail e) data.length
  | none => s.complete p q 6 (pcieDetail e) data.length

/-- The bit of the port's AER log that a failed request of the device sets: a completion timeout, a poisoned completion (R373; log entry 71). -/
def pcieAer : PcieError → W32
  | .timeout => 0x4000 | .poisoned => 0x1000 | _ => 0

/-- A device request to the host fails (R373, Table 12-9): HST_ERR.REQ_FAIL, and AER; a COPY to the host writes what it has read and ends there; one
from the host ends after the bytes that have come; a LOAD, or a FWUPD, which also read host memory, ends too, begun or not (log entry 43). -/
def State.pcieFail (s : State) (p q : Nat) (e : PcieError) (data : List Byte) : State :=
  let s := (s.hostErr p 4).logAer p (pcieAer e)
  match (s.sq p q).cur with
  | none =>
    if s.host.jc = some (p, 16) then s.endRead p 16
    else (s.jobRecord p q (· == 11) fun s _ => s.complete p q 6 (pcieDetail e) 0).skim p q
  | some o =>
    let r := o.fr
    if o.post.isSome then s
    else if r.typ = 2 then
      let n := r.f 24 5
      let m := min data.length n / 64 * 64
      let got := ((s.host.mem.find? fun m => m.ring == some q && m.who == .host (Fin.ofNat 2 p)).map (·.data)).getD []
      let s := s.dropAccess p q
      if r.opt % 2 = 1 then
        (if got = [] then s else s.send (.hostWrite p (r.f 8 8) got)).complete p q 6 (pcieDetail e) got.length
      else s.cutCopy p q e (r.f 16 6) n (data.take m)
    else if r.typ = 3 || r.typ = 11 then (s.complete p q 6 (pcieDetail e) 0).endRead p q
    else s

def execPcieCompletionTimeout (port : HostId) (ring : RingId) (err : PcieError) (data : List Byte) (s : State) :
    Host.Outcome State Fault Refusal := .next (s.pcieFail port ring err data)

/-! ### The windows and BAR4 (R29, R370, R378) -/

/-- The windows are closed for this requester and kind of access (R29, R370). -/
def State.closedFor (s : State) (who : Requester) (write : Bool) : Bool :=
  match who with
  | .debug => if write then s.time.loaded else !s.debugReads && s.windowsClosed
  | _ => s.windowsClosed

/-- An access to a local range: data or an error response. One of the near tier, a bay buffer or the granary is answered when its last row has
moved (R290, R305). -/
def State.localAccess (s : State) (who : Requester) (a : Nat) (write : Bool) (data : List Byte) (len : Nat) (bad : Option Nat) : State :=
  let n := if write then data.length else len
  match s.against (s.closedFor who write) a n, s.areaOf a n with
  | none, some ar =>
    if ar.slotted && n ≠ 0 then s.putAccess ⟨who, none, a, n, write, if write then data else [], bad, 0, 0⟩
    else if write then s.hostWrite ar a data
    else
      match s.hostRead ar a n bad with
      | (t, some _) => t.busError who false
      | (t, none) => t.send (.memData who (s.hostBytes a n))
  | _, _ => s.busError who write

/-- WINDOW_ACCESS: an access by local address. The debug port reaches the local-store and accumulator windows alone, while its test access
port is unlocked (R370); an address that nothing is mapped at answers every requester with an error (R27). -/
def State.windowAccess (s : State) (who : Requester) (a : Nat) (write : Bool) (data : List Byte) (len : Nat) (bad : Option Nat) : State :=
  if !s.tapOpen who then s
  else if !s.claims who then s.unclaimed who
  else if who = .debug && (a < 0x18100000000 || 0x18300000000 ≤ a) then s.busError who write
  else s.localAccess who a write data len bad

def execWindowAccess (who : Requester) (addr : BitVec 42) (write : Bool) (data : List Byte) (len : Fin 4097) (bad : Option Nat)
    (s : State) : Host.Outcome State Fault Refusal :=
  .next (s.windowAccess who addr.toNat write data len.val bad)

/-- Size of the BAR4 window (Table 1-4). -/
def State.bar4Size (s : State) : Nat :=
  match s.mod.straps.bar4sz.toNat with | 1 => 16 * 2 ^ 30 | 2 => 64 * 2 ^ 30 | _ => 2 ^ 30

/-- An error response of BAR4 that sets HST_ERR.B4_REMOTE. -/
def State.b4Error (s : State) (p : HostId) (write : Bool) : State := (s.busError (.host p) write).hostErr p 1

/-- The packet of 256 bytes at `b` that carries a part of a host's write to `a`: the manual does not say what the bytes that the write does
not name are, so they are free values (log entry 16). -/
def State.remotePayload (s : State) (a b : Nat) (data : List Byte) : BitVec 2048 :=
  BitVec.ofNat 2048 (leNat ((List.range 256).map fun i =>
    if a ≤ b + i && b + i < a + data.length then data.getD (b + i - a) 0 else Config.freeByte s.freeIx i))

/-- A write to the granary range of another module travels as dynamic data packets (R341 to R343, R378). -/
def State.remoteWrite (s : State) (dst : BitVec 15) (a : Nat) (data : List Byte) : State :=
  let tag := s.fab.nextTag
  let first := a / 128 * 128
  let n := (a - first + data.length + 255) / 256
  let mk (i : Nat) : DynOut :=
    let last := i + 1 == n
    { due := 0, tag := tag, dst := dst
      pkt := ⟨mkHeader 2 1 0 none last 0 s.coord dst 0 (first + 256 * i) tag, s.remotePayload a (first + 256 * i) data⟩ }
  let outq := s.fab.outq ++ (List.range n).map mk
  ({ s with fab.outq := outq, fab.nextTag := (tag + 1) % 2 ^ 32
            freeIx := s.freeIx + (if first = a && data.length % 256 = 0 then 0 else 1) } : State).injectDue

/-- The port on which a packet of this module to `dst` leaves is UP (R431). -/
def State.canReach (s : State) (dst : BitVec 15) : Bool :=
  match s.route s.coord dst false none with
  | some (p, _) => s.portUp p
  | none => false

/-- A host access at offset `o` of BAR4 (R378, R30 to R32). One that needs the module's own coordinate waits until it is in force (R35). -/
def State.bar4 (s : State) (p : HostId) (o : Nat) (write : Bool) (data : List Byte) (len : Nat) (bad : Option Nat) : State :=
  let g := (s.hp p).b4Base.toNat / s.bar4Size * s.bar4Size + o
  let a := g % 2 ^ 42
  let n := if write then data.length else len
  let coord := BitVec.ofNat 15 (g / 2 ^ 42)
  let loc := g / 2 ^ 57 % 2 = 1
  if !s.claims (.host p) then s.unclaimed (.host p)
  else if !s.mod.mgmt then s.busError (.host p) write
  else if s.bar4Size < o + n then s
  else if 2 ^ 58 ≤ g || (loc && coord ≠ 0) then s.b4Error p write
  else if loc then s.localAccess (.host p) a write data len bad
  else if !s.coordOk then { s with host.hall := s.host.hall ++ [⟨p, o, write, data, len, bad⟩] }
  else if coord = s.coord then s.localAccess (.host p) a write data len bad
  else if !s.inTorus coord then s.b4Error p write
  else if write && inGranary a then (if s.canReach coord then s.remoteWrite coord a data else s.busError (.host p) write)
  else s.b4Error p write

/-- The accesses that waited for the coordinate, once it is in force (R35). -/
def State.hallWaits (s : State) : State :=
  if s.coordOk then
    s.host.hall.foldl (fun s w => s.bar4 w.port w.offset w.write w.data w.len w.bad) { s with host.hall := [] }
  else s

def execBar4Access (port : HostId) (offset : BitVec 36) (write : Bool) (data : List Byte) (len : Fin 4097) (bad : Option Nat)
    (s : State) : Host.Outcome State Fault Refusal :=
  .next (s.bar4 port offset.toNat write data len.val bad)

end Sys2Proof.Machine
end

