-- ==== Sys2Proof/Machine/Recover.lean ====
section
/-! DEFINITION. Bring-up (Table 14-1, R428, R429), resets (Tables 14-3, 14-4), management failover (R432), shutdown and stop thresholds
(R408, R426), forced disables (R438). -/

namespace Sys2Proof.Machine

/-! ### Resets -/

/-- Map-outs and repair lists are in the nonvolatile record (R274, R434). -/
def LineState.keepMaps (e : Nat × LineState) : Nat × LineState :=
  (e.1, { LineState.idle with ls := { (LineState.idle).ls with isMap := e.2.ls.isMap, isErr := e.2.ls.isErr &&& 1024 } })
def BayState.keepRepair (e : Nat × BayState) : Nat × BayState :=
  (e.1, { (default : BayState) with stk := e.2.stk.map fun k => (k.1, { (default : StackState) with repair := k.2.repair }) })

/-- The nonvolatile record of snapshots: slot and capture-area configuration (R442). -/
def RecoverState.keep (r : RecoverState) (content : Bool) : RecoverState :=
  { (default : RecoverState) with
    alert := r.alert, alertCc := r.alertCc, slotA := r.slotA, slotB := r.slotB, bslot0 := r.bslot0, bslot1 := r.bslot1, cap := r.cap, slotsz := r.slotsz
    caps := if content then r.caps else [] }

/-- Fuses, flash, owner keys and the module's identity outlive every reset; measurements, BOOTED and UNLOCKED do not (R466, R469, R473). -/
def SecState.keep (z : SecState) : SecState :=
  { z with run := 0, booted := false, svn := 0, lastCode := none, bootRej := none, mRom := 0, mMgmt := 0, mBay := 0, mStrap := 0
           unlocked := false }

/-- A port's registers and rings are reset and its link is down; PERST# is an input of the module. -/
def HostPort.down (now : Nat) (h : HostPort) : HostPort := { HostPort.reset with perst := h.perst, downAt := some now }

/-- The whole destination range of every move in the queue is undefined (R441). -/
def State.undefineMoves (s : State) : State :=
  (s.gr.queue.filter fun m => !m.ended).foldl (fun s m => s.undefineLocal m.dst m.len) s

/-- What a module reset cuts short: copies (R382), moves (R441), a snapshot (R450), a pull (R451). -/
def State.cutWork (s : State) : State :=
  let s := (((s.cutCopies 0).cutCopies 1).undefineMoves).cutSnapshot
  if s.rcv.pullAct then s.cutSlot s.rcv.pullTo else s

/-- Every byte of the near tier and of the granary loses its content (Table 14-4). -/
def State.loseMemory (s : State) : State :=
  ((s.zeroBytes 0 0x18000000000).undefine 0 0x18000000000).undefine 0x20000000000 0x20000000000

/-- A module reset, with rails removed or not (Tables 14-3, 14-4): everything but the always-on domain and the nonvolatile record. -/
def State.moduleReset (s : State) (off : Bool) : State :=
  let s := if off then s.loseMemory else s.cutWork
  let s := s.zeroBytes 0x18000000000 0x8000000000
  let one (p : Nat) : HostPort := HostPort.down s.time.now (s.hp p)
  { State.reset with
    time := { TimeState.reset with now := s.time.now }
    mem := s.mem, undef := s.undef, marks := s.marks, freeIx := s.freeIx, outbox := s.outbox, pending := s.pending, part := s.part
    lines := (s.lines.map LineState.keepMaps).filter fun e => e.2 ≠ LineState.idle
    bays := s.bays.map BayState.keepRepair
    host := { HostState.reset with ports := [(0, one 0), (1, one 1)] }
    pwr := { PowerState.reset with cls := s.pwr.cls, clsWin := s.pwr.cls, vctrl := s.pwr.vctrl, alert := s.pwr.alert, alertCc := s.pwr.alertCc, tmax := if s.mod.shut then s.pwr.tmax else 0 }
    rcv := s.rcv.keep (!off)
    sec := s.sec.keep
    mod := { (default : ModState) with
      vin := s.mod.vin, standby := s.mod.standby, rails := s.mod.rails && !off, shut := s.mod.shut, rstLow := s.mod.rstLow, cold := s.mod.cold, alertLow := s.mod.alertLow } }

/-- A cold reset: a module reset with rails removed that also resets the always-on domain (R427, R433). -/
def State.coldReset (s : State) : State :=
  let s := s.moduleReset true
  { s with pwr := PowerState.reset, rcv.alert := 0, rcv.alertCc := 0, mod.cold := true, mod.shut := false }

/-- VIN_GOOD: VIN enters its operating range. The first time, or when VSTBY has been `lost` with VIN, VSTBY comes up with it and the always-on
domain is reset (Tables 14-1, 14-3; log entry 93). -/
def execVinGood (s : State) (lost : Bool := false) : Host.Outcome State Fault Refusal :=
  .next (if s.mod.standby && !(lost && !s.mod.vin) then { s with mod.vin := true }
    else { s.coldReset with mod.vin := true, mod.standby := true })

/-- VIN_STOP_THRESHOLD: VIN crosses the low or the high one (R408). -/
def execVinStopThreshold (high : Bool) (s : State) : Host.Outcome State Fault Refusal :=
  let t := s.moduleReset true
  .next { t with mod.vin := false, pwr := (t.powerAlert (if high then 2 else 1)).pwr }

/-- THERMAL_SHUTDOWN: a reading of a sensor (Table 13-7 numbers them: 0 to 31 of the dies, 32 to 35 of the stacks) at its shutdown temperature
(R426). -/
def execThermalShutdown (bay : BayId) (sensor : Fin 36) (degrees : BitVec 8) (s : State) : Host.Outcome State Fault Refusal :=
  let top := if sensor.val < 32 then 110 else 105
  if degrees.toNat < top then .next s
  else
    let t := s.moduleReset true
    .next { t with
      mod.shut := true
      pwr := { (t.powerAlert 16).pwr with tmax := BitVec.ofNat 32 (degrees.toNat + 256 * bay.val + 2048 * sensor.val) } }

/-- A module reset by pin or by command ends a shutdown once every sensor reads below 80 °C (R426, R429). -/
def State.resetBy (s : State) (cool : Bool) : State :=
  let s := s.moduleReset false
  { s with mod.shut := s.mod.shut && !cool }

/-- MODRST_N goes low, for at least 1 microsecond, or high (R433); sampling waits while it is low (R429). -/
def execModrstN (low cool : Bool) (s : State) : Host.Outcome State Fault Refusal :=
  .next (if low then { (s.resetBy cool) with mod.rstLow := true } else { s with mod.rstLow := false })

/-- I3C_RESET_COMMAND (R455). -/
def execI3cResetCommand (cool : Bool) (s : State) : Host.Outcome State Fault Refusal := .next (s.resetBy cool)

/-! ### Straps and rails (R20, R21, R429) -/

/-- A pin's agreed value, or zeros where its samples differ. -/
def pin {n : Nat} (v : Option (BitVec n)) : BitVec n := v.getD 0

/-- The straps in use after R21: reserved encodings count as zeros. -/
def strapsOf (p : StrapPins) : Straps :=
  let differ : Bool := p.hostrole.isNone || p.pwrclass.isNone || p.sigpol.isNone || p.bootsrc.isNone || p.coordMode.isNone ||
    p.coord.isNone || p.bar4sz.isNone || p.deadMode.isNone || p.tkovr.isNone
  let reserved : Bool := 6 ≤ (pin p.pwrclass).toNat || pin p.bootsrc = 3 || pin p.bar4sz = 3
  { hostrole := pin p.hostrole
    pwrclass := if 6 ≤ (pin p.pwrclass).toNat then 0 else pin p.pwrclass
    sigpol := pin p.sigpol
    bootsrc := if pin p.bootsrc = 3 then 0 else pin p.bootsrc
    coordMode := pin p.coordMode, coord := pin p.coord
    bar4sz := if pin p.bar4sz = 3 then 0 else pin p.bar4sz
    deadMode := pin p.deadMode, tkovr := pin p.tkovr, err := differ || reserved }

/-- HST_TKOVR by the TKOVR strap, in units of 10 ms (R406). -/
def strapTkovr (v : BitVec 2) : Nat := match v.toNat with | 0 => 200 | 1 => 50 | 2 => 800 | _ => 3000

/-- MOD_STRAP (Table 1-12). -/
def Straps.word (z : Straps) : W32 :=
  BitVec.ofNat 32 (z.hostrole.toNat + 2 * z.pwrclass.toNat + 2 ^ 4 * z.sigpol.toNat + 2 ^ 5 * z.bootsrc.toNat + 2 ^ 7 * z.coordMode.toNat +
    2 ^ 8 * z.coord.toNat + 2 ^ 23 * z.bar4sz.toNat + 2 ^ 25 * z.deadMode.toNat + 2 ^ 26 * z.tkovr.toNat + 2 ^ 31 * (if z.err then 1 else 0))

/-- The straps take effect: the owner, the takeover time, the mailboxes, the coordinate under COORD_MODE 0 (R35), and at a cold reset the
class (R409, R427). -/
def State.strap (s : State) (z : Straps) : State :=
  let boxes := s.host.boxes.map fun e : Nat × Mailbox => (e.1, { e.2 with deadMode := z.deadMode == 1 })
  let s := { s with
    mod := { s.mod with straps := z, sampled := true, cold := false }
    pwr := if s.mod.cold then { s.pwr with cls := z.pwrclass.toNat, clsWin := z.pwrclass.toNat } else s.pwr
    host := { s.host with owner := z.hostrole.toNat, lastTk := false, changed := false, changes := 0, tkovr := strapTkovr z.tkovr, boxes := boxes }
    coord := if z.coordMode = 0 then z.coord else s.coord
    coordOk := if z.coordMode = 0 then true else s.coordOk }
  if z.err then s.setAlert 1 else s

/-- STRAP_SAMPLING: 1 ms after VSTBY is good, MODRST_N is high and the cause of the reset has ended. -/
def execStrapSampling (pins : StrapPins) (s : State) : Host.Outcome State Fault Refusal :=
  .next (if s.mod.standby && s.mod.vin && !s.mod.rstLow && !s.mod.shut && !s.mod.sampled then s.strap (strapsOf pins) else s)

/-- RAILS_UP (Table 14-1, step 3). -/
def execRailsUp (s : State) : Host.Outcome State Fault Refusal :=
  .next (if s.mod.sampled && s.mod.vin && !s.mod.shut then { s with mod.rails := true } else s)

/-! ### Bays and channels (Table 14-1, steps 6 and 7) -/

/-- Steps 4 and 5 are done. -/
def State.upAndManaged (s : State) : Bool := s.powered && s.fab.clk && s.mod.mgmt

/-- BAY_READY: the stacks are trained, and the fill engines have cleared the bay's on-chip memories. -/
def State.bayUp (s : State) (b : Nat) : State :=
  let line (e : Nat × LineState) : Nat × LineState := if bayOf e.1 = b then (e.1, e.2.cleared) else e
  let s := { s with lines := s.lines.map line }
  let s := (s.updBay b fun z => { (z.startFill false) with trained := 15, inReset := false }).finishChip b
  { s with mod.bayReady := bitOn s.mod.bayReady b }

def execBayReady (bay : BayId) (s : State) : Host.Outcome State Fault Refusal :=
  .next (if s.upAndManaged && !s.rcv.disBay.getLsbD bay && !s.mod.bayReady.getLsbD bay then s.bayUp bay else s)

/-- What the eight sockets hold: the modules of Table 0-1 for AW8-M1T and AW8-M2T, what the customer has fitted otherwise (R1). -/
def State.socketsHold (s : State) (fitted : List DimmFound) : List DimmFound :=
  match s.part.order.toNat with
  | 1 => List.replicate 8 ⟨2, 2⟩
  | 2 => List.replicate 8 ⟨2, 4⟩
  | _ => fitted

/-- A DIMM of a type or capacity that R300 does not list. -/
def DimmFound.unlisted (d : DimmFound) : Bool := 3 ≤ d.typ || 5 ≤ d.cap

/-- The DIMMs found in the eight sockets (R23, R300): an unlike pair, or a population other than those of R300 and Table 9-4, leaves the granary
empty. -/
def State.populate (s : State) (fitted : List DimmFound) : State :=
  let f := (s.socketsHold fitted).take 8
  let kinds := (f.filter fun d => d.typ ≠ 0).eraseDups
  let sockets := (List.range 8).filter fun n => (f.getD n default).typ ≠ 0
  let dimm (n : Nat) : Nat × Dimm :=
    let d := f.getD n default
    (n, { typ := d.typ, cap := d.cap, trained := (s.gr.dimms.look n default).trained, ready := (s.gr.dimms.look n default).ready })
  let mis := 1 < kinds.length
  let err := sockets ≠ [] && (!populations.contains sockets || kinds.any DimmFound.unlisted)
  let s := ({ s with gr.dimms := (List.range 8).map dimm, gr.mismatch := mis, gr.popErr := err } : State).repopulate
  if mis || err then ({ s with mod.chReady := 0 } : State).setAlert 2 else s

/-- GRANARY_CHANNEL_READY: the DIMM of a channel is trained and the population checked; `fitted` is what the eight sockets hold. -/
def State.channelUp (s : State) (n : Nat) (fitted : List DimmFound) : State :=
  let s := s.populate fitted
  let s := { s with gr.dimms := s.gr.dimms.upd n default fun d => { d with trained := true, ready := s.gr.pop.contains n } }
  if s.gr.pop.contains n && !s.rcv.disCh.getLsbD n && !s.rcv.disBay.getLsbD (channelBay n) then
    { s with mod.chReady := bitOn s.mod.chReady n, gr.statusOff := false }
  else s

def execGranaryChannelReady (channel : Fin 8) (fitted : List DimmFound) (s : State) : Host.Outcome State Fault Refusal :=
  .next (if s.upAndManaged then s.channelUp channel fitted else s)

/-! ### Management failover (R432) -/

/-- A record that holds job control completes with ABORTED; a LOAD so stopped leaves the module unloaded. -/
def State.stopJc (s : State) : State :=
  match s.host.jc with
  | some (p, q) =>
    { (s.complete p q 7 0 0) with host.jc := none, host.loadRec := none, host.loadFr := none, host.fwRec := none, job.ldBusy := false }
  | none => s

/-- MANAGEMENT_FAILOVER: the primary has missed its heartbeat for 50 ms. The management end of every mailbox enters reset (R405). -/
def State.failover (s : State) : State :=
  let s := allBoxes.foldl (fun s b => s.boxReset b true) s.stopJc
  ({ s with mod.mgmt := false, rcv.standby := true, rcv.standbyOk := false, rcv.failovers := min 255 (s.rcv.failovers + 1) } : State).setAlert 10

def execManagementFailover (s : State) : Host.Outcome State Fault Refusal :=
  .next (if s.mod.mgmt && !s.rcv.standby then s.failover else s)

/-- STANDBY_READY. -/
def execStandbyReady (s : State) : Host.Outcome State Fault Refusal :=
  .next (if s.powered && s.sec.booted && s.rcv.standby then { s with mod.mgmt := true } else s)

/-! ### RCV_CMD (R433, R436, R456) -/

/-- The host register bus carries accesses of both ports, the management controller and the debug port (R400). -/
def onBus (who : Requester) : Bool := match who with | .bmc | .firmware _ => false | _ => true

/-- A register write that reaches its register: the debug port needs the test access port unlocked (R473), and before MGMT only some registers
answer (R431). -/
def State.regWrite (s : State) (who : Requester) (o : Nat) (f : State → State) : State :=
  if !onBus who || !s.tapOpen who then s else if !s.claims who then s.unclaimed who else if !s.answers who o then s.busError who true else f s

/-- Offset of a register of the base-die block of a bay (Table 1-10). -/
def dieReg (b x : Nat) : Nat := 0x500000 + b * 0x200000 + x

/-- MODRST by the owner. -/
def execModrstCmd (who : Requester) (s : State) : Host.Outcome State Fault Refusal :=
  .next (s.regWrite who (dieReg 0 0x840) fun s => if s.isOwner who then s.moduleReset false else s)

/-- A bay reset (R436): its dies, controllers, bay buffer and fabric ports are initialised anew, and the fill engines clear its on-chip memories
before it reports ready (R280); the content of its stacks is kept, and a clear of its slices goes on (R299). The controllers of its granary
channels start anew. With no job loaded the fault buffer and the RCV_INTR records are gone too (Table 14-4). -/
def State.bayReset (s : State) (b : Nat) : State :=
  let line (e : Nat × LineState) : Nat × LineState := if bayOf e.1 = b then LineState.keepMaps e else e
  let die (z : BayState) : BayState :=
    { ((BayState.keepRepair (b, z)).2.startFill false) with inReset := true, ntDone := z.ntDone, ntActive := z.ntActive, ntPos := z.ntPos, ntClear := z.ntClear }
  let s := ({ s with lines := s.lines.map line, mod.bayReady := bitOff s.mod.bayReady b } : State).updBay b die
  let s := ((List.range 12).filter fun p => portBay p = b).foldl
    (fun s p => s.updPort p fun P => { P.fresh with st := if P.st = 7 then 7 else 0 }) s
  let s := match pairOfBay b with
    | some u => { s with gr.pairs := s.gr.pairs.del u, gr.scrub := (s.gr.scrub.del (2 * u)).del (2 * u + 1) }
    | none => s
  let s := if s.time.loaded then s else { s with rcv.intr := [], job.faults := [], job.faultSc := none }
  s.boxReset (.internal (Fin.ofNat 4 (b / 2))) false

/-- The management controller may reset a bay whose stack training has failed: one that comes up and is not ready, at most twice per bring-up
(R433). -/
def State.mayRetrain (s : State) (who : Requester) (b : Nat) : Bool :=
  who == .mgmt && s.upAndManaged && !s.mod.bayReady.getLsbD b && !s.rcv.disBay.getLsbD b && s.mod.trains.look b 0 < 2

/-- BAYRST by the owner while no job is loaded, or by the management controller after a failed training (R433). -/
def execBayrst (who : Requester) (bay : BayId) (s : State) : Host.Outcome State Fault Refusal :=
  .next (s.regWrite who (dieReg 0 0x840) fun s =>
    if s.isOwner who && !s.time.loaded then s.bayReset bay
    else if s.mayRetrain who bay then
      let t := s.bayReset bay
      { t with mod.trains := t.mod.trains.upd bay 0 (· + 1) }
    else s)

/-- LINERST from the debug port: one line's stations, queues and memories, cleared as after a kill (Table 14-3). -/
def execLinerst (who : Requester) (line : LineId) (s : State) : Host.Outcome State Fault Refusal :=
  .next (s.regWrite who (dieReg 0 0x840) fun s =>
    if who = .debug && !s.time.loaded then s.updLine line fun L => { L.cleared with inReset := true } else s)

/-! ### Disables by register (R348, R437, R438) -/

/-- Requests of a mask are queued or withdrawn: a bit that rises takes the current cc. -/
def disTimes (t : Tbl Nat) (base n old new now : Nat) : Tbl Nat :=
  (List.range n).foldl (fun t i =>
    if Nat.testBit new i then (if Nat.testBit old i then t else t.put (base + i) now) else t.del (base + i)) t

/-- A function is disabled already. -/
def State.isDisabled (s : State) (f : Func) : Bool :=
  match f with
  | .bay b => s.rcv.disBay.getLsbD b
  | .channel n => s.rcv.disCh.getLsbD n
  | .port p => s.fab.disabled.getLsbD p

/-- A request for a function that is disabled already leaves its bit clear. -/
def State.disMask (s : State) (v : BitVec 16) : BitVec 16 :=
  v &&& ~~~(s.rcv.disBay.setWidth 16 ||| (s.rcv.disCh.setWidth 16 <<< 8))

def execRcvDisreqWrite (who : Requester) (value : W32) (s : State) : Host.Outcome State Fault Refusal :=
  .next (s.regWrite who (dieReg 0 0x804) fun s =>
    if s.isOwner who then
      let v := s.disMask (value.setWidth 16)
      ({ s with rcv.disreq := v
                rcv.disSince := disTimes s.rcv.disSince 0 16 s.rcv.disreq.toNat v.toNat s.time.now } : State).pendDisable
    else s)

def execFabDisreqWrite (who : Requester) (value : W32) (s : State) : Host.Outcome State Fault Refusal :=
  .next (s.regWrite who 0x1400020 fun s =>
    if s.isOwner who then
      let v := value.setWidth 12 &&& ~~~s.fab.disabled
      ({ s with fab.disreq := v
                rcv.disSince := disTimes s.rcv.disSince 16 12 s.fab.disreq.toNat v.toNat s.time.now } : State).pendDisable
    else s)

/-- Work in flight of a function that is disabled by force under a job that uses it, or that has stopped at a fault, is abandoned: the engines' chunk, the program's further
moves and the committed free slots of a bay (R438); the fault reports it, and RCV_INTR the moves that had begun (R441). -/
def State.abandon (s : State) (f : Func) : State :=
  match f with
  | .port _ => s
  | .channel _ => { s with gr.cur := none, gr.abandoned := true }
  | .bay b => { s with gr.cur := none, gr.abandoned := true, free := s.free.filter fun c => c.slice / 32 ≠ b.val }

/-- A function is disabled by force: a job that uses it faults at the sc of the first unheld cc (R438); a port is lost as well (R347). -/
def State.forceDisable (s : State) (f : Func) : State :=
  if s.isDisabled f then s
  else
    let t := if s.jobUses f then s.faultAt s.nextSc .disable 0 UnitRef.none UnitRef.none 0 (funcAux f) else s
    let s := if s.jobUses f || (s.job.faultSc.isSome && s.partUses f) then t.abandon f else t
    let s := match f with | .port p => s.faultFab s.nextSc .fabPort p 0 p | _ => s
    s.disable f

def execRcvDisforceWrite (who : Requester) (value : W32) (s : State) : Host.Outcome State Fault Refusal :=
  .next (s.regWrite who (dieReg 0 0x808) fun s =>
    if s.isOwner who then (allFuncs.filter fun f => value.getLsbD (funcIx f)).foldl State.forceDisable s else s)

/-- RETRAIN takes a FAILED port to DOWN (Table 10-3); the owner writes it while no job is loaded (R352). -/
def execRetrainPort (who : Requester) (port : PortId) (s : State) : Host.Outcome State Fault Refusal :=
  .next (s.regWrite who (0x1401024 + 0x100 * port.val) fun s =>
    if s.isOwner who && !s.time.loaded then s.portStep port 6 0 else s)

end Sys2Proof.Machine
end

