-- ==== Sys2Proof/Machine/Security.lean ====
section
/-! DEFINITION. Firmware packages and the boot chain (R459 to R464), firmware update (R465, R466), owner commands (R468 to R470, R473),
attestation (R472). -/

namespace Sys2Proof.Machine

/-! ### Firmware packages (R459, Tables 15-2, 15-3) -/

/-- Where the bay firmware begins: the next 4 KiB boundary after the management firmware. -/
def pkgBay (pkg : List Byte) : Nat := (8192 + recField pkg 20 4 + 4095) / 4096 * 4096

/-- The layout of a package is not that of Table 15-2. -/
def pkgMalformed (pkg : List Byte) : Bool :=
  let flags := recField pkg 11 1
  let svn := recField pkg 12 4
  let floor := recField pkg 16 4
  let m := recField pkg 20 4
  let b := recField pkg 24 4
  sub pkg 0 8 ≠ ascii "AWFWPKG0" || recField pkg 8 2 ≠ 1 || 4 ≤ flags ||
  (flags / 2 % 2 = 1 && (64 < floor || svn < floor)) || m = 0 || 16 * mib < m || b = 0 || 8 * mib < b || !zeros pkg 28 31 ||
  !zeros pkg 5421 8191 || pkg.length < pkgBay pkg + b

/-- The code of the first check that a package fails (Table 15-3). -/
def State.pkgCode (s : State) (pkg : List Byte) : Option Nat :=
  let k := recField pkg 10 1
  let key := sub pkg 160 1952
  if pkgMalformed pkg then some 1
  else if 1 < k || shake512 key ≠ s.sec.vkd.look k 0 || s.sec.revoked.getLsbD k then some 2
  else if recField pkg 12 4 < s.sec.floor then some 3
  else if (shake512 (sub pkg 8192 (recField pkg 20 4))).toNat ≠ recField pkg 32 64 ||
      (shake512 (sub pkg (pkgBay pkg) (recField pkg 24 4))).toNat ≠ recField pkg 96 64 then some 4
  else if !Config.verify key (ascii "AW8-FW") (leBytes 64 (shake512 (sub pkg 0 2112)).toNat) (sub pkg 2112 3309) then some 5
  else none

/-! ### The boot chain (R461 to R464) -/

/-- The digest of a slot header (R460, log entry 92). -/
def headerDigest (st seq : Nat) : BitVec 512 := shake512 (leBytes 4 st ++ leBytes 4 seq)
/-- A slot with a header written whole. -/
def FlashSlot.written (st seq : Nat) (pkg : List Byte) : FlashSlot := ⟨st, seq, headerDigest st seq, pkg⟩
/-- The state of a slot: a header whose digest fails counts as EMPTY (R460). -/
def FlashSlot.state (f : FlashSlot) : Nat := if f.dig = headerDigest f.st f.seq then f.st else 0
/-- A flash slot by its source code: 0 A, 1 B. -/
def SecState.slot (z : SecState) (k : Nat) : FlashSlot := if k = 0 then z.flashA else z.flashB
def SecState.setSlot (z : SecState) (k : Nat) (f : FlashSlot) : SecState := if k = 0 then { z with flashA := f } else { z with flashB := f }

/-- The strapped slot, and the newest flash slot (R461). -/
def State.strapSlot (s : State) : Nat := if s.mod.straps.bootsrc = 1 then 1 else 0
def State.newest (s : State) : Nat :=
  let a := s.sec.flashA
  let b := s.sec.flashB
  if a.state = 3 && b.state = 3 then (if a.seq = b.seq then s.strapSlot else if a.seq < b.seq then 1 else 0)
  else if a.state = 3 then 0 else if b.state = 3 then 1 else s.strapSlot

/-- The order of tries (R461). -/
def State.bootOrder (s : State) : List Nat :=
  if s.mod.straps.bootsrc = 2 then [2, s.newest, 1 - s.newest] else [s.newest, 1 - s.newest, 2]

/-- The fuse actions of a COMMITTED package (R464). -/
def SecState.fuse (z : SecState) (pkg : List Byte) : SecState :=
  let flags := recField pkg 11 1
  let z := if flags % 2 = 1 then { z with revoked := bitOn z.revoked (1 - recField pkg 10 1) } else z
  if flags / 2 % 2 = 1 then { z with floor := max z.floor (recField pkg 16 4) } else z

/-- The rows of the repair list of every stack are repaired as the management controller starts: the errors recorded in them are gone (R296,
Table 14-1, step 5). -/
def State.repairRows (s : State) : State :=
  s.bays.foldl (fun s b => b.2.stk.foldl (fun s k => k.2.repair.foldl (fun s r => s.fixRow (128 * r)) s) s) s

/-- The boot ROM measures a package and starts it, and the identity key is derived from its seed (Table 15-1); the management firmware brings MGMT up (R464, Table 14-1 step 5). The standby of bay 7 comes
up with it (log entry 32). -/
def State.startFirmware (s : State) (src : Nat) (pkg : List Byte) : State :=
  let z := if src = 2 then s.sec else s.sec.fuse pkg
  let z := { z with
    run := src, booted := true, svn := recField pkg 12 4, mRom := Config.romDigest
    mMgmt := BitVec.ofNat 512 (recField pkg 32 64), mBay := BitVec.ofNat 512 (recField pkg 96 64)
    mStrap := shake512 (leBytes 4 s.mod.straps.word.toNat), idpub := Config.publicKey z.seed }
  ({ s with sec := z, mod := { s.mod with mgmt := true, bootFail := false, bootMsg := none, bootWait := false, tries := [] }
            rcv.standbyOk := true } : State).allowOwner.repairRows

/-- A try is rejected with a code. -/
def State.reject (s : State) (src code : Nat) : State := { s with sec.bootRej := some (code, src) }

/-- The non-secure mailbox of the port that HOSTROLE names. -/
def State.bootBox (s : State) : MailboxId := .open_ (Fin.ofNat 2 s.mod.straps.hostrole.toNat)

/-- The boot ROM posts its message of a failed boot once the mailbox is IDLE (R402, R463). -/
def State.bootNotice (s : State) : State :=
  match s.mod.bootMsg with
  | some code => if (s.box s.bootBox).st = 0 then ({ s with mod.bootMsg := none } : State).postBox s.bootBox 0xBF code else s
  | none => s

/-- Every try has failed (R463). -/
def State.bootFailed (s : State) : State :=
  let code := match s.sec.bootRej with | some (c, _) => c | none => 0
  ({ s with mod := { s.mod with bootFail := true, bootMsg := some code, bootWait := false, tries := [] } } : State).bootNotice

/-- What a flash slot gives when it is tried: its package, or a code. -/
def State.flashTry (s : State) (k : Nat) : Except Nat (List Byte) :=
  let f := s.sec.slot k
  if f.state ≠ 3 then .error 6
  else match s.pkgCode f.pkg with | some c => .error c | none => .ok f.pkg

/-- The sources are tried in order; at the host the boot ROM waits for a package. -/
def State.tryBoot (s : State) (order : List Nat) : State :=
  match order with
  | [] => s.bootFailed
  | k :: r =>
    if k = 2 then { s with mod := { s.mod with bootWait := true, tries := r } }
    else match s.flashTry k with
      | .ok pkg => s.startFirmware k pkg
      | .error c => State.tryBoot (s.reject k c) r

/-- MANAGEMENT_BOOT: the boot ROM starts with the rails up. -/
def execManagementBoot (s : State) : Host.Outcome State Fault Refusal :=
  .next (if s.powered && !s.sec.booted && !s.mod.bootWait && !s.mod.bootFail then s.tryBoot s.bootOrder else s)

/-- The management controller or the boot ROM empties a mailbox (R402). -/
def State.emptyBox (s : State) (b : MailboxId) : State := s.drainBox b true

/-- A message of a port's host stands in a mailbox with this code, doorbell bit 0 set. -/
def State.posted (s : State) (b : MailboxId) (p code : Nat) : Bool :=
  let m := s.box b
  m.st == 2 && m.src == p && m.db.getLsbD 0 && (m.msg.look 0 0).toNat == code
/-- The length of MB_MSG3. -/
def State.postedLen (s : State) (b : MailboxId) : Nat := ((s.box b).msg.look 3 0).toNat
/-- What a message names in host memory is read (R462, R468). -/
def State.readPosted (s : State) (b : MailboxId) (p : Nat) : State :=
  let m := s.box b
  s.readHost p ((m.msg.look 1 0).toNat + 2 ^ 32 * (m.msg.look 2 0).toNat) (s.postedLen b)

/-- HOST_BOOT_PACKAGE: the boot ROM reads the posted package from host memory (R462, R463). -/
def State.hostPackage (s : State) (pkg : List Byte) : State :=
  let b := s.bootBox
  let n := s.postedLen b
  if !(s.mod.bootWait || s.mod.bootFail) || !s.posted b s.mod.straps.hostrole.toNat 0xB0 || pkg.length < n then s
  else
    let t := (s.readPosted b s.mod.straps.hostrole.toNat).emptyBox b
    match s.pkgCode (pkg.take n) with
    | none => t.startFirmware 2 (pkg.take n)
    | some c => if s.mod.bootWait then (t.reject 2 c).tryBoot s.mod.tries else t.reject 2 c

def execHostBootPackage (pkg : List Byte) (s : State) : Host.Outcome State Fault Refusal := .next (s.hostPackage pkg)

/-- HOST_BOOT_TIMEOUT: with no package posted within 60 s of strap sampling the host's try fails (R462). -/
def execHostBootTimeout (s : State) : Host.Outcome State Fault Refusal :=
  .next (if s.mod.bootWait && !s.posted s.bootBox s.mod.straps.hostrole.toNat 0xB0 then s.tryBoot s.mod.tries else s)

/-! ### Firmware update (R465, R466) -/

/-- The record at the front of a ring. -/
def State.frontIs (s : State) (p q : Nat) (f : FetchedRec → Bool) : Bool := match (s.sq p q).queue with | r :: _ => f r | [] => false

/-- An FWUPD is refused with a code of Table 15-3. -/
def State.fwRefused (s : State) (p q code : Nat) : State := ({ s with sec.lastCode := some code } : State).complete p q 4 (0xF00 + code) 0

/-- The header of the staging slot becomes INCOMPLETE, as the writing of a package begins (R465). -/
def State.openStage (s : State) : State :=
  let k := 1 - s.newest
  { s with sec := s.sec.setSlot k (.written 1 (s.sec.slot k).seq (s.sec.slot k).pkg) }

/-- The package of an FWUPD without COMMIT goes to the staging slot; `flashOk` says that flash was written and read back. -/
def State.stagePkg (s : State) (p q : Nat) (pkg : List Byte) (flashOk : Bool) : State :=
  let k := 1 - s.newest
  let put (st : Nat) : State := { s with sec := s.sec.setSlot k (.written st (s.sec.slot k).seq pkg) }
  match if flashOk then s.pkgCode pkg else some 6 with
  | none => (put 2).complete p q 0 0 0
  | some c => (put 1).fwRefused p q c

/-- The FWUPD of this ring whose package is being written, with the ring that its completion goes to: 16 after a reset of its port (R382). -/
def State.openFw (s : State) (p q : Nat) : Option (Nat × FetchedRec) :=
  match s.host.fwRec with
  | some ((a, b), r) => if a = p && (b = q || b = 16) && s.host.jc = some (a, b) then some (b, r) else none
  | none => none

/-- The bytes of a package that have been read: with all of them the staging ends; with less it begins, and the slot is INCOMPLETE until
the rest comes (R465, R467). -/
def State.fwStage (s : State) (p q : Nat) (pkg : List Byte) (flashOk : Bool) : State :=
  match s.openFw p q with
  | some (b, r) =>
    if r.f 16 8 ≤ pkg.length then
      (({ s with host.fwRec := none } : State).stagePkg p b (pkg.take (r.f 16 8)) flashOk).freeJc p b
    else s
  | none =>
    if s.frontIs p q fun r => r.typ == 11 && r.opt % 2 == 0 then
      s.jobRecord p q (· == 11) fun s r =>
        let s := s.readHost p (r.f 8 8) (r.f 16 8)
        if r.f 16 8 ≤ pkg.length then s.stagePkg p q (pkg.take (r.f 16 8)) flashOk
        else { (s.openStage.holdJc p q) with host.fwRec := some ((p, q), r) }
    else s

def execFwupdStage (port : HostId) (ring : RingId) (pkg : List Byte) (flashOk : Bool) (s : State) : Host.Outcome State Fault Refusal :=
  .next (s.fwStage port ring pkg flashOk)

/-- The STAGED slot becomes COMMITTED. -/
def State.commitPkg (s : State) (p q : Nat) (flashOk : Bool) : State :=
  match [0, 1].find? fun k => (s.sec.slot k).state = 2 with
  | none => s.complete p q 3 0 0
  | some k =>
    if flashOk then
      let f := .written 3 (((s.sec.slot (1 - k)).seq + 1) % 2 ^ 32) (s.sec.slot k).pkg
      ({ s with sec := s.sec.setSlot k f } : State).complete p q 0 0 0
    else s.fwRefused p q 6

def execFwupdCommit (port : HostId) (ring : RingId) (flashOk : Bool) (s : State) : Host.Outcome State Fault Refusal :=
  .next (if s.frontIs port ring fun r => r.typ == 11 && r.opt % 2 == 1 then
      s.jobRecord port ring (· == 11) fun s _ => s.commitPkg port ring flashOk
    else s)

/-! ### Owner commands (R468 to R470) -/

/-- A command block as Table 15-5 lays it out: the layout is broken. -/
def blockMalformed (b : List Byte) (code payload : Nat) : Bool :=
  let signed := recField b 10 1 ≠ 0xFF
  sub b 0 8 ≠ ascii "AWOWNCMD" || recField b 8 1 ≠ code || 3 < recField b 9 1 || recField b 11 1 ≠ 0 || !zeros b 28 63 ||
  b.length < 64 + payload + (if signed && code ≠ 5 then 3309 else 0)

/-- The signature of a block verifies with the key of its SIGNER. -/
def State.blockSigned (s : State) (b : List Byte) (payload : Nat) : Bool :=
  match s.sec.keys.find (recField b 10 1) with
  | some k =>
    recField b 10 1 < 4 &&
    Config.verify k (ascii "AW8-OWNER") (leBytes 64 (shake512 (sub b 0 (64 + payload))).toNat) (sub b (64 + payload) 3309)
  | none => false

/-- The status of a command: 0 OK, 1 FORMAT, 2 AUTH, 3 REPLAY, 4 STATE; `unsigned` is the status of a block without signature, `ok` that of an
authentic and fresh one. -/
def State.blockStatus (s : State) (b : List Byte) (code payload : Nat) (unsigned ok : Nat) : Nat :=
  let signer := recField b 10 1
  if blockMalformed b code payload then 1
  else if recField b 16 8 ≠ s.part.serial.toNat then 2
  else if code ≠ 5 && signer ≠ 0xFF && !s.blockSigned b payload then 2
  else if code ≠ 5 && signer = 0xFF && unsigned ≠ 0 then unsigned
  else if recField b 12 4 ≠ s.sec.ownCtr then 3
  else ok

/-- An owner command: the management controller reads the block, empties the mailbox, carries the command out and answers (R468). -/
def State.ownerCmd (s : State) (p : HostId) (code payload : Nat) (block : List Byte) (unsigned ok : State → List Byte → Nat)
    (f : State → List Byte → State) : State :=
  let m : MailboxId := .secure p
  let n := s.postedLen m
  if !s.mod.mgmt || s.host.owner ≠ p.val || !s.posted m p.val code || block.length < n then s
  else
    let b := block.take n
    let s := (s.readPosted m p).emptyBox m
    let st := s.blockStatus b code payload (unsigned s b) (ok s b)
    let t := if st = 0 then f s b else s
    let t := if st = 0 && s.blockSigned b payload then { t with sec.ownCtr := (t.sec.ownCtr + 1) % 2 ^ 32 } else t
    t.postBox m st t.sec.ownCtr

/-- An owner message whose code is none of Table 15-4 is emptied too, and answered with FORMAT (R468). -/
def State.ownerUnknown (s : State) : State :=
  let p : HostId := Fin.ofNat 2 s.host.owner
  let m : MailboxId := .secure p
  let b := s.box m
  if s.mod.mgmt && b.st == 2 && b.src == p.val && b.db.getLsbD 0 && !([1, 2, 3, 4, 5].contains (b.msg.look 0 0).toNat) then
    (s.emptyBox m).postBox m 1 s.sec.ownCtr
  else s

/-- A command that is always signed (R470). -/
def alwaysSigned (_ : State) (_ : List Byte) : Nat := 2
def alwaysOk (_ : State) (_ : List Byte) : Nat := 0

/-- KEY_ADD: unsigned only while every slot is empty and no job is loaded; STATE when the slot is filled. -/
def execKeyAdd (port : HostId) (block : List Byte) (s : State) : Host.Outcome State Fault Refusal :=
  .next (s.ownerCmd port 1 1952 block
    (fun s _ => if s.sec.keys ≠ [] then 2 else if s.time.loaded then 4 else 0)
    (fun s b => if (s.sec.keys.find (recField b 9 1)).isSome then 4 else 0)
    fun s b => { s with sec.keys := s.sec.keys.put (recField b 9 1) (sub b 64 1952) })

def execKeyRemove (port : HostId) (block : List Byte) (s : State) : Host.Outcome State Fault Refusal :=
  .next (s.ownerCmd port 2 0 block alwaysSigned alwaysOk fun s b => { s with sec.keys := s.sec.keys.del (recField b 9 1) })

def execOwnerPolicy (port : HostId) (block : List Byte) (s : State) : Host.Outcome State Fault Refusal :=
  .next (s.ownerCmd port 3 0 block alwaysSigned alwaysOk fun s b => { s with sec.sigReq := recField b 24 1 % 2 == 1 })

def execTapUnlock (port : HostId) (block : List Byte) (s : State) : Host.Outcome State Fault Refusal :=
  .next (s.ownerCmd port 4 0 block alwaysSigned alwaysOk fun s _ => { s with sec.unlocked := true })

/-- LOCK needs no signature. -/
def execTapLock (port : HostId) (block : List Byte) (s : State) : Host.Outcome State Fault Refusal :=
  .next (s.ownerCmd port 5 0 block alwaysOk alwaysOk fun s _ => s.lockTap)

/-! ### Attestation (R472, Table 15-7) -/

/-- Bytes brought to a length. -/
def padTo (n : Nat) (l : List Byte) : List Byte := l.take n ++ List.replicate (n - l.length) 0

/-- FLAGS of the report. -/
def State.attestFlags (s : State) : Nat :=
  let signed := s.time.loaded && (match s.job.img with | some i => i.signed | none => false)
  rb s.time.loaded 0 + rb s.time.running 1 + rb s.sec.unlocked 2 + rb (s.mod.straps.sigpol == 1) 3 + rb s.sec.sigReq 4 + rb signed 5 +
  rb s.rcv.standby 6 + 2 ^ 7 * s.sec.run

/-- The digest of an owner slot's key; zero when the slot is empty. -/
def State.ownerDigest (s : State) (k : Nat) : Nat := match s.sec.keys.find k with | some key => (shake512 key).toNat | none => 0

/-- Bytes 0 to 5,919 of the report. -/
def State.attestReport (s : State) (nonce : Nat) : List Byte :=
  ascii "AWATTEST" ++ leBytes 2 1 ++ leBytes 2 0 ++ leBytes 4 9229 ++ leBytes 8 s.part.serial.toNat ++ leBytes 2 s.coord16.toNat ++
  leBytes 1 s.part.step.toNat ++ leBytes 1 s.part.order.toNat ++ leBytes 4 s.attestFlags ++ leBytes 4 s.sec.svn ++
  leBytes 4 (s.sec.floor % 128 + 2 ^ 8 * s.sec.revoked.toNat) ++ leBytes 32 nonce ++ leBytes 64 s.sec.mRom.toNat ++
  leBytes 64 s.sec.mMgmt.toNat ++ leBytes 64 s.sec.mBay.toNat ++ leBytes 64 s.sec.mStrap.toNat ++ leBytes 64 (if s.time.loaded then s.imgDigest else 0) ++
  ((List.range 4).flatMap fun k => leBytes 64 (s.ownerDigest k)) ++ padTo 1952 s.sec.idpub ++ leBytes 1 s.sec.endKey ++ leBytes 7 0 ++
  padTo 3309 s.sec.endorse ++ leBytes 3 0

/-- ATTEST: the state is sampled as the record is accepted. -/
def execAttestRec (port : HostId) (ring : RingId) (s : State) : Host.Outcome State Fault Refusal :=
  .next (s.record port ring (· == 10) fun s r =>
    { s with host.attest := s.host.attest ++ [((port.val, ring.val), r.f 8 8, s.attestReport (r.f 32 32))] })

/-- ATTEST_REPORT_WRITTEN: reports are signed one at a time, in the order their records began. A record whose port has been reset runs to
its end and posts nothing; a report for a port that is down reaches no host (R382). -/
def State.attestWritten (s : State) (p q : Nat) : State :=
  match s.host.attest with
  | (r, a, body) :: rest =>
    let gone := r = (p, 16)
    if !gone && (r ≠ (p, q) || (s.openRec p q 10).isNone) then s
    else
      let sig := padTo 3309 (Config.sign s.sec.seed (ascii "AW8-ATTEST") s.sec.signs (leBytes 64 (shake512 body).toNat))
      let s := { s with host.attest := rest, sec.signs := s.sec.signs + 1 }
      let s := if gone && s.portDown p then s else s.send (.hostWrite p a (body ++ sig))
      if gone then s else (s.complete p q 0 0 9229).skim p q
  | [] => s

def execAttestReportWritten (port : HostId) (ring : RingId) (s : State) : Host.Outcome State Fault Refusal :=
  .next (s.attestWritten port ring)

end Sys2Proof.Machine
end

