-- ==== Sys2Proof/Machine/Reads.lean ====
section
/-! DEFINITION. What a register of BAR0 reads as (Table 1-10): identity (Table 1-11), schedule time and harvests (Tables 2-8, 2-11), power
(Table 13-7), HST (Table 12-13), lines (Tables 3-10, 5-12, 6-15, 6-16, 7-11, 8-7), base dies (Tables 7-12, 7-13, 8-8, 9-8, 9-9, 14-11),
fabric (Tables 10-10, 10-11), security (Table 15-8), debug (Table 11-12). RSV and WO registers read 0 (R8). -/

namespace Sys2Proof.Machine

/-- Word `w` of a long value. -/
def word32 (v w : Nat) : Nat := v / 2 ^ (32 * w) % 2 ^ 32
/-- A value at a bit place. -/
def at_ (v n : Nat) : Nat := v * 2 ^ n

/-! ### MOD, HRV, SCH -/

/-- MOD (Table 1-11). -/
def State.readMod (s : State) (x : Nat) : Nat :=
  match x with
  | 0x00 => 0x41570008
  | 0x04 => s.part.step.toNat
  | 0x08 => s.part.order.toNat
  | 0x10 => s.mod.straps.word.toNat
  | 0x14 => s.modCoord
  | 0x20 => s.modReady
  | _ => 0

/-- The registers of 32 bits of the SCH block that are banked (Tables 2-8, 2-11). -/
def SchBank.read (b : SchBank) (x : Nat) : Nat :=
  if 0x100 ≤ x && x < 0x1B0 && x % 16 = 8 then b.hcEv.look ((x - 0x100) / 16) 0
  else match x with
    | 0x20 => b.holdEv | 0x24 => b.holdMax | 0x38 => b.ndcY | 0x3C => b.ndcE | 0x40 => b.ndcD | 0x44 => b.ndcC
    | _ => 0

def State.readSch (s : State) (x : Nat) : Nat :=
  match x with
  | 0x10 => s.time.ctrl.toNat
  | 0x14 => s.schStatus
  | 0x28 => s.time.limit.toNat
  | 0x2C => 8
  | _ => s.time.cnt.read x

def State.readHrv (s : State) (x : Nat) : Nat :=
  if 0x1000 ≤ x then s.hrv.bank.read (x - 0x1000)
  else match x with
    | 0x00 => s.hrv.ctrl.toNat
    | 0x04 => s.hrvStatus
    | 0x08 => s.hrv.seq
    | 0x10 => s.hrv.lost
    | 0x14 => s.hrv.pend.toNat
    | 0x38 => s.hrv.lastHold
    | _ => 0

/-! ### PWR (Table 13-7) -/

/-- PWR_STATUS. -/
def State.pwrStatus (s : State) : Nat :=
  let p := s.pwr
  let ramp := s.time.reqs.any fun r => r.cause == 7 && r.active s.time.now
  rb p.limP 0 + rb p.limS 1 + rb p.limT 2 + at_ p.duty 3 + rb ramp 7 + rb p.clamped 8

/-- The registers of bay `b` at offset `x` of its group. -/
def State.readBayPwr (s : State) (b x : Nat) : Nat :=
  let z := s.bayPwr b
  match x with
  | 0x00 => z.code + at_ z.next 8 + rb z.pend 15
  | 0x04 => min 0xFFFF (sbOf z / 100) + at_ (min 0xFFFF z.peak) 16
  | 0x08 => z.share + at_ (s.ceiling b - z.share) 16
  | 0x0C => z.margin + at_ z.marginW 8
  | 0x10 => s.lendingLines b
  | _ => 0

def State.readPwr (s : State) (x : Nat) : Nat :=
  let p := s.pwr
  if 0x100 ≤ x && x < 0x200 then s.readBayPwr ((x - 0x100) / 0x20) (x % 0x20)
  else if 0x1000 ≤ x && x < 0x1400 then
    let z := p.sensors.getD ((x - 0x1000) / 4) (0, false)
    z.1 % 256 + rb z.2 8
  else match x with
    | 0x00 => p.cls
    | 0x04 => s.pwrStatus
    | 0x08 => p.vinLast % 2 ^ 16 + at_ (p.iinLast % 2 ^ 16) 16
    | 0x0C => p.pinLast % 2 ^ 16
    | 0x10 => p.keep
    | 0x14 => p.tmax.toNat
    | 0x18 => p.cool.toNat
    | 0x1C => p.alert.toNat
    | 0x20 => p.vctrl.toNat
    | 0x48 => sat32 (p.balUj / 1000)
    | 0x4C => p.dutyUp
    | 0x88 => sat32 (p.balL / 1000)
    | 0x8C => p.dutyUpL
    | _ => 0

/-! ### HST (Table 12-13) -/

/-- A submission ring's registers. -/
def State.readSq (s : State) (p q x : Nat) : Nat :=
  let r := s.sq p q
  match x with
  | 0x00 => word32 r.base.toNat 0
  | 0x04 => word32 r.base.toNat 1
  | 0x08 => r.k + rb r.en 5 + at_ r.cq 6
  | 0x0C => r.head
  | 0x10 => r.tail
  | 0x14 => rb r.stopped 0 + rb r.cur.isSome 1 + rb (r.cur.isSome && s.host.jc == some (p, q)) 2
  | _ => 0

/-- A completion ring's registers. -/
def State.readCq (s : State) (p q x : Nat) : Nat :=
  let r := s.cq p q
  match x with
  | 0x00 => word32 r.base.toNat 0
  | 0x04 => word32 r.base.toNat 1
  | 0x08 => r.k + rb r.en 5 + at_ r.vec 6 + at_ r.cnt 12 + at_ r.time 20
  | 0x0C => r.head
  | 0x10 => r.tail
  | 0x14 => rb r.phase 0 + rb r.full 1
  | _ => 0

/-- An HST block; the MSI-X table and the PBA read 0 to the other port's host (R376). -/
def State.readHst (s : State) (who : Requester) (p x : Nat) : Nat :=
  let h := s.hp p
  let other : Bool := match who with | .host q => q.val != p | _ => false
  let base := h.b4Base.toNat / s.bar4Size * s.bar4Size
  if 0x100 ≤ x && x < 0x300 then s.readSq p ((x - 0x100) / 0x20) (x % 0x20)
  else if 0x300 ≤ x && x < 0x500 then s.readCq p ((x - 0x300) / 0x20) (x % 0x20)
  else if 0x8000 ≤ x && x < 0x8400 then
    if other then 0 else word32 (h.msix.look ((x - 0x8000) / 16) 0).toNat (x % 16 / 4)
  else match x with
    | 0x00 => rb h.up 0 + at_ h.rate 1 + at_ h.width 4 + rb (s.host.owner == p) 8 + rb h.d3hot 9
    | 0x04 => s.hstOwn
    | 0x08 => s.host.tkovr
    | 0x0C => match h.downAt with | some t => sat32 ((s.time.now - t) / 800000) | none => 0
    | 0x10 => h.evtCfg.toNat
    | 0x14 => h.mbVec.toNat
    | 0x18 => h.err.toNat
    | 0x1C => h.errCnt
    | 0x20 => h.evtLost
    | 0x24 => word32 base 0
    | 0x28 => word32 base 1
    | 0x9000 => if other then 0 else word32 h.pba.toNat 0
    | 0x9004 => if other then 0 else word32 h.pba.toNat 1
    | _ => 0

/-! ### Lines -/

/-- The counters of 32 bits of a line by their offsets; the banks lie 0x40 above. -/
def lineCounts : List (Nat × LineCnt) :=
  [(0x850, .lsNbr), (0x854, .lsDrain), (0x858, .glnRows), (0x85C, .glnCe), (0x860, .glnPass), (0x864, .glnIsPass), (0x1048, .pxKept),
   (0x1848, .mxLw), (0x1854, .mxOowRep), (0x1C48, .vxSat), (0x1C4C, .vxOow), (0x1C50, .vxInv),
   (0x2088, .ccBr), (0x208C, .ccPred), (0x2090, .ccRefute), (0x2094, .ccMrel), (0x2098, .ccCont), (0x209C, .ccNack)]

/-- A queue's registers (Table 3-12). -/
def QState.reg (z : QState) : Nat :=
  z.pc % 4096 + rb z.ended 12 + rb z.outst.isSome 13 + rb z.barWait.isSome 14 + at_ z.loops.length 15

/-- LN registers (Table 3-10). -/
def LineState.readLn (L : LineState) (x : Nat) : Nat :=
  let active (t : Nat) : Bool := (List.range 6).any fun c => let z := L.queues.look (t * 6 + c) default; z.enabled && !z.ended
  if x = 0 then L.rotLen - 1 + at_ L.taskEn.toNat 8 + rb L.yield 12
  else if x = 4 then ((List.range 4).map fun t => rb (active t) t).sum + rb L.fault 4
  else if 0x100 ≤ x && x < 0x200 then (L.rot.look ((x - 0x100) / 4) 0).toNat
  else if 0x200 ≤ x && x < 0x260 then (L.queues.look ((x - 0x200) / 4) default).reg
  else if 0x300 ≤ x && x < 0x340 then
    let d := L.dq.look ((x - 0x300) / 8) default
    if x % 8 = 0 then d.cfg.toNat
    else match d.entries with
      | e :: _ => min 32 d.entries.length + at_ e.tag.toNat 8 + rb true 14 + rb e.unconf.isSome 15
      | [] => 0
  else if 0x400 ≤ x && x < 0x800 then
    match (L.dq.look ((x - 0x400) / 0x80) default).entries with
    | e :: _ => word32 e.data.toNat (x % 0x80 / 4)
    | [] => 0
  else 0

/-- LS registers (Table 8-7). -/
def LineState.readLs (L : LineState) (x : Nat) : Nat :=
  let open_ := L.ls.held.filter fun e => !e.2.confirmed
  match x with
  | 0x800 => L.ls.pgOn.toNat + at_ L.ls.pgReq.toNat 4 + rb L.ls.pgReqValid 8
  | 0x804 =>
    open_.length + at_ (L.ls.held.length - open_.length) 9 +
    at_ ((List.range 4).map fun t => rb (open_.any fun e => e.2.task == t) t).sum 18
  | 0x808 => L.ls.eccCe
  | 0x80C => L.ls.eccUe
  | 0x810 => L.ls.eccAddr.toNat
  | 0x814 => L.ls.isErr.toNat
  | _ => 0

/-- PX registers (Table 6-15) in sc `sc`. -/
def LineState.readPx (L : LineState) (x sc : Nat) : Nat :=
  match x with
  | 0x1000 => L.px.pad0.toNat
  | 0x1004 => ((List.range 3).map fun b => rb (L.tbBusy b sc) b).sum + at_ L.px.invalid.toNat 3
  | _ => 0

def bufCode : BufSt → Nat | .empty => 0 | .loaded => 1 | .invalid => 2

/-- MX_STATUS (Table 5-13). -/
def MxState.status (m : MxState) : Nat :=
  rb m.active 0 + at_ (bufCode m.buf0.st) 1 + at_ (bufCode m.buf1.st) 3 + rb m.lw.isSome 5 +
  at_ (match m.lw with | some w => min 128 w.tile.length | none => 0) 8 + rb m.oow 16 + rb (m.copies.length ≠ 0) 17 +
  at_ (min 8 m.copies.length) 18

/-- MX registers (Table 5-12) in sc `sc`. -/
def LineState.readMx (L : LineState) (x sc : Nat) : Nat :=
  let m := L.mx
  if 0x1900 ≤ x && x < 0x1B00 then (m.anchorAt ((x - 0x1900) / 4) sc).toNat
  else match x with
    | 0x1800 => m.pad.toNat
    | 0x1804 => m.cfg.toNat
    | 0x1808 => m.status
    | 0x180C => m.buf0.fmt.toNat + at_ m.buf1.fmt.toNat 4
    | 0x1810 => m.buf0.scale.toNat + at_ m.buf1.scale.toNat 8 + at_ m.smax.toNat 16
    | 0x1814 => m.oowCnt
    | 0x1818 => match m.oowFirst with | some r => r % 128 + rb true 7 | none => 0
    | _ => 0

def RunRow.reg (r : RunRow) : Nat :=
  (match r.kind with | .max => 0 | .min => 1 | .sheaf => 2 | .none => 3) + at_ r.anchor.toNat 4

/-- VX registers (Tables 6-16, 6-17). -/
def LineState.readVx (L : LineState) (x : Nat) : Nat :=
  let v := L.vx
  if 0x1D00 ≤ x && x < 0x1D10 then (L.runRow ((x - 0x1D00) / 4)).reg
  else match x with
    | 0x1C00 => v.pad0.toNat
    | 0x1C04 => v.pad1.toNat
    | 0x1C08 => v.pad2.toNat
    | 0x1C0C => v.cfg.toNat
    | 0x1C10 => v.status.toNat + rb (v.copies.length ≠ 0) 3 + at_ (min 32 v.copies.length) 4
    | 0x1C14 => match v.evFirst with | some (e, t) => e.toNat + at_ (t % 4) 2 + rb true 4 | none => 0
    | _ => 0

/-- CC_WAITt. -/
def WaitSt.reg (w : WaitSt) : Nat :=
  w.idx % 1024 + at_ (clsCode w.cls) 10 + rb w.consume 12 + rb w.deadline.isSome 13 + rb w.long.isSome 14 + rb true 15

/-- CC registers (Table 7-11). -/
def LineState.readCc (L : LineState) (x : Nat) : Nat :=
  let c := L.cc
  let bits (f : Nat → Bool) : Nat := ((List.range 4).map fun t => rb (f t) t).sum
  let late (t : Nat) : Bool := match c.waits.find t with | some w => w.deadline.isSome | none => false
  if 0x2020 ≤ x && x < 0x2030 then (match c.waits.find ((x - 0x2020) / 4) with | some w => w.reg | none => 0)
  else if 0x2030 ≤ x && x < 0x2050 then
    match c.preds.find ((x - 0x2030) / 8) with
    | some p => if x % 8 = 0 then p.entry % 256 + rb true 8 + at_ p.flags.length 9 + at_ p.words.length 14 else p.p % 2 ^ 32
    | none => 0
  else if 0x2100 ≤ x && x < 0x2180 then
    let n := (x - 0x2100) / 8
    if x % 8 = 0 then (c.routes.look n 0).toNat else c.nackCnt.look n 0 + at_ (c.lastRsn.look n 0) 16
  else if 0x2180 ≤ x && x < 0x21A0 then
    let q := c.iw.look ((x - 0x2180) / 4) default
    rb q.armed 0 + at_ (q.owner % 4) 1 + at_ (min 16 q.words.length) 3 + rb (q.words ≠ []) 8
  else match x with
    | 0x2000 => c.pad.toNat
    | 0x2004 =>
      bits (fun t => (c.preds.find t).isSome) + at_ (bits fun t => (c.waits.find t).isSome) 4 + at_ (bits late) 8
    | _ => 0

/-- A register of 32 bits of a line at offset `x` of its block. -/
def State.readLine (s : State) (l x : Nat) : Nat :=
  let L := s.line l
  match lineCounts.find? fun e => e.1 = x with
  | some (_, c) => L.cnt.look c.ix 0
  | none =>
    match lineCounts.find? fun e => e.1 + 0x40 = x with
    | some (_, c) => L.cntL.look c.ix 0
    | none =>
      if x < 0x800 then L.readLn x else if x < 0xC00 then L.readLs x else if x < 0x1800 then L.readPx x s.sc
      else if x < 0x1C00 then L.readMx x s.sc else if x < 0x2000 then L.readVx x else L.readCc x

/-! ### Base dies -/

/-- The counters of 32 bits of a base die by their offsets; the banks lie at the second offset. -/
def bayCounts : List (Nat × Nat × BayCnt) :=
  [(0x60, 0x80, .flgMrel), (0x64, 0x84, .flgCont), (0x150, 0x190, .bbGlnPass), (0x154, 0x194, .bbGlnCe),
   (0x318, 0x358, .ntGlnPass), (0x31C, 0x35C, .ntGlnCe)]

/-- The flags of a bay (Table 7-12). -/
def State.readFlags (s : State) (b x : Nat) : Nat :=
  let f := s.flags
  let t := match x / 16 with | 0 => f.bf | 1 => f.bfSw | 2 => f.mf | 3 => f.mfSw | _ => []
  word32 (t.look b 0).toNat (x % 16 / 4)

/-- BB_CLR_STATUS (Table 8-9). -/
def BayState.clrStatus (z : BayState) : Nat :=
  z.clrLines.length + at_ z.clrSlices.length 8 + rb z.lineActive 16 + rb z.bbActive 17 + rb z.clear 18

/-- NT registers of a bay (Table 9-8). REFLVL and GSHARE show the loaded image's (R308). -/
def State.readNt (s : State) (b x : Nat) : Nat :=
  let z := s.bay b
  if 0x210 ≤ x && x < 0x290 then
    let k := z.stk.look (4 * b + (x - 0x210) / 0x20) default
    match (x - 0x210) % 0x20 with
    | 0x00 => k.temp % 256 | 0x04 => k.ce | 0x08 => k.ue | 0x14 => k.rfm | 0x18 => min 255 k.repair.length
    | _ => 0
  else match x with
    | 0x200 =>
      let img := if s.time.loaded then s.job.img else none
      z.trained.toNat + at_ z.hot.toNat 4 + (match img with | some i => at_ i.refresh 8 + at_ i.gshare 10 | none => 0)
    | 0x204 => z.ntDone.length + rb z.ntActive 6 + rb z.ntClear 7
    | 0x208 => if b = 0 then s.zone.toNat else 0
    | _ => 0

/-- GR registers of controller pair `u` (Table 9-9). TYPE and CAP of a DIMM that R300 does not list read 0 (DESIGN CHOICE, log entry 106). -/
def State.readGr (s : State) (u x : Nat) : Nat :=
  let p := s.gr.pairs.look u default
  let fitted (n : Nat) : Bool := (s.gr.dimms.look n default).typ ≠ 0
  let kinds := (List.range 8).filter fitted
  let d := s.gr.dimms.look (kinds.headD 0) default
  let held := (s.gr.queue.filter fun m => m.held s.sc).length
  let pend := (s.gr.queue.filter fun m => !m.ended).length
  match x with
  | 0x400 =>
    (if s.gr.statusOff then 0
     else rb (s.mod.chReady.getLsbD (2 * u)) 0 + rb (s.mod.chReady.getLsbD (2 * u + 1)) 1 + rb (fitted (2 * u)) 2 + rb (fitted (2 * u + 1)) 3) +
    rb (s.chunkOn u) 4
  | 0x404 => kinds.length + at_ (if d.typ < 3 then d.typ else 0) 4 + at_ (if d.cap < 5 then d.cap else 0) 6 + rb s.gr.mismatch 9 + rb s.gr.popErr 10
  | 0x408 => p.ce
  | 0x40C => p.ue
  | 0x418 => if u = 0 then held + at_ pend 7 else 0
  | 0x41C => if u = 0 then (match s.gr.err with | some c => c % 8 + rb true 3 | none => 0) else 0
  | 0x448 => if u = 0 then p.cnt.look 1 0 else 0
  | 0x488 => if u = 0 then p.cntL.look 1 0 else 0
  | _ => 0

/-- RCV_SNAP_STATUS (Table 14-13). -/
def RecoverState.snapStatus (r : RecoverState) : Nat :=
  let (ph, ws) := match r.snap with | some j => (j.phase, if j.phase = 0 then 0 else j.wslot) | none => (0, 0)
  let z := r.scan
  ph + at_ ws 2 + at_ z.latest 3 + rb (z.a == 2) 5 + rb (z.b == 2) 6 + rb (z.a == 1) 7 + rb (z.b == 1) 8 + rb r.repl.isSome 9 +
  rb r.replDone 10 + rb (z.b0 == 2) 11 + rb (z.b0 == 1) 12 + rb r.pullAct 13 + rb r.pullDone 14 + rb r.pullFail 15 +
  rb (z.b1 == 2) 16 + rb (z.b1 == 1) 17

/-- RCV registers (Table 14-11), in the base die of bay 0. -/
def State.readRcv (s : State) (x : Nat) : Nat :=
  let r := s.rcv
  if 0xC00 ≤ x then
    match r.intr[(x - 0xC00) / 16]? with
    | some i => match x % 16 / 4 with | 0 => word32 i.dst 0 | 1 => word32 i.dst 1 | 2 => word32 i.len 0 | _ => word32 i.done 0
    | none => 0
  else match x with
    | 0x800 => (r.alert &&& ~~~1).toNat + rb (s.pwr.alert ≠ 0) 0
    | 0x804 => r.disreq.toNat
    | 0x80C => r.disBay.toNat + at_ r.disCh.toNat 8 + at_ s.fab.disabled.toNat 16
    | 0x810 => word32 r.slotA.toNat 0
    | 0x814 => word32 r.slotA.toNat 1
    | 0x818 => word32 r.slotB.toNat 0
    | 0x81C => word32 r.slotB.toNat 1
    | 0x820 => word32 r.bslot0.toNat 0
    | 0x824 => word32 r.bslot0.toNat 1
    | 0x828 => word32 r.cap.toNat 0
    | 0x82C => word32 r.cap.toNat 1
    | 0x830 => r.slotsz
    | 0x834 => r.snapStatus
    | 0x838 => word32 r.prog 0
    | 0x83C => r.scan.seq
    | 0x844 => r.pull.toNat
    | 0x848 => rb r.standby 0 + rb r.standbyOk 1 + at_ r.failovers 8
    | 0x84C => r.intr.length
    | 0x850 => word32 r.bslot1.toNat 0
    | 0x854 => word32 r.bslot1.toNat 1
    | _ => 0

/-- The expert load table (Table 7-13), in the base die of bay 0. -/
def ElbState.read (e : ElbState) (x : Nat) : Nat :=
  let v := e.view.look (x % 0x400 / 4) default
  match x / 0x400 with
  | 4 => (e.loc.look (x % 0x400 / 4) 0).toNat
  | 5 => v.value.toNat
  | 6 => v.coord.toNat + rb v.valid 15
  | _ => 0

/-- A register of 32 bits of the base die of bay `b` at offset `x`. -/
def State.readDie (s : State) (b x : Nat) : Nat :=
  let z := s.bay b
  match bayCounts.find? fun e => e.1 = x with
  | some (_, _, c) => z.cnt.look c.ix 0
  | none =>
    match bayCounts.find? fun e => e.2.1 = x with
    | some (_, _, c) => z.cntL.look c.ix 0
    | none =>
      if x < 0x40 then s.readFlags b x
      else if x = 0x100 then z.clrStatus else if x = 0x104 then z.bbCe else if x = 0x108 then z.bbUe
      else if x = 0x10C then z.bbAddr.toNat
      else if 0x200 ≤ x && x < 0x400 then s.readNt b x
      else if 0x400 ≤ x && x < 0x500 then (match pairOfBay b with | some u => s.readGr u x | none => 0)
      else if b = 0 && 0x800 ≤ x && x < 0x1000 then s.readRcv x
      else if b = 0 && 0x1000 ≤ x && x < 0x1C00 then s.elb.read x
      else 0

/-! ### FAB (Tables 10-10, 10-11) -/

/-- The registers of a port. -/
def State.readPort (s : State) (n x : Nat) : Nat :=
  let P := s.port n
  match x with
  | 0x00 => P.st + at_ P.failcode 4
  | 0x04 => P.lat % 256 + at_ (P.decl % 256) 8
  | 0x08 => match P.peer with | some (c, p) => c.toNat + at_ (p % 16) 15 + rb true 19 | none => 0
  | 0x0C =>
    let lead := ((s.fab.circ.filter fun e => cIn e.2 == n && cEnd e.2).map fun e => cAllow e.2).sum
    lead % 256 + at_ (min 255 P.lead.length) 8 + at_ (min 256 (s.txCells n)) 16
  | 0x10 => P.fecCe
  | 0x14 => P.fecUe
  | 0x18 => P.crc
  | 0x1C => P.replays
  | 0x20 => P.maxrep % 16
  | 0x50 => P.cnt.wait
  | 0x70 => P.cntL.wait
  | _ => 0

/-- The FAB block with its circuit table. -/
def State.readFab (s : State) (x : Nat) : Nat :=
  let f := s.fab
  if 0x1000 ≤ x && x < 0x1C00 then s.readPort ((x - 0x1000) / 0x100) (x % 0x100)
  else if 0x100000 ≤ x && x < 0x120000 then word32 (f.circ.look ((x - 0x100000) / 0x20) (f.circOff.look ((x - 0x100000) / 0x20) 0)).toNat (x % 0x20 / 4)
  else match x with
    | 0x00 => f.ctrl.toNat
    | 0x04 => f.ref % 4 + rb f.aValid 2 + rb f.bValid 3 + rb f.htcValid 4 + rb f.discDone 5 + rb f.discErr 6
    | 0x08 => f.shape.toNat
    | 0x0C => f.split % 16
    | 0x20 => f.disreq.toNat
    | 0x24 => f.disabled.toNat
    | 0x28 => match f.abort with | some c => c.toNat + rb true 15 | none => 0
    | 0x58 => f.cnt.red
    | 0x78 => f.cntL.red
    | _ => 0

/-! ### SEC (Table 15-8) -/

/-- A code with its VALID bit above it. -/
def codeOr (c : Option Nat) (n v : Nat) : Nat := match c with | some k => at_ k n + rb true v | none => 0

def State.readSec (s : State) (x : Nat) : Nat :=
  let z := s.sec
  let bytes (l : List Byte) (o : Nat) : Nat := leNat ((l.drop o).take 4)
  if x < 0x100 then
    match x with
    | 0x00 =>
      rb z.booted 0 + rb z.unlocked 1 + rb z.sigReq 2 + rb (s.mod.straps.sigpol == 1) 3 +
      ((List.range 4).map fun k => rb (z.keys.find k).isSome (4 + k)).sum + rb s.rcv.standby 8
    | 0x04 => z.floor % 128 + at_ z.revoked.toNat 8
    | 0x08 => z.svn
    | 0x0C => z.run % 4 + at_ (z.flashA.state % 4) 2 + at_ (z.flashB.state % 4) 4 + codeOr z.lastCode 6 14
    | 0x10 => z.ownCtr
    | 0x14 => match z.bootRej with | some (c, k) => c % 256 + at_ (k % 4) 8 + rb true 10 | none => 0
    | _ => 0
  else
    let w := x % 0x40 / 4
    if x < 0x180 then word32 (z.vkd.look ((x - 0x100) / 0x40) 0).toNat w
    else if x < 0x200 then 0
    else if x < 0x240 then word32 z.mRom.toNat w
    else if x < 0x280 then word32 z.mMgmt.toNat w
    else if x < 0x2C0 then word32 z.mBay.toNat w
    else if x < 0x300 then word32 z.mStrap.toNat w
    else if 0x400 ≤ x && x < 0x500 then word32 (s.ownerDigest ((x - 0x400) / 0x40)) w
    else if 0x1000 ≤ x && x < 0x17A0 then bytes (padTo 1952 z.idpub) (x - 0x1000)
    else if 0x2000 ≤ x && x < 0x2CF0 then bytes (padTo 3312 (padTo 3309 z.endorse)) (x - 0x2000)
    else 0

/-! ### DBG (Table 11-12) -/

/-- Bytes 4 to 5 of Table 11-8 for a unit. -/
def UnitRef.word (u : UnitRef) : Nat := u.line % 512 + at_ (u.station % 8) 9 + at_ (u.task % 4) 12 + rb u.valid 14

/-- Bytes 0 to 59 of the record at place `i` of the fault buffer (Table 11-8). -/
def FaultRec.body (r : FaultRec) (i : Nat) : List Byte :=
  leBytes 1 r.kind ++ leBytes 1 (rb (i == 0) 0 + rb r.resolve 1) ++ leBytes 2 r.detail ++ leBytes 2 r.unit.word ++ leBytes 2 (r.unit.pc % 4096) ++
  leBytes 8 r.sc ++ leBytes 8 r.cc ++ leBytes 1 (r.expected % 64) ++ leBytes 1 (r.observed % 128) ++ leBytes 2 r.coord.toNat ++
  leBytes 2 r.unit2.word ++ leBytes 2 (r.unit2.pc % 4096) ++ leBytes 8 (r.addr % 2 ^ 42) ++ leBytes 4 r.aux ++ leBytes 4 i ++
  leBytes 8 r.imageId.toNat ++ leBytes 4 0
/-- The 64 bytes of the record, its CRC-32C last. -/
def FaultRec.bytes (r : FaultRec) (i : Nat) : List Byte := r.body i ++ leBytes 4 (crc32c (r.body i)).toNat

def State.readDbg (s : State) (x : Nat) : Nat :=
  let j := s.job
  if 0x10 ≤ x && x < 0x50 then word32 s.imgDigest ((x - 0x10) / 4)
  else if 0x200 ≤ x && x < 0x600 then
    let i := (x - 0x200) / 0x40
    match j.faults[i]? with
    | some r => leNat (((r.bytes i).drop (x % 0x40)).take 4)
    | none => 0
  else match x with
    | 0x00 => s.ldStatus
    | 0x04 => j.ldDetail.toNat
    | 0x08 => j.ldDetail2.toNat
    | 0x50 => match j.img with
      | some i => i.profile + rb i.signed 2 + (match i.hline with | some l => at_ l 3 + rb true 12 | none => 0)
      | none => 0
    | 0x100 => s.fltStatus
    | 0x104 => j.faultLost
    | 0x108 => j.endDisc
    | 0x604 => s.haltStatus
    | _ => 0

/-! ### A read -/

/-- The register of 32 bits at BAR0 offset `o` that is no half of a pair (Table 1-10). -/
def State.readPlain (s : State) (who : Requester) (o : Nat) : Nat :=
  if o < 0x10000 then s.readMod o
  else if o < 0x20000 then s.readHrv (o - 0x10000)
  else if o < 0x30000 then s.readSch (o - 0x20000)
  else if 0x40000 ≤ o && o < 0x80000 then s.readPwr (o - 0x40000)
  else if 0x80000 ≤ o && o < 0xA0000 then s.readHst who ((o - 0x80000) / 0x10000) (o % 0x10000)
  else if 0x400000 ≤ o && o < 0x1400000 then
    let b := (o - 0x400000) / 0x200000
    let y := (o - 0x400000) % 0x200000
    if y < 0x100000 then s.readLine (b * 64 + y / 0x4000) (y % 0x4000) else s.readDie b (y - 0x100000)
  else if 0x1400000 ≤ o && o < 0x1600000 then s.readFab (o - 0x1400000)
  else if 0x1600000 ≤ o && o < 0x1700000 then s.readSec (o - 0x1600000)
  else if 0x1700000 ≤ o then s.readDbg (o - 0x1700000)
  else 0

/-- What the register at BAR0 offset `o` reads as: a half of a pair, or a register of 32 bits. -/
def State.readReg (s : State) (who : Requester) (o : Nat) : W32 :=
  BitVec.ofNat 32 (match s.pair64 o with
    | some v => v
    | none => match if o < 4 then none else s.pair64 (o - 4) with
      | some v => v / 2 ^ 32
      | none => s.readPlain who o)

/-- The registers that the module presents over I3C (R455). -/
def i3cRegs : List Nat := [0x20, 0x10, 0x40004, 0x4001C, 0x40014, dieReg 0 0x800]

/-- A read at a 4-byte-aligned offset: a read of LO keeps HI for this requester's next read of it, which takes what was kept (R70). -/
def State.loRead (s : State) (who : Requester) (o : Nat) : State :=
  if !s.tapOpen who then s
  else if !s.claims who then s.unclaimed who
  else if !onBus who then (if who = .bmc && i3cRegs.contains o then s.send (.regData who (s.readReg who o)) else s)
  else if s.readStopped who o then s.busError who false
  else
    let rest := s.host.hiBuf.filter fun e => !(e.1 == who && e.2.1 == o)
    match s.pair64 o with
    | some v =>
      let keep := rest.filter fun e => !(e.1 == who && e.2.1 == o + 4)
      { (s.send (.regData who (s.readReg who o))) with host.hiBuf := (who, o + 4, BitVec.ofNat 32 (v / 2 ^ 32)) :: keep }
    | none =>
      match s.host.hiBuf.find? fun e => e.1 == who && e.2.1 == o with
      | some e => { (s.send (.regData who e.2.2)) with host.hiBuf := rest }
      | none => s.send (.regData who (s.readReg who o))

/-- What MB_STATUS reads as for an end: state, SRC_ID, ABORTED, EMPTIED, PEER_DEAD (R404). -/
def State.boxStatus (s : State) (b : MailboxId) (me : Bool) : Nat :=
  let m := s.box b
  m.st % 4 + at_ (m.src % 16) 2 + rb m.aborted 6 + rb m.emptied 7 + rb (s.endDead b (!me)) 8

/-- What a register of a mailbox reads as for one of its ends at offset `x`, but for MB_CLAIM (Table 12-12, R403). -/
def State.boxReg (s : State) (b : MailboxId) (who : Requester) (me : Bool) (x : Nat) : W32 :=
  let m := s.box b
  let secure : Bool := match b with | .secure _ => true | _ => false
  if x < 0x40 then (if secure && !m.allow.getLsbD (s.srcId who) then 0 else m.msg.look (x / 4) 0)
  else match x with
    | 0x40 => m.db
    | 0x44 => m.db
    | 0x48 => m.db
    | 0x4C => m.mask
    | 0x54 => BitVec.ofNat 32 (s.boxStatus b me)
    | 0x5C => BitVec.ofNat 32 (rb m.deadMode 0 + rb secure 1)
    | 0x60 => m.allow.setWidth 32
    | 0x64 => BitVec.ofNat 32 m.drop
    | _ => 0

/-- A read of a mailbox register by one of its ends; that of MB_CLAIM is a claim (R402). -/
def State.boxRead (s : State) (who : Requester) (b : MailboxId) (x : Nat) : State :=
  if x = 0x50 then s.claimBox b who
  else match s.boxEnd b who with
    | some me => s.send (.regData who (s.boxReg b who me x))
    | none => s

/-- A read in BAR2 of the requester's port: the doorbells are WO (R377). -/
def State.bar2Read (s : State) (who : Requester) (x : Nat) : State :=
  match who with
  | .host p =>
    if !s.claims who then s.unclaimed who
    else if 0x1000 ≤ x && x < 0x1100 then s.boxRead who (.open_ p) (x - 0x1000)
    else if 0x1100 ≤ x && x < 0x1200 then s.boxRead who (.secure p) (x - 0x1100)
    else s.send (.regData who 0)
  | _ => s

/-- A read of one word. -/
def State.wordRead (s : State) (who : Requester) (t : RegTarget) (add : Nat) : State :=
  match t with
  | .bar0 o => s.loRead who (o.toNat + add)
  | .bar2 o => s.bar2Read who (o.toNat + add)
  | .box b o => if s.claims who then s.boxRead who b (o.toNat + add) else s.unclaimed who
  | .config o => match who with | .host p => s.send (.regData who (s.configReg p (o.toNat + add))) | _ => s

/-- LO_READ: 4 bytes, or 8 naturally aligned, which are read as two words, the lower first; any other size or alignment is an error that a
host's HST_ERR.ACC_SIZE shows (R376). -/
def execLoRead (who : Requester) (what : RegRead) (s : State) : Host.Outcome State Fault Refusal :=
  let o := RegTarget.off what.target
  .next (
    if !s.tapOpen who then s
    else if what.size.val = 4 && o % 4 = 0 then s.wordRead who what.target 0
    else if what.size.val = 8 && o % 8 = 0 then (s.wordRead who what.target 0).wordRead who what.target 4
    else
      let s := s.busError who false
      match who with | .host p => s.hostErr p 2 | _ => s)

end Sys2Proof.Machine
end

