-- ==== Sys2Proof/Machine/Slots.lean ====
section
/-! DEFINITION. The free slots of the near tier and the free ports of the bay buffers in a cc, and the chunks of the granary engines: rows of
program moves, of hosts and of gleaners (R277, R290, R297, R298, R305). -/

namespace Sys2Proof.Machine

/-- A host's committed slot of a slice: the next row of the first access that lies in it (R290). -/
def State.hostSlot (s : State) (f : FreeCommit) : Option State :=
  (s.host.mem.find? fun m => s.areaOf m.next m.rowLen == some .near && (ntMap s.zone m.next).1 == f.slice).map fun m => s.accessRow m f.found

/-- The access of a committed free slot is made: its user moves a row of the slice, which counts; a user without one makes no access (R290, R308). -/
def State.freeAccess (s : State) (f : FreeCommit) : State :=
  let moved := match f.user with
    | 0 => s.engineSlot f
    | 1 => s.fillRow f.slice
    | 2 => s.snapSlotRow f.slice f.found
    | 3 => s.hostSlot f
    | _ => s.gleanerSlot f
  match moved with
  | some t => t.countBay (f.slice / 32) .ntFree
  | none => s

/-- The engines' granary slot of a slice in the current cc: the reads of the slice with this order sc meet the content first (R287, R289). -/
def State.engineSlotNow (s : State) (slice : Nat) (found : EccFinding) : State :=
  if s.ownsSlot slice then (s.meetSome s.sc fun u => u.owner == .nt slice).ownSlot slice found else s

/-- NT_SLOT_ACCESS: the scheduled accesses of a slice take their slots in the current cc, the engines their granary slot (R288, R289). -/
def execNtSlotAccess (slice : Fin 256) (found : EccFinding) (rfm : Nat) (s : State) : Host.Outcome State Fault Refusal :=
  .next (if s.live && !s.held then ((s.slotAccess slice found).engineSlotNow slice found).refreshDemand (slice / 8) rfm else s)

/-- The first access of a host that lies in a bay's buffer moves a row when the port of its slice is free (R277, R378). -/
def State.bayRow (s : State) (b : Nat) : State :=
  match s.host.mem.find? fun m => s.areaOf m.next m.rowLen == some (.bb b) with
  | some m => if s.glnFree (.bb (Fin.ofNat 8 b)) (m.next % 0x4000000 / 128) m.write then s.accessRow m .clean else s
  | none => s

/-- What the free-slot users do in the current cc: the slots that were committed to it, the engines' own slots, the bay buffers. -/
def State.freeAccesses (s : State) : State :=
  let due := s.free.filter fun f => f.cc == s.time.now
  let s := { s with free := s.free.filter fun f => f.cc != s.time.now }
  (List.range 8).foldl State.bayRow (due.foldl State.freeAccess s).engineRows

/-- The granary engines take their next chunk: of a program move; else a packet of the dynamic receive buffer; else of a host's access (R305, R339,
R378). They have one chunk in progress at a time. -/
def State.chunk (s : State) (found : BurstFinding) : State :=
  if s.gr.cur.isSome then s
  else match if s.gr.abandoned then none else s.gr.pick with
    | some m => s.beginChunk m found
    | none =>
      if s.fab.recvBuf ≠ [] then s.writeDynamic
      else match s.host.mem.find? fun m => inGranary m.addr with
        | some m => s.accessChunk m found
        | none => s

def execGranaryChunk (found : BurstFinding) (s : State) : Host.Outcome State Fault Refusal := .next (s.chunk found)

end Sys2Proof.Machine
end

