-- ==== Sys2Proof/Machine/Speculation.lean ====
section
/-! DEFINITION. Predictions (R239 to R243, Tables 5-6, 6-13, 7-8, R258 to R264): the checkpoint, confirmation, refutation. -/

namespace Sys2Proof.Machine

/-- All six VALID bits of an entry are set; otherwise the image is refused at load (R239). -/
def LineState.fullEntry (L : LineState) (e : Nat) : Bool :=
  [Station.pt, .ls, .px, .mx, .vx, .cc].all fun st => (L.target e st).isSome

/-- The checkpoint of a task at sc p (R240). Pending updates of running rows issued by then are part of it. -/
def LineState.checkpoint (L : LineState) (t e p : Nat) : Pred :=
  { entry := e, p := p
    sregs := L.cc.sreg.filter fun x => x.1 / 64 == t
    srPorts := L.cc.stWrites.filter fun x => x.2 == t
    deep := false
    queues := [Station.pt, .ls, .px, .mx, .vx, .cc].map fun st => L.q st t
    mx := { buf0 := L.mx.buf0, buf1 := L.mx.buf1, active := L.mx.active, anchors := L.mx.anchors, smax := L.mx.smax
            wrote0 := false, wrote1 := false }
    vx := { rows := 0, wroteF := false, rr := (L.settleRows (p + 4096)).vx.rr, summ := L.vx.summ, sticky := L.vx.sticky
            freq := L.vx.freq }
    taken := [], flags := [], words := [], pgrp := none, oowRep := [], vxEv := [] }

/-- CC.PREDICT: checkpoint, then the branch to ENTRY (R239, R240). The entries that a VX.RFLD which the branch cuts has read belong to the
checkpoint (R198). -/
def execCcPredict (q : Queue) (w : FmtC) (s : State) : Host.Outcome State Fault Refusal :=
  let e := w.fld 0 8
  if !(s.line q.line).fullEntry e then stuck
  else s.issueCcBranch q (.ccPredict q w) fun s k =>
    if ((s.line k.l).cc.preds.find k.t).isSome then (s.faultK k .specNest 1).advance .cc q
    else
      let s := (s.countLine k.l .ccPred).updLine k.l fun L =>
        { L with cc.preds := L.cc.preds.put k.t ((L.cutRfld k.t k.x).checkpoint k.t e k.x) }
      s.branchTo q e

/-! ### Confirmation -/

/-- A mark of task `t` cleared. -/
def unmark (t : Nat) (u : Option Nat) : Option Nat := if u = some t then none else u

/-- The line after the confirmation of a task's prediction in sc `r`. An older CONFIRMED entry for an address whose UNCONFIRMED entry becomes
CONFIRMED is freed without a drain: its row is superseded (R261; DESIGN CHOICE, log entry 115). -/
def LineState.confirm (L : LineState) (t r : Nat) : LineState :=
  let held := L.ls.held
  let fresh (a : Nat) : Bool := held.any fun e => e.2.addr == a && !e.2.confirmed && e.2.task == t
  let mine (e : Nat × HeldRow) : Nat × HeldRow :=
    if !e.2.confirmed && e.2.task = t then (e.1, { e.2 with confirmed := true, since := r }) else e
  { L with
    beats := L.beats.map fun b => { b with unconf := unmark t b.unconf }
    outs := L.outs.map fun o => { o with unconf := unmark t o.unconf }
    dq := L.dq.map fun d => (d.1, { d.2 with entries := d.2.entries.map fun e => { e with unconf := unmark t e.unconf } })
    bg := L.bg.map fun b => { b with unconf := unmark t b.unconf }
    mx := { L.mx with
      commits := L.mx.commits.map fun c => { c with unconf := unmark t c.unconf }
      lw := L.mx.lw.map fun w => { w with unconf := unmark t w.unconf }
      copies := L.mx.copies.filter fun e => e.2.1 ≠ t }
    vx := { L.vx with
      rrPend := L.vx.rrPend.map fun u => { u with unconf := unmark t u.unconf }
      copies := L.vx.copies.filter fun e => e.2.1 ≠ t }
    px := { L.px with wrote := L.px.wrote.del t }
    ls := { L.ls with held := (held.filter fun e => !(e.2.confirmed && fresh e.2.addr)).map mine }
    cc := { L.cc with preds := L.cc.preds.del t } }

/-- The deferred words go out one per sc from r + 1 (R243). -/
def LineState.queueWords (L : LineState) (ws : List DefWord) (r : Nat) : LineState :=
  { L with cc.sendQ := L.cc.sendQ ++ ws.zipIdx.map fun p => { p.1 with from_ := r + 1 + p.2 } }

/-- What the deferred changes of flags leave when they apply in issue order in one sc: of each flag the last (R243). -/
def lastFlags : List DefFlag → List DefFlag
  | [] => []
  | f :: r => if r.any fun g => g.cls == f.cls && g.idx == f.idx then lastFlags r else f :: lastFlags r

/-- The prediction of task `t` is confirmed in sc `r` (R241). A write issued under it whose port sc is `r` or later is unmarked by then and goes to the
banks (R258; DESIGN CHOICE, log entry 116). -/
def State.confirm (s : State) (l t r : Nat) (p : Pred) : State :=
  let s := s.updLine l fun L => (L.confirm t r).queueWords p.words r
  let s := { s with uses := s.uses.map fun u =>
    if u.unit.line = l then { u with unconf := unmark t u.unconf
                                     ret := u.ret.map fun x => { x with unconf := unmark t x.unconf } } else u }
  let s := (lastFlags p.flags).foldl (fun s f =>
    let home := flagHome f.cls l f.idx
    s.flagChange f.cls home (flagIx f.cls f.idx) f.set .program (r + flagLat f.cls l home)) s
  let s := match p.pgrp with | some on => s.requestGroups l on r | none => s
  let s := p.oowRep.foldl (fun s o => s.oowReport l o.row o.issue r t o.pc true) s
  p.vxEv.foldl (fun s e => s.vxReport l t e.2.1 e.1 r e.2.2 true) s

/-! ### Refutation -/

/-- A result in flight after a refutation: stream beats travel with valid bit 0, the others are discarded. Events are discarded too, but for the
counters, which count them as issued (Table 6-13). -/
def PendOut.squash (t : Nat) (o : PendOut) : Option PendOut :=
  if o.unconf = some t then
    match o.dest with
    | .stream _ => some { o with valid := false, unconf := none }
    | _ => if o.ev = 0 then none else some { o with dest := .none, valid := false, unconf := none }
  else some o

/-- A buffer that an MX.LW wrote under the prediction becomes INVALID (Table 5-6). -/
def WBuf.squash (b : WBuf) (wrote : Bool) : WBuf := if wrote then { b with st := .invalid } else b

/-- The matrix station restored (Table 5-6): the designation, anchors and SMAX of the prediction come back, whichever task has changed them since
(log entry 81); repeats in the pipeline are discarded. The recorded scale of a buffer that an MX.LW wrote under the prediction, which Table 5-6 does not
name, reads as at the prediction (DESIGN CHOICE, log entry 81). -/
def MxState.refute (m : MxState) (t : Nat) (p : MxSaved) : MxState :=
  { m with
    buf0 := p.buf0.squash p.wrote0, buf1 := p.buf1.squash p.wrote1, active := p.active, anchors := p.anchors, smax := p.smax
    lw := match m.lw with | some w => if w.unconf = some t then none else some w | none => none
    commits := m.commits.map fun c => if c.unconf = some t then { c with dead := true, unconf := none } else c
    acc := m.copies.foldl (fun a e => if e.2.1 = t then a.put e.1 (Stamped.of e.2.2) else a) m.acc
    copies := m.copies.filter fun e => e.2.1 ≠ t }

/-- The vector station restored (Table 6-13): the task's registers, its summary states and sticky flags, and the running rows
and the rotary table as far as they were written under the prediction. -/
def VxState.refute (v : VxState) (t : Nat) (p : VxSaved) : VxState :=
  { v with
    vr := v.copies.foldl (fun a e => if e.2.1 = t then a.put e.1 (Stamped.of e.2.2) else a) v.vr
    copies := v.copies.filter fun e => e.2.1 ≠ t
    rr := (List.range 4).foldl (fun a n => if p.rows.getLsbD n then a.put n (p.rr.look n RunRow.noKind) else a) v.rr
    rrPend := v.rrPend.filter fun u => u.unconf ≠ some t && !p.rows.getLsbD u.rr
    summ := (v.summ.filter fun e => e.1 / 8 ≠ t) |> fun a => p.summ.foldl (fun a e => if e.1 / 8 = t then a.put e.1 e.2 else a) a
    sticky := v.sticky.put t (p.sticky.look t 0)
    freq := if p.wroteF then p.freq else v.freq }

/-- The line after the refutation in sc `r`: every station issues the arm of entry `e` from r + 7. Words that return to an inbound queue stand before
those that have come meanwhile, and all are kept, more than 16 together too (R240; DESIGN CHOICE, log entry 114). -/
def LineState.refute (L : LineState) (t r e : Nat) (p : Pred) : LineState :=
  let back (n : Nat) : List (W64 × Nat) := (p.taken.filter fun x => x.1 == n).map fun x => (x.2, 0)
  let sregs := (L.cc.sreg.filter fun x => x.1 / 64 ≠ t)
  let L : LineState := { L with
    beats := L.beats.map fun b => if b.unconf = some t then { b with valid := false, unconf := none } else b
    outs := L.outs.filterMap (PendOut.squash t)
    dq := L.dq.map fun d => (d.1, { d.2 with entries := d.2.entries.filter fun x => x.unconf ≠ some t })
    bg := L.bg.map fun b => if b.unconf = some t then { b with valid := false, unconf := none } else b
    mx := L.mx.refute t p.mx
    vx := L.vx.refute t p.vx
    px := { L.px with invalid := L.px.invalid ||| L.px.wrote.look t 0, wrote := L.px.wrote.del t }
    ls := { L.ls with held := L.ls.held.filter fun x => x.2.confirmed || x.2.task ≠ t }
    cc := { L.cc with
      preds := L.cc.preds.del t
      sreg := p.sregs.foldl (fun a x => a.put x.1 x.2) sregs
      stWrites := (L.cc.stWrites.filter fun x => x.2 ≠ t) ++ p.srPorts.filter fun x => r ≤ x.1
      iw := L.cc.iw.map fun x => (x.1, { x.2 with words := back x.1 ++ x.2.words }) } }
  ([Station.pt, .ls, .px, .mx, .vx, .cc].zip p.queues).foldl (fun L x =>
    let pc := (L.target e x.1).getD 0
    L.setQ x.1 t (x.2.redirect pc (r + 7))) L

/-- A write that is discarded, and still occupies its port as any other (R258). -/
def MemUse.dead (u : MemUse) : MemUse := { u with taken := true, unconf := none }
/-- The accesses in flight of a refuted prediction: reads return with valid bit 0, writes are discarded, and so is the write of an LS.COPY that has
still to read. -/
def MemUse.squash (l t : Nat) (u : MemUse) : List MemUse :=
  if u.unit.line = l && u.unconf = some t then
    if u.write then [u.dead]
    else
      { u with kind := .own, unconf := none, ret := u.ret.map fun x => { x with valid := false, unconf := none } } ::
      match u.kind, u.taken with
      | .copyTo dst, false =>
        [{ u.dead with kind := .own, write := true, addr := dst, order := u.due + 2, due := u.due + 2, slotted := false }]
      | _, _ => []
  else if u.unit.line = l then
    [{ u with ret := u.ret.map fun x => if x.unconf = some t then { x with valid := false, unconf := none } else x }]
  else [u]

/-- The prediction of task `t` is refuted in sc `r` (R241). -/
def State.refute (s : State) (l t r e : Nat) (p : Pred) : State :=
  let s := (s.countLine l .ccRefute).updLine l fun L => L.refute t r e p
  { s with uses := s.uses.flatMap (MemUse.squash l t) }

/-- A prediction of sc p not resolved by p + 256 is SPEC_DEPTH in sc p + 257, recorded once (R242). -/
def State.specDepth (s : State) (l t : Nat) : State :=
  match (s.line l).cc.preds.find t with
  | some p =>
    if p.p + 257 = s.sc && !p.deep then
      (s.faultQ .cc l t .specDepth).updLine l fun L => { L with cc.preds := L.cc.preds.put t { p with deep := true } }
    else s
  | none => s

/-- The resolving CC.BR (R241). -/
def execCcBrResolve (q : Queue) (w : FmtC) (s : State) : Host.Outcome State Fault Refusal :=
  if !(s.line q.line).fullEntry (w.fld 0 8) then stuck
  else s.issueCcBranch q (.ccBrResolve q w) fun s k =>
    match (s.line k.l).cc.preds.find k.t with
    | none => (s.faultK k .specNest 2).advance .cc q
    | some p =>
      let s := s.specDepth k.l k.t
      if s.condOf k w then (s.confirm k.l k.t k.x p).advance .cc q else s.refute k.l k.t k.x (w.fld 0 8) p

/-! ### SPEC_DEPTH, SPEC_HARVEST and deferred words -/

/-- A harvest boundary at which a task holds a prediction is SPEC_HARVEST in its sc h + 8 (Table 7-8). -/
def State.specHarvest (s : State) (l t : Nat) : State :=
  if (s.hrv.bounds.any fun b => b.h + 8 == s.sc) && ((s.line l).cc.preds.find t).isSome then s.faultQ .cc l t .specHarvest else s

def execSpecDepthExpire (q : Queue) (s : State) : Host.Outcome State Fault Refusal :=
  .next (if s.live && !s.held then s.specDepth q.line q.task else s)

/-- The deferred words of a line that are due in the current sc (R243). -/
def State.deferredSends (s : State) (l : Nat) : State :=
  let now := (s.line l).cc.sendQ.filter fun w => w.from_ ≤ s.sc
  let s := s.updLine l fun L => { L with cc.sendQ := L.cc.sendQ.filter fun w => s.sc < w.from_ }
  now.foldl (fun s w =>
    s.sendWord { st := .cc, l := l, t := w.task, x := s.sc, c0 := s.sc, j := 0, pc := w.pc } w.route w.word) s

def execDeferredWordSend (q : Queue) (s : State) : Host.Outcome State Fault Refusal :=
  .next (if s.live && !s.held then s.deferredSends q.line else s)

end Sys2Proof.Machine
end

