-- ==== Sys2Proof/Machine/Tick.lean ====
section
/-! DEFINITION. One cc: what every unit does in an sc, the end of a job, and the passage of time (R36 to R47, log entry 2). -/

namespace Sys2Proof.Machine

/-! ### What happens in an sc, in order -/

/-- A fold over the lines of the part. -/
def State.eachLine (s : State) (f : State → Nat → State) : State := s.lines.foldl (fun s e => f s e.1) s
/-- A fold over the bays. -/
def State.eachBay (s : State) (f : State → Nat → State) : State := (List.range 8).foldl f s

/-- The stations take what is due at the start of the sc: deferred words, background beats, beats of loads. -/
def State.scStations (s : State) : State :=
  ((s.eachLine State.deferredSends).eachLine State.bgStep).eachLine State.lwBeat

/-- The circuits of the part: packets become ready, packets are used, signals issue (R329, R335, R337). -/
def State.scFabric (s : State) : State :=
  let s := s.fab.circ.foldl (fun s e => s.packetsReady e.1) s
  let s := s.fab.circ.foldl (fun s e => s.useCircuit e.1) s
  s.eachLine State.signals

/-- The memories: reads meet the content, ports and slots are occupied, drains, bridge crossings. -/
def State.scMemory (s : State) (x : Nat) : State :=
  let s := (s.meetReads x).ports x fun _ => true
  (s.eachLine fun s l => s.drains l x).eachBay fun s b => s.crossings b x

/-- The flags on which tasks wait. -/
def State.waitedFlags (s : State) : List (FlagClass × Nat × Nat) :=
  (s.lines.flatMap fun e => e.2.cc.waits.map fun w => (w.2.cls, flagHome w.2.cls e.1 w.2.idx, flagIx w.2.cls w.2.idx)).eraseDups

/-- Results reach their places, rows commit, loads complete (R155, R157, R184, R204, R286). -/
def State.scResults (s : State) (x : Nat) : State :=
  let s := s.eachLine fun s l => s.vxOutputs l x
  let s := s.eachLine fun s l => s.pxOutputs l x
  let s := s.eachLine fun s l => (s.readReturns .pt l x).readReturns .ls l x
  (s.eachLine fun s l => s.mxCommits l x).eachLine State.lwComplete

/-- Words and acknowledgements arrive, the expert load table is met, running rows settle. -/
def State.scWords (s : State) (x : Nat) : State :=
  let s := (s.eachLine fun s l => s.arrivals l x).eachLine fun s l => s.nacksAt l x
  (s.elbAt x).eachLine fun s l => s.updLine l fun L => L.settleRows x

/-- The flag changes of the sc settle, and the next sc starts from them (R221). -/
def State.scFlags (s : State) : State :=
  let homes := (s.flags.chgs.filter fun c => c.eff ≤ s.sc).map fun c => (c.cls, c.home)
  let s := homes.eraseDups.foldl (fun s h => s.changesReach h.1 h.2) s
  let s := s.eachLine fun s l => s.updLine l fun L => { L with cc := { L.cc with lfBase := L.cc.lf } }
  { s with flags := { s.flags with bfBase := s.flags.bf, mfBase := s.flags.mf
                                   chgs := s.flags.chgs.filter fun c => s.sc < c.eff } }

/-- Two station writes of one task with one readable sc (R210). -/
def State.srPorts (s : State) (l x : Nat) : State :=
  let w := (s.line l).cc.stWrites.filter fun e : Nat × Nat => e.1 = x
  let s := s.updLine l fun L => { L with cc := { L.cc with stWrites := L.cc.stWrites.filter fun e : Nat × Nat => x < e.1 } }
  (List.range 4).foldl (fun s t =>
    if 2 ≤ (w.filter fun e : Nat × Nat => e.2 = t).length then s.faultAt x .ccSrport 0 ⟨l, 5, t, true, ((s.line l).q .cc t).pc⟩ else s) s

/-- Overflow of the data queues of a line (R107). -/
def State.dqChecks (s : State) (l : Nat) : State := (s.line l).dq.foldl (fun s e => s.dqFull l e.1) s

/-- The checks at the end of an sc. -/
def State.scChecks (s : State) (x : Nat) : State :=
  let s := (s.eachLine State.bgEnd).eachLine fun s l => (s.srPorts l x).dqChecks l
  let s := s.eachLine fun s l => (List.range 4).foldl (fun s t => (s.specDepth l t).specHarvest l t) s
  let s := (s.landCheck x).injectDue
  let s := s.eachLine fun s l => (List.range 4).foldl (fun s t => s.endLending l t) s
  s.enterMoves

/-- Everything that happens in the current unheld cc of a running job besides the issues of its stations. -/
def State.scEnd (s : State) : State :=
  let x := s.sc
  let s := (s.scStations.scFabric).scMemory x
  let s := s.waitedFlags.foldl (fun s f => s.probeFlag f.1 f.2.1 f.2.2) s
  let s := ((s.scResults x).landWrites x).scWords x
  s.scFlags.scChecks x

/-! ### Looking 8 cc ahead (R41) -/

/-- A STEP of the debug port: DEBUG is raised again 8 cc before the cc in which its last sc would follow (R371). -/
def State.stepExpire (s : State) : State :=
  match s.dbg.stepTo with
  | some n => if s.eightBefore n then ({ s with dbg := { halted := true, stepTo := none } } : State).raiseHold 10 .debug none else s
  | none => s

/-- Deadlines, leads, boundaries, steps and ramps are looked at in every cc, and due load reports are sent (R236). -/
def State.lookAhead (s : State) : State :=
  let s := s.deadlineWaits.foldl State.checkDeadline s
  let s := (List.range 12).foldl State.leadCheck s
  s.raiseBoundaries.stepExpire.sendReports.rampLook

/-! ### The end of the job, and time -/

/-- The job ends in the cc of its fault, or when every condition of R365 holds. A hold timeout ends it at once. -/
def State.endOfJob (s : State) : State :=
  if !s.time.running then s
  else if s.job.faultSc.any fun f => (s.live && !s.held && f ≤ s.sc) || s.timedOut then s.endFault
  else if s.partDone then s.endNormal
  else s

/-- The counters of a cc of a running job (R38, R47). -/
def State.countCc (s : State) : State :=
  if !s.live then s
  else
    let c := s.time.cnt
    let c := { c with cc := wrap64 (c.cc + 1) }
    if s.held then
      let m := s.time.hist.getD 7 0
      let h := s.time.curHold + 1
      let one (t : Tbl Nat) (n : Nat) : Tbl Nat := if m.getLsbD n then t.upd n 0 fun v => wrap64 (v + 1) else t
      let last := if m.getLsbD 8 || m.getLsbD 9 then sat32 (s.hrv.lastHold + 1) else s.hrv.lastHold
      { s with
        time.cnt := { c with
          holdCc := wrap64 (c.holdCc + 1), holdMax := max c.holdMax (sat32 h)
          holdEv := if s.time.curHold = 0 then sat32 (c.holdEv + 1) else c.holdEv
          hcCc := (List.range 11).foldl one c.hcCc }
        time.curHold := h
        time.limHold := if s.hasHold 9 .snapshot then 0 else s.time.limHold + 1
        hrv.lastHold := last }
    else
      { s with time := { s.time with cnt := { c with scc := wrap64 (c.scc + 1) }, curHold := 0, limHold := 0 } }

/-- A scheduled packet whose send sc has come, or would come in this cc but for a hold, waits for credit: one cc of FAB_Pn_CNT_WAIT. -/
def State.countWaits (s : State) : State :=
  (List.range 12).foldl (fun s p =>
    if (s.toSend p).any fun c => (s.txReady c || (s.live && c.at_ = s.sc)) && !s.hasCredit c then
      s.updPort p fun P => { P with cnt := { P.cnt with wait := sat32 (P.cnt.wait + 1) } }
    else s) s

/-- Every link launches its frames at hall times that are multiples of 2,560 (R315): a port that has reached ALIGN sends its marker (Table
10-4). -/
def State.frameStart (s : State) : State :=
  if s.fab.clk && s.fab.htc % 2560 = 0 then
    (List.range 12).foldl (fun s p =>
      if 2 ≤ (s.port p).st && (s.port p).st ≤ 5 then s.send (.marker p (frameMarker (s.fab.htc / 2560) s.coord.toNat p s.fab.split)) else s) s
  else s

/-- An idle cell of an UP port is a cell launched (FAB_Pn_CNT_TX), as an idle cell that arrives at one is a cell received. -/
def State.countIdle (s : State) (p : Nat) : State :=
  if s.portUp p then s.updPort p fun P => { P with cnt := { P.cnt with tx := wrap64 (P.cnt.tx + 1) } } else s

/-- A link in a cc (Table 10-4): a position without a packet carries an idle cell, the last cc of a control cell's ten carries one of kind NONE when
none has gone, and zeros fill the end of the frame (log entry 91). -/
def State.linkCc (s : State) (p : Nat) : State :=
  let P := s.port p
  if P.st < 2 || 5 < P.st then s
  else
    let s := if s.position.isSome && s.positionFree p then (s.countIdle p).send (.idle p) else s
    let s := if s.fab.htc % 10 = 9 then s.launchControl p 0 else s
    if s.fab.htc % 2560 = 2559 then s.send (.fill p) else s
def State.linksCc (s : State) : State := if s.fab.clk then (List.range 12).foldl State.linkCc s else s

/-- Time passes: hall time, the request masks of the last 8 cc, what was pending in the cc (R39, R61, R65). -/
def State.passTime (s : State) : State :=
  let s := { s with fab.htc := s.nextHtc }
  let s := { s with
    time.hist := s.causes :: s.time.hist.take 7
    hrv := { s.hrv with pendWas := s.hrv.pend, armedWas := s.hrv.armed } }
  let s := { s with time.now := s.time.now + 1 }
  (s.coordRelease.plainRelease.expireHolds.delayed.hallWaits).frameStart

/-- A cc ends: a takeover whose time expires in it is taken (R380), completion rings send their messages by time (R397), the
boot ROM posts and the management controller answers what no command of the table stands for (R463, R468), ALERT_N follows its cause (R19), and what the cc has marked for its other
commands is over (R10, R11, R405). -/
def State.endCc (s : State) : State :=
  let s := (s.takeover (s.time.now + 1)).cqTimes.bootNotice.ownerUnknown
  let s := if s.alertN == s.mod.alertLow then s else { (s.send (.alert s.alertN)) with mod.alertLow := s.alertN }
  let ports := s.host.ports.map fun e : Nat × HostPort => (e.1, { e.2 with errCc := 0, aerCc := 0 })
  let boxes := s.host.boxes.map fun e : Nat × Mailbox => (e.1, e.2.newCc)
  { s with host := { s.host with ports := ports, boxes := boxes }, rcv.alertCc := 0, pwr.alertCc := 0, gr.chunks := [] }

/-- One cc (log entry 2). A harvest boundary that is due comes first, and is a step of its own. -/
def State.tick (s : State) : State :=
  if s.dueBoundary.isSome then s.harvestBoundary
  else
    let s := if s.live && !s.held then s.scEnd else s
    let s := if s.live then s.lookAhead else s
    let s := s.holdTimeout.cutBoundary.freeAccesses.snapCc.sendSlots.endOfJob
    let s := s.dutyPeriod.ballastCc.countWaits.linksCc
    s.countCc.endCc.passTime

end Sys2Proof.Machine
end

