-- ==== Sys2Proof/Machine/Writes.lean ====
section
/-! DEFINITION. Register writes: schedule time and harvests (R61, R62, R71, R72), module flags (R247), environment (R294, R311), the debug
port (R371), and every register whose write has no command of its own (R8, R427, R406, R403, R456). -/

namespace Sys2Proof.Machine

/-! ### The debug port (R371) -/

/-- The offset of DBG_HALT. -/
def haltReg : Nat := 0x1700600

/-- A write of DBG_HALT: only from the debug port, while the test access port is unlocked. -/
def State.haltWrite (s : State) (who : Requester) (f : State → State) : State :=
  s.regWrite who haltReg fun s => if who = .debug then f s else s

/-- The DEBUG request is raised, if it is not, and stays raised. -/
def State.halt (s : State) : State :=
  let s := { s with dbg := { halted := true, stepTo := none } }
  if s.hasHold 10 .debug then s else s.raiseHold 10 .debug none

/-- The DEBUG request is withdrawn. -/
def State.resume (s : State) : State := { (s.dropHold 10 .debug) with dbg := { halted := false, stepTo := none } }

/-- `n` further sc run; a count of 0 lies outside the field's range and leaves the request as it is. -/
def State.stepBy (s : State) (n : Nat) : State :=
  if n = 0 then s else { (s.dropHold 10 .debug) with dbg := { halted := false, stepTo := some (s.nextSc + n) } }

def execDbgHalt (who : Requester) (s : State) : Host.Outcome State Fault Refusal := .next (s.haltWrite who State.halt)
def execDbgResume (who : Requester) (s : State) : Host.Outcome State Fault Refusal := .next (s.haltWrite who State.resume)
def execStepCount (who : Requester) (n : BitVec 24) (s : State) : Host.Outcome State Fault Refusal :=
  .next (s.haltWrite who fun s => s.stepBy n.toNat)
def execStepCountExpire (s : State) : Host.Outcome State Fault Refusal := .next s.stepExpire

/-- A write of DBG_HALT by its bits: more than one of [2:0] is ignored. -/
def State.haltWord (who : Requester) (value : W32) (s : State) : Host.Outcome State Fault Refusal :=
  .next (s.haltWrite who fun s =>
    match (value.extractLsb' 0 3).toNat with
    | 1 => s.halt
    | 2 => s.resume
    | 4 => s.stepBy (value.extractLsb' 8 24).toNat
    | _ => s)

/-! ### Harvests (R61, R62, R72) -/

def execHrvArm (who : Requester) (s : State) : Host.Outcome State Fault Refusal :=
  .next (s.regWrite who 0x10020 fun s => if s.isOwner who then s.setArmed else s)

/-- DISARM leaves what ARMED was in the cc before (R62). -/
def execHrvDisarm (who : Requester) (s : State) : Host.Outcome State Fault Refusal :=
  .next (s.regWrite who 0x10020 fun s => if s.isOwner who then { s with hrv.armed := false } else s)

def execHrvAck (who : Requester) (value : W32) (s : State) : Host.Outcome State Fault Refusal :=
  .next (s.regWrite who 0x1000C fun s => if value.toNat = s.hrv.seq then { s with hrv.unread := false } else s)

/-! ### Permits and limits (R71) -/

def execSchCtrlWrite (who : Requester) (value : W32) (s : State) : Host.Outcome State Fault Refusal :=
  .next (s.regWrite who 0x20010 fun s =>
    let v := value &&& 0x1010F
    { s with time := { s.time with ctrl := v, ctrlLoad := if s.time.loaded then s.time.ctrlLoad else v } })

def execSchHoldLimitWrite (who : Requester) (value : W32) (s : State) : Host.Outcome State Fault Refusal :=
  .next (s.regWrite who 0x20028 fun s =>
    { s with time := { s.time with limit := value, limitLoad := if s.time.loaded then s.time.limitLoad else value } })

/-! ### Module flags (R247) -/

/-- The owner's write sets or clears module flags homed in a bay. -/
def State.flagsWrite (s : State) (who : Requester) (bay k : Nat) (value : W32) (set : Bool) : State :=
  s.regWrite who (dieReg bay ((if set then 0x40 else 0x50) + 4 * k)) fun s =>
    if s.isOwner who then
      ((List.range 32).filter fun i => value.getLsbD i).foldl (fun s i => s.outsideChange bay (32 * k + i) set) s
    else s

def execFlgMfSet (who : Requester) (bay : BayId) (k : Fin 4) (value : W32) (s : State) : Host.Outcome State Fault Refusal :=
  .next (s.flagsWrite who bay k value true)
def execFlgMfClr (who : Requester) (bay : BayId) (k : Fin 4) (value : W32) (s : State) : Host.Outcome State Fault Refusal :=
  .next (s.flagsWrite who bay k value false)

/-! ### The environment of a job (R294, R311) -/

/-- A write that the owner makes while no job is loaded. -/
def State.idleWrite (s : State) (who : Requester) (o : Nat) (f : State → State) : State :=
  s.regWrite who o fun s => if s.isOwner who && !s.time.loaded then f s else s

def execNtZoneWrite (who : Requester) (value : W32) (s : State) : Host.Outcome State Fault Refusal :=
  .next (s.idleWrite who (dieReg 0 0x208) fun s => { s with zone := value.setWidth 24 })
def execFabShapeWrite (who : Requester) (value : W32) (s : State) : Host.Outcome State Fault Refusal :=
  .next (s.idleWrite who 0x1400008 fun s => { s with fab.shape := value.setWidth 15 })

/-! ### The PWR block (R409, R417, R427) -/

/-- A register of the PWR block at offset `x` written by the owner. -/
def State.pwrWrite (s : State) (who : Requester) (x : Nat) (f : State → State) : State :=
  s.regWrite who (0x40000 + x) fun s => if s.isOwner who then f s else s

/-- PWR_CLASS: a reserved class is dropped, one above the strapped class is clamped to it (R409). -/
def execPwrClassWrite (who : Requester) (value : W32) (s : State) : Host.Outcome State Fault Refusal :=
  .next (s.pwrWrite who 0 fun s =>
    let v := (value.extractLsb' 0 3).toNat
    let top := s.mod.straps.pwrclass.toNat
    if 5 < v then { s with pwr.clamped := true }
    else if top < v then { s with pwr.cls := top, pwr.clamped := true }
    else { s with pwr.cls := v })

/-- A write of PWR_VCTRL: the codes it fixes wait for the next boundary. -/
def execPwrVctrlWrite (who : Requester) (value : W32) (s : State) : Host.Outcome State Fault Refusal :=
  .next (s.pwrWrite who 0x20 fun s =>
    let s := { s with pwr.vctrl := value &&& 0x7F01 }
    if value.getLsbD 0 then s else s.enterCodes s.chosenCodes)

def execPwrKeepWrite (who : Requester) (value : W32) (s : State) : Host.Outcome State Fault Refusal :=
  .next (s.pwrWrite who 0x10 fun s => { s with pwr.keep := (value.extractLsb' 0 16).toNat })

/-! ### Ring configuration (R383, R406) -/

/-- A CFG register of a ring of a port, which only the port's host writes. -/
def execRingCfgWrite (who : Requester) (port : HostId) (completion : Bool) (ring : RingId) (value : W32) (s : State) :
    Host.Outcome State Fault Refusal :=
  let o := 0x80000 + 0x10000 * port.val + (if completion then 0x308 else 0x108) + 0x20 * ring.val
  let k := (value.extractLsb' 0 5).toNat
  .next (s.regWrite who o fun s =>
    if !isHost who port then s
    else if k < 6 || 16 < k then s.hostErr port 5
    else if completion then s.updCq port ring fun r => r.configure value
    else s.updSq port ring fun r => r.configure value)

/-! ### RCV_CMD.PULL and RCV_CMD.RESCAN (R449, R451) -/

def execPullReplica (who : Requester) (record : List Byte) (s : State) : Host.Outcome State Fault Refusal :=
  .next (s.regWrite who (dieReg 0 0x840) fun s => if s.isOwner who && !s.slotsBusy then s.pull record else s)

/-- RESCAN by the owner. -/
def execRescanSlots (who : Requester) (s : State) : Host.Outcome State Fault Refusal :=
  .next (s.regWrite who (dieReg 0 0x840) fun s => if s.isOwner who then s.slotScan else s)

/-! ### Registers without a command of their own (R8) -/

/-- One half of a 64-bit register replaced. -/
def halfSet (v : Nat) (hi : Bool) (x : W32) : Nat :=
  if hi then v % 2 ^ 32 + 2 ^ 32 * x.toNat else v / 2 ^ 32 * 2 ^ 32 + x.toNat

/-- A word of an MSI-X entry: unmasking a vector with its pending bit set sends its message (R397). -/
def State.msixWrite (s : State) (p v w : Nat) (x : W32) : State :=
  let old := (s.hp p).msix.look v 0
  let mask : BitVec 128 := (0xFFFFFFFF : BitVec 128) <<< (32 * w)
  let new := (old &&& ~~~mask) ||| (x.setWidth 128 <<< (32 * w))
  (s.updHp p fun h => { h with msix := h.msix.put v new }).msixPending p v

/-- A base register of a ring, written while the ring is disabled (R383); bits [11:0] are reserved. -/
def ringBase (b : W64) (hi : Bool) (x : W32) : W64 := BitVec.ofNat 64 (halfSet b.toNat hi x) &&& ~~~(0xFFF : W64)

/-- Registers of an HST block at offset `x` (Table 12-13). -/
def State.hstWrite (s : State) (who : Requester) (p : HostId) (x : Nat) (v : W32) : State :=
  if x = 8 then (if s.isOwner who then { s with host.tkovr := (v.extractLsb' 0 16).toNat } else s)
  else if !isHost who p then s
  else if x = 0x10 then s.updHp p fun h => { h with evtCfg := v &&& 0x1F }
  else if x = 0x14 then s.updHp p fun h => { h with mbVec := v &&& 0x7F }
  else if x = 0x18 then s.updHp p fun h => { h with err := w1c h.err h.errCc v }
  else if x = 0x24 || x = 0x28 then s.updHp p fun h => { h with b4Base := BitVec.ofNat 64 (halfSet h.b4Base.toNat (x = 0x28) v) }
  else if 0x100 ≤ x && x < 0x300 && x % 0x20 < 8 then
    s.updSq p ((x - 0x100) / 0x20) fun r => if r.en then r else { r with base := ringBase r.base (x % 0x20 = 4) v }
  else if 0x300 ≤ x && x < 0x500 && x % 0x20 < 8 then
    s.updCq p ((x - 0x300) / 0x20) fun r => if r.en then r else { r with base := ringBase r.base (x % 0x20 = 4) v }
  else if 0x8000 ≤ x && x < 0x8400 then s.msixWrite p ((x - 0x8000) / 16) (x % 16 / 4) v
  else s

/-- A slot or capture base: bits [41:20] (Table 14-11). -/
def slotSet (b : BitVec 42) (hi : Bool) (v : W32) : BitVec 42 := BitVec.ofNat 42 (halfSet b.toNat hi v / 2 ^ 20 * 2 ^ 20)

/-- Slot registers: dropped while a snapshot phase, a replication or a pull is in progress (R456). -/
def RecoverState.slotWrite (r : RecoverState) (x : Nat) (v : W32) : RecoverState :=
  match x with
  | 0x810 => { r with slotA := slotSet r.slotA false v }
  | 0x814 => { r with slotA := slotSet r.slotA true v }
  | 0x818 => { r with slotB := slotSet r.slotB false v }
  | 0x81C => { r with slotB := slotSet r.slotB true v }
  | 0x820 => { r with bslot0 := slotSet r.bslot0 false v }
  | 0x824 => { r with bslot0 := slotSet r.bslot0 true v }
  | 0x828 => { r with cap := slotSet r.cap false v }
  | 0x82C => { r with cap := slotSet r.cap true v }
  | 0x830 => { r with slotsz := (v.extractLsb' 0 24).toNat }
  | 0x850 => { r with bslot1 := slotSet r.bslot1 false v }
  | 0x854 => { r with bslot1 := slotSet r.bslot1 true v }
  | _ => r

/-- RCV registers without a command of their own at offset `x`. -/
def State.rcvWrite (s : State) (who : Requester) (x : Nat) (v : W32) : State :=
  if x = 0x800 then
    (if s.isOwner who || who = .bmc then { s with rcv.alert := w1c s.rcv.alert s.rcv.alertCc (v.setWidth 12 &&& 0xFFE) } else s)
  else if !s.isOwner who then s
  else if x = 0x844 then { s with rcv.pull := v &&& 0x1FFFF }
  else if s.slotsBusy then s
  else { s with rcv := s.rcv.slotWrite x v }

/-- FAB registers without a command of their own at offset `x`: written while no job is loaded (R352), and FAB_START also between a LOAD with
RESTORE and its START, as the restart of a hall-wide job asks (R453, log entry 41). -/
def State.fabWrite (s : State) (who : Requester) (x : Nat) (v : W32) : State :=
  let restart : Bool := (x = 0x18 || x = 0x1C) && s.job.resume.isSome && !s.time.running
  if !s.isOwner who || (s.time.loaded && !restart) then s
  else match x with
    | 0x00 => { s with fab.ctrl := v &&& 0x1F }
    | 0x18 => { s with fab.start := BitVec.ofNat 64 (halfSet s.fab.start.toNat false v) }
    | 0x1C => { s with fab.start := BitVec.ofNat 64 (halfSet s.fab.start.toNat true v) }
    | _ => s

/-- HRV registers without a command of their own. -/
def State.hrvWrite (s : State) (who : Requester) (x : Nat) (v : W32) : State :=
  if x = 0 then { s with hrv.ctrl := v &&& 1 }
  else if (x = 0x18 || x = 0x1C) && s.isOwner who then
    { s with hrv.reqSc := BitVec.ofNat 64 (halfSet s.hrv.reqSc.toNat (x = 0x1C) v) }
  else s

/-- A free commit record: what the holder of a replica sends is not known to a plain write of RCV_CMD.PULL. -/
def State.freeRecord (s : State) : List Byte := (List.range 4096).map fun i => Config.freeByte s.freeIx i

/-- RCV_CMD by its bits: one of [4:0], as the commands of these names. -/
def State.rcvCmdWrite (who : Requester) (v : W32) (s : State) : Host.Outcome State Fault Refusal :=
  match (v.extractLsb' 0 5).toNat with
  | 1 => execPullReplica who s.freeRecord { s with freeIx := s.freeIx + 1 }
  | 2 => execRescanSlots who s
  | 4 => execModrstCmd who s
  | 8 => execBayrst who (Fin.ofNat 8 (v.extractLsb' 8 3).toNat) s
  | 16 => execLinerst who (Fin.ofNat 512 (v.extractLsb' 12 9).toNat) s
  | _ => .next s

/-- HRV_REQ by its bits: both set is ignored. -/
def State.hrvReqWrite (who : Requester) (v : W32) (s : State) : Host.Outcome State Fault Refusal :=
  match (v.extractLsb' 0 2).toNat with
  | 1 => execHrvArm who s
  | 2 => execHrvDisarm who s
  | _ => .next s

/-- Writes of a base-die block of a bay at offset `x`. -/
def dieWrite (who : Requester) (b x : Nat) (v : W32) (s : State) : Host.Outcome State Fault Refusal :=
  let bay : BayId := Fin.ofNat 8 b
  if 0x40 ≤ x && x < 0x50 then execFlgMfSet who bay (Fin.ofNat 4 ((x - 0x40) / 4)) v s
  else if 0x50 ≤ x && x < 0x60 then execFlgMfClr who bay (Fin.ofNat 4 ((x - 0x50) / 4)) v s
  else if b ≠ 0 then .next s
  else match x with
    | 0x208 => execNtZoneWrite who v s
    | 0x804 => execRcvDisreqWrite who v s
    | 0x808 => execRcvDisforceWrite who v s
    | 0x840 => State.rcvCmdWrite who v s
    | _ => .next (if 0x800 ≤ x && x < 0x1000 then s.rcvWrite who x v else s)

/-- Writes of FAB at offset `x`. -/
def fabReg (who : Requester) (x : Nat) (v : W32) (s : State) : Host.Outcome State Fault Refusal :=
  if x = 0x08 then execFabShapeWrite who v s
  else if x = 0x20 then execFabDisreqWrite who v s
  else if 0x1000 ≤ x && x < 0x1C00 && x % 0x100 = 0x24 then
    (if v.getLsbD 0 then execRetrainPort who (Fin.ofNat 12 ((x - 0x1000) / 0x100)) s else .next s)
  else .next (s.fabWrite who x v)

/-- Writes of PWR at offset `x`. PWR_ALERT is W1C. -/
def pwrReg (who : Requester) (x : Nat) (v : W32) (s : State) : Host.Outcome State Fault Refusal :=
  match x with
  | 0x00 => execPwrClassWrite who v s
  | 0x10 => execPwrKeepWrite who v s
  | 0x20 => execPwrVctrlWrite who v s
  | 0x1C => .next { s with pwr.alert := w1c s.pwr.alert s.pwr.alertCc (v.setWidth 6) }
  | _ => .next s

/-- Writes of an HST block at offset `x`. -/
def hstReg (who : Requester) (p : HostId) (x : Nat) (v : W32) (s : State) : Host.Outcome State Fault Refusal :=
  if 0x100 ≤ x && x < 0x300 && x % 0x20 = 8 then execRingCfgWrite who p false (Fin.ofNat 16 ((x - 0x100) / 0x20)) v s
  else if 0x300 ≤ x && x < 0x500 && x % 0x20 = 8 then execRingCfgWrite who p true (Fin.ofNat 16 ((x - 0x300) / 0x20)) v s
  else .next (s.hstWrite who p x v)

/-- A write of one word at an offset of BAR0 (Table 1-10). Offsets of RO and RSV registers ignore it. -/
def bar0Write (who : Requester) (o : Nat) (v : W32) (s : State) : Host.Outcome State Fault Refusal :=
  if o = dieReg 0 0x800 && who = .bmc then .next (s.rcvWrite who 0x800 v)
  else if !onBus who || !s.tapOpen who then .next s
  else if !s.claims who then .next (s.unclaimed who)
  else if !s.answers who o then .next (s.busError who true)
  else if o < 0x10000 then .next s
  else if o < 0x20000 then
    (if o = 0x10020 then State.hrvReqWrite who v s else if o = 0x1000C then execHrvAck who v s else .next (s.hrvWrite who (o - 0x10000) v))
  else if o < 0x30000 then
    (if o = 0x20010 then execSchCtrlWrite who v s else if o = 0x20028 then execSchHoldLimitWrite who v s else .next s)
  else if 0x40000 ≤ o && o < 0x80000 then pwrReg who (o - 0x40000) v s
  else if 0x80000 ≤ o && o < 0x90000 then hstReg who 0 (o - 0x80000) v s
  else if 0x90000 ≤ o && o < 0xA0000 then hstReg who 1 (o - 0x90000) v s
  else if 0x400000 ≤ o && o < 0x1400000 then
    let y := (o - 0x400000) % 0x200000
    if y < 0x100000 then .next s else dieWrite who ((o - 0x400000) / 0x200000) (y - 0x100000) v s
  else if 0x1400000 ≤ o && o < 0x1600000 then fabReg who (o - 0x1400000) v s
  else if o = haltReg then State.haltWord who v s
  else .next s

/-- A write of one word of a mailbox at offset `x` (Table 12-12). MB_MASK is written by the end that is not the management controller,
MB_CFG.DEAD_MODE and the MB_ALLOW of a secure mailbox by the management controller (R402, R403). -/
def boxWrite (who : Requester) (b : MailboxId) (x : Nat) (v : W32) (s : State) : Host.Outcome State Fault Refusal :=
  let mgmt : Bool := s.boxEnd b who == some true
  let secure : Bool := match b with | .secure _ => true | _ => false
  if x < 0x40 then execMbMsgWrite b who (Fin.ofNat 16 (x / 4)) v s
  else match x with
    | 0x44 => execMbDbset b who v s
    | 0x48 => execMbDbclr b who v s
    | 0x4C => .next (match s.boxEnd b who with
      | some false => s.updBox b fun m => { m with mask := v }
      | some true => s.boxDrop b
      | none => s)
    | 0x58 =>
      match if v.getLsbD 0 then execMbUnclaim b who s else .next s with
      | .next t => if v.getLsbD 1 then execMbAck b who t else .next t
      | r => r
    | 0x5C => .next (if mgmt then s.updBox b fun m => { m with deadMode := v.getLsbD 0 } else s)
    | 0x60 => .next (if mgmt && secure then s.updBox b fun m => { m with allow := v.setWidth 16 ||| 0xC } else s)
    | _ => .next s

/-- A write of one word in BAR2 of the requester's port (Table 12-2). -/
def bar2Write (who : Requester) (x : Nat) (v : W32) (s : State) : Host.Outcome State Fault Refusal :=
  match who with
  | .host p =>
    if !s.claims who then .next (s.unclaimed who)
    else if x < 0x80 then
      (if x % 8 = 0 then execSqDb p (Fin.ofNat 16 (x / 8)) v s else execCqDb p (Fin.ofNat 16 (x / 8)) v s)
    else if 0x1000 ≤ x && x < 0x1100 then boxWrite who (.open_ p) (x - 0x1000) v s
    else if 0x1100 ≤ x && x < 0x1200 then boxWrite who (.secure p) (x - 0x1100) v s
    else .next s
  | _ => .next s

/-- One word of a write. -/
def wordWrite (who : Requester) (t : RegTarget) (add : Nat) (v : W32) (s : State) : Host.Outcome State Fault Refusal :=
  match t with
  | .bar0 o => bar0Write who (o.toNat + add) v s
  | .bar2 o => bar2Write who (o.toNat + add) v s
  | .box b o => if s.claims who then boxWrite who b (o.toNat + add) v s else .next (s.unclaimed who)
  | .config o => match who with | .host p => .next (s.configWrite p (o.toNat + add) v) | _ => .next s

/-- REGISTER_WRITE: 4 bytes, or 8 naturally aligned, which go as two words, the lower first; any other size or alignment is an error that a
host's HST_ERR.ACC_SIZE shows (R376). A register whose write has a command of its own is written as that command does it. -/
def execRegisterWrite (who : Requester) (target : RegTarget) (size : Fin 9) (value : W64) (s : State) :
    Host.Outcome State Fault Refusal :=
  let o := RegTarget.off target
  let lo := value.extractLsb' 0 32
  let hi := value.extractLsb' 32 32
  if size.val = 4 && o % 4 = 0 then wordWrite who target 0 lo s
  else if size.val = 8 && o % 8 = 0 then
    match wordWrite who target 0 lo s with
    | .next t => wordWrite who target 4 hi t
    | r => r
  else
    let s := s.busError who true
    .next (match who with | .host p => s.hostErr p 2 | _ => s)

end Sys2Proof.Machine
end

