-- ==== Sys2Proof/Machine/Dispatch.lean ====
section
/-! DEFINITION. The command dispatch: one arm per constructor of Instr, each one direct call of its meaning. -/

namespace Sys2Proof.Machine

def exec (i : Instr) (s : State) : Host.Outcome State Fault Refusal :=
  match i with
  | .nop st q w => Sys2Proof.Machine.execNop st q w s
  | .endQueue st q w => Sys2Proof.Machine.execEndQueue st q w s
  | .loop st q w => Sys2Proof.Machine.execLoop st q w s
  | .rep st q w => Sys2Proof.Machine.execRep st q w s
  | .bar st q w => Sys2Proof.Machine.execBar st q w s
  | .arset st q w => Sys2Proof.Machine.execArset st q w s
  | .astset st q w => Sys2Proof.Machine.execAstset st q w s
  | .aradd st q w => Sys2Proof.Machine.execAradd st q w s
  | .arsc st q w => Sys2Proof.Machine.execArsc st q w s
  | .lcset st q w => Sys2Proof.Machine.execLcset st q w s
  | .repeatIssue st q => Sys2Proof.Machine.execRepeatIssue st q s
  | .mxLw q w => Sys2Proof.Machine.execMxLw q w s
  | .mxLwComplete l => Sys2Proof.Machine.execMxLwComplete l s
  | .mxSwap q w => Sys2Proof.Machine.execMxSwap q w s
  | .mxMm q w => Sys2Proof.Machine.execMxMm q w s
  | .mxMmCommit l => Sys2Proof.Machine.execMxMmCommit l s
  | .mxAnchor q w => Sys2Proof.Machine.execMxAnchor q w s
  | .mxAclr q w => Sys2Proof.Machine.execMxAclr q w s
  | .mxRdreg q w => Sys2Proof.Machine.execMxRdreg q w s
  | .vxAccrd q w => Sys2Proof.Machine.execVxAccrd q w s
  | .vxOp q w => Sys2Proof.Machine.execVxOp q w s
  | .vxFma q w => Sys2Proof.Machine.execVxFma q w s
  | .vxSel q w => Sys2Proof.Machine.execVxSel q w s
  | .vxFn q w => Sys2Proof.Machine.execVxFn q w s
  | .vxCvt q w => Sys2Proof.Machine.execVxCvt q w s
  | .vxDrop q w => Sys2Proof.Machine.execVxDrop q w s
  | .vxRope q w => Sys2Proof.Machine.execVxRope q w s
  | .vxRfld q w => Sys2Proof.Machine.execVxRfld q w s
  | .vxSumm q w => Sys2Proof.Machine.execVxSumm q w s
  | .vxRclr q w => Sys2Proof.Machine.execVxRclr q w s
  | .vxRacc q w => Sys2Proof.Machine.execVxRacc q w s
  | .vxRrd q w => Sys2Proof.Machine.execVxRrd q w s
  | .vxF64s q w => Sys2Proof.Machine.execVxF64s q w s
  | .vxOutput l => Sys2Proof.Machine.execVxOutput l s
  | .pxTr q w => Sys2Proof.Machine.execPxTr q w s
  | .pxTld q w => Sys2Proof.Machine.execPxTld q w s
  | .pxTrd q w => Sys2Proof.Machine.execPxTrd q w s
  | .pxGath q w => Sys2Proof.Machine.execPxGath q w s
  | .pxScat q w => Sys2Proof.Machine.execPxScat q w s
  | .pxCmpx q w => Sys2Proof.Machine.execPxCmpx q w s
  | .pxLperm q w => Sys2Proof.Machine.execPxLperm q w s
  | .pxPk6 q w => Sys2Proof.Machine.execPxPk6 q w s
  | .pxUp6 q w => Sys2Proof.Machine.execPxUp6 q w s
  | .pxOutput l => Sys2Proof.Machine.execPxOutput l s
  | .lsRd q w => Sys2Proof.Machine.execLsRd q w s
  | .lsWr q w => Sys2Proof.Machine.execLsWr q w s
  | .lsFill q w => Sys2Proof.Machine.execLsFill q w s
  | .lsCopy q w => Sys2Proof.Machine.execLsCopy q w s
  | .lsPgrp q w => Sys2Proof.Machine.execLsPgrp q w s
  | .heldRowDrain l found => Sys2Proof.Machine.execHeldRowDrain l s found
  | .gleanerRead m found => Sys2Proof.Machine.execGleanerRead m found s
  | .gleanerWriteBack m => Sys2Proof.Machine.execGleanerWriteBack m s
  | .instructionStoreScan l found => Sys2Proof.Machine.execInstructionStoreScan l found s
  | .ptGet q w => Sys2Proof.Machine.execPtGet q w s
  | .ptPut q w => Sys2Proof.Machine.execPtPut q w s
  | .ptBget q w => Sys2Proof.Machine.execPtBget q w s
  | .ptBput q w => Sys2Proof.Machine.execPtBput q w s
  | .ptNget q w => Sys2Proof.Machine.execPtNget q w s
  | .ptNput q w => Sys2Proof.Machine.execPtNput q w s
  | .backgroundBeat l => Sys2Proof.Machine.execBackgroundBeat l s
  | .ptSend q w => Sys2Proof.Machine.execPtSend q w s
  | .ptGmv q w => Sys2Proof.Machine.execPtGmv q w s
  | .ptFget q w => Sys2Proof.Machine.execPtFget q w s
  | .ptFput q w => Sys2Proof.Machine.execPtFput q w s
  | .ptReadReturn l => Sys2Proof.Machine.execPtReadReturn l s
  | .ntSlotAccess slice found rfm => Sys2Proof.Machine.execNtSlotAccess slice found rfm s
  | .hbmTempInterval stack degrees rfm => Sys2Proof.Machine.execHbmTempInterval stack degrees rfm s
  | .freeSlotAccess slice slot user found => Sys2Proof.Machine.execFreeSlotAccess slice slot user found s
  | .pnCrossing bay => Sys2Proof.Machine.execPnCrossing bay s
  | .ccOp q w => Sys2Proof.Machine.execCcOp q w s
  | .ccLi q w => Sys2Proof.Machine.execCcLi q w s
  | .ccLih q w => Sys2Proof.Machine.execCcLih q w s
  | .ccBr q w => Sys2Proof.Machine.execCcBr q w s
  | .ccBrResolve q w => Sys2Proof.Machine.execCcBrResolve q w s
  | .ccPredict q w => Sys2Proof.Machine.execCcPredict q w s
  | .specDepthExpire q => Sys2Proof.Machine.execSpecDepthExpire q s
  | .deferredWordSend q => Sys2Proof.Machine.execDeferredWordSend q s
  | .ccSet q w => Sys2Proof.Machine.execCcSet q w s
  | .ccClr q w => Sys2Proof.Machine.execCcClr q w s
  | .flagChangeEffect cls home => Sys2Proof.Machine.execFlagChangeEffect cls home s
  | .ccWait q w => Sys2Proof.Machine.execCcWait q w s
  | .ccWaitc q w => Sys2Proof.Machine.execCcWaitc q w s
  | .ccWaitl q w => Sys2Proof.Machine.execCcWaitl q w s
  | .flagProbe cls home ix => Sys2Proof.Machine.execFlagProbe cls home ix s
  | .deadlineCheck q => Sys2Proof.Machine.execDeadlineCheck q s
  | .waitlExpectedEnd q => Sys2Proof.Machine.execWaitlExpectedEnd q s
  | .ccHarvest q w => Sys2Proof.Machine.execCcHarvest q w s
  | .ccWsend q w => Sys2Proof.Machine.execCcWsend q w s
  | .wordArrival l => Sys2Proof.Machine.execWordArrival l s
  | .wordNack l => Sys2Proof.Machine.execWordNack l s
  | .ccWrecv q w => Sys2Proof.Machine.execCcWrecv q w s
  | .ccWarm q w => Sys2Proof.Machine.execCcWarm q w s
  | .ccSrrd q w => Sys2Proof.Machine.execCcSrrd q w s
  | .ccElbAdd q w => Sys2Proof.Machine.execCcElbAdd q w s
  | .ccElbRead q w => Sys2Proof.Machine.execCcElbRead q w s
  | .ccElbReadv q w => Sys2Proof.Machine.execCcElbReadv q w s
  | .expertLoadReportSend => Sys2Proof.Machine.execExpertLoadReportSend s
  | .expertLoadReport coord first entries => Sys2Proof.Machine.execExpertLoadReport coord first entries s
  | .holdRequestExpire => Sys2Proof.Machine.execHoldRequestExpire s
  | .holdTimeout => Sys2Proof.Machine.execHoldTimeout s
  | .harvestBoundary => Sys2Proof.Machine.execHarvestBoundary s
  | .harvestActionsComplete => Sys2Proof.Machine.execHarvestActionsComplete s
  | .snapshotCaptureDone here => Sys2Proof.Machine.execSnapshotCaptureDone s here
  | .snapshotWriteDone found => Sys2Proof.Machine.execSnapshotWriteDone s found
  | .snapshotCommitDone => Sys2Proof.Machine.execSnapshotCommitDone s
  | .replicationDone => Sys2Proof.Machine.execReplicationDone s
  | .replicationTimeout => Sys2Proof.Machine.execReplicationTimeout s
  | .slotScan => Sys2Proof.Machine.execSlotScan s
  | .moveDescriptorEntry => Sys2Proof.Machine.execMoveDescriptorEntry s
  | .granaryChunk found => Sys2Proof.Machine.execGranaryChunk found s
  | .moveComplete => Sys2Proof.Machine.execMoveComplete s
  | .moveEntryFree => Sys2Proof.Machine.execMoveEntryFree s
  | .granaryScrub channel found => Sys2Proof.Machine.execGranaryScrub channel found s
  | .scheduledPacketReady circ => Sys2Proof.Machine.execScheduledPacketReady circ s
  | .scheduledPacketDeparture port => Sys2Proof.Machine.execScheduledPacketDeparture port s
  | .scheduledPacketArrival port cell => Sys2Proof.Machine.execScheduledPacketArrival port cell s
  | .fabLateCheck circ seq index => Sys2Proof.Machine.execFabLateCheck circ seq index s
  | .scheduledPacketUse circ => Sys2Proof.Machine.execScheduledPacketUse circ s
  | .signalApply l => Sys2Proof.Machine.execSignalApply l s
  | .controlCellCredit port cell => Sys2Proof.Machine.execControlCellCredit port cell s
  | .controlCellTime port cell peerValid => Sys2Proof.Machine.execControlCellTime port cell peerValid s
  | .controlCellIdent port cell => Sys2Proof.Machine.execControlCellIdent port cell s
  | .controlCellNone port cell => Sys2Proof.Machine.execControlCellNone port cell s
  | .replayRequest port seq => Sys2Proof.Machine.execReplayRequest port seq s
  | .dynamicDataArrival port cell => Sys2Proof.Machine.execDynamicDataArrival port cell s
  | .dynamicForward port => Sys2Proof.Machine.execDynamicForward port s
  | .dynamicFlagChange flag set => Sys2Proof.Machine.execDynamicFlagChange flag set s
  | .busyNotice dst tag addr => Sys2Proof.Machine.execBusyNotice dst tag addr s
  | .busyResend dst tag addr => Sys2Proof.Machine.execBusyResend dst tag addr s
  | .doneNotice dst tag addr => Sys2Proof.Machine.execDoneNotice dst tag addr s
  | .abortNotice origin => Sys2Proof.Machine.execAbortNotice origin s
  | .managementMessage src m => Sys2Proof.Machine.execManagementMessage src m s
  | .coordinatedRelease => Sys2Proof.Machine.execCoordinatedRelease s
  | .cagePresent port => Sys2Proof.Machine.execCagePresent port s
  | .cableRemoved port => Sys2Proof.Machine.execCableRemoved port s
  | .equaliserTrainingDone port => Sys2Proof.Machine.execEqualiserTrainingDone port s
  | .frameLock port => Sys2Proof.Machine.execFrameLock port s
  | .calibrationDone port roundTrip turnaround => Sys2Proof.Machine.execCalibrationDone port roundTrip turnaround s
  | .fecLockLoss port => Sys2Proof.Machine.execFecLockLoss port s
  | .controlCellTimeout port => Sys2Proof.Machine.execControlCellTimeout port s
  | .phaseWanderOverflow port => Sys2Proof.Machine.execPhaseWanderOverflow port s
  | .retrainPort who port => Sys2Proof.Machine.execRetrainPort who port s
  | .referenceInvalid ref => Sys2Proof.Machine.execReferenceInvalid ref s
  | .clockLock aValid bValid => Sys2Proof.Machine.execClockLock aValid bValid s
  | .holdoverExpire => Sys2Proof.Machine.execHoldoverExpire s
  | .powerWindowEnd w => Sys2Proof.Machine.execPowerWindowEnd w s
  | .dutyPeriodEnd => Sys2Proof.Machine.execDutyPeriodEnd s
  | .rampRaise look => Sys2Proof.Machine.execRampRaise look s
  | .ballastKeepExpire => Sys2Proof.Machine.execBallastKeepExpire s
  | .vinStopThreshold high => Sys2Proof.Machine.execVinStopThreshold high s
  | .thermalShutdown bay sensor degrees => Sys2Proof.Machine.execThermalShutdown bay sensor degrees s
  | .vinGood lost => Sys2Proof.Machine.execVinGood s lost
  | .strapSampling pins => Sys2Proof.Machine.execStrapSampling pins s
  | .railsUp => Sys2Proof.Machine.execRailsUp s
  | .managementBoot => Sys2Proof.Machine.execManagementBoot s
  | .hostBootPackage pkg => Sys2Proof.Machine.execHostBootPackage pkg s
  | .hostBootTimeout => Sys2Proof.Machine.execHostBootTimeout s
  | .bayReady bay => Sys2Proof.Machine.execBayReady bay s
  | .granaryChannelReady channel fitted => Sys2Proof.Machine.execGranaryChannelReady channel fitted s
  | .managementFailover => Sys2Proof.Machine.execManagementFailover s
  | .standbyReady => Sys2Proof.Machine.execStandbyReady s
  | .modrstN low cool => Sys2Proof.Machine.execModrstN low cool s
  | .i3cResetCommand cool => Sys2Proof.Machine.execI3cResetCommand cool s
  | .perst port asserted => Sys2Proof.Machine.execPerst port asserted s
  | .linkLeavesL0 port => Sys2Proof.Machine.execLinkLeavesL0 port s
  | .pcieLinkUp port rate width => Sys2Proof.Machine.execPcieLinkUp port rate width s
  | .pcieCompletionTimeout port ring err data => Sys2Proof.Machine.execPcieCompletionTimeout port ring err data s
  | .ownerTakeover => Sys2Proof.Machine.execOwnerTakeover s
  | .sqDb port ring value => Sys2Proof.Machine.execSqDb port ring value s
  | .cqDb port ring value => Sys2Proof.Machine.execCqDb port ring value s
  | .ringCfgWrite who port completion ring value => Sys2Proof.Machine.execRingCfgWrite who port completion ring value s
  | .baleFetch port ring units => Sys2Proof.Machine.execBaleFetch port ring units s
  | .padRec port ring => Sys2Proof.Machine.execPadRec port ring s
  | .nopRec port ring => Sys2Proof.Machine.execNopRec port ring s
  | .copyRec port ring => Sys2Proof.Machine.execCopyRec port ring s
  | .copyComplete port ring data bad => Sys2Proof.Machine.execCopyComplete port ring data bad s
  | .loadRec port ring => Sys2Proof.Machine.execLoadRec port ring s
  | .loadProceed reloc fillError found => Sys2Proof.Machine.execLoadProceed reloc fillError found s
  | .startJob port ring => Sys2Proof.Machine.execStartJob port ring s
  | .killRec port ring => Sys2Proof.Machine.execKillRec port ring s
  | .fillComplete => Sys2Proof.Machine.execFillComplete s
  | .clearUnitDone bay line unit => Sys2Proof.Machine.execClearUnitDone bay line unit s
  | .ntSliceClearDone slice => Sys2Proof.Machine.execNtSliceClearDone slice s
  | .harvestRec port ring => Sys2Proof.Machine.execHarvestRec port ring s
  | .snapshotRec port ring => Sys2Proof.Machine.execSnapshotRec port ring s
  | .releaseRec port ring => Sys2Proof.Machine.execReleaseRec port ring s
  | .statusRec port ring => Sys2Proof.Machine.execStatusRec port ring s
  | .attestRec port ring => Sys2Proof.Machine.execAttestRec port ring s
  | .attestReportWritten port ring => Sys2Proof.Machine.execAttestReportWritten port ring s
  | .fwupdStage port ring pkg flashOk => Sys2Proof.Machine.execFwupdStage port ring pkg flashOk s
  | .fwupdCommit port ring flashOk => Sys2Proof.Machine.execFwupdCommit port ring flashOk s
  | .completionPost port cq => Sys2Proof.Machine.execCompletionPost port cq s
  | .cqInterrupt port cq => Sys2Proof.Machine.execCqInterrupt port cq s
  | .jobEnd => Sys2Proof.Machine.execJobEnd s
  | .faultReporting => Sys2Proof.Machine.execFaultReporting s
  | .bar4Access port offset write data len bad => Sys2Proof.Machine.execBar4Access port offset write data len bad s
  | .windowAccess who addr write data len bad => Sys2Proof.Machine.execWindowAccess who addr write data len bad s
  | .mbClaim box who => Sys2Proof.Machine.execMbClaim box who s
  | .mbMsgWrite box who w value => Sys2Proof.Machine.execMbMsgWrite box who w value s
  | .mbDbset box who value => Sys2Proof.Machine.execMbDbset box who value s
  | .mbDbclr box who value => Sys2Proof.Machine.execMbDbclr box who value s
  | .mbUnclaim box who => Sys2Proof.Machine.execMbUnclaim box who s
  | .mbAck box who => Sys2Proof.Machine.execMbAck box who s
  | .keyAdd port block => Sys2Proof.Machine.execKeyAdd port block s
  | .keyRemove port block => Sys2Proof.Machine.execKeyRemove port block s
  | .ownerPolicy port block => Sys2Proof.Machine.execOwnerPolicy port block s
  | .tapUnlock port block => Sys2Proof.Machine.execTapUnlock port block s
  | .tapLock port block => Sys2Proof.Machine.execTapLock port block s
  | .dbgHalt who => Sys2Proof.Machine.execDbgHalt who s
  | .dbgResume who => Sys2Proof.Machine.execDbgResume who s
  | .stepCount who n => Sys2Proof.Machine.execStepCount who n s
  | .stepCountExpire => Sys2Proof.Machine.execStepCountExpire s
  | .hrvArm who => Sys2Proof.Machine.execHrvArm who s
  | .hrvDisarm who => Sys2Proof.Machine.execHrvDisarm who s
  | .hrvAck who value => Sys2Proof.Machine.execHrvAck who value s
  | .schCtrlWrite who value => Sys2Proof.Machine.execSchCtrlWrite who value s
  | .schHoldLimitWrite who value => Sys2Proof.Machine.execSchHoldLimitWrite who value s
  | .flgMfSet who bay k value => Sys2Proof.Machine.execFlgMfSet who bay k value s
  | .flgMfClr who bay k value => Sys2Proof.Machine.execFlgMfClr who bay k value s
  | .ntZoneWrite who value => Sys2Proof.Machine.execNtZoneWrite who value s
  | .fabShapeWrite who value => Sys2Proof.Machine.execFabShapeWrite who value s
  | .fabDisreqWrite who value => Sys2Proof.Machine.execFabDisreqWrite who value s
  | .rcvDisreqWrite who value => Sys2Proof.Machine.execRcvDisreqWrite who value s
  | .rcvDisforceWrite who value => Sys2Proof.Machine.execRcvDisforceWrite who value s
  | .disableTakeEffect f => Sys2Proof.Machine.execDisableTakeEffect f s
  | .pullReplica who record => Sys2Proof.Machine.execPullReplica who record s
  | .pullComplete record content => Sys2Proof.Machine.execPullComplete record content s
  | .rescanSlots who => Sys2Proof.Machine.execRescanSlots who s
  | .modrstCmd who => Sys2Proof.Machine.execModrstCmd who s
  | .bayrst who bay => Sys2Proof.Machine.execBayrst who bay s
  | .linerst who line => Sys2Proof.Machine.execLinerst who line s
  | .pwrClassWrite who value => Sys2Proof.Machine.execPwrClassWrite who value s
  | .pwrVctrlWrite who value => Sys2Proof.Machine.execPwrVctrlWrite who value s
  | .pwrKeepWrite who value => Sys2Proof.Machine.execPwrKeepWrite who value s
  | .registerWrite who target size value => Sys2Proof.Machine.execRegisterWrite who target size value s
  | .fabLeadCheck port => Sys2Proof.Machine.execFabLeadCheck port s
  | .controlCellLaunch port kind => Sys2Proof.Machine.execControlCellLaunch port kind s
  | .loRead who what => Sys2Proof.Machine.execLoRead who what s
  | .d3hot port entered => Sys2Proof.Machine.execD3hot port entered s

end Sys2Proof.Machine
end

