-- ==== Sys2Proof/Safety.lean ====
section
/-! DEFINITION. The terms that statements use: the memory list in canonical form, when an instruction may issue, and what a
command leaves as it was. -/

namespace Sys2Proof.Machine

/-- The memory list is in canonical form. -/
def State.MemCanon (s : State) : Prop := Memory.wf s.mem = true

/-- The word is well formed, its parity holds (R272), and its queue may issue a fresh instruction in the current cc (R83 to R91). -/
def State.CanIssue (s : State) (st : Station) (q : Queue) (i : Instr) : Prop :=
  i.wf = true ∧ s.mayStart st q i = true ∧ s.parityBad st q = false

/-- What an issue may change beside its line: lines, the first fault's records (R366), the nondeterminism counters (R56). Every other
field is as before, and so is every other line. -/
def IssueFrame (s t : State) (l : Nat) : Prop :=
  t = { s with
        lines := t.lines
        job := { s.job with faults := t.job.faults, faultLost := t.job.faultLost, faultSc := t.job.faultSc }
        time := { s.time with cnt := { s.time.cnt with ndc := t.time.cnt.ndc, ndcY := t.time.cnt.ndcY } } } ∧
  ∀ k, k ≠ l → t.line k = s.line k

/-- What every issue may change in its line: the queues, the note of the sc of the last issue (R83), FAULT, and the current that
its stations draw (R421). Every other field is as before. -/
def LineFrame (L M : LineState) : Prop :=
  M = { L with queues := M.queues, lastIssue := M.lastIssue, fault := M.fault, draw := M.draw }

/-- Every queue of the line but that of task `t` on `st` is as before. -/
def OtherQueues (L M : LineState) (st : Station) (t : Nat) : Prop :=
  ∀ st' t', (st' ≠ st ∨ t' ≠ t) → M.q st' t' = L.q st' t'

/-- What the passage to the next instruction may change in a queue: the pc, its active loops, its earliest sc (R84, R85,
R100). -/
def QueueFrame (a b : QState) : Prop := b = { a with pc := b.pc, loops := b.loops, notBefore := b.notBefore }

/-- The frame of an instruction that changes its own queue alone: `a` is the queue before its pc moves on. -/
def OwnQueueOnly (s t : State) (st : Station) (q : Queue) (a : QState) : Prop :=
  IssueFrame s t q.line ∧ LineFrame (s.line q.line) (t.line q.line) ∧
  OtherQueues (s.line q.line) (t.line q.line) st q.task ∧ QueueFrame a (t.q st q)

/-- The queue passes on to the instruction at the next index, from the next sc (R84, R85): below index 4,095, with no active loop that ends
at its pc. -/
def PassesOn (s t : State) (st : Station) (q : Queue) : Prop :=
  (s.q st q).pc < 4095 → (∀ e ∈ (s.q st q).loops, e.2.target ≠ (s.q st q).pc) →
  (t.q st q).pc = (s.q st q).pc + 1 ∧ (t.q st q).loops = (s.q st q).loops ∧ (t.q st q).notBefore = s.sc + 1

/-- An issue puts one result on its way (R184, R204, R254, R286) and changes nothing else but its counters: `B` is the line
after the operands are read. -/
def Emits (s t : State) (B : LineState) (st : Station) (q : Queue) (due : Nat) (dest : Dest) (data : VecReg) (ev : BitVec 3) :
    Prop :=
  IssueFrame s t q.line ∧
  LineFrame { B with outs := (t.line q.line).outs, cnt := (t.line q.line).cnt } (t.line q.line) ∧
  ∃ o, (t.line q.line).outs = (s.line q.line).outs ++ [o] ∧ o.st = st ∧ o.due = due ∧ o.issue = s.sc ∧ o.rep = 0 ∧
    o.task = q.task.val ∧ o.valid = true ∧ o.dest = dest ∧ o.data = data ∧ o.ev = ev

/-- The queue holds no repeat count of zero (R97), so that the first repeat is made. -/
def State.Repeats (s : State) (st : Station) (q : Queue) : Prop := (s.q st q).repLatch ≠ some 0

/-- The address register of a format M word plus its OFFSET, as the first repeat forms it (R93). -/
def State.firstOffset (s : State) (st : Station) (q : Queue) (w : FmtM) : Nat :=
  ((s.q st q).ar.look w.arn.toNat 0 + w.offset.signExtend 40).toNat

/-- An issue puts one timed access in place (Table 8-2, Table 9-2) and changes nothing else: `B` is its line after the
operands are read. -/
def AddsUse (s t : State) (q : Queue) (B : LineState) (u : MemUse) : Prop :=
  IssueFrame { s with uses := s.uses ++ [u] } t q.line ∧ LineFrame B (t.line q.line)

/-- Every scalar register of the line but register `r` of task `t` keeps its history. -/
def OtherScalars (L M : LineState) (t r : Nat) : Prop :=
  ∀ key, key ≠ srKey t r → M.cc.sreg.look key [] = L.cc.sreg.look key []

/-- A register write of the requester reaches the register at BAR0 offset `o`: it comes over the host register bus, the test access
port is unlocked for the debug port, a host's function claims it (R373, log entry 71), and the register answers (R400, R431, R473). -/
def State.Reaches (s : State) (who : Requester) (o : Nat) : Prop :=
  onBus who = true ∧ s.tapOpen who = true ∧ s.claims who = true ∧ s.answers who o = true

/-- The requester may write the owner's registers (R379). -/
def State.OwnerReaches (s : State) (who : Requester) (o : Nat) : Prop := s.Reaches who o ∧ s.isOwner who = true

/-- A record is at the front of an enabled ring that has none in progress, while the management controller runs (R387, R388). -/
def State.Front (s : State) (p : HostId) (q : RingId) (r : FetchedRec) : Prop :=
  s.mod.mgmt = true ∧ (s.sq p q).en = true ∧ (s.sq p q).cur = none ∧ (s.sq p q).queue = [r] ∧ r.bad = false ∧
  s.ringTurn p q = true

/-- A well-formed record of type `typ` at the front of a ring whose port may submit it (R379, R387). -/
def State.Accepts (s : State) (p : HostId) (q : RingId) (typ : Nat) (r : FetchedRec) : Prop :=
  s.Front p q r ∧ r.typ = typ ∧ s.formatErr r = none ∧ (ownerOnly r = false ∨ s.host.owner = p.val)

/-- A completion of record `r` of ring `q` waits to be posted with this status, detail and value (Table 12-8). -/
def State.Completes (t : State) (p : HostId) (q : RingId) (r : FetchedRec) (status detail value : Nat) : Prop :=
  ∃ c, (t.sq p q).cur = some ⟨r, some c⟩ ∧ c.tag = r.f 4 4 ∧ c.sq = q.val ∧ c.typ = r.typ ∧ c.sqidx = r.idx ∧
    c.status = status ∧ c.detail = detail ∧ c.value = value ∧ (some q.val, c) ∈ (t.cq p (t.sq p q).cq).wait

/-- The management end of a mailbox has answered with a status and the owner counter (R468). -/
def State.Answered (t : State) (m : MailboxId) (st : Nat) : Prop :=
  (t.box m).st = 2 ∧ (t.box m).db.getLsbD 0 = true ∧ ((t.box m).msg.look 0 0) = BitVec.ofNat 32 st ∧
  ((t.box m).msg.look 1 0) = BitVec.ofNat 32 t.sec.ownCtr

/-- With rails removed the near tier and the granary have lost their content: every byte is a free value of a fresh stamp (Table 14-4). -/
def State.MemoryLost (s t : State) : Prop :=
  (∀ a, a < 0x18000000000 → t.byte a = Config.freeByte s.freeIx a) ∧
  (∀ a, 0x20000000000 ≤ a → a < 0x40000000000 → t.byte a = Config.freeByte (s.freeIx + 1) a) ∧ t.freeIx = s.freeIx + 2

end Sys2Proof.Machine
end

