-- ==== Sys2Proof/Certificates/Slice0/Obligations.lean ====
section
/-! DEFINITION. The statements for the provers: one Prop for each group of commands and for each kind of state. -/

open Sys2Proof Sys2Proof.Machine

/-- Asked of a block: a step with a command in front of the queue is that command on the state with the queue's rest. -/
def Obligations.StepRunsFrontCommand : Prop :=
  ∀ (s : State) (c : Instr) (rest : List Instr),
    step { s with pending := c :: rest } = exec c { s with pending := rest }

/-- With no command waiting a step is one cc (log entry 2, the model's choice), and the history of hold requests moves on
by it (R39). The last sentence of R38: while no job runs and no start waits for its cc, the cc counts in no counter of
the SCH and HRV blocks; with no access of a host, no chunk of an engine, no slot's row and no received packet in
progress it changes no memory and no line either. While a job runs and no boundary is due, SCH_CC counts every cc
(R38); the cc is held exactly when a request was active 8 cc before: SCH_SCC counts the unheld cc alone (R37, R41),
and a held one counts in SCH_HOLD_CC, in the counter of each cause active 8 cc before, and, when it begins a hold, in
SCH_HOLD_EV (R47). A request of a cause that no event of the cc can withdraw is in the history of its cc; a cause that
has no request and raises none is not. -/
def Obligations.CcWithoutJobCountsNowhere : Prop :=
  (∀ s : State, s.pending = [] → s.time.running = false → s.job.coordWait = none → s.openBoundary = none →
    s.host.hall = [] → s.host.mem = [] → s.free = [] → s.gr.cur = none → (∀ p, p < 12 → (s.port p).delay = []) →
    s.job.startAt = none → s.rcv.snap = none → s.rcv.sends = [] →
    ∃ t, step s = .next t ∧ t.time.now = s.time.now + 1 ∧ t.time.cnt = s.time.cnt ∧
      t.time.hist = s.causes :: s.time.hist.take 7 ∧
      t.hrv = { s.hrv with pendWas := s.hrv.pend, armedWas := s.hrv.armed } ∧
      t.job = s.job ∧ t.lines = s.lines ∧ t.mem = s.mem ∧ t.undef = s.undef ∧ t.pending = []) ∧
  (∀ s : State, s.pending = [] → s.live = true → s.dueBoundary = none → s.job.coordWait = none → s.job.startAt = none →
    ∃ t, step s = .next t ∧ t.time.now = s.time.now + 1 ∧ (∃ m, t.time.hist = m :: s.time.hist.take 7 ∧
      (t.time.running = true →
        (∀ r ∈ s.time.reqs, r.cause < 11 → r.cause ∉ endCauses → r.active s.time.now = true → m.getLsbD r.cause = true) ∧
        ∀ c, c < 11 → (∀ r ∈ s.time.reqs, r.cause = c → r.active s.time.now = false) →
          t.time.cnt.hcEv.look c 0 = s.time.cnt.hcEv.look c 0 → s.time.cnt.hcEv.look c 0 < 0xFFFFFFFF → m.getLsbD c = false)) ∧
      (t.time.running = true → t.time.cnt.cc = wrap64 (s.time.cnt.cc + 1) ∧
        (s.time.hist.getD 7 0 = 0 → t.time.cnt.scc = wrap64 (s.time.cnt.scc + 1) ∧ t.time.cnt.holdCc = s.time.cnt.holdCc ∧
          t.time.cnt.holdEv = s.time.cnt.holdEv ∧ t.time.cnt.holdMax = s.time.cnt.holdMax ∧ t.time.cnt.hcCc = s.time.cnt.hcCc ∧
          t.time.curHold = 0) ∧
        (s.time.hist.getD 7 0 ≠ 0 → t.time.cnt.scc = s.time.cnt.scc ∧ t.time.cnt.holdCc = wrap64 (s.time.cnt.holdCc + 1) ∧
          t.time.cnt.holdEv = (if s.time.curHold = 0 then sat32 (s.time.cnt.holdEv + 1) else s.time.cnt.holdEv) ∧
          t.time.cnt.holdMax = max s.time.cnt.holdMax (sat32 (s.time.curHold + 1)) ∧ t.time.curHold = s.time.curHold + 1 ∧
          ∀ n, n < 11 → t.time.cnt.hcCc.look n 0 =
            if (s.time.hist.getD 7 0).getLsbD n then wrap64 (s.time.cnt.hcCc.look n 0 + 1) else s.time.cnt.hcCc.look n 0)))

/-- Every instruction word that a well-formed station instruction encodes decodes, in its own queue, to that instruction
(Table 3-3 and the opcode tables). -/
def Obligations.DecodeOfEncodeIsTheInstruction : Prop :=
  ∀ (i : Instr) (st : Station) (q : Queue) (w : W64),
    i.wf = true → i.home = some (st, q) → encodeWord i = some w → decodeWord st q w = some i

/-- The reset memory is in canonical form. -/
def Obligations.ResetMemoryIsCanonical : Prop :=
  State.reset.MemCanon

/-- Every step keeps the memory list in canonical form: whatever state it starts from, whatever command stands in front.
-/
def Obligations.EveryStepKeepsMemoryCanonical : Prop :=
  ∀ s t : State, s.MemCanon → step s = .next t → t.MemCanon

/-- ARSET, ASTSET, ARADD, ARSC, LCSET (Table 3-5): each completes, sets its one register and passes on to the next
instruction (R85); nothing else changes but what every issue may change. REP (R97): the repeat count of the next
instruction is latched from COUNT, LC[0] or bits [31:0] of a scalar register, and the queue passes on to that
instruction. -/
def Obligations.AddressCountAndRepeatRegisters : Prop :=
  (∀ (s : State) (st : Station) (q : Queue) (w : FmtW),
    (s.CanIssue st q (.arset st q w) → ∃ t, exec (.arset st q w) s = .next t ∧
      OwnQueueOnly s t st q { s.q st q with ar := (s.q st q).ar.put w.reg.toNat w.imm } ∧ PassesOn s t st q) ∧
    (s.CanIssue st q (.astset st q w) → ∃ t, exec (.astset st q w) s = .next t ∧
      OwnQueueOnly s t st q { s.q st q with stride := (s.q st q).stride.put w.reg.toNat w.imm } ∧ PassesOn s t st q) ∧
    (s.CanIssue st q (.aradd st q w) → ∃ t, exec (.aradd st q w) s = .next t ∧
      OwnQueueOnly s t st q
        { s.q st q with ar := (s.q st q).ar.put w.reg.toNat ((s.q st q).ar.look w.reg.toNat 0 + w.imm) } ∧ PassesOn s t st q) ∧
    (s.CanIssue st q (.arsc st q w) → ∃ t, exec (.arsc st q w) s = .next t ∧
      OwnQueueOnly s t st q
        { s.q st q with
          ar := (s.q st q).ar.put w.reg.toNat ((s.scalar (s.ctx st q s.sc 0) w.imm.toNat).extractLsb' 0 40) } ∧
      PassesOn s t st q) ∧
    (s.CanIssue st q (.lcset st q w) → ∃ t, exec (.lcset st q w) s = .next t ∧
      OwnQueueOnly s t st q { s.q st q with lc := (s.q st q).lc.put w.reg.toNat (w.imm.extractLsb' 0 32) } ∧
      PassesOn s t st q)) ∧
  (∀ (s : State) (st : Station) (q : Queue) (w : FmtC) (n : Nat),
    s.CanIssue st q (.rep st q w) →
    (w.csrc = 0 → n = w.count.toNat) →
    (w.csrc = 1 → n = ((s.q st q).lc.look 0 0).toNat) →
    (w.csrc = 2 → n = (s.scalar (s.ctx st q s.sc 0) w.sreg.toNat).toNat % 2 ^ 32) →
    ∃ t, exec (.rep st q w) s = .next t ∧ OwnQueueOnly s t st q { s.q st q with repLatch := some n } ∧ PassesOn s t st q)

/-- R85: a program counter that would advance past index 4,095 records PC_OVERRUN, with index 4,095 in its record; below
it, with no active loop that ends there, the next instruction is the one at the next index. Every instruction that
passes on does so by State.advance; LCSET shows it for a whole instruction. -/
def Obligations.ProgramCounterAdvances : Prop :=
  (∀ (s : State) (st : Station) (q : Queue), s.time.running = true → (∀ f, s.job.faultSc = some f → s.sc ≤ f) →
    (∀ e ∈ (s.q st q).loops, e.2.target ≠ (s.q st q).pc) →
    ((s.q st q).pc < 4095 → ((s.advance st q).q st q).pc = (s.q st q).pc + 1 ∧ (s.advance st q).job = s.job) ∧
    ((s.q st q).pc = 4095 → s.job.faults.length ≤ 15 → (s.advance st q).job.faultSc = some s.sc ∧
      ∃ r ∈ (s.advance st q).job.faults, r.kind = 2 ∧ r.sc = s.sc ∧ r.unit = ⟨q.line, st.code, q.task, true, 4095⟩)) ∧
  (∀ (s : State) (st : Station) (q : Queue) (w : FmtW),
    s.CanIssue st q (.lcset st q w) →
    (∀ e ∈ (s.q st q).loops, e.2.target ≠ (s.q st q).pc) →
    ∃ t, exec (.lcset st q w) s = .next t ∧ (t.q st q).notBefore = s.sc + 1 ∧
      ((s.q st q).pc < 4095 → (t.q st q).pc = (s.q st q).pc + 1) ∧
      ((s.q st q).pc = 4095 → s.job.faults.length ≤ 13 →
        t.job.faultSc = some s.sc ∧
        ∃ r ∈ t.job.faults, r.kind = 2 ∧ r.sc = s.sc ∧ r.unit = ⟨q.line, st.code, q.task, true, 4095⟩))

/-- LOOP (R98 to R101): a count of n > 0 opens the level with its body from the next index to TARGET and n passes; a count
of zero passes the end of the body; a LOOP at or below an active level records LOOP_NEST. -/
def Obligations.LoopOpensSkipsOrNests : Prop :=
  ∀ (s : State) (st : Station) (q : Queue) (w : FmtC) (n : Nat),
    s.CanIssue st q (.loop st q w) → (s.q st q).pc < w.target.toNat →
    (w.csrc = 0 → n = w.count.toNat) →
    (w.csrc = 1 → n = ((s.q st q).lc.look w.level.toNat 0).toNat) →
    (w.csrc = 2 → n = (s.scalar (s.ctx st q s.sc 0) w.sreg.toNat).toNat % 2 ^ 32) →
    ∃ t, exec (.loop st q w) s = .next t ∧ IssueFrame s t q.line ∧ LineFrame (s.line q.line) (t.line q.line) ∧
      OtherQueues (s.line q.line) (t.line q.line) st q.task ∧ QueueFrame (s.q st q) (t.q st q) ∧
      ((∀ e ∈ (s.q st q).loops, e.1 < w.level.toNat) → 0 < n →
        t.q st q = { s.q st q with
          loops := (s.q st q).loops.put w.level.toNat ⟨(s.q st q).pc + 1, w.target.toNat, n⟩
          pc := (s.q st q).pc + 1, notBefore := s.sc + 1 }) ∧
      ((∀ e ∈ (s.q st q).loops, e.1 < w.level.toNat ∧ e.2.target ≠ w.target.toNat) → n = 0 → w.target.toNat < 4095 →
        t.q st q = { s.q st q with pc := w.target.toNat + 1, notBefore := s.sc + 1 }) ∧
      ((∃ e ∈ (s.q st q).loops, w.level.toNat ≤ e.1) → s.job.faults.length ≤ 13 →
        ∃ r ∈ t.job.faults, r.kind = 3 ∧ r.sc = s.sc)

/-- END (R86): the queue has ended and may issue nothing; the words of the inbound queues that the task of a CC holds
armed are discarded (R234). -/
def Obligations.EndStopsTheQueue : Prop :=
  ∀ (s : State) (st : Station) (q : Queue) (w : FmtC),
    s.CanIssue st q (.endQueue st q w) →
    ∃ t, exec (.endQueue st q w) s = .next t ∧ IssueFrame s t q.line ∧
      LineFrame (if st = .cc then (s.line q.line).endCc q.task else s.line q.line) (t.line q.line) ∧
      OtherQueues (s.line q.line) (t.line q.line) st q.task ∧
      t.q st q = { s.q st q with ended := true, notBefore := s.sc + 1 } ∧
      ∀ (u : State) (i : Instr) (j : Nat), (u.q st q).ended = true → u.mayIssue st q i j = false

/-- BAR (R103): the queue waits; when every other station of MASK already waits at the same BID with the same MASK, all of
them go on from the next sc. -/
def Obligations.BarrierWaitsAndReleases : Prop :=
  ∀ (s : State) (st : Station) (q : Queue) (w : FmtC),
    s.CanIssue st q (.bar st q w) →
    ∃ t, exec (.bar st q w) s = .next t ∧ IssueFrame s t q.line ∧ LineFrame (s.line q.line) (t.line q.line) ∧
      ((∀ st', w.mask.getLsbD st'.code = true → st' ≠ st →
          ((s.line q.line).q st' q.task).barWait = some (w.bid, w.mask)) →
        ∀ st', w.mask.getLsbD st'.code = true →
          ((t.line q.line).q st' q.task).barWait = none ∧ ((t.line q.line).q st' q.task).notBefore = s.sc + 1) ∧
      ((∃ st', w.mask.getLsbD st'.code = true ∧ st' ≠ st ∧
          ∀ m, ((s.line q.line).q st' q.task).barWait ≠ some (w.bid, m)) →
        (t.q st q).barWait = some (w.bid, w.mask) ∧ OtherQueues (s.line q.line) (t.line q.line) st q.task ∧
        ∀ i j, t.mayIssue st q i j = false)

/-- R104: a BAR whose BID another station queue of the task already waits on, with another MASK, records BAR_MISMATCH. -/
def Obligations.BarrierMaskMismatchIsAFault : Prop :=
  ∀ (s : State) (st st' : Station) (q : Queue) (w : FmtC) (m : BitVec 6),
    s.CanIssue st q (.bar st q w) → st' ≠ st → ((s.line q.line).q st' q.task).barWait = some (w.bid, m) → m ≠ w.mask →
    s.job.faults.length ≤ 12 →
    ∃ t, exec (.bar st q w) s = .next t ∧ t.job.faultSc = some s.sc ∧
      ∃ r ∈ t.job.faults, r.kind = 4 ∧ r.sc = s.sc ∧ r.unit = ⟨q.line, st.code, q.task, true, (s.q st q).pc⟩

/-- NOP (Table 3-5, R93, R97): REPCNT + 1 issues, or as many as REP latched; with more to come the queue stays at the
word. R89, R93: an outstanding repeat issues in an sc that names its task; repeats are counted by issues, not by sc,
and the last one lets the queue go on. R91: a task that the rotation does not name issues only in a job in yield mode,
when the named task's next instruction lacks an entry or room of a data queue, as the first of the tasks named + 1, +
2, + 3 that can issue; the issue counts in the NDC (LCSET shows it). In yield mode nothing issues that lacks an entry
or room. -/
def Obligations.RepeatsAreIssuedAndCounted : Prop :=
  (∀ (s : State) (st : Station) (q : Queue) (w : FmtO) (n : Nat),
    s.CanIssue st q (.nop st q w) → n = (s.q st q).repLatch.getD (w.repcnt.toNat + 1) →
    ∃ t, exec (.nop st q w) s = .next t ∧ IssueFrame s t q.line ∧ LineFrame (s.line q.line) (t.line q.line) ∧
      OtherQueues (s.line q.line) (t.line q.line) st q.task ∧ (t.q st q).repLatch = none ∧
      (n ≤ 1 → (t.q st q).outst = none) ∧
      (1 < n → (t.q st q).pc = (s.q st q).pc ∧ (t.q st q).notBefore = s.sc + 1 ∧
        ∃ o, (t.q st q).outst = some o ∧ o.instr = .nop st q w ∧ o.done = 1 ∧ o.total = n)) ∧
  ((∀ (s : State) (st : Station) (q : Queue) (o : Outst),
    (s.q st q).outst = some o → s.mayIssue st q o.instr o.done = true →
    ∃ t, exec (.repeatIssue st q) s = .next t ∧
      (o.done + 1 < o.total →
        ∃ o', (t.q st q).outst = some o' ∧ o'.instr = o.instr ∧ o'.total = o.total ∧ o'.done = o.done + 1) ∧
      (o.total ≤ o.done + 1 → (t.q st q).outst = none)) ∧
  (∀ (s : State) (st : Station) (q : Queue) (i : Instr) (j n : Nat), (s.line q.line).rotTask st s.sc = some n →
    (s.time.yield = true → s.dqFree st q.line q.task i j = false → s.mayIssue st q i j = false) ∧
    (n ≠ q.task → s.mayIssue st q i j = true → s.time.yield = true ∧ s.dqNext st q.line n = some false ∧
      ∃ d, 1 ≤ d ∧ d ≤ 3 ∧ q.task.val = (n + d) % 4 ∧ s.dqNext st q.line q.task = some true ∧
        ∀ e, 1 ≤ e → e < d → s.dqNext st q.line ((n + e) % 4) ≠ some true)) ∧
  (∀ (s : State) (st : Station) (q : Queue) (w : FmtW) (n : Nat), s.CanIssue st q (.lcset st q w) →
    (s.line q.line).rotTask st s.sc = some n → ∃ t, exec (.lcset st q w) s = .next t ∧
    (n ≠ q.task → t.time.cnt.ndc = wrap64 (s.time.cnt.ndc + 1) ∧ t.time.cnt.ndcY = sat32 (s.time.cnt.ndcY + 1)) ∧
    (n = q.task → t.time.cnt = s.time.cnt)))

/-- MX.LW, its completion, MX.SWAP (R157, R158, R168): a load starts when none is in progress; 128 sc later the shadow
buffer is LOADED and SMAX takes the larger recorded scale; a swap exchanges the buffers once the shadow is LOADED, and
records MX_WBUF otherwise. A load that is complete in the sc of an issue completes first. MX.ANCHOR (R166, R167): the
rows ROW to ROW + CNT get the immediate, bits [11:0] of a scalar register, or the top-aligned anchor clamped to 12
bits; a reader of the same sc still gets the earlier anchor. MX.RDREG (Table 5-9): the register is readable RD sc
later, and CLR clears SMAX. -/
def Obligations.WeightsAnchorsAndRegisterReads : Prop :=
  ((∀ (s : State) (q : Queue) (w : FmtO) (B : LineState), B = (s.lwComplete q.line).line q.line →
    (s.CanIssue .mx q (.mxLw q w) → s.Repeats .mx q → B.mx.lw = none →
      ∃ t p, exec (.mxLw q w) s = .next t ∧ IssueFrame s t q.line ∧ (t.line q.line).mx = { B.mx with lw := some p } ∧ p.c = s.sc ∧ p.task = q.task ∧ p.src = w.src ∧ p.toff = w.toff ∧
      p.wfmt = w.opnd.extractLsb' 0 4 ∧ p.ssel = w.opnd.extractLsb' 4 4 ∧ p.toff2 = w.opnd.extractLsb' 8 6 ∧
      p.tile = [] ∧ p.scales = []) ∧
    (s.CanIssue .mx q (.mxSwap q w) → s.Repeats .mx q → B.mx.lw = none → B.mx.shadowBuf.st = .loaded →
      ∃ t, exec (.mxSwap q w) s = .next t ∧ IssueFrame s t q.line ∧
        LineFrame { B with mx.active := !B.mx.active } (t.line q.line) ∧
        (t.line q.line).mx.activeBuf = B.mx.shadowBuf ∧ (t.line q.line).mx.shadowBuf = B.mx.activeBuf) ∧
    (s.CanIssue .mx q (.mxSwap q w) → s.Repeats .mx q → B.mx.lw = none → B.mx.shadowBuf.st ≠ .loaded →
      s.job.faults.length ≤ 12 → ∃ t, exec (.mxSwap q w) s = .next t ∧ LineFrame B (t.line q.line) ∧
        ∃ r ∈ t.job.faults, r.kind = 0x10 ∧ r.detail = 2 ∧ r.sc = s.sc)) ∧
  (∀ (s : State) (l : LineId) (p : LwProg),
    s.live = true → s.held = false → (s.line l).mx.lw = some p → p.tile.length = 128 → p.c + 128 ≤ s.sc →
    ∃ t, exec (.mxLwComplete l) s = .next t ∧ t = { s with lines := t.lines } ∧
      (∀ k, k ≠ l.val → t.line k = s.line k) ∧ (t.line l).mx.lw = none ∧ (t.line l).mx.acc = (s.line l).mx.acc ∧
      (t.line l).mx.activeBuf = (s.line l).mx.activeBuf ∧
      (t.line l).mx.shadowBuf = ⟨.loaded, p.wfmt, recordedScale p.wfmt.toNat p.scales, p.tile, p.scales⟩ ∧
      (t.line l).mx.smax.toNat =
        if mxScaled p.wfmt.toNat then max (s.line l).mx.smax.toNat (recordedScale p.wfmt.toNat p.scales).toNat
        else (s.line l).mx.smax.toNat)) ∧
  (∀ (s : State) (q : Queue) (w : FmtO) (B : LineState), B = (s.lwComplete q.line).line q.line →
    (∀ a : BitVec 12, s.CanIssue .mx q (.mxAnchor q w) → s.Repeats .mx q →
      (w.fld 14 2 = 0 → a = w.opnd.extractLsb' 16 12) →
      (w.fld 14 2 = 1 → a = (s.scalar (s.ctx .mx q s.sc 0) (w.fld 16 6)).extractLsb' 0 12) →
      (w.fld 14 2 = 2 → a.toInt = max (-2048) (min 2047
        ((w.fld 22 6 : Int) + (((s.scalar (s.ctx .mx q s.sc 0) (w.fld 16 6)).toNat % 256 : Nat) - 127) +
          (B.mx.smax.toNat - 127) - 119))) →
      ∃ t, exec (.mxAnchor q w) s = .next t ∧ IssueFrame s t q.line ∧
        LineFrame { B with mx.anchors := (t.line q.line).mx.anchors } (t.line q.line) ∧
        ∀ r, (t.line q.line).mx.anchorAt r s.sc = B.mx.anchorAt r s.sc ∧
          ∀ x, s.sc < x → (t.line q.line).mx.anchorAt r x =
            if w.fld 0 7 ≤ r ∧ r ≤ w.fld 0 7 + w.fld 7 7 then a else B.mx.anchorAt r x) ∧
    (s.CanIssue .mx q (.mxRdreg q w) → s.Repeats .mx q → ∃ t, exec (.mxRdreg q w) s = .next t ∧ IssueFrame s t q.line ∧
      LineFrame
        { B with
          mx.smax := if w.fld 8 1 = 1 then 0 else B.mx.smax
          cc.sreg := (t.line q.line).cc.sreg, cc.stWrites := (t.line q.line).cc.stWrites } (t.line q.line) ∧
      OtherScalars B (t.line q.line) q.task (w.fld 0 6) ∧
      (t.line q.line).sregAt q.task (w.fld 0 6) (s.sc + s.rdLat q.line) =
        match w.fld 6 2 with
        | 0 => B.mx.smax.setWidth 64
        | 1 => B.mx.activeBuf.scale.setWidth 64
        | 2 => B.mx.shadowBuf.scale.setWidth 64
        | _ => BitVec.ofNat 64 B.mx.oowCnt))

/-- MX.MM and MX.ACLR (R152, R154, R164): the first repeat enters the pipeline and commits at the end of sc c + L - 1,
with L 22 sc on B0 and 20 on C0 plus MM_PAD; the 128 column sums are the exact sums of the products of the activation
beat with the active weights, or the row is cleared. Without a LOADED buffer MX.MM records MX_WBUF, with a pair of
formats that does not suit MX_FORMAT, and nothing enters the pipeline. -/
def Obligations.ProductsAndClearsEnterThePipeline : Prop :=
  ∀ (s : State) (q : Queue) (w : FmtO) (B : LineState), B = (s.lwComplete q.line).line q.line →
    (∀ (k : Ctx) (act scale : State × BeatData), k = s.ctx .mx q s.sc 0 → s.CanIssue .mx q (.mxMm q w) → s.Repeats .mx q →
      act = (s.lwComplete q.line).takeBeat k w.src.toNat w.toff →
      scale = (if mxScaled (w.fld 8 4) then act.1.dequeue k (w.fld 12 4 - 8) (expTag s.sc (BitVec.ofNat 6 (w.fld 16 6)))
        else (act.1, 0)) →
      (B.mx.activeBuf.st = .loaded → mxPair (w.fld 8 4) B.mx.activeBuf.fmt.toNat = true →
        ∃ t c, exec (.mxMm q w) s = .next t ∧ IssueFrame s t q.line ∧
          LineFrame { scale.1.line q.line with mx.commits := B.mx.commits ++ [c], cnt := (t.line q.line).cnt } (t.line q.line) ∧
          c.due + 1 = s.sc + ((if s.isC0 then 20 else 22) + (B.mx.pad.extractLsb' 0 3).toNat) ∧
          c.issue = s.sc ∧ c.row = w.fld 0 7 ∧ c.clear = (w.fld 7 1 == 1) ∧ c.isMm = true ∧ c.dead = false ∧
          c.sums = (List.range 128).map fun n =>
            mxColumn B.mx.activeBuf (w.fld 8 4) act.2 scale.2 0 (B.mx.anchorAt (w.fld 0 7) s.sc).toInt n) ∧
      (B.mx.activeBuf.st ≠ .loaded → s.job.faults.length ≤ 8 → ∃ t, exec (.mxMm q w) s = .next t ∧ IssueFrame s t q.line ∧
        (t.line q.line).mx = B.mx ∧ ∃ r ∈ t.job.faults, r.kind = 0x10 ∧ r.detail = 3 ∧ r.sc = s.sc) ∧
      (B.mx.activeBuf.st = .loaded → mxPair (w.fld 8 4) B.mx.activeBuf.fmt.toNat = false → s.job.faults.length ≤ 8 →
        ∃ t, exec (.mxMm q w) s = .next t ∧ IssueFrame s t q.line ∧
        (t.line q.line).mx = B.mx ∧ ∃ r ∈ t.job.faults, r.kind = 0x11 ∧ r.sc = s.sc)) ∧
    (s.CanIssue .mx q (.mxAclr q w) → s.Repeats .mx q →
      ∃ t c, exec (.mxAclr q w) s = .next t ∧ IssueFrame s t q.line ∧
        LineFrame { s.line q.line with mx.commits := (s.line q.line).mx.commits ++ [c] } (t.line q.line) ∧ c.issue = s.sc ∧
        c.due + 1 = s.sc + ((if s.isC0 then 20 else 22) + ((s.line q.line).mx.pad.extractLsb' 0 3).toNat) ∧
        c.row = w.fld 0 7 ∧ c.clear = true ∧ c.isMm = false ∧ c.dead = false ∧
        c.sums = clearedRow)

/-- MX_MM_COMMIT (R154, R155, R165): a commit due in the sc adds its column sums to the row, or to a cleared row, sheaf by
sheaf; a reader of the same sc still gets the earlier row, and no other row changes; several commits of one sc act one
after the other, in issue order. With no term out of window nothing is reported; a commit with one counts it, sets
OOW, keeps the first row and its issue sc, and under OOW_FAULT records ARITH_OOW (R170). -/
def Obligations.CommitUpdatesItsRow : Prop :=
  (∀ (s : State) (l : LineId) (c : MxCommit),
    s.live = true → s.held = false → (s.line l).mx.commits = [c] → c.due = s.sc → c.oow = true → c.unconf = none →
    c.dead = false → ∀ M, M = (s.line l).mx →
    ∃ t, exec (.mxMmCommit l) s = .next t ∧ (∀ k, k ≠ l.val → t.line k = s.line k) ∧
      (t.line l).mx = { M with acc := (t.line l).mx.acc, commits := [], oow := true, oowCnt := min (M.oowCnt + 1) 0xFFFFFFFF
                               oowFirst := some (M.oowFirst.getD c.row), oowSc := if M.oowFirst.isSome then M.oowSc else c.issue } ∧
      (t.line l).cnt.look LineCnt.mxOowRep.ix 0 = min ((s.line l).cnt.look LineCnt.mxOowRep.ix 0 + 1) 0xFFFFFFFF ∧
      ((t.line l).mx.row c.row).at (s.sc + 1) =
        ((if c.clear then clearedRow else (M.row c.row).at (s.sc + 1)).zip c.sums).map (fun p => p.1.add p.2) ∧
      (M.cfg.getLsbD 0 = false → t.job = s.job) ∧
      (M.cfg.getLsbD 0 = true → s.job.faultSc = none → s.job.faults = [] → ∃ r, t.job.faults = [r] ∧ r.kind = 0x14 ∧ r.sc = s.sc ∧
        r.aux = c.row ∧ r.unit = ⟨l, 3, c.task, true, c.pc⟩)) ∧
  (∀ (s : State) (l : LineId) (cs : List MxCommit), s.live = true → s.held = false → (s.line l).mx.commits = cs →
    (∀ c ∈ cs, c.due = s.sc ∧ c.oow = false ∧ c.unconf = none ∧ c.dead = false) →
    ∃ t, exec (.mxMmCommit l) s = .next t ∧ t = { s with lines := t.lines } ∧ (t.line l).mx.commits = [] ∧
      ∀ r, ((t.line l).mx.row r).at s.sc = ((s.line l).mx.row r).at s.sc ∧
        ((t.line l).mx.row r).at (s.sc + 1) =
          (cs.filter fun c => c.row == r).foldl (fun a c => ((if c.clear then clearedRow else a).zip c.sums).map fun p => p.1.add p.2)
            (((s.line l).mx.row r).at (s.sc + 1))) ∧
  ∀ (s : State) (l : LineId) (c : MxCommit),
    s.live = true → s.held = false → (s.line l).mx.commits = [c] → c.due = s.sc → c.oow = false → c.unconf = none →
    c.dead = false →
    ∃ t, exec (.mxMmCommit l) s = .next t ∧ t = { s with lines := t.lines } ∧ (∀ k, k ≠ l.val → t.line k = s.line k) ∧
      t.line l = { s.line l with mx := { (s.line l).mx with acc := (t.line l).mx.acc, commits := [] }, cnt := (t.line l).cnt } ∧
      ((t.line l).mx.row c.row).at (s.sc + 1) =
        ((if c.clear then clearedRow else ((s.line l).mx.row c.row).at (s.sc + 1)).zip c.sums).map (fun p => p.1.add p.2) ∧
      ((t.line l).mx.row c.row).at s.sc = ((s.line l).mx.row c.row).at s.sc ∧
      ∀ r, r ≠ c.row → (t.line l).mx.row r = (s.line l).mx.row r

/-- VX.OP, VX.FMA, VX.SEL, VX.FN, VX.DROP, VX.ROPE (Tables 6-2, 6-4, 6-5, 6-6, R181 to R184, R188, R197, R198): the first
repeat reads its operands and puts the lane results on their way, to be written at the latency of the operation's
entry. -/
def Obligations.ElementwiseVectorOperations : Prop :=
  ∀ (s : State) (q : Queue) (w : FmtO) (k : Ctx), k = s.ctx .vx q s.sc 0 → s.Repeats .vx q →
    (s.CanIssue .vx q (.vxOp q w) → ∀ (row : Bool) (ty wd : Nat) (a b : State × VecReg),
      ty = w.fld 10 3 → wd = typeWidth ty → row = (vxRowSel w.src.toNat && vxRowSel (w.fld 0 4) && w.dst == 6) →
      a = s.vxOperand k row wd w.src.toNat w.toff.toNat →
      b = (if w.fld 0 4 = 4 then (a.1, 0) else a.1.vxOperand k row wd (w.fld 0 4) (w.fld 4 6)) →
      ∃ t, exec (.vxOp q w) s = .next t ∧
        Emits s t (b.1.line q.line) .vx q (s.sc + s.vxLat q.line (vxOpEntry (w.fld 13 5) ty))
          (vxDest w.dst (w.fld 18 6) row 0)
          (BitVec.ofNat 4096 (packNat wd (((vxLanes row wd a.2).zip (vxLanes row wd b.2)).map fun p =>
            vxOpLane (w.fld 13 5) ty p.1 p.2))) 0) ∧
    (∀ (row : Bool) (wd : Nat) (a b c : State × VecReg),
      row = (vxRowSel w.src.toNat && vxRowSel (w.fld 0 4) && vxRowSel (w.fld 10 4) && w.dst == 6) →
      a = s.vxOperand k row wd w.src.toNat w.toff.toNat → b = a.1.vxOperand k row wd (w.fld 0 4) (w.fld 4 6) →
      c = b.1.vxOperand k row wd (w.fld 10 4) (w.fld 14 6) →
      (s.CanIssue .vx q (.vxFma q w) → wd = typeWidth (w.fld 20 2) → ∃ t, exec (.vxFma q w) s = .next t ∧
        Emits s t (c.1.line q.line) .vx q (s.sc + s.vxLat q.line 1) (vxDest w.dst (w.fld 22 6) row 0)
          (BitVec.ofNat 4096 (packNat wd ((zip3 (vxLanes row wd a.2) (vxLanes row wd b.2) (vxLanes row wd c.2)).map fun p =>
            fpBack (w.fld 20 2) (ffma (widenLane (w.fld 20 2) p.1) (widenLane (w.fld 20 2) p.2.1)
              (widenLane (w.fld 20 2) p.2.2))))) 0) ∧
      (s.CanIssue .vx q (.vxSel q w) → wd = (if w.fld 20 2 = 0 then 32 else if w.fld 20 2 = 1 then 16 else 8) →
        ∃ t, exec (.vxSel q w) s = .next t ∧
        Emits s t (c.1.line q.line) .vx q (s.sc + s.vxLat q.line 2) (vxDest w.dst (w.fld 22 6) row 0)
          (BitVec.ofNat 4096 (packNat wd ((zip3 (vxLanes row wd a.2) (vxLanes row wd b.2) (vxLanes row wd c.2)).map fun p =>
            if p.2.2 = 0 then p.2.1 else p.1))) 0)) ∧
    (s.CanIssue .vx q (.vxFn q w) → ∀ (row : Bool) (ty : Nat) (a : State × VecReg),
      ty = w.fld 4 3 → row = (vxRowSel w.src.toNat && w.dst == 6) →
      a = s.vxOperand k row (typeWidth ty) w.src.toNat w.toff.toNat →
      ∃ t, exec (.vxFn q w) s = .next t ∧
        Emits s t (a.1.line q.line) .vx q (s.sc + s.vxLat q.line (vxFnEntry (w.fld 0 4))) (vxDest w.dst (w.fld 7 6) row 0)
          (BitVec.ofNat 4096 (packNat (typeWidth ty) ((vxLanes row (typeWidth ty) a.2).map fun c =>
            fpBack ty (vxFn (w.fld 0 4) (widenLane ty c))))) 0) ∧
    (s.CanIssue .vx q (.vxDrop q w) → ∀ (row : Bool) (ty : Nat) (a : State × VecReg) (tr : W64),
      ty = w.fld 0 3 → row = (vxRowSel w.src.toNat && w.dst == 6) → tr = s.scalar k (w.fld 9 6) →
      a = s.vxOperand k row (typeWidth ty) w.src.toNat w.toff.toNat →
      ∃ t, exec (.vxDrop q w) s = .next t ∧
        Emits s t (a.1.line q.line) .vx q (s.sc + s.vxLat q.line 11) (vxDest w.dst (w.fld 15 6) row 0)
          (BitVec.ofNat 4096 (packNat (typeWidth ty) ((vxLanes row (typeWidth ty) a.2).zipIdx.map fun p =>
            fpBack ty (dropLane ((s.drawOf k (w.fld 3 6)).word p.2) (tr.toNat % 2 ^ 32) (tr.extractLsb' 32 32)
              (widenLane ty p.1))))) 0) ∧
    (s.CanIssue .vx q (.vxRope q w) → ∀ (v : VecReg) (rot : Nat → W32 × W32),
      v = (s.line q.line).vreg ((w.toff.toNat % 32)) q.task s.sc →
      (∀ i, rot i =
        (let r := rotary ((s.scalar k (w.fld 0 6)).toNat % 2 ^ 24)
          ((s.line q.line).vx.freq.look ((w.fld 6 8 + i) % 256) 0).toNat
         rotate (laneOf 32 v (2 * i)) (laneOf 32 v (2 * i + 1)) r.1 r.2)) →
      ∃ t, exec (.vxRope q w) s = .next t ∧
        Emits s t (s.line q.line) .vx q (s.sc + s.vxLat q.line 12) (.vreg (w.fld 14 6 % 32))
          (BitVec.ofNat 4096 (packNat 32 ((List.range 64).flatMap fun i => [(rot i).1.toNat, (rot i).2.toNat]))) 0)

/-- VX.ACCRD, VX.RRD, VX.CVT, VX.F64S (R189, R192, R195, R199, R200): the first repeat reads its row, or gathers its
source beat, and puts its result on its way when the beat of the destination is complete. VX.RCLR, VX.RACC, VX.RFLD,
VX.SUMM (R191 to R194, R198): a running row gets its kind, an update is on its way for 3 sc on B0, the 16 frequencies
of each beat are in force with the last repeat, a summary starts and, with one repeat, writes its register. The
model's choices: VX.RCLR keeps pending updates (log entry 80), the events of a VX.CVT come with its last destination
beat (76), FLAGS is sampled and cleared in the issue sc (86). -/
def Obligations.VectorReadsConversionsAndRunningRows : Prop :=
  (∀ (s : State) (q : Queue) (w : FmtO) (k : Ctx) (L : LineState), k = s.ctx .vx q s.sc 0 → s.Repeats .vx q →
    L = s.line q.line →
    (s.CanIssue .vx q (.vxAccrd q w) → ∀ (row : Nat) (offs : State × VecReg),
      row = w.fld 0 7 + (if w.fld 20 1 = 1 then ((s.q .vx q).ar.look (w.fld 21 4) 0).toNat % 128 else 0) →
      offs = (if w.fld 7 3 = 4 then s.vxOperand k false 16 (w.fld 10 4) (w.fld 14 6) else (s, 0)) →
      (row ≤ 127 → ∃ t, exec (.vxAccrd q w) s = .next t ∧
        Emits s t (offs.1.line q.line) .vx q (s.sc + s.vxLat q.line 0)
          (vxDest w.dst (if w.fld 7 3 = 4 then 0 else w.fld 14 6) (w.dst == 6) 0)
          (accBeat (w.fld 7 3) (w.dst == 6) (L.mx.anchorAt row s.sc) (L.mx.rowFor row q.task s.sc) (getPart offs.2 0) 0).1
          (accBeat (w.fld 7 3) (w.dst == 6) (L.mx.anchorAt row s.sc) (L.mx.rowFor row q.task s.sc) (getPart offs.2 0) 0).2) ∧
      (127 < row → s.job.faults.length ≤ 12 → ∃ t, exec (.vxAccrd q w) s = .next t ∧
        (t.line q.line).outs = L.outs ∧ ∃ r ∈ t.job.faults, r.kind = 0x19 ∧ r.sc = s.sc)) ∧
    (s.CanIssue .vx q (.vxRrd q w) → ∀ (R : LineState) (r : RunRow) (vals : List (Nat × BitVec 3)),
      R = L.settleRows s.sc → r = R.runRow (w.fld 0 2) → rowUnfit r (w.fld 2 1 == 1) = false →
      vals = (if r.kind = .sheaf then r.sheafs.map (readLane .fp32 r.anchor.toInt)
        else (lanesOf 32 r.lanes 128).map fun c => (c, 0)) →
      ∃ t, exec (.vxRrd q w) s = .next t ∧ ∀ part, part = (if w.dst = 6 then vals else vals.take 32) →
        Emits s t
          { R with
            vx.rr := if w.fld 3 1 = 1 then R.vx.rr.put (w.fld 0 2) (RunRow.init r.kind r.anchor) else R.vx.rr
            cc.preds := (t.line q.line).cc.preds } .vx q
          (s.sc + s.vxLat q.line 15) (vxDest w.dst (w.fld 4 6) (w.dst == 6) 0)
          (if w.fld 2 1 = 1 then (sheafBeat (r.sheafs.take 7)).setWidth 4096
            else BitVec.ofNat 4096 (packNat 32 (part.map (·.1))))
          (if w.fld 2 1 = 1 then 0 else evOr part)) ∧
    (s.CanIssue .vx q (.vxCvt q w) → ∃ t, exec (.vxCvt q w) s = .next t ∧ IssueFrame { s with freeIx := t.freeIx } t q.line ∧
      LineFrame { L with outs := (t.line q.line).outs, dq := (t.line q.line).dq, cnt := (t.line q.line).cnt }
        (t.line q.line) ∧
      (groupBeats w.dst (w.fld 4 4) < cvtK w → (t.line q.line).outs = L.outs ∧
        ∃ o, (t.q .vx q).outst = some o ∧ o.instr = .vxCvt q w ∧ o.done = 1 ∧
          (w.src ≠ 6 → w.fld 8 1 = 0 → o.buf = [(s.takeBeat k w.src.toNat w.toff).2])) ∧
      (groupBeats w.dst (w.fld 4 4) = cvtK w → w.src ≠ 6 → w.dst ≠ 6 → w.fld 8 1 = 0 → vxBits (w.fld 4 4) ≠ 4 →
        w.fld 9 2 ≠ 2 →
        ∀ es, es = (cvtElems w default 0 0
            (groupVals w (groupCodes w [(s.takeBeat k w.src.toNat w.toff).2] 0) 0 0) 0 (1024 / vxBits (w.fld 4 4))).1 →
        ∃ o, (t.line q.line).outs = L.outs ++ [o] ∧ o.due = s.sc + s.vxLat q.line 10 ∧ o.dest = destOf w.dst 0 ∧
          o.ev = (if groupBeats w.dst (w.fld 4 4) = 1 then evOr es else 0) ∧ o.data = BitVec.ofNat 4096 (packNat (vxBits (w.fld 4 4)) (es.map (·.1))))) ∧
    (s.CanIssue .vx q (.vxF64s q w) → ∀ (b : State × VecReg) (e : Nat → Int) (ds : List Nat),
      b = s.vxOperand k false 64 w.src.toNat w.toff.toNat →
      (∀ i, e i = if w.fld 3 4 = 5 then ((s.scalar k (w.fld 7 6)).extractLsb' 0 32).toInt
        else (laneOf 32 (L.vreg (w.fld 7 6 % 32) q.task s.sc) i).toInt) →
      ds = (List.range 16).map (fun i => (f64Digit (EFmt.fp64.decode (laneOf 64 (getPart b.2 0) i).toNat) (e i) (w.fld 0 3)).toNat) →
      ((s.q .vx q).repLatch.getD (w.repcnt.toNat + 1) = 1 → ∃ t, exec (.vxF64s q w) s = .next t ∧
        Emits s t (b.1.line q.line) .vx q (s.sc + s.vxLat q.line 16) (destOf w.dst 0)
          (BitVec.ofNat 4096 (packNat 8 ds)) 0) ∧
      (1 < (s.q .vx q).repLatch.getD (w.repcnt.toNat + 1) → ∃ t o, exec (.vxF64s q w) s = .next t ∧
        IssueFrame s t q.line ∧ (t.line q.line).outs = L.outs ∧
        (t.q .vx q).outst = some o ∧ o.instr = .vxF64s q w ∧ o.done = 1 ∧ o.nums = ds))) ∧
  (∀ (s : State) (q : Queue) (w : FmtO) (k : Ctx) (L : LineState), k = s.ctx .vx q s.sc 0 → L = s.line q.line →
    (s.CanIssue .vx q (.vxRclr q w) → s.Repeats .vx q → ∃ t, exec (.vxRclr q w) s = .next t ∧ IssueFrame s t q.line ∧
      LineFrame
        { L.settleRows s.sc with
          vx.rr := (L.settleRows s.sc).vx.rr.put (w.fld 0 2)
            (RunRow.init (if w.fld 2 2 = 0 then .max else if w.fld 2 2 = 1 then .min else .sheaf) (w.opnd.extractLsb' 4 12))
          cc.preds := (t.line q.line).cc.preds, cnt := (t.line q.line).cnt } (t.line q.line)) ∧
    (s.CanIssue .vx q (.vxRacc q w) → s.Repeats .vx q → ∀ (v : State × VecReg),
      v = s.vxOperand k (w.src == 6) 32 w.src.toNat w.toff.toNat →
      rowUnfit (L.runRow (w.fld 0 2)) (w.fld 2 1 == 1) = false →
      ∃ t u, exec (.vxRacc q w) s = .next t ∧ IssueFrame s t q.line ∧ (t.line q.line).vx.rr = L.vx.rr ∧
        (t.line q.line).vx.rrPend = L.vx.rrPend ++ [u] ∧ u.due = s.sc + s.vxLat q.line 14 ∧ u.rr = w.fld 0 2 ∧
        u.data = v.2 ∧ u.beat = (w.src != 6) ∧ u.sh = (w.fld 2 1 == 1) ∧ u.part = 0) ∧
    (s.CanIssue .vx q (.vxRfld q w) → s.Repeats .vx q → ∀ (b : State × BeatData),
      b = s.takeBeat k w.src.toNat w.toff →
      (1 < (s.q .vx q).repLatch.getD (w.repcnt.toNat + 1) → ∃ t o, exec (.vxRfld q w) s = .next t ∧ IssueFrame s t q.line ∧
        LineFrame { b.1.line q.line with cnt := (t.line q.line).cnt } (t.line q.line) ∧
        (t.q .vx q).outst = some o ∧ o.instr = .vxRfld q w ∧ o.done = 1 ∧
        o.nums = (List.range 16).map fun i => (b.2.extractLsb' (64 * i) 40).toNat) ∧
      ((s.q .vx q).repLatch.getD (w.repcnt.toNat + 1) = 1 → ∃ t, exec (.vxRfld q w) s = .next t ∧ IssueFrame s t q.line ∧
        LineFrame
          { b.1.line q.line with
            vx.freq := (t.line q.line).vx.freq, cc.preds := (t.line q.line).cc.preds, cnt := (t.line q.line).cnt }
          (t.line q.line) ∧
        ∀ n, n < 256 → (t.line q.line).vx.freq.look n 0 =
          if (n + 256 - w.fld 0 8) % 256 < 16 then b.2.extractLsb' (64 * ((n + 256 - w.fld 0 8) % 256)) 40
          else L.vx.freq.look n 0)) ∧
    (s.CanIssue .vx q (.vxSumm q w) → (s.q .vx q).repLatch.getD (w.repcnt.toNat + 1) = 1 → w.fld 3 3 ≠ 6 →
      (w.fld 3 3 = 2 → w.fld 7 1 = 0) → w.fld 6 1 = 0 → ∀ (row : Bool) (wd : Nat) (v : State × VecReg) (z : Summ),
      row = (vxRowSel w.src.toNat && w.dst == 4) → wd = (if w.fld 3 3 = 5 then 64 else typeWidth (w.fld 0 3)) →
      v = s.vxOperand k row wd w.src.toNat w.toff.toNat →
      z = (vxLanes row wd v.2).foldl (fun z c => z.lane (w.fld 3 3) (w.fld 0 3) c)
        (Summ.start (w.fld 0 3) (w.opnd.extractLsb' 14 12)) →
      ∃ t, exec (.vxSumm q w) s = .next t ∧ IssueFrame s t q.line ∧ OtherScalars L (t.line q.line) q.task (w.fld 8 6) ∧
        (t.line q.line).vx.summ.look (summKey q.task (w.fld 3 3)) default = z ∧
        (t.line q.line).sregAt q.task (w.fld 8 6) (s.sc + s.vxLat q.line 13) = (z.result (w.fld 3 3)).1) ∧
    (s.CanIssue .vx q (.vxSumm q w) → (s.q .vx q).repLatch.getD (w.repcnt.toNat + 1) = 1 → w.fld 3 3 = 6 →
      ∃ t, exec (.vxSumm q w) s = .next t ∧ IssueFrame s t q.line ∧ OtherScalars L (t.line q.line) q.task (w.fld 8 6) ∧
        (t.line q.line).vx.sticky.look q.task 0 = 0 ∧
        (t.line q.line).sregAt q.task (w.fld 8 6) (s.sc + s.vxLat q.line 13) = (L.vx.sticky.look q.task 0).setWidth 64))

/-- PX.TR, PX.TLD, PX.TRD, PX.GATH, PX.SCAT (Table 6-11, R202 to R204): row writes and output beats are put on their way
at their latencies; the last repeat of a transposition puts its 128 output beats on their way, one per sc. PX.TLD
shows what every consumed beat is checked for: no beat, or one of another tag, is TAG (R80, R108), and an empty data
queue DQ_UNDERFLOW (R107). -/
def Obligations.TileBufferInstructions : Prop :=
  ∀ (s : State) (q : Queue) (w : FmtO) (k : Ctx) (L : LineState), k = s.ctx .px q s.sc 0 → s.Repeats .px q →
    L = s.line q.line →
    (s.CanIssue .px q (.pxTr q w) → (s.q .px q).repLatch = none → ∀ a, a = s.takeBeat k w.src.toNat w.toff →
      ∃ t, exec (.pxTr q w) s = .next t ∧ ∀ M, M = t.line q.line →
        Emits s t { a.1.line q.line with px.wrote := M.px.wrote, px.busyUntil := M.px.busyUntil } .px q s.sc
          (.tbRow (w.fld 0 2) 0) (a.2.setWidth 4096) 0 ∧
        M.px.busyUntil.look (w.fld 0 2) 0 = s.sc + s.pxLat q.line 0) ∧
    (∀ (o : Outst) (a : State × BeatData) (x : Ctx), (s.q .px q).outst = some o → o.instr = .pxTr q w → o.done = 127 →
      o.total = 128 → s.mayIssue .px q o.instr o.done = true → 127 ≤ s.sc + s.pxLat q.line 0 →
      x = s.ctx .px q o.c0 127 → a = s.takeBeat x w.src.toNat w.toff →
      ∃ t wr bs, exec (.repeatIssue .px q) s = .next t ∧ IssueFrame s t q.line ∧ (t.q .px q).outst = none ∧
        (t.line q.line).outs = L.outs ++ wr :: bs ∧ wr.dest = .tbRow (w.fld 0 2) 127 ∧ wr.due = s.sc ∧
        bs.length = 128 ∧ ∀ i (h : i < bs.length),
          bs[i].due = s.sc + s.pxLat q.line 0 - 127 + i ∧ bs[i].dest = destOf w.dst 0 ∧
          bs[i].data = (trBeat (2 ^ w.fld 2 2) (o.buf ++ [a.2]) i).setWidth 4096) ∧
    (s.CanIssue .px q (.pxTld q w) → ∀ a, a = s.takeBeat k w.src.toNat w.toff →
      ∃ t, exec (.pxTld q w) s = .next t ∧
        Emits s t { a.1.line q.line with px.wrote := (t.line q.line).px.wrote } .px q (s.sc + s.pxLat q.line 1)
          (.tbRow (w.fld 0 2) (w.fld 2 7)) (a.2.setWidth 4096) 0) ∧
    (s.CanIssue .px q (.pxTld q w) → s.job.faults.length ≤ 11 → ∀ ex : BitVec 6, ex = BitVec.ofNat 6 s.sc - w.toff →
      (∀ b, w.src.toNat < 4 → L.beatAt w.src.toNat 2 s.sc = b → (∀ e, b = some e → e.unconf = none ∧ e.valid = true ∧ e.tag ≠ ex) →
        ∃ t, exec (.pxTld q w) s = .next t ∧ ∃ r ∈ t.job.faults, r.kind = 1 ∧ r.sc = s.sc ∧ r.aux = w.src.toNat ∧
          r.expected = ex.toNat ∧ r.observed = (match b with | some e => e.tag.toNat | none => 0x40)) ∧
      (∀ e, 8 ≤ w.src.toNat → s.time.yield = false → (L.dq.look (w.src.toNat - 8) default).ready s.sc = some e → e.unconf = none →
        e.tag ≠ ex → ∃ t, exec (.pxTld q w) s = .next t ∧ ∃ r ∈ t.job.faults, r.kind = 1 ∧ r.sc = s.sc ∧ r.aux = w.src.toNat ∧
          r.expected = ex.toNat ∧ r.observed = e.tag.toNat) ∧
      (8 ≤ w.src.toNat → s.time.yield = false → (L.dq.look (w.src.toNat - 8) default).entries = [] →
        ∃ t, exec (.pxTld q w) s = .next t ∧ ∃ r ∈ t.job.faults, r.kind = 6 ∧ r.sc = s.sc ∧ r.aux = w.src.toNat - 8)) ∧
    (s.CanIssue .px q (.pxTrd q w) → ∃ t, exec (.pxTrd q w) s = .next t ∧
      Emits s t L .px q (s.sc + s.pxLat q.line 2) (destOf w.dst 0)
        ((L.tbRow (w.fld 0 2) (w.fld 2 7) s.sc).setWidth 4096) 0) ∧
    (s.CanIssue .px q (.pxGath q w) → ∀ a n, a = s.takeBeat k w.src.toNat w.toff → n = (laneOf 16 a.2 0).toNat →
      (n ≤ 127 ∨ n = 0xFFFF → ∃ t, exec (.pxGath q w) s = .next t ∧
        Emits s t (a.1.line q.line) .px q (s.sc + s.pxLat q.line 2) (destOf w.dst 0)
          (if n = 0xFFFF then 0 else (L.tbRow (w.fld 0 2) n s.sc).setWidth 4096) 0) ∧
      (127 < n → n ≠ 0xFFFF → s.job.faults.length ≤ 11 → ∃ t, exec (.pxGath q w) s = .next t ∧
        (t.line q.line).outs = L.outs ∧ ∃ r ∈ t.job.faults, r.kind = 0x1B ∧ r.sc = s.sc ∧ r.aux = n)) ∧
    (s.CanIssue .px q (.pxScat q w) → ∀ a b n, a = s.takeBeat k w.src.toNat w.toff →
      b = a.1.takeBeat k (w.fld 2 4) (w.opnd.extractLsb' 6 6) → n = (laneOf 16 b.2 0).toNat →
      (n ≤ 127 → ∃ t, exec (.pxScat q w) s = .next t ∧
        Emits s t { b.1.line q.line with px.wrote := (t.line q.line).px.wrote } .px q (s.sc + s.pxLat q.line 1)
          (.tbRow (w.fld 0 2) n) (a.2.setWidth 4096) 0) ∧
      (n = 0xFFFF → ∃ t, exec (.pxScat q w) s = .next t ∧ IssueFrame s t q.line ∧
        LineFrame { b.1.line q.line with cnt := (t.line q.line).cnt } (t.line q.line)) ∧
      (127 < n → n ≠ 0xFFFF → s.job.faults.length ≤ 10 → ∃ t, exec (.pxScat q w) s = .next t ∧
        (t.line q.line).outs = L.outs ∧ ∃ r ∈ t.job.faults, r.kind = 0x1B ∧ r.sc = s.sc ∧ r.aux = n))

/-- PX.CMPX, PX.LPERM, PX.PK6, PX.UP6 (Table 6-11, R116, R202, R203): lanes are compacted or permuted, FP6 codes packed
and unpacked; a compaction of rows writes each kept row to the next row of the tile buffer. -/
def Obligations.CompactionPermutationAndPacking : Prop :=
  ∀ (s : State) (q : Queue) (w : FmtO) (k : Ctx) (L : LineState), k = s.ctx .px q s.sc 0 → s.Repeats .px q →
    L = s.line q.line → ∀ a : State × BeatData, a = s.takeBeat k w.src.toNat w.toff →
    (s.CanIssue .px q (.pxCmpx q w) → ∀ b : State × BeatData,
      b = a.1.takeBeat k (w.fld 5 4) (w.opnd.extractLsb' 9 6) →
      (w.fld 4 1 = 1 → ∃ t, exec (.pxCmpx q w) s = .next t ∧
        Emits s t (b.1.line q.line) .px q (s.sc + s.pxLat q.line 4) (destOf w.dst 0)
          ((compact (2 ^ w.fld 2 2) b.2 a.2).setWidth 4096) 0) ∧
      (w.fld 4 1 = 0 → 1 < (s.q .px q).repLatch.getD (w.repcnt.toNat + 1) → ∃ t o, exec (.pxCmpx q w) s = .next t ∧
        (t.q .px q).outst = some o ∧ o.buf = [b.2] ∧
        (laneOf 8 b.2 0 ≠ 0 → o.nums = [1] ∧
          Emits s t { b.1.line q.line with px.wrote := (t.line q.line).px.wrote } .px q (s.sc + s.pxLat q.line 1)
            (.tbRow (w.fld 0 2) 0) (a.2.setWidth 4096) 0) ∧
        (laneOf 8 b.2 0 = 0 → o.nums = [0] ∧ (t.line q.line).outs = L.outs))) ∧
    (s.CanIssue .px q (.pxLperm q w) → ∀ b : State × BeatData,
      b = a.1.takeBeat k (w.fld 4 4) (w.opnd.extractLsb' 8 6) → ∃ t, exec (.pxLperm q w) s = .next t ∧
        Emits s t (b.1.line q.line) .px q (s.sc + s.pxLat q.line 4) (destOf w.dst 0)
          ((lanePerm (2 ^ w.fld 2 2) b.2 a.2).setWidth 4096) 0) ∧
    (s.CanIssue .px q (.pxPk6 q w) → 1 < (s.q .px q).repLatch.getD (w.repcnt.toNat + 1) → ∃ t o, exec (.pxPk6 q w) s = .next t ∧
      IssueFrame s t q.line ∧ LineFrame { a.1.line q.line with cnt := (t.line q.line).cnt } (t.line q.line) ∧
      (t.q .px q).outst = some o ∧ o.instr = .pxPk6 q w ∧ o.done = 1 ∧ o.buf = [a.2]) ∧
    (∀ (o : Outst) (x : Ctx) (b : State × BeatData), (s.q .px q).outst = some o → o.instr = .pxPk6 q w → o.done % 4 ≠ 0 →
      s.mayIssue .px q o.instr o.done = true → x = s.ctx .px q o.c0 o.done → b = s.takeBeat x w.src.toNat w.toff →
      ∃ t e, exec (.repeatIssue .px q) s = .next t ∧ IssueFrame s t q.line ∧ (t.line q.line).outs = L.outs ++ [e] ∧
        e.due = s.sc + s.pxLat q.line 4 ∧ e.dest = destOf w.dst 0 ∧
        e.data = (packedBeat (o.buf ++ [b.2]) (o.done % 4 - 1)).setWidth 4096) ∧
    (s.CanIssue .px q (.pxUp6 q w) → ∃ t, exec (.pxUp6 q w) s = .next t ∧
      Emits s t (a.1.line q.line) .px q (s.sc + s.pxLat q.line 4) (destOf w.dst 0)
        ((containerBeat [a.2] 0).setWidth 4096) 0)

/-- VX_OUTPUT, PX_OUTPUT, PT_READ_RETURN (R74, R78, R106, R184, R204, R286): a result that is due in the sc goes to its
stream with the tag of its instruction's issue sc, to the tail of its data queue, to its vector register or to its
tile buffer row; readers of the same sc still get the earlier register or row. At the end of an sc the entries of a
queue beyond 32 record DQ_OVERFLOW and are lost (R107); a job in yield mode has no such fault, and its queue keeps
them (log entry 84, the model's choice). -/
def Obligations.ResultsReachTheirPlaces : Prop :=
  (∀ (s : State) (l : LineId) (n : Nat) (e : DqEntry) (es : List DqEntry), ((s.line l).dq.look n default).entries = es ++ [e] →
    (es.length < 32 ∨ s.time.yield = true → s.dqFull l n = s) ∧
    (es.length = 32 → s.time.yield = false → s.time.running = true → s.job.faultSc = none → s.job.faults = [] →
      (((s.dqFull l n).line l).dq.look n default).entries = es ∧ ∃ r, (s.dqFull l n).job.faults = [r] ∧ r.kind = 5 ∧ r.sc = e.at_ ∧
        r.unit = ⟨l, e.st.code, e.task, true, e.pc⟩ ∧ r.aux = n + 8192)) ∧
  ∀ (s : State) (l : LineId) (c : Instr) (o : PendOut) (L : LineState),
    (c = .vxOutput l ∧ o.st = .vx ∨ c = .pxOutput l ∧ o.st = .px ∨ c = .ptReadReturn l ∧ o.st = .pt) →
    s.live = true → s.held = false → L = s.line l → L.outs = [o] → o.due = s.sc → o.ev = 0 → o.valid = true →
    o.unconf = none →
    ∃ t, exec c s = .next t ∧
      (∀ ch, o.dest = .stream ch → t = { s with lines := t.lines } ∧
        t.line l = { L with
          outs := []
          beats := { ch := ch, pos := Station.pos o.st, out := s.sc, tag := BitVec.ofNat 6 o.issue, issue := o.issue
                     data := o.data.extractLsb' 0 1024, unconf := none, valid := true } ::
            L.beats.filter fun b => s.sc ≤ b.out + 8 }) ∧
      (∀ n, o.dest = .dq n → t = { s with lines := t.lines } ∧
        t.line l = { L with
          outs := []
          dq := L.dq.put n { L.dq.look n default with
            entries := (L.dq.look n default).entries ++
              [{ data := o.data.extractLsb' 0 1024, tag := BitVec.ofNat 6 o.issue, at_ := s.sc, unconf := none
                 st := o.st, task := o.task, pc := o.pc }] } }) ∧
      (∀ r, o.dest = .vreg r → t = { s with lines := t.lines } ∧
        t.line l = { L with outs := [], vx.vr := (t.line l).vx.vr } ∧
        ((t.line l).vx.vr.look r default).at (s.sc + 1) = o.data ∧
        ((t.line l).vx.vr.look r default).at s.sc = (L.vx.vr.look r default).at s.sc ∧
        ∀ r', r' ≠ r → (t.line l).vx.vr.look r' default = L.vx.vr.look r' default) ∧
      (∀ tb row, o.dest = .tbRow tb row → t = { s with lines := t.lines } ∧
        t.line l = { L with outs := [], px.tb := (t.line l).px.tb } ∧
        (t.line l).tbRow tb row (s.sc + 1) = o.data.extractLsb' 0 1024 ∧
        (t.line l).tbRow tb row s.sc = L.tbRow tb row s.sc) ∧
      ∀ k, k ≠ l.val → t.line k = s.line k

/-- HELD_ROW_DRAIN (R262): a CONFIRMED entry drains to its banks when no write port user writes its pair, and only its row
changes in memory; a write-back of that row that waits is cancelled (R270). The drain's read of the row counts what it
corrects, and an uncorrectable word is LS_UE (R268, R269). GLEANER_READ, GLEANER_WRITE_BACK, INSTRUCTION_STORE_SCAN
(R270, R271): a free gleaner goes on to the next row, an uncorrectable finding in a bay buffer or a local store raises
RCV_ALERT.UE_FOUND (R455; with the finding: log entry 95, the model's choice), a write-back takes the row from the
list and clears its corrected errors, one that a write has cancelled does nothing, that of a stack commits to a free
slot (R290, R298), a scan goes on to the next row of 64 words and queues bad words for map-out. No byte of memory
changes. -/
def Obligations.DrainsGleanersAndScan : Prop :=
  (∀ (s : State) (l : LineId) (i : Nat) (h : HeldRow) (L : LineState),
    s.MemCanon → s.live = true → s.held = false → L = s.line l → L.ls.held = [(i, h)] → h.confirmed = true →
    h.since < s.sc → h.addr < 0x60000 → L.ls.drainAt ≠ s.sc + 1 → L.powered h.addr = true →
    s.writesPair l (pairOf h.addr) s.sc = false →
    (∃ t, exec (.heldRowDrain l .clean) s = .next t ∧ (t.line l).ls.held = [] ∧
      (∀ j, j < 128 → t.byte (lsPhys l h.addr + j) = h.data.extractLsb' (8 * j) 8) ∧
      (∀ a, a < lsPhys l h.addr ∨ lsPhys l h.addr + 128 ≤ a → t.byte a = s.byte a) ∧
      lsPhys l h.addr ∉ t.fixes ∧ (∀ f ∈ t.fixes, f ∈ s.fixes) ∧
      t = { s with lines := t.lines, mem := t.mem, undef := t.undef, marks := t.marks, fixes := t.fixes }) ∧
    (∀ off, ∃ t, exec (.heldRowDrain l (.corrected off)) s = .next t ∧ (t.line l).ls.held = [] ∧ t.job = s.job ∧
      (t.line l).ls.eccCe = sat32 (L.ls.eccCe + 1)) ∧
    (∀ off, s.job.faultSc = none → s.job.faults = [] → ∃ t r, exec (.heldRowDrain l (.uncorrectable off)) s = .next t ∧
      (t.line l).ls.held = [] ∧ (t.line l).ls.eccUe = sat32 (L.ls.eccUe + 1) ∧ t.job.faults = [r] ∧ r.kind = 0x34 ∧ r.sc = s.sc ∧
      r.addr = (h.addr + off.val) / 8 * 8 ∧ (lsPhys l r.addr, true) ∈ t.marks)) ∧
  ((∀ (s : State) (m : GleanMem) (f : EccFinding), s.glnFree m (s.glnNext m) false = true →
    ∃ t, exec (.gleanerRead m f) s = .next t ∧ t.glnNext m = (nextRow m (s.glnNext m)).1 ∧ t.mem = s.mem ∧
      t.undef = s.undef ∧ t.time = s.time ∧ t.job = s.job ∧
      (∀ b off, m = .bb b → f = .uncorrectable off → t.rcv.alert.getLsbD 3 = true) ∧
      (∀ l off r, m = .ls l → r = 128 * (s.line l).ls.glnRow → (∀ e ∈ (s.line l).ls.held, e.2.addr ≠ r) → (s.line l).powered r = true →
        (f = .uncorrectable off → t.rcv.alert.getLsbD 3 = true ∧ (lsPhys l r + off.val / 8 * 8, true) ∈ t.marks) ∧
        ((∀ off, f ≠ .uncorrectable off) → (∀ w ∈ s.marks, w.2 = false) → t.rcv = s.rcv))) ∧
  (∀ (s : State) (m : GleanMem), s.nextFix m = none → exec (.gleanerWriteBack m) s = .next s) ∧
  (∀ (s : State) (l : LineId) (p : Nat), s.nextFix (.ls l) = some p →
    s.glnFree (.ls l) ((p - lsPhys l 0) / 128) true = true →
    ∃ t, exec (.gleanerWriteBack (.ls l)) s = .next t ∧ t.fixes = s.fixes.erase p ∧
      (∀ e ∈ t.marks, p ≤ e.1 → e.1 < p + 128 → e.2 = true) ∧
      (t.line l).cnt.look LineCnt.glnCe.ix 0 = sat32 ((s.line l).cnt.look LineCnt.glnCe.ix 0 + 1) ∧
      t = { s with lines := t.lines, marks := t.marks, fixes := t.fixes } ∧ ∀ k, k ≠ l.val → t.line k = s.line k) ∧
  (∀ (s : State) (b : BayId) (p : Nat), s.nextFix (.bb b) = some p →
    s.glnFree (.bb b) ((p - bbPhys b 0) / 128) true = true →
    ∃ t, exec (.gleanerWriteBack (.bb b)) s = .next t ∧ t.fixes = s.fixes.erase p ∧
      (∀ e ∈ t.marks, p ≤ e.1 → e.1 < p + 128 → e.2 = true) ∧
      (t.bay b).cnt.look BayCnt.bbGlnCe.ix 0 = sat32 ((s.bay b).cnt.look BayCnt.bbGlnCe.ix 0 + 1) ∧
      t = { s with bays := t.bays, marks := t.marks, fixes := t.fixes }) ∧
  (∀ (s : State) (k : Fin 32) (p slice : Nat), s.nextFix (.nt k) = some p → slice = p / 0x180000000 →
    s.slotFree slice 0 = true → (∀ c ∈ s.free, ¬(c.cc = s.time.now + 4 ∧ c.slice = slice ∧ c.slot = 0)) →
    (∀ c ∈ s.free, ¬(c.fix = true ∧ c.slice = slice)) →
    exec (.gleanerWriteBack (.nt k)) s =
      .next { s with free := s.free ++ [⟨s.time.now + 4, slice, 0, freeOrder .gleaner, .clean, true⟩] }) ∧
  (∀ (s : State) (l : LineId) (found : List ParityFinding) (p : Nat), p = (s.line l).ls.glnIs →
    (∀ f ∈ found, f.st.code * 64 + f.word.val / 64 = p) →
    ∃ t, exec (.instructionStoreScan l found) s = .next t ∧ (t.line l).ls.glnIs = (if p + 1 < 384 then p + 1 else 0) ∧
      t.mem = s.mem ∧ t.undef = s.undef ∧ (t.line l).istore = (s.line l).istore ∧
      (found = [] → t.rcv = s.rcv ∧ t.hrv = s.hrv) ∧
      (found ≠ [] → t.rcv.alert.getLsbD 3 = true ∧ t.hrv.pend.getLsbD 2 = true) ∧
      ∀ f ∈ found, (t.line l).isBad.contains (f.st.code * 4096 + f.word.val) = true))

/-- LS.RD, LS.WR, LS.FILL, LS.COPY (Table 8-2, Table 8-3, R93, R254, R357): the first repeat puts its access at the port
sc of its row of the table; outside its region, or at an address that is no multiple of 128, it records REGION or
LS_ALIGN and makes no access (R249, R357), and of an LS.COPY each of the two accesses is judged by itself. Two uses of
one port of a bank pair in one sc are LS_BANK (R251). LS.PGRP (R264, R265): the request is recorded with its sc and
HRV_PEND.PGRP is set; under a prediction it is deferred. -/
def Obligations.LocalStoreAndPowerGroups : Prop :=
  ((∀ (s : State) (l : LineId) (u v : MemUse), s.time.running = true → s.uses = [u, v] → u.owner = .ls l.val → v.owner = .ls l.val →
    u.due = s.sc → v.due = s.sc → u.slotted = false → v.slotted = false →
    (u.write ≠ v.write ∨ pairOf u.addr ≠ pairOf v.addr → (s.ports s.sc fun _ => true).job = s.job) ∧
    (u.write = v.write → pairOf u.addr = pairOf v.addr → s.job.faultSc = none → s.job.faults = [] →
      ∃ r, (s.ports s.sc fun _ => true).job.faults = [r] ∧ r.kind = 0x30 ∧ r.sc = s.sc ∧
        r.detail = 2 * pairOf u.addr + (if u.write then 1 else 0) ∧ (r.unit, r.unit2) = orderUnits u.unit v.unit)) ∧
  ∀ (s : State) (q : Queue) (w : FmtM) (k : Ctx) (L : LineState) (g : Region) (x : Nat),
    k = s.ctx .ls q s.sc 0 → s.Repeats .ls q → L = s.line q.line → g = s.region w.region.toNat →
    x = s.firstOffset .ls q w →
    (s.CanIssue .ls q (.lsRd q w) →
      (g.allows 1 false x = true → (g.base + x) % 128 = 0 → ∃ t, exec (.lsRd q w) s = .next t ∧
        AddsUse s t q L
          { unit := k.unit, kind := .own, owner := .ls q.line, write := false, addr := g.base + x, order := s.sc, due := s.sc
            data := 0, unconf := L.unconf q.task s.sc, taken := false, slotted := false
            ret := some { line := q.line, st := .ls, dest := destOf w.data 0, out := s.sc + 2, issue := s.sc, rep := 0
                          unconf := L.unconf q.task s.sc, valid := true } }) ∧
      (g.allows 1 false x = false → s.job.faults.length ≤ 12 → ∃ t, exec (.lsRd q w) s = .next t ∧ t.uses = s.uses ∧
        ∃ r ∈ t.job.faults, r.kind = 7 ∧ r.sc = s.sc ∧ r.addr = x) ∧
      (g.allows 1 false x = true → (g.base + x) % 128 ≠ 0 → s.job.faults.length ≤ 12 →
        ∃ t, exec (.lsRd q w) s = .next t ∧ t.uses = s.uses ∧
          ∃ r ∈ t.job.faults, r.kind = 0x31 ∧ r.sc = s.sc ∧ r.addr = g.base + x)) ∧
    (s.CanIssue .ls q (.lsWr q w) → g.allows 1 true x = true → (g.base + x) % 128 = 0 →
      ∀ d, d = s.takeBeat k w.data.toNat w.toff → ∃ t, exec (.lsWr q w) s = .next t ∧
        AddsUse s t q (d.1.line q.line)
          { unit := k.unit, kind := .own, owner := .ls q.line, write := true, addr := g.base + x, order := s.sc + 1
            due := s.sc + 1, data := d.2, unconf := L.unconf q.task s.sc, taken := false, slotted := false, ret := none }) ∧
    (s.CanIssue .ls q (.lsFill q w) → g.allows 1 true x = true → (g.base + x) % 128 = 0 →
      ∃ t u, exec (.lsFill q w) s = .next t ∧ AddsUse s t q L u ∧ u.owner = .ls q.line ∧ u.write = true ∧
        u.addr = g.base + x ∧ u.due = s.sc + 1 ∧ u.order = s.sc + 1 ∧ u.kind = .own ∧
        (w.data = 4 → u.data = 0) ∧
        (w.data = 5 → ∀ i, i < 16 → laneOf 64 u.data i = s.scalar k w.toff.toNat)) ∧
    (s.CanIssue .ls q (.lsCopy q w) → g.allows 1 false x = true → (g.base + x) % 128 = 0 →
      ∀ y, y = ((s.q .ls q).ar.look w.toff.toNat 0).toNat → g.allows 1 true y = true → (g.base + y) % 128 = 0 →
      ∃ t, exec (.lsCopy q w) s = .next t ∧
        AddsUse s t q L
          { unit := k.unit, kind := .copyTo (g.base + y), owner := .ls q.line, write := false, addr := g.base + x, order := s.sc
            due := s.sc, data := 0, unconf := L.unconf q.task s.sc, taken := false, slotted := false, ret := none }) ∧
    (∀ i : Instr, (i = .lsWr q w ∨ i = .lsFill q w) → s.CanIssue .ls q i → s.job.faults.length ≤ 11 →
      (g.allows 1 true x = false → ∃ t, exec i s = .next t ∧ t.uses = s.uses ∧
        ∃ r ∈ t.job.faults, r.kind = 7 ∧ r.sc = s.sc ∧ r.addr = x) ∧
      (g.allows 1 true x = true → (g.base + x) % 128 ≠ 0 → ∃ t, exec i s = .next t ∧ t.uses = s.uses ∧
        ∃ r ∈ t.job.faults, r.kind = 0x31 ∧ r.sc = s.sc ∧ r.addr = g.base + x)) ∧
    (∀ y, y = ((s.q .ls q).ar.look w.toff.toNat 0).toNat → s.CanIssue .ls q (.lsCopy q w) → s.job.faults.length ≤ 12 →
      (∀ z, (g.allows 1 false x = false ∧ z = x ∨ g.allows 1 true y = false ∧ z = y) →
        ∃ t, exec (.lsCopy q w) s = .next t ∧ t.uses = s.uses ∧ ∃ r ∈ t.job.faults, r.kind = 7 ∧ r.sc = s.sc ∧ r.addr = z) ∧
      (∀ z, (g.allows 1 false x = true ∧ (g.base + x) % 128 ≠ 0 ∧ z = g.base + x ∨
          g.allows 1 true y = true ∧ (g.base + y) % 128 ≠ 0 ∧ z = g.base + y) →
        ∃ t, exec (.lsCopy q w) s = .next t ∧ t.uses = s.uses ∧ ∃ r ∈ t.job.faults, r.kind = 0x31 ∧ r.sc = s.sc ∧ r.addr = z))) ∧
  (∀ (s : State) (q : Queue) (w : FmtO) (L : LineState), L = s.line q.line → s.CanIssue .ls q (.lsPgrp q w) → s.Repeats .ls q →
    ∃ t, exec (.lsPgrp q w) s = .next t ∧
      (L.cc.preds.find q.task = none → IssueFrame { s with hrv.pend := s.hrv.pend ||| 8 } t q.line ∧
        LineFrame { L with ls := { L.ls with pgReq := w.opnd.extractLsb' 0 4, pgReqValid := true, pgReqSc := s.sc } }
          (t.line q.line) ∧
        t.hrv.pend.getLsbD 3 = true) ∧
      (∀ p, L.cc.preds.find q.task = some p → p.p < s.sc → IssueFrame s t q.line ∧
        LineFrame { L with cc.preds := L.cc.preds.put q.task { p with pgrp := some (w.opnd.extractLsb' 0 4) } }
          (t.line q.line)))

/-- PT.GET and PT.PUT (Table 9-2, R283, R285, R286): a repeat meets its slice 172 sc after its issue, or 8 sc for a write,
8 sc later for a slice of another bay, and crosses the bridges of its route; under a prediction a write is SPEC_PATH.
An access that its region does not allow is REGION (R357), and one at an address that is no multiple of 128 NT_ALIGN:
neither is made. -/
def Obligations.NearTierRepeats : Prop :=
  ∀ (s : State) (q : Queue) (w : FmtM) (k : Ctx) (L : LineState) (g : Region) (x a slice far : Nat),
    k = s.ctx .pt q s.sc 0 → s.Repeats .pt q → L = s.line q.line → g = s.region w.region.toNat →
    x = s.firstOffset .pt q w → a = g.base + x → slice = (ntMap s.zone a).1 →
    far = (if slice / 32 = bayOf q.line then 0 else 1) →
    (s.CanIssue .pt q (.ptGet q w) → g.allows 3 false x = true → a % 128 = 0 → ∃ t u r, exec (.ptGet q w) s = .next t ∧
      t.uses = s.uses ++ [u] ∧ u.owner = .nt slice ∧ u.write = false ∧ u.addr = a ∧ u.due = s.sc + 172 + 8 * far ∧
      u.order = s.sc + 8 + 8 * far ∧ u.ret = some r ∧ r.out = s.sc + 180 + 16 * far ∧ r.dest = destOf w.data 0 ∧
      r.line = q.line.val ∧ r.issue = s.sc ∧
      t.cross = (if far = 0 then s.cross else
        s.cross ++ (bridges (slice / 32) (bayOf q.line)).map fun e => ⟨s.sc + 184, e.1, e.2, q.line % 64, k.unit⟩) ∧
      IssueFrame { s with uses := t.uses, cross := t.cross } t q.line ∧
      LineFrame { L with ptUsed := (t.line q.line).ptUsed, ptUsedAt := s.sc + 1 } (t.line q.line) ∧
      (t.line q.line).ptUsed.getLsbD 0 = true) ∧
    (s.CanIssue .pt q (.ptPut q w) → s.predicted k = false → g.allows 3 true x = true → a % 128 = 0 →
      ∀ d, d = s.takeBeat k w.data.toNat w.toff → ∃ t u, exec (.ptPut q w) s = .next t ∧
        t.uses = s.uses ++ [u] ∧ u.owner = .nt slice ∧ u.write = true ∧ u.addr = a ∧ u.due = s.sc + 8 + 8 * far ∧
        u.data = d.2 ∧ u.ret = none ∧
        t.cross = (if far = 0 then s.cross else
          s.cross ++ (bridges (bayOf q.line) (slice / 32)).map fun e => ⟨s.sc + 8, e.1, e.2, q.line % 64, k.unit⟩) ∧
        IssueFrame { s with uses := t.uses, cross := t.cross } t q.line ∧
        LineFrame { d.1.line q.line with ptUsed := (t.line q.line).ptUsed, ptUsedAt := s.sc + 1 } (t.line q.line)) ∧
    (s.CanIssue .pt q (.ptPut q w) → s.predicted k = true → s.job.faults.length ≤ 12 →
      ∃ t, exec (.ptPut q w) s = .next t ∧ t.uses = s.uses ∧ ∃ r ∈ t.job.faults, r.kind = 0x28 ∧ r.detail = 1) ∧
    (∀ (i : Instr) (wr : Bool), (i = .ptGet q w ∧ wr = false ∨ i = .ptPut q w ∧ wr = true) → s.CanIssue .pt q i →
      (wr = true → s.predicted k = false) → s.job.faults.length ≤ 11 →
      (g.allows 3 wr x = false → ∃ t, exec i s = .next t ∧ t.uses = s.uses ∧ t.cross = s.cross ∧
        ∃ r ∈ t.job.faults, r.kind = 7 ∧ r.sc = s.sc ∧ r.addr = x) ∧
      (g.allows 3 wr x = true → a % 128 ≠ 0 → ∃ t, exec i s = .next t ∧ t.uses = s.uses ∧ t.cross = s.cross ∧
        ∃ r ∈ t.job.faults, r.kind = 0x39 ∧ r.sc = s.sc ∧ r.addr = a))

/-- PT.BGET, PT.BPUT, PT.NGET, PT.NPUT and PT_BACKGROUND_BEAT (Table 9-2, R256, R257, R284): a background transfer moves
its first beat in its issue sc while its queue goes on, and one beat in each later sc: beat j takes the address of
repeat j under R93 from the values at the issue, meets its memory and returns as the first one does from its issue sc,
and a beat from or to another bay crosses the bridges between the bays. A write under a prediction, or of a beat of
the task that is still unconfirmed, is SPEC_PATH (R243); a second transfer while one lasts is PT_PORT2. Two accesses
of one port of a bay-buffer slice in one sc are BB_SLICE (R277). -/
def Obligations.BackgroundTransfers : Prop :=
  (∀ (s : State) (b : BayId) (u v : MemUse), s.time.running = true → s.uses = [u, v] → u.owner = .bb b.val → v.owner = .bb b.val →
    u.due = s.sc → v.due = s.sc → u.slotted = false → v.slotted = false → s.gShare ≤ s.sc % 16 →
    (u.write ≠ v.write ∨ bbSlice u.addr ≠ bbSlice v.addr → (s.ports s.sc fun _ => true).job = s.job) ∧
    (u.write = v.write → bbSlice u.addr = bbSlice v.addr → s.job.faultSc = none → s.job.faults = [] →
      ∃ r, (s.ports s.sc fun _ => true).job.faults = [r] ∧ r.kind = 0x36 ∧ r.sc = s.sc ∧
        r.detail = 2 * bbSlice u.addr + (if u.write then 1 else 0) ∧ (r.unit, r.unit2) = orderUnits u.unit v.unit)) ∧
  (∀ (s : State) (q : Queue) (w : FmtM) (k : Ctx) (L : LineState) (g : Region) (x a n : Nat) (i : Instr) (wr bay : Bool),
    (i = .ptBget q w ∧ wr = false ∧ bay = true ∨ i = .ptBput q w ∧ wr = true ∧ bay = true ∨
      i = .ptNget q w ∧ wr = false ∧ bay = false ∨ i = .ptNput q w ∧ wr = true ∧ bay = false) →
    s.CanIssue .pt q i → k = s.ctx .pt q s.sc 0 → L = s.line q.line → x = s.firstOffset .pt q w →
    g = s.region (if bay then w.region.toNat else w.region.toNat % 16) → a = g.base + x → a % 128 = 0 →
    g.allows (if bay then 2 else 1) wr x = true →
    n = (s.q .pt q).repLatch.getD (w.repcnt.toNat + 1) → 1 ≤ n →
    (L.bg = none → (wr = true → s.predicted k = false ∧ s.bgPath k i = false) → ∃ t b u, exec i s = .next t ∧ (t.line q.line).bg = some b ∧ b.instr = i ∧ b.c = s.sc ∧ b.total = n ∧
      b.done = 1 ∧ b.base = (s.q .pt q).ar.look w.arn.toNat 0 ∧ b.stride = (s.q .pt q).stride.look w.arn.toNat 0 ∧
      (t.q .pt q).outst = none ∧ t.uses = s.uses ++ [u] ∧ u.write = wr ∧
      (wr = true → u.data = (s.takeBeat k w.data.toNat w.toff).2 ∧ u.ret = none) ∧
      (bay = true → ∀ y far, y = (a - 0x18000000000) / 0x4000000 → far = (if y = bayOf q.line then 0 else 1) →
        u.owner = .bb y ∧ u.addr = a % 0x4000000 ∧ u.due = s.sc + 4 + 8 * far ∧
        (wr = false → ∃ r, u.ret = some r ∧ r.out = s.sc + 10 + 16 * far ∧ r.dest = destOf w.data 0)) ∧
      (bay = false → u.due = s.sc + 3 ∧ u.addr = a ∧
        (∀ m, nbrOf q.line (w.region.toNat / 16) = some m → u.owner = .ls m) ∧
        (wr = false → ∃ r, u.ret = some r ∧ r.out = s.sc + 7 ∧ r.dest = destOf w.data 0)) ∧
      IssueFrame { s with uses := t.uses, cross := t.cross } t q.line) ∧
    (wr = true → s.predicted k = true ∨ L.bg = none ∧ s.bgPath k i = true → s.job.faults.length ≤ 12 →
      ∃ t, exec i s = .next t ∧ t.uses = s.uses ∧ t.cross = s.cross ∧ ∃ r ∈ t.job.faults, r.kind = 0x28 ∧ r.detail = 1 ∧ r.sc = s.sc) ∧
    (L.bg ≠ none → (wr = true → s.predicted k = false) → s.job.faults.length ≤ 12 →
      ∃ t, exec i s = .next t ∧ (t.line q.line).bg = L.bg ∧ t.uses = s.uses ∧
      ∃ r ∈ t.job.faults, r.kind = 0x38 ∧ r.sc = s.sc ∧ r.addr = a)) ∧
  (∀ (s : State) (l : LineId) (b : Background), s.live = true → s.held = false → (s.line l).bg = some b →
    b.done < b.total → b.c + b.done ≤ s.sc →
    (∃ t, exec (.backgroundBeat l) s = .next t ∧ (t.line l).bg = some { b with done := b.done + 1 } ∧
      ∀ j, j ≠ l.val → t.line j = s.line j) ∧
    ∀ (q : Queue) (w : FmtM) (k : Ctx) (g : Region) (x a : Nat) (wr bay : Bool),
      (b.instr = .ptBget q w ∧ wr = false ∧ bay = true ∨ b.instr = .ptBput q w ∧ wr = true ∧ bay = true ∨
        b.instr = .ptNget q w ∧ wr = false ∧ bay = false ∨ b.instr = .ptNput q w ∧ wr = true ∧ bay = false) →
      k = { st := .pt, l := l, t := q.task, x := s.sc, c0 := b.c, j := b.done, pc := b.pc } →
      g = s.region (if bay then w.region.toNat else w.region.toNat % 16) → x = repOffset b.base b.stride w.offset b.done → a = g.base + x →
      (wr = true → s.bgPath k b.instr = true → s.job.faults.length ≤ 12 → (∀ f, s.job.faultSc = some f → s.sc ≤ f) → ∃ t, exec (.backgroundBeat l) s = .next t ∧ t.uses = s.uses ∧
        t.cross = s.cross ∧ ∃ r ∈ t.job.faults, r.kind = 0x28 ∧ r.detail = 1 ∧ r.sc = s.sc) ∧
      (a % 128 = 0 → g.allows (if bay then 2 else 1) wr x = true → (wr = true → s.bgPath k b.instr = false) →
        (∀ y far, bay = true → y = (a - 0x18000000000) / 0x4000000 → far = (if y = bayOf l then 0 else 1) →
          ∃ t u, exec (.backgroundBeat l) s = .next t ∧ t.uses = s.uses ++ [u] ∧ u.owner = .bb y ∧ u.write = wr ∧ u.addr = a % 0x4000000 ∧
            u.due = s.sc + 4 + 8 * far ∧ u.order = u.due ∧ (wr = true → u.data = (s.takeBeat k w.data.toNat w.toff).2 ∧ u.ret = none) ∧
            (wr = false → u.ret = some { line := l, st := .pt, dest := destOf w.data 0, out := s.sc + 10 + 16 * far, issue := b.c
                                         rep := b.done, unconf := b.unconf, valid := b.valid }) ∧
            t.cross = (if far = 0 then s.cross else
              s.cross ++ (if wr then (bridges (bayOf l) y).map fun e => ⟨s.sc + 8, e.1, e.2, l.val % 64 + 64, k.unit⟩
                else (bridges y (bayOf l)).map fun e => ⟨s.sc + 16, e.1, e.2, l.val % 64 + 64, k.unit⟩))) ∧
        (∀ m, bay = false → nbrOf l (w.region.toNat / 16) = some m →
          ∃ t u, exec (.backgroundBeat l) s = .next t ∧ t.uses = s.uses ++ [u] ∧ t.cross = s.cross ∧ u.owner = .ls m ∧ u.kind = .neighbour ∧
            u.write = wr ∧ u.addr = a ∧ u.due = s.sc + 3 ∧ u.order = s.sc + 3 ∧
            (wr = true → u.data = (s.takeBeat k w.data.toNat w.toff).2 ∧ u.ret = none) ∧
            (wr = false → u.ret = some { line := l, st := .pt, dest := destOf w.data 0, out := s.sc + 7, issue := b.c
                                         rep := b.done, unconf := b.unconf, valid := b.valid }))))

/-- NT_SLOT_ACCESS, FREE_SLOT_ACCESS, HBM_TEMP_INTERVAL, PN_CROSSING (Table 2-2, Table 9-3, R288 to R291, R295, R297), in
a job of refresh level 1 or 2, which each image gives (R289): scheduled accesses take their slots and count; a read
that finds an uncorrectable error is NT_UE; an access in a slot that is reserved for refresh or for the granary
engines is NT_RSVSLOT, two accesses of one slot are NT_SLOT; more refresh-management commands pending than the level
allows raise HBM_RFM for 48 cc; a free-slot user commits 4 cc ahead; a stack above the limit of its refresh level
raises HBM_TEMP for 64 cc; crossings of a bay are counted and leave. -/
def Obligations.NearTierSlotsAndTemperature : Prop :=
  (∀ (s : State) (slice : Fin 256) (f : EccFinding) (n lim : Nat), s.live = true → s.held = false →
    (s.refLevel = 1 ∧ lim = 2 ∨ s.refLevel = 2 ∧ lim = 4) → s.gr.cur = none →
    ((∀ u ∈ s.uses, u.owner ≠ .nt slice.val) →
      (n ≤ lim → exec (.ntSlotAccess slice f n) s = .next s) ∧
      (lim < n → ∃ t, exec (.ntSlotAccess slice f n) s = .next t ∧ t = { s with time := t.time, bays := t.bays } ∧
        t.time.reqs = s.time.reqs ++ [⟨0, .stack (slice.val / 8), some (s.time.now + 47)⟩] ∧
        ((t.bay (slice.val / 32)).stk.look (slice.val / 8) default).rfm =
          sat32 (((s.bay (slice.val / 32)).stk.look (slice.val / 8) default).rfm + 1))) ∧
    (∀ u : MemUse, n ≤ lim → s.uses = [u] → u.owner = .nt slice.val → u.due = s.sc → u.slotted = false → ∀ slot, slot = u.unit.line % 2 →
      (s.refreshSlot slice slot s.sc = false → s.granarySlot slot s.sc = false →
        (u.write = true ∨ f = .clean ∧ s.marks = [] → ∃ t, exec (.ntSlotAccess slice f n) s = .next t ∧
          t = { s with uses := [{ u with slotted := true }], bays := t.bays } ∧
          ∀ c, c = (if u.write then BayCnt.ntWr.ix else BayCnt.ntRd.ix) →
            (t.bay (slice.val / 32)).cnt.look c 0 = wrap64 ((s.bay (slice.val / 32)).cnt.look c 0 + 1)) ∧
        (∀ off p, u.write = false → f = .uncorrectable off → s.marks = [] → s.place u = some p → p % 128 = 0 → s.job.faultSc = none →
          s.job.faults = [] → ∃ t r, exec (.ntSlotAccess slice f n) s = .next t ∧ t.job.faults = [r] ∧ r.kind = 0x3D ∧ r.sc = s.sc ∧
            r.detail = slice.val / 8 ∧ r.addr = u.addr + off.val / 64 * 64 ∧ r.unit = u.unit)) ∧
      (u.write = true → s.job.faultSc = none → s.job.faults = [] → s.refreshSlot slice slot s.sc = true ∨ s.granarySlot slot s.sc = true →
        ∃ t r, exec (.ntSlotAccess slice f n) s = .next t ∧ t.job.faults = [r] ∧ r.kind = 0x3B ∧ r.sc = s.sc ∧ r.unit = u.unit ∧
          r.addr = u.addr ∧ r.detail = if s.refreshSlot slice slot s.sc then 0 else 1)) ∧
    (∀ u v : MemUse, n ≤ lim → s.uses = [u, v] → u.owner = .nt slice.val → v.owner = .nt slice.val → u.due = s.sc → v.due = s.sc →
      u.slotted = false → v.slotted = false → u.write = true → v.write = true → u.unit.line % 2 = v.unit.line % 2 →
      s.refreshSlot slice (u.unit.line % 2) s.sc = false → s.granarySlot (u.unit.line % 2) s.sc = false → s.job.faultSc = none →
      s.job.faults = [] → ∃ t r, exec (.ntSlotAccess slice f n) s = .next t ∧ t.job.faults = [r] ∧ r.kind = 0x3A ∧ r.sc = s.sc ∧
        r.detail = 2 * slice.val + u.unit.line % 2 ∧ (r.unit, r.unit2) = orderUnits u.unit v.unit)) ∧
  (∀ (s : State) (slice : Fin 256) (slot : Fin 2) (u : FreeUser) (f : EccFinding),
    (s.slotFree slice slot = false → exec (.freeSlotAccess slice slot u f) s = .next s) ∧
    (s.slotFree slice slot = true → (∀ c ∈ s.free, ¬(c.cc = s.time.now + 4 ∧ c.slice = slice ∧ c.slot = slot)) →
      exec (.freeSlotAccess slice slot u f) s =
        .next { s with free := s.free ++ [⟨s.time.now + 4, slice, slot, freeOrder u, f, false⟩] })) ∧
  (∀ (s : State) (stack : Fin 32) (deg n lim : Nat), s.tempLimit = some lim →
    ∃ t, exec (.hbmTempInterval stack deg n) s = .next t ∧
      ((t.bay (stack.val / 4)).stk.look stack default).temp = deg % 256 ∧
      (t.bay (stack.val / 4)).hot.getLsbD (stack.val % 4) = decide (lim < deg) ∧
      t.time.reqs = s.time.reqs ++ (if lim < deg then [⟨1, .stack stack, some (s.time.now + 63)⟩] else []) ++
        (if (if s.refLevel = 1 then 2 else 4) < n then [⟨0, .stack stack, some (s.time.now + 47)⟩] else []) ∧
      t.lines = s.lines ∧ t.mem = s.mem ∧ t.job = s.job) ∧
  (∀ (s : State) (bay : BayId) (c : Crossing), s.live = true → s.held = false → s.cross = [c] → c.src = bay → c.sc = s.sc →
    ∃ t, exec (.pnCrossing bay) s = .next t ∧ t = { s with cross := [], bays := t.bays } ∧
      (t.bay bay).cnt.look BayCnt.pn.ix 0 = wrap64 ((s.bay bay).cnt.look BayCnt.pn.ix 0 + 1))

/-- CC.OP, CC.LI, CC.LIH, CC.SRRD (Tables 7-1 to 7-3): the register is readable at the latency of the instruction; the
count of issues and the histories of scalar registers are all that changes beside the queue. -/
def Obligations.ScalarInstructions : Prop :=
  ∀ (s : State) (q : Queue) (k : Ctx) (L : LineState), k = s.ctx .cc q s.sc 0 → L = s.line q.line →
    (∀ w : FmtO, s.CanIssue .cc q (.ccOp q w) →
      (∀ e ∈ L.cc.sreg.look (srKey q.task (w.fld 0 6)) [], e.1 ≠ 2 * (s.sc + s.ccLat q.line (w.fld 18 5)) + 1) →
      ∃ t, exec (.ccOp q w) s = .next t ∧ IssueFrame s t q.line ∧
        LineFrame { L with cc.sreg := (t.line q.line).cc.sreg, cnt := (t.line q.line).cnt } (t.line q.line) ∧
        OtherScalars L (t.line q.line) q.task (w.fld 0 6) ∧
        (t.line q.line).sregAt q.task (w.fld 0 6) (s.sc + s.ccLat q.line (w.fld 18 5)) =
          ccFunc (w.fld 18 5) (L.sregAt q.task (w.fld 6 6) s.sc)
            (if w.fld 23 1 = 1 then BitVec.ofNat 64 (w.fld 12 6) else L.sregAt q.task (w.fld 12 6) s.sc)) ∧
    (∀ w : FmtW, s.CanIssue .cc q (.ccLi q w) →
      (∀ e ∈ L.cc.sreg.look (srKey q.task (w.imm.extractLsb' 34 6).toNat) [], e.1 ≠ 2 * (s.sc + 1) + 1) →
      ∃ t, exec (.ccLi q w) s = .next t ∧ IssueFrame s t q.line ∧
        LineFrame { L with cc.sreg := (t.line q.line).cc.sreg, cnt := (t.line q.line).cnt } (t.line q.line) ∧
        OtherScalars L (t.line q.line) q.task (w.imm.extractLsb' 34 6).toNat ∧
        (t.line q.line).sregAt q.task (w.imm.extractLsb' 34 6).toNat (s.sc + 1) = (w.imm.extractLsb' 0 34).signExtend 64) ∧
    (∀ w : FmtW, s.CanIssue .cc q (.ccLih q w) →
      (∀ e ∈ L.cc.sreg.look (srKey q.task (w.imm.extractLsb' 34 6).toNat) [], e.1 ≠ 2 * (s.sc + 1) + 1) →
      ∃ t, exec (.ccLih q w) s = .next t ∧ IssueFrame s t q.line ∧
        LineFrame { L with cc.sreg := (t.line q.line).cc.sreg, cnt := (t.line q.line).cnt } (t.line q.line) ∧
        OtherScalars L (t.line q.line) q.task (w.imm.extractLsb' 34 6).toNat ∧
        (t.line q.line).sregAt q.task (w.imm.extractLsb' 34 6).toNat (s.sc + 1) =
          w.imm.extractLsb' 0 32 ++ (L.sregAt q.task (w.imm.extractLsb' 34 6).toNat s.sc).extractLsb' 0 32) ∧
    (∀ w : FmtO, s.CanIssue .cc q (.ccSrrd q w) → w.fld 6 4 < 3 ∨ s.dynOn 3 = true →
      (∀ e ∈ L.cc.sreg.look (srKey q.task (w.fld 0 6)) [], e.1 ≠ 2 * (s.sc + 1) + 1) →
      ∃ t, exec (.ccSrrd q w) s = .next t ∧ OtherScalars L (t.line q.line) q.task (w.fld 0 6) ∧
        (t.line q.line).sregAt q.task (w.fld 0 6) (s.sc + 1) =
          (if w.fld 6 4 = 0 then BitVec.ofNat 64 q.line else if w.fld 6 4 = 1 then BitVec.ofNat 64 q.task
            else if w.fld 6 4 = 2 then s.coord.setWidth 64 else BitVec.ofNat 64 s.time.cnt.cc) ∧
        (w.fld 6 4 < 3 → IssueFrame s t q.line) ∧
        (w.fld 6 4 = 3 → t.time.cnt.ndcC = sat32 (s.time.cnt.ndcC + 1)))

/-- CC.BR (R215, R216): a branch that is taken redirects every station whose VALID is set, the CC from the next sc and the
others from the third; a VX.RFLD that it cuts leaves the entries of the repeats it has performed (R198, R216); one
that is not taken lets the CC go on and changes no other queue. -/
def Obligations.BranchRedirectsStations : Prop :=
  ∀ (s : State) (q : Queue) (w : FmtC) (k : Ctx) (L : LineState), k = s.ctx .cc q s.sc 0 → L = s.line q.line →
    s.CanIssue .cc q (.ccBr q w) →
    ∃ t, exec (.ccBr q w) s = .next t ∧ IssueFrame s t q.line ∧
      LineFrame
        { (if s.condOf k w = true ∧ (L.target (w.fld 0 8) .vx).isSome = true then L.cutRfld q.task s.sc else L) with cnt := (t.line q.line).cnt }
        (t.line q.line) ∧
      (∀ st t', t' ≠ q.task.val → (t.line q.line).q st t' = L.q st t') ∧
      (s.condOf k w = true →
        (∀ st pc, L.target (w.fld 0 8) st = some pc → (L.q st q.task).ended = false →
          ((t.line q.line).q st q.task).pc = pc ∧ ((t.line q.line).q st q.task).outst = none ∧
          ((t.line q.line).q st q.task).barWait = none ∧
          ((t.line q.line).q st q.task).notBefore = s.sc + (if st = .cc then 1 else 3) ∧
          ∀ e ∈ ((t.line q.line).q st q.task).loops, e.2.first ≤ pc ∧ pc ≤ e.2.target) ∧
        (∀ st, st ≠ .cc → (L.target (w.fld 0 8) st = none ∨ (L.q st q.task).ended = true) →
          (t.line q.line).q st q.task = L.q st q.task)) ∧
      (s.condOf k w = false → OtherQueues L (t.line q.line) .cc q.task ∧ QueueFrame (s.q .cc q) (t.q .cc q))

/-- CC.PREDICT, the resolving CC.BR, SPEC_DEPTH_EXPIRE, DEFERRED_WORD_SEND (R239 to R243): a prediction keeps a checkpoint
and branches; a true condition confirms it; a false one restores the checkpoint (scalar registers, address, stride and
count registers, the words taken from inbound queues, the designation and anchors of MX, and the registers, running
rows, rotary table, summaries and sticky flags of VX that Table 6-13 names), and every station issues the other arm
from the seventh sc; one that stands 257 sc later is SPEC_DEPTH; a deferred word goes out when its sc has come. -/
def Obligations.PredictionsConfirmAndRefute : Prop :=
  (∀ (s : State) (q : Queue) (w : FmtC) (L : LineState), L = s.line q.line → s.CanIssue .cc q (.ccPredict q w) →
    L.fullEntry (w.fld 0 8) = true → L.cc.preds.find q.task = none →
    ∃ t p, exec (.ccPredict q w) s = .next t ∧ IssueFrame s t q.line ∧ (t.line q.line).cc.preds.look q.task default = p ∧
      p.entry = w.fld 0 8 ∧ p.p = s.sc ∧ p.queues = [Station.pt, .ls, .px, .mx, .vx, .cc].map (fun st => L.q st q.task) ∧
      p.mx.active = L.mx.active ∧ p.mx.anchors = L.mx.anchors ∧ p.mx.smax = L.mx.smax ∧ p.flags = [] ∧ p.words = [] ∧
      ∀ st pc, L.target (w.fld 0 8) st = some pc → (L.q st q.task).ended = false →
        ((t.line q.line).q st q.task).pc = pc ∧
        ((t.line q.line).q st q.task).notBefore = s.sc + (if st = .cc then 1 else 3)) ∧
  (∀ (s : State) (q : Queue) (w : FmtC) (k : Ctx) (L : LineState) (p : Pred), k = s.ctx .cc q s.sc 0 →
    L = s.line q.line → s.CanIssue .cc q (.ccBrResolve q w) → L.fullEntry (w.fld 0 8) = true →
    L.cc.preds.rising = true → L.cc.preds.find q.task = some p →
    (s.condOf k w = true → ∃ t, exec (.ccBrResolve q w) s = .next t ∧
      (t.line q.line).cc.preds.find q.task = none ∧ t.mem = s.mem ∧
      (∀ e ∈ (t.line q.line).ls.held, e.2.task = q.task.val → e.2.confirmed = true) ∧
      (∀ st t', ((t.line q.line).q st t') ≠ L.q st t' → st = .cc ∧ t' = q.task.val) ∧
      (p.flags = [] → t.flags = s.flags)) ∧
    (s.condOf k w = false → ∃ t, exec (.ccBrResolve q w) s = .next t ∧
      (t.line q.line).cc.preds.find q.task = none ∧ t.mem = s.mem ∧ t.flags = s.flags ∧
      (t.line q.line).mx.active = p.mx.active ∧ (t.line q.line).mx.anchors = p.mx.anchors ∧
      (t.line q.line).mx.smax = p.mx.smax ∧
      (∀ e ∈ (t.line q.line).ls.held, e.2.task = q.task.val → e.2.confirmed = true) ∧
      (∀ key, key / 64 = q.task.val → p.sregs.rising = true →
        (t.line q.line).cc.sreg.look key [] = p.sregs.look key []) ∧
      (∀ n z, L.cc.iw.find n = some z → (t.line q.line).cc.iw.find n =
        some { z with words := ((p.taken.filter fun e => e.1 == n).map fun e => (e.2, 0)) ++ z.words }) ∧
      (L.vx.copies.rising = true →
        (∀ r old, L.vx.copies.find r = some (q.task.val, old) → ∀ x, ((t.line q.line).vx.vr.look r default).at x = old) ∧
        ∀ r, (∀ old, L.vx.copies.find r ≠ some (q.task.val, old)) → (t.line q.line).vx.vr.look r default = L.vx.vr.look r default) ∧
      (∀ n, n < 4 → (t.line q.line).vx.rr.look n RunRow.noKind =
        if p.vx.rows.getLsbD n then p.vx.rr.look n RunRow.noKind else L.vx.rr.look n RunRow.noKind) ∧
      (t.line q.line).vx.freq = (if p.vx.wroteF then p.vx.freq else L.vx.freq) ∧
      (t.line q.line).vx.sticky.look q.task 0 = p.vx.sticky.look q.task 0 ∧
      (p.vx.summ.rising = true → ∀ key d, key / 8 = q.task.val → (t.line q.line).vx.summ.look key d = p.vx.summ.look key d) ∧
      ∀ st z pc, p.queues[st.code]? = some z → z.ended = false → L.target (w.fld 0 8) st = some pc →
        ((t.line q.line).q st q.task).pc = pc ∧ ((t.line q.line).q st q.task).notBefore = s.sc + 7 ∧
        ((t.line q.line).q st q.task).lc = z.lc ∧ ((t.line q.line).q st q.task).stride = z.stride ∧
        ((t.line q.line).q st q.task).ar = (match z.outst with | some o => (o.post z o.done).ar | none => z.ar))) ∧
  (∀ (s : State) (q : Queue) (p : Pred), s.live = true → s.held = false → s.job.faultSc = none → s.job.faults = [] →
    (s.line q.line).cc.preds.find q.task = some p →
    (p.p + 257 = s.sc → p.deep = false → ∃ t r, exec (.specDepthExpire q) s = .next t ∧ t.job.faults = [r] ∧ r.kind = 0x27 ∧
      r.sc = s.sc ∧ r.unit.line = q.line ∧ r.unit.station = 5 ∧ r.unit.task = q.task) ∧
    (p.p + 257 ≠ s.sc ∨ p.deep = true → exec (.specDepthExpire q) s = .next s)) ∧
  (∀ (s : State) (q : Queue) (d : DefWord) (L : LineState), s.live = true → s.held = false → L = s.line q.line →
    L.cc.sendQ = [d] → d.from_ ≤ s.sc → routeOn (L.cc.routes.look d.route 0) = true → L.cc.injected ≠ s.sc + 1 →
    ∃ t w, exec (.deferredWordSend q) s = .next t ∧ t = { s with lines := t.lines, words := s.words ++ [w] } ∧
      (t.line q.line).cc.sendQ = [] ∧ w.word = d.word ∧ w.route = d.route ∧ w.src = q.line ∧
      w.due = s.sc + wordLat q.line (routeLine (L.cc.routes.look d.route 0)))

/-- CC.SET, CC.CLR, FLAG_CHANGE_EFFECT (R220, R221, R243): a change takes effect in sc c + Ls, 1 for a line flag, 3 for a
bay flag, 4 and 4 more a bridge hop for a module flag; under a prediction it waits; a change that is due gives the
flag its value and leaves every other flag of the home as it was. -/
def Obligations.FlagChanges : Prop :=
  (∀ (s : State) (q : Queue) (w : FmtC) (set : Bool) (i : Instr) (L : LineState) (cls : FlagClass) (home : Nat),
    (i = .ccSet q w ∧ set = true ∨ i = .ccClr q w ∧ set = false) → s.CanIssue .cc q i → L = s.line q.line →
    cls = flagClass w.level.toNat → home = flagHome cls q.line (w.fld 0 10) →
    (L.cc.preds.find q.task = none → ∃ t, exec i s = .next t ∧
      t.flags = { s.flags with chgs := s.flags.chgs ++
        [⟨cls, home, flagIx cls (w.fld 0 10), set, .program,
          s.sc + (match cls with | .line => 1 | .bay => 3 | .module => 4 + 4 * hops (bayOf q.line) home)⟩] } ∧
      IssueFrame { s with flags := t.flags } t q.line ∧
      LineFrame { L with cnt := (t.line q.line).cnt } (t.line q.line) ∧ OtherQueues L (t.line q.line) .cc q.task) ∧
    (∀ p, L.cc.preds.find q.task = some p → p.p < s.sc → p.flags.length < 16 → ∃ t, exec i s = .next t ∧
      t.flags = s.flags ∧
      LineFrame
        { L with
          cc.preds := L.cc.preds.put q.task { p with flags := p.flags ++ [⟨cls, w.fld 0 10, set⟩] }
          cnt := (t.line q.line).cnt } (t.line q.line))) ∧
  (∀ (s : State) (cls : FlagClass) (home : Nat) (c : FlagChg), s.live = true → s.held = false → s.flags.chgs = [c] →
    c.cls = cls → c.home = home → c.eff = s.sc →
    ∃ t, exec (.flagChangeEffect cls home) s = .next t ∧ t.flags.chgs = s.flags.chgs ∧ t.mem = s.mem ∧
      ∀ i, i < (if cls = .line then 64 else 128) →
        (t.flagWord cls home).getLsbD i = if i = c.idx then c.set else (s.flagBase cls home).getLsbD i)

/-- CC.WAIT, CC.WAITC, CC.WAITL (R220, R224 to R229): a wait stops the task's CC queue, and its first probe comes Lp sc
later, or in the sc of its deadline. FLAG_PROBE, DEADLINE_CHECK, WAITL_EXPECTED_END (R220, R224, R225, R228, R229):
the one wait on a flag that is set is released Lr sc after its probe, and a consuming one clears the flag; on a clear
flag it stays; a deadline that will be missed raises GRN_DEADLINE. A deadline wait probes at its deadline and sees the
flag after every change of that sc: set, it is released, and a consuming one clears the flag after those changes;
clear, FLAG_DL is recorded with the flag class. -/
def Obligations.FlagWaitsProbesAndReleases : Prop :=
  (∀ (s : State) (q : Queue) (w : FmtC) (i : Instr) (consume : Bool) (dl long : Option Nat) (k : Ctx) (L : LineState)
    (cls : FlagClass),
    (i = .ccWait q w ∧ consume = false ∧ dl = waitDl w ∧ long = none ∨
      i = .ccWaitc q w ∧ consume = true ∧ dl = waitDl w ∧ long = none ∨
      i = .ccWaitl q w ∧ consume = (w.fld 10 1 == 1) ∧ dl = none ∧ long = some (w.fld 16 16 * 1024)) →
    (dl ≠ none → dlOk q w = true) → s.CanIssue .cc q i → k = s.ctx .cc q s.sc 0 → L = s.line q.line →
    s.predicted k = false → cls = flagClass w.level.toNat →
    ∃ t z, exec i s = .next t ∧ IssueFrame s t q.line ∧
      LineFrame { L with cc.waits := L.cc.waits.put q.task z, cnt := (t.line q.line).cnt } (t.line q.line) ∧
      OtherQueues L (t.line q.line) .cc q.task ∧
      z.cls = cls ∧ z.idx = w.fld 0 10 ∧ z.consume = consume ∧ z.issue = s.sc ∧ z.long = long ∧
      z.lr = (match cls with
        | .line => 1 | .bay => 3 | .module => 4 + 4 * hops (bayOf q.line) (w.fld 0 10 / 128)) ∧
      z.first = s.sc + (match dl with | some d => d | none => z.lr) ∧ z.deadline = dl.map (s.sc + ·) ∧
      ∀ j n, t.mayIssue .cc q j n = false) ∧
  ((∀ (s : State) (cls : FlagClass) (home ix : Nat) (w : Nat × Nat × WaitSt) (L : LineState),
    s.live = true → s.held = false → s.waitsOn cls home ix = [w] → w.2.2.deadline = none → w.2.2.first ≤ s.sc →
    w.2.2.probed ≠ s.sc + 1 → L = s.line w.1 →
    ∃ t, exec (.flagProbe cls home ix) s = .next t ∧ t.mem = s.mem ∧ t.job = s.job ∧ t.time = s.time ∧
      ((s.flagBase cls home).getLsbD ix = true →
        (t.line w.1).cc.waits = L.cc.waits.del w.2.1 ∧
        ((t.line w.1).q .cc w.2.1) = { L.q .cc w.2.1 with notBefore := s.sc + w.2.2.lr } ∧
        t.flags.chgs = s.flags.chgs ++ (if w.2.2.consume then [⟨cls, home, ix, false, .consume, s.sc⟩] else [])) ∧
      ((s.flagBase cls home).getLsbD ix = false →
        (t.line w.1).cc.waits = L.cc.waits.put w.2.1 { w.2.2 with probed := s.sc + 1 } ∧
        (t.line w.1).queues = L.queues ∧ t.flags = s.flags)) ∧
  (∀ (s : State) (cls : FlagClass) (home ix : Nat) (w : Nat × Nat × WaitSt) (L : LineState) (v : Bool),
    s.live = true → s.held = false → s.waitsOn cls home ix = [w] → w.2.2.deadline = some s.sc → w.2.2.first ≤ s.sc →
    w.2.2.probed ≠ s.sc + 1 → L = s.line w.1 → v = (applyChanges (s.flagBase cls home) (s.flags.dueAt cls home s.sc)).getLsbD ix →
    (v = true → ∃ t, exec (.flagProbe cls home ix) s = .next t ∧ t.mem = s.mem ∧ t.job = s.job ∧ t.time = s.time ∧
      (t.line w.1).cc.waits = L.cc.waits.del w.2.1 ∧
      ((t.line w.1).q .cc w.2.1) = { L.q .cc w.2.1 with notBefore := s.sc + w.2.2.lr } ∧
      t.flags.chgs = s.flags.chgs ++ (if w.2.2.consume then [⟨cls, home, ix, false, .late, s.sc⟩] else [])) ∧
    (v = false → s.job.faultSc = none → s.job.faults = [] → ∃ t r, exec (.flagProbe cls home ix) s = .next t ∧ t.job.faults = [r] ∧
      r.kind = 0x2C ∧ r.sc = s.sc ∧ r.detail = clsCode cls ∧ r.unit = waitUnit w ∧ t.flags = s.flags ∧
      (t.line w.1).cc.waits = L.cc.waits.put w.2.1 { w.2.2 with probed := s.sc + 1 } ∧ (t.line w.1).queues = L.queues)) ∧
  (∀ (s : State) (q : Queue) (w : WaitSt) (d : Nat), (s.line q.line).cc.waits.find q.task = some w → w.deadline = some d →
    s.eightBefore d = true → s.hasHold 5 (.wait q.line q.task) = false →
    (∀ c ∈ s.flags.chgs, c.cls ≠ w.cls) →
    exec (.deadlineCheck q) s = .next
      (if (s.flagBase w.cls (flagHome w.cls q.line w.idx)).getLsbD (flagIx w.cls w.idx) then s
        else s.raiseHold 5 (.wait q.line q.task) none)) ∧
  (∀ (s : State) (q : Queue) (w : WaitSt) (n : Nat), (s.line q.line).cc.waits.find q.task = some w → w.long = some n →
    w.lending = true → w.issue + n ≤ s.sc →
    exec (.waitlExpectedEnd q) s =
      .next (s.updLine q.line fun L => { L with cc.waits := L.cc.waits.put q.task { w with lending := false } })))

/-- CC.WSEND, PT.SEND, CC.WRECV, CC.WARM, WORD_ARRIVAL, WORD_NACK (R230 to R234): a word arrives Lw sc after its send and
goes to the tail of an armed queue; a refused one is answered with a NACK, which counts or is WC_NACK; the head word
is readable 2 sc after its receipt. That an arrival's flag change ranks as one of the program is log 50. -/
def Obligations.WordChannels : Prop :=
  (∀ (s : State) (q : Queue) (w : FmtO) (L : LineState) (r : W32), L = s.line q.line → r = L.cc.routes.look (w.fld 0 4) 0 →
    (s.CanIssue .cc q (.ccWsend q w) → L.cc.preds.find q.task = none →
      (routeOn r = false → ∃ t, exec (.ccWsend q w) s = .next t ∧ IssueFrame s t q.line) ∧
      (routeOn r = true → L.cc.injected ≠ s.sc + 1 → ∃ t d, exec (.ccWsend q w) s = .next t ∧ t.words = s.words ++ [d] ∧
        IssueFrame { s with words := t.words } t q.line ∧ d.word = L.sregAt q.task (w.fld 4 6) s.sc ∧ d.src = q.line.val ∧
        d.route = w.fld 0 4 ∧ d.due = s.sc + wordLat q.line (routeLine r)) ∧
      (routeOn r = true → L.cc.injected = s.sc + 1 → s.job.faults.length ≤ 12 →
        ∃ t, exec (.ccWsend q w) s = .next t ∧ t.words = s.words ∧ ∃ f ∈ t.job.faults, f.kind = 0x23)) ∧
    (s.CanIssue .pt q (.ptSend q w) → s.Repeats .pt q → s.predicted (s.ctx .pt q s.sc 0) = false →
      ∀ b, b = s.takeBeat (s.ctx .pt q s.sc 0) w.src.toNat w.toff →
      (routeOn r = true → L.cc.injected ≠ s.sc + 1 → ∃ t d, exec (.ptSend q w) s = .next t ∧ t.words = s.words ++ [d] ∧
        IssueFrame { s with words := t.words } t q.line ∧ d.word = b.2.extractLsb' 0 64 ∧ d.src = q.line.val ∧
        d.route = w.fld 0 4 ∧ d.due = s.sc + wordLat q.line (routeLine r))) ∧
    (s.CanIssue .cc q (.ccWrecv q w) → ∀ z v a rest, z = L.cc.iw.look (w.fld 0 3) default → z.armed = true →
      z.owner = q.task → z.since < s.sc → z.words = (v, a) :: rest → a < s.sc → L.cc.preds.find q.task = none →
      (∀ e ∈ L.cc.sreg.look (srKey q.task (w.fld 3 6)) [], e.1 ≠ 2 * (s.sc + 2) + 1) →
      ∃ t, exec (.ccWrecv q w) s = .next t ∧ IssueFrame s t q.line ∧
        LineFrame { L with cc.iw := L.cc.iw.put (w.fld 0 3) { z with words := rest }, cc.sreg := (t.line q.line).cc.sreg
                           cnt := (t.line q.line).cnt } (t.line q.line) ∧
        OtherScalars L (t.line q.line) q.task (w.fld 3 6) ∧ (t.line q.line).sregAt q.task (w.fld 3 6) (s.sc + 2) = v) ∧
    (s.CanIssue .cc q (.ccWarm q w) → L.cc.preds.find q.task = none → ∀ z, z = L.cc.iw.look (w.fld 0 3) default →
      (w.fld 3 1 = 0 → ∃ t, exec (.ccWarm q w) s = .next t ∧ IssueFrame s t q.line ∧
        LineFrame { L with cc.iw := L.cc.iw.put (w.fld 0 3) { z with armed := false, words := [] }
                           cnt := (t.line q.line).cnt } (t.line q.line)) ∧
      (w.fld 3 1 = 1 → z.armed = false → ∃ t, exec (.ccWarm q w) s = .next t ∧ IssueFrame s t q.line ∧
        LineFrame { L with cc.iw := L.cc.iw.put (w.fld 0 3) ⟨true, q.task, s.sc, []⟩
                           cnt := (t.line q.line).cnt } (t.line q.line)))) ∧
  (∀ (s : State) (l : LineId) (w : WordFly) (r : W32), s.live = true → s.held = false → s.words = [w] → w.due ≤ s.sc →
    r = (s.line w.src).cc.routes.look w.route 0 → routeLine r = l →
    ∃ t, exec (.wordArrival l) s = .next t ∧ t.words = [] ∧ t.mem = s.mem ∧
      ((s.line l).refusal (routeIw r) w.due (s.bay (bayOf l)).inReset = none →
        ((t.line l).cc.iw.look (routeIw r) default).words =
          ((s.line l).cc.iw.look (routeIw r) default).words ++ [(w.word, w.due)] ∧ t.nacks = s.nacks ∧
        t.flags.chgs = s.flags.chgs ++
          (match routeSig r with | some f => [⟨.line, l, f, true, .program, w.due⟩] | none => [])) ∧
      (∀ reason, (s.line l).refusal (routeIw r) w.due (s.bay (bayOf l)).inReset = some reason →
        t.lines = s.lines ∧ t.flags = s.flags ∧ ∃ n, t.nacks = s.nacks ++ [n] ∧ n.src = w.src ∧ n.route = w.route ∧
          n.reason = reason ∧ n.due = w.sent + 2 * (w.due - w.sent))) ∧
  (∀ (s : State) (l : LineId) (n : NackFly) (r : W32), s.live = true → s.held = false → s.nacks = [n] → n.due ≤ s.sc →
    n.src = l → r = (s.line l).cc.routes.look n.route 0 →
    ∃ t, exec (.wordNack l) s = .next t ∧ t.nacks = [] ∧
      (routeOnNack r = true → t.job = s.job ∧ (t.line l).cc.lastRsn.look n.route 0 = n.reason ∧
        (t.line l).cc.nackCnt.look n.route 0 = min ((s.line l).cc.nackCnt.look n.route 0 + 1) 0xFFFF) ∧
      (routeOnNack r = false → s.job.faultSc = none → s.job.faults = [] →
        ∃ f, t.job.faults = [f] ∧ f.kind = 0x22 ∧ f.sc = n.due ∧ f.detail = n.route * 4 + n.reason))

/-- PT.GMV (R302, R303): every descriptor of the beat that is not empty and breaks no rule of Table 9-6 enters the move
queue 16 sc later; one that breaks a rule records GR_DESC with its code, and GR_ERR_DESC keeps the first code.
MOVE_DESCRIPTOR_ENTRY, MOVE_ENTRY_FREE, GRANARY_CHUNK, MOVE_COMPLETE, GRANARY_SCRUB (R301, R304, R305, Table 9-9): a
descriptor enters a queue of 64 entries; an entry past its DL leaves when its move has completed; a chunk of 4,096
bytes at most of the queued move of the lowest DL begins, the earliest of equal ones, and within the granary is
copied; a whole move completes and its flag is set; a scrub counts what it finds. The model's choices: one chunk is in
progress at a time (log entry 37), one within the granary moves whole in its command (74), a flag takes effect at the
sc of the next unheld cc (28). -/
def Obligations.GranaryMoves : Prop :=
  (∀ (s : State) (q : Queue) (w : FmtM) (k : Ctx) (d : State × BeatData) (m : Nat → Move × Bool),
    k = s.ctx .pt q s.sc 0 → s.Repeats .pt q → s.CanIssue .pt q (.ptGmv q w) → s.predicted k = false →
    d = s.takeBeat k w.data.toNat w.toff → (∀ i, m i = descriptor d.2 i (s.sc + 16)) →
    ((∀ i, i < 4 → (m i).1.flagEn = false ∧ (m i).1.len = 0 ∨ s.descCode (m i).1 (m i).2 = none) →
      ∃ t, exec (.ptGmv q w) s = .next t ∧ IssueFrame { s with gr := t.gr } t q.line ∧
        LineFrame { d.1.line q.line with ptUsed := (t.line q.line).ptUsed, ptUsedAt := s.sc + 1 } (t.line q.line) ∧
        (t.line q.line).ptUsed.getLsbD 0 = true ∧
        t.gr = { s.gr with
          fly := s.gr.fly ++ ((List.range 4).filter fun i => (m i).1.flagEn || (m i).1.len ≠ 0).map fun i =>
            ⟨s.sc + 16, q.line, q.task, k.pc, i, (m i).1⟩ }) ∧
    (∀ i c, i < 4 → ((m i).1.flagEn = true ∨ (m i).1.len ≠ 0) → s.descCode (m i).1 (m i).2 = some c →
      s.job.faults.length ≤ 8 → ∃ t, exec (.ptGmv q w) s = .next t ∧ t.gr.err.isSome = true ∧
        (s.gr.err.isSome = true → t.gr.err = s.gr.err) ∧ t.mem = s.mem ∧
        ∃ r ∈ t.job.faults, r.kind = 0x3F ∧ r.detail = c ∧ r.aux = i ∧ r.sc = s.sc)) ∧
  ((∀ (s : State) (f : MoveFly), s.live = true → s.held = false → s.gr.fly = [f] → f.due = s.sc →
    (∀ m ∈ s.gr.queue, m.held s.sc = true) →
    (s.gr.queue.length < 64 → exec .moveDescriptorEntry s =
      .next { s with gr.fly := [], gr.queue := s.gr.queue ++ [f.move] }) ∧
    (64 ≤ s.gr.queue.length → s.job.faultSc = none → s.job.faults = [] → ∃ t r, exec .moveDescriptorEntry s = .next t ∧
      t.gr = { s.gr with fly := [] } ∧ t.job.faults = [r] ∧ r.kind = 0x40 ∧ r.sc = s.sc ∧ r.aux = f.ix)) ∧
  (∀ s : State, ∃ t, exec .moveEntryFree s = .next t ∧ t = { s with gr.queue := t.gr.queue } ∧
    ∀ m, m ∈ t.gr.queue ↔ m ∈ s.gr.queue ∧ (s.sc ≤ m.dl ∨ m.ended = false)) ∧
  (∀ (s : State) (m x : Move) (pre post : List Move) (f : BurstFinding), s.gr.cur = none → s.gr.abandoned = false →
    s.gr.queue = pre ++ m :: post → m.moved < m.len → x = { m with begun := true } →
    (∀ y ∈ pre, y.moved < y.len → m.dl < y.dl) → (∀ y ∈ post, y.moved < y.len → m.dl ≤ y.dl) →
    (inGranary m.src = false ∨ inGranary m.dst = false) →
    exec (.granaryChunk f) s =
      .next { s with gr := { s.gr with queue := pre ++ x :: post, cur := some ⟨x, min 4096 (m.len - m.moved), 0, f⟩ } }) ∧
  (∀ (s : State) (m : Move) (p d : Nat), s.MemCanon → s.gr.cur = none → s.gr.abandoned = false → s.gr.queue = [m] → m.moved + 4096 ≤ m.len →
    inGranary m.src = true → inGranary m.dst = true →
    (∀ e ∈ s.marks, e.2 = false) → (∀ i, i < 4096 → s.phys (m.src + m.moved + i) = some (p + i) ∧ s.phys (m.dst + m.moved + i) = some (d + i)) →
    ∃ t, exec (.granaryChunk .clean) s = .next t ∧ t.gr.queue = [{ m with begun := true, moved := m.moved + 4096 }] ∧
      (∀ i, i < 4096 → t.byte (d + i) = s.byte (p + i)) ∧
      (∀ a, a < d ∨ d + 4096 ≤ a → t.byte a = s.byte a) ∧
      t.gr.cur = none ∧ t = { s with mem := t.mem, undef := t.undef, marks := t.marks, fixes := t.fixes, gr := t.gr }) ∧
  (∀ (s : State) (m : Move), s.gr.queue = [m] → m.moved = m.len → m.ended = false →
    ∃ t, exec .moveComplete s = .next t ∧ t.gr.queue = [{ m with ended := true }] ∧ t.mem = s.mem ∧
      (m.flagEn = false → t.flags = s.flags ∧ t.time = s.time) ∧
      (m.flagEn = true → s.live = false →
        (t.flags.mf.look (m.fidx / 128) 0).getLsbD (m.fidx % 128) = true) ∧
      (m.flagEn = true → s.live = true →
        ∃ c ∈ t.flags.chgs, c.cls = .module ∧ c.home = m.fidx / 128 ∧ c.idx = m.fidx % 128 ∧ c.set = true ∧
          c.eff = s.nextSc)) ∧
  (∀ (s : State) (c : Fin 8) (f : BurstFinding) (a : Nat), s.gr.queue = [] → s.gr.cur = none →
    s.gr.unmap c (s.gr.scrub.look c.val 0) = some a → ∃ t, exec (.granaryScrub c f) s = .next t ∧
      t.gr.scrub.look c.val 0 =
        (if s.gr.scrub.look c.val 0 + 64 < capBytes (s.gr.dimms.look c.val default).cap then s.gr.scrub.look c.val 0 + 64
         else 0) ∧
      t.mem = s.mem ∧ t.undef = s.undef ∧ (∀ b, f = .uncorrectable b → t.rcv.alert.getLsbD 3 = true) ∧
      t.lines = s.lines ∧ t.job = s.job))

/-- CC.ELB ADD, READ and READV (R235 to R237, R56): each meets the table 24 sc after its issue; a READV counts in the NDC;
under a prediction the instruction is SPEC_PATH with detail 5. EXPERT_LOAD_REPORT_SEND and EXPERT_LOAD_REPORT (R236):
an exporting module sends once in every 65,536th cc of its job, and at no other time; a received report writes its
entries of the view with its sender's coordinate and nothing else. -/
def Obligations.ExpertLoadTable : Prop :=
  (∀ (s : State) (q : Queue) (w : FmtO) (k : Ctx) (i : Instr) (op : Nat), k = s.ctx .cc q s.sc 0 →
    (i = .ccElbAdd q w ∧ op = 0 ∨ i = .ccElbRead q w ∧ op = 1 ∨ i = .ccElbReadv q w ∧ op = 2) →
    s.CanIssue .cc q i → s.dynOn 1 = true →
    (s.predicted k = false → ∃ t, exec i s = .next t ∧
      IssueFrame { s with elb := t.elb, time := { s.time with cnt := { s.time.cnt with ndcE := t.time.cnt.ndcE } } } t q.line ∧
      LineFrame { s.line q.line with cnt := (t.line q.line).cnt } (t.line q.line) ∧
      t.elb = { s.elb with
        ops := s.elb.ops ++ [{ op := op, line := q.line, task := q.task, sd := w.fld 0 6, entry := w.fld 12 8
                               add := (s.scalar k (w.fld 6 6)).setWidth 32, eff := s.sc + 24 }] } ∧
      t.time.cnt.ndcE = if op = 2 then sat32 (s.time.cnt.ndcE + 1) else s.time.cnt.ndcE) ∧
    (s.predicted k = true → s.job.faults.length ≤ 12 → ∃ t, exec i s = .next t ∧ t.elb = s.elb ∧
      ∃ r ∈ t.job.faults, r.kind = 0x28 ∧ r.detail = 5 ∧ r.sc = s.sc)) ∧
  ((∀ s : State, (s.time.running = false ∨ s.time.cnt.cc % 65536 ≠ 0 ∨ s.dynOn 1 = false ∨
      (∀ i, s.job.img = some i → i.elbExp = false) ∨ s.elb.sentAt = some s.time.cnt.cc) → exec .expertLoadReportSend s = .next s) ∧
  (∀ (s : State) (i : ImageInfo) (d : BitVec 15), s.live = true → s.time.cnt.cc % 65536 = 0 →
    s.elb.sentAt ≠ some s.time.cnt.cc →
    s.job.img = some i → i.dyn.getLsbD 1 = true → i.elbExp = true → i.elbLo ≤ i.elbHi → i.elbHi < i.elbLo + 64 →
    s.fab.mcast.look i.elbGrp [] = [d] → d ≠ s.coord →
    ∃ t, exec .expertLoadReportSend s = .next t ∧ t = { s with fab := t.fab, elb.sentAt := some s.time.cnt.cc } ∧
      t.fab.cnt.dyn = wrap64 (s.fab.cnt.dyn + 1)) ∧
  (∀ (s : State) (coord : BitVec 15) (first : Fin 256) (es : List W32), es.length ≤ 64 →
    ∃ t, exec (.expertLoadReport coord first es) s = .next t ∧ t = { s with elb.view := t.elb.view } ∧
      ∀ n, t.elb.view.look n default =
        if first.val ≤ n ∧ n < first.val + es.length ∧ n < 256 then ⟨es.getD (n - first.val) 0, coord, true⟩
        else s.elb.view.look n default))

/-- HOLD_REQUEST_EXPIRE and HOLD_TIMEOUT (R40, R45): a request whose length is over is withdrawn and no other one; a hold
longer than the limit in force is HOLD_TIMEOUT with the causes in AUX, once, and a shorter one does nothing; the
record has the sc of the first unheld cc (log entry 13, the model's choice). -/
def Obligations.HoldsExpireAndTimeOut : Prop :=
  (∀ s : State, ∃ t, exec .holdRequestExpire s = .next t ∧ t = { s with time.reqs := t.time.reqs } ∧ t.causes = s.causes ∧
    ∀ r, r ∈ t.time.reqs ↔ r ∈ s.time.reqs ∧ ∀ e, r.until_ = some e → s.time.now ≤ e) ∧
  (∀ s : State, s.time.limHold < s.time.limitLoad.toNat ∨ s.time.ctrlLoad.getLsbD 16 = false ∨ s.live = false ∨ s.held = false ∨
      s.job.holdOut = true → exec .holdTimeout s = .next s) ∧
  (∀ s : State, s.live = true → s.held = true → s.hasHold 9 .snapshot = false → s.time.ctrlLoad.getLsbD 16 = true →
    s.time.limitLoad.toNat ≤ s.time.limHold → s.job.holdOut = false → s.job.faultSc = none → s.job.faults = [] →
    ∃ t r, exec .holdTimeout s = .next t ∧ t = { s with job := t.job } ∧ t.job.holdOut = true ∧ t.job.faults = [r] ∧ r.kind = 8 ∧ r.aux = s.causes.toNat ∧ r.sc = s.nextSc ∧ t.job.faultSc = some s.nextSc)

/-- CC.HARVEST (R60 to R62, R65): on the harvest line an unconditional one, or one that finds HRV armed before its cc with
REQ_SC reached, plans the boundary between sc h + 8 and h + 9 with the requests pending before its cc; elsewhere, and
when it is not armed, it only issues. -/
def Obligations.HarvestInstruction : Prop :=
  ∀ (s : State) (q : Queue) (w : FmtC) (k : Ctx) (i : ImageInfo), k = s.ctx .cc q s.sc 0 → s.job.img = some i →
    s.CanIssue .cc q (.ccHarvest q w) → s.predicted k = false →
    (i.hline = some q.line.val → w.fld 0 1 = 0 → ∃ t, exec (.ccHarvest q w) s = .next t ∧
      t.hrv.bounds = s.hrv.bounds ++ [⟨s.sc, s.time.now, s.hrv.pendWas, false, false, false⟩] ∧ t.hrv.armed = s.hrv.armed ∧
      IssueFrame { s with hrv.bounds := t.hrv.bounds } t q.line) ∧
    (i.hline = some q.line.val → w.fld 0 1 = 1 → s.hrv.armedWas = true → s.hrv.reqSc.toNat ≤ s.sc →
      ∃ t, exec (.ccHarvest q w) s = .next t ∧
        t.hrv.bounds = s.hrv.bounds ++ [⟨s.sc, s.time.now, s.hrv.pendWas, false, false, true⟩] ∧ t.hrv.armed = false ∧
        IssueFrame { s with hrv := { s.hrv with bounds := t.hrv.bounds, armed := false } } t q.line) ∧
    (i.hline ≠ some q.line.val ∨ w.fld 0 1 = 1 ∧ (s.hrv.armedWas = false ∨ s.sc < s.hrv.reqSc.toNat) →
      ∃ t, exec (.ccHarvest q w) s = .next t ∧ IssueFrame s t q.line)

/-- R62: an ARM in the cc of an on-request CC.HARVEST of the harvest line, before it or behind it in the queue of
commands, leaves no boundary of that CC.HARVEST and leaves ARMED set; with a DISARM in its place the CC.HARVEST takes
effect when ARMED was 1 in the cc before and REQ_SC is reached, and ARMED ends clear. R67: a boundary while UNREAD is
1 overwrites the bank, and HRV_LOST increments (Table 2-11: it saturates). -/
def Obligations.HarvestRequestsAndLostBanks : Prop :=
  (∀ (s : State) (who : Requester) (q : Queue) (w : FmtC) (i : ImageInfo),
    s.OwnerReaches who 0x10020 → s.job.img = some i → i.hline = some q.line.val → w.fld 0 1 = 1 →
    s.CanIssue .cc q (.ccHarvest q w) → s.predicted (s.ctx .cc q s.sc 0) = false →
    (∃ a t, exec (.hrvArm who) s = .next a ∧ exec (.ccHarvest q w) a = .next t ∧ t.hrv.armed = true ∧
      t.hrv.bounds = s.hrv.bounds.filter fun b => !b.onReq || b.at_ != s.time.now) ∧
    (∃ a t, exec (.ccHarvest q w) s = .next a ∧ exec (.hrvArm who) a = .next t ∧ t.hrv.armed = true ∧
      t.hrv.bounds = s.hrv.bounds.filter fun b => !b.onReq || b.at_ != s.time.now) ∧
    (s.hrv.armedWas = true → s.hrv.reqSc.toNat ≤ s.sc →
      (∃ a t, exec (.hrvDisarm who) s = .next a ∧ exec (.ccHarvest q w) a = .next t ∧ t.hrv.armed = false ∧
        t.hrv.bounds = s.hrv.bounds ++ [⟨s.sc, s.time.now, s.hrv.pendWas, false, false, true⟩]) ∧
      (∃ a t, exec (.ccHarvest q w) s = .next a ∧ exec (.hrvDisarm who) a = .next t ∧ t.hrv.armed = false ∧
        t.hrv.bounds = s.hrv.bounds ++ [⟨s.sc, s.time.now, s.hrv.pendWas, false, false, true⟩]))) ∧
  (∀ (s : State) (b : Boundary), s.dueBoundary = some b → s.hrv.unread = true →
    ∃ t, exec .harvestBoundary s = .next t ∧ t.hrv.bank = { s.time.cnt with scc := b.h + 8, cc := s.time.cnt.cc - 1 } ∧
      t.hrv.lost = min (s.hrv.lost + 1) 0xFFFFFFFF ∧ t.hrv.unread = true)

/-- HARVEST_BOUNDARY (R63 to R68, Table 2-7): the boundary of sc h comes in the sc h + 9: the counters latch and restart,
those of gleaners at its end (R271), HRV_SEQ counts, an unread earlier one is lost; without pending actions the
boundary is over in the same cc, with its event when HRV_CTRL.IRQ_EN is 1 (R68). When none is due the command does
nothing. HARVEST, and SNAPSHOT when one joined, is raised 8 cc before the cc of sc h + 9, when steps 3 to 5 or 7 have
something to do (R64; State.raiseBoundaries, which each cc of a running job calls). The model's choices: a step is
pending when it has something to do (log 67), and nothing is raised while another cause is active (log 89).
HARVEST_ACTIONS_COMPLETE (R63, R64, R416 to R418, R444, Table 2-7): steps 3 to 6 are done and HARVEST is withdrawn: a
requested disable that joined takes effect, and is waited for while work of its function is in flight (R437); rows
queued before take their spares with the loader's copy (R273); power groups change, and their rows read zeros (R266);
codes that were entered before come into force, new codes are entered for the next boundary, and shares follow the
segment's highest windows. A requested snapshot begins its capture and keeps SNAPSHOT raised, else the boundary is
over, with its event. Nothing happens while no boundary is open, or after a fault (R66). The model's choices: a code
is chosen as the actions of a boundary begin, from the margins up to then, and is in force from the next boundary that
joins VOLT (log 31); the quotients of R418 are rounded down (log 57). -/
def Obligations.HarvestBoundaryAndItsActions : Prop :=
  ((∀ s : State, s.dueBoundary = none → exec .harvestBoundary s = .next s) ∧
  (∀ (s : State) (b : Boundary), s.live = true → s.hrv.bounds = [b] → b.h + 9 = s.sc → b.latched = false →
    ∃ t, exec .harvestBoundary s = .next t ∧ t.hrv.seq = (s.hrv.seq + 1) % 2 ^ 32 ∧ t.hrv.unread = true ∧
      t.hrv.lost = (if s.hrv.unread then sat32 (s.hrv.lost + 1) else s.hrv.lost) ∧ t.hrv.lastSc = b.h + 8 ∧
      t.hrv.bank.scc = b.h + 8 ∧ t.hrv.bank.holdCc = s.time.cnt.holdCc ∧ t.hrv.bank.ndc = s.time.cnt.ndc ∧
      t.time.cnt.holdCc = 0 ∧ t.time.cnt.holdMax = 0 ∧ t.time.cnt.ndc = s.time.cnt.ndc ∧ t.sc = s.sc ∧
      ∀ on, on = (b.raised || s.needsHold b) →
      (on = true ∨ b.joined = 0 → ∀ l n, (s.line l).cnt.rising = true →
        (t.line l).cntL.look n 0 =
          (if gleanerLine.contains n && on then (s.line l).cntL.look n 0 else (s.line l).cnt.look n 0) ∧
        (t.line l).cnt.look n 0 = (if gleanerLine.contains n && on then (s.line l).cnt.look n 0 else 0)) ∧
      (on = true → t.hrv.active = true ∧ t.hrv.bounds = [{ b with latched := true }] ∧ t.host = s.host) ∧
      (on = false → t.hrv.active = false ∧ t.hrv.bounds = [] ∧ (b.joined = 0 → t.rcv = s.rcv ∧ t.mem = s.mem) ∧
        (s.hrv.ctrl.getLsbD 0 = false → t.host = s.host) ∧
        ∀ (p : HostId) (q : Nat), s.hrv.ctrl.getLsbD 0 = true → s.host.owner = p.val → (s.hp p).evtCfg.getLsbD 4 = true →
          q = ((s.hp p).evtCfg.extractLsb' 0 4).toNat → (s.cq p q).en = true →
          (none, mkEvent 0xE0 0 0 (b.h + 8) ((s.hrv.seq + 1) % 2 ^ 32)) ∈ (t.cq p q).wait)) ∧
  (∀ (s : State) (b : Boundary), s.hrv.bounds = [b] → b.raised = false →
    (s.causes ≠ 0 ∨ s.live = false ∨ s.scIn 8 ≠ b.h + 9 ∨ b.latched = false ∧ s.needsHold b = false → s.raiseBoundaries = s) ∧
    (s.causes = 0 → s.live = true → s.scIn 8 = b.h + 9 → b.latched = true ∨ s.needsHold b = true →
      s.raiseBoundaries.hasHold 8 .harvest = true ∧ s.raiseBoundaries.hrv.bounds = [{ b with raised := true }] ∧
      (s.raiseBoundaries.hasHold 9 .snapshot = true ↔ b.joined.getLsbD 4 = true) ∧
      s.raiseBoundaries.time.cnt.hcEv.look 8 0 = sat32 (s.time.cnt.hcEv.look 8 0 + 1)))) ∧
  ((∀ s : State, (∀ b ∈ s.hrv.bounds, b.latched = false) ∨ s.hasHold 8 .harvest = false ∨ s.job.faultSc.isSome = true →
    exec .harvestActionsComplete s = .next s) ∧
  (∀ (s : State) (b : Boundary), s.hrv.bounds = [b] → b.latched = true → s.hasHold 8 .harvest = true → s.job.faultSc = none →
    b.joined.getLsbD 1 = true → (∃ f ∈ s.disablesAt b.at_, s.idleFunc f = false) → exec .harvestActionsComplete s = .next s) ∧
  (∀ (s : State) (b : Boundary) (ds : List Func), s.hrv.bounds = [b] → b.latched = true → s.hasHold 8 .harvest = true →
    s.job.faultSc = none → s.MemCanon → ds = (if b.joined.getLsbD 1 then s.disablesAt b.at_ else []) →
    (ds = [] ∨ ∃ f, ds = [f] ∧ s.idleFunc f = true) →
    ∃ t, exec .harvestActionsComplete s = .next t ∧ t.hasHold 8 .harvest = false ∧
      (∀ f, ds = [f] → t.isDisabled f = true ∧ t.disWaits f = false ∧ t.rcv.alert.getLsbD 11 = true) ∧
      (ds = [] → ∀ f, t.isDisabled f = s.isDisabled f) ∧
      (∀ l L st row c k, b.joined.getLsbD 2 = true → s.lines = [(l, L)] → L.ls.mapQueue = [(st, row, c)] → c < b.at_ →
        freeSpare (L.ls.isMap.look st 0) = some k → (t.line l).ls.mapQueue = [] ∧ t.hrv.pend.getLsbD 2 = false ∧
        (t.line l).ls.isMap.look st 0 = L.ls.isMap.look st 0 ||| BitVec.ofNat 64 ((row + 64) * 2 ^ (8 * k)) ∧
        (∀ w ∈ (t.line l).isBad, w / 4096 ≠ st ∨ w % 4096 / 64 ≠ row) ∧
        ∀ ws i, ds = [] → s.copyRow l st row = some ws → i < 64 → (t.line l).istore.look (st * 4096 + row * 64 + i) 0 = ws.getD i 0) ∧
      (∀ l L, b.joined.getLsbD 3 = true → s.lines = [(l, L)] → L.ls.pgReqValid = true → L.ls.pgReqSc < b.h →
        (t.line l).ls.pgOn = L.ls.pgReq ∧ (t.line l).ls.pgReqValid = false ∧ t.hrv.pend.getLsbD 3 = false ∧
        (∀ g a, g < 4 → a < 98304 → L.ls.pgOn.getLsbD g ≠ L.ls.pgReq.getLsbD g → t.byte (lsPhys l (g * 98304 + a)) = 0) ∧
        ∀ a, a < lsPhys l 0 ∨ lsPhys l 0x60000 ≤ a → t.byte a = s.byte a) ∧
      (∀ k, k < 8 → ∀ p, p = s.bayPwr k →
        (t.bayPwr k).code = (if b.joined.getLsbD 0 ∧ p.pend = true ∧ p.since < b.at_ then p.next else p.code) ∧
        (t.bayPwr k).next = s.chosenCode p ∧ ((t.bayPwr k).pend = true ↔ (t.bayPwr k).next ≠ (t.bayPwr k).code) ∧
        ((t.bayPwr k).pend = true → t.hrv.pend.getLsbD 0 = true) ∧ (t.bayPwr k).peak = 0 ∧
        (p.seen = true → p.margin < 20 → p.code = 72 → t.pwr.alert.getLsbD 5 = true) ∧
        ∀ total vcore, total = ((List.range 8).map fun i => (s.bayPwr i).peak).sum →
          vcore = ((List.range 8).map fun i => 5000 + 25 * (t.bayPwr i).code).sum / 8 →
          (t.bayPwr k).share = if total = 0 ∨ s.mod.mgmt = false then p.share
            else min 3200 ((classLimit s.pwr.cls * 100000 - s.pwr.pncPeak) / vcore * p.peak / total)) ∧
      (b.joined.getLsbD 4 = false → t.hrv.bounds = [] ∧ t.hrv.active = false ∧
        ∀ (p : HostId) (q : Nat), s.hrv.ctrl.getLsbD 0 = true → s.host.owner = p.val → (s.hp p).evtCfg.getLsbD 4 = true →
          q = ((s.hp p).evtCfg.extractLsb' 0 4).toNat → (s.cq p q).en = true →
          (none, mkEvent 0xE0 0 0 s.hrv.lastSc s.hrv.seq) ∈ (t.cq p q).wait)) ∧
  (∀ (s : State) (b : Boundary), s.hrv.bounds = [b] → b.latched = true → s.hasHold 8 .harvest = true →
    s.job.faultSc = none → b.joined = 0 → ∃ t, exec .harvestActionsComplete s = .next t ∧ t.hrv.bounds = [] ∧ t.hrv.active = false ∧
      t.hasHold 8 .harvest = false ∧ t.lines = s.lines.map (fun e => (e.1, e.2.latch true)) ∧ t.mem = s.mem ∧ t.rcv = s.rcv) ∧
  (∀ (s : State) (b : Boundary) (j : SnapJob), s.hrv.bounds = [b] → b.latched = true → s.hasHold 8 .harvest = true →
    s.job.faultSc = none → b.joined = 16 → s.rcv.snap = some j → ∃ t, exec .harvestActionsComplete s = .next t ∧ t.hrv.bounds = [b] ∧
      t.hasHold 8 .harvest = false ∧ t.hasHold 9 .snapshot = s.hasHold 9 .snapshot ∧ t.mem = s.mem ∧
      ∃ j', t.rcv.snap = some j' ∧ j'.phase = 1 ∧ j'.sc = b.h + 8 ∧ j'.buddy = j.buddy ∧
        (j.slot = 1 → j'.wslot = 0) ∧ (j.slot = 2 → j'.wslot = 1) ∧
        (j.slot = 0 → j'.wslot = if s.rcv.scan.latest = 1 then 1 else 0)))

/-- SNAPSHOT_CAPTURE_DONE, SNAPSHOT_WRITE_DONE, SNAPSHOT_COMMIT_DONE (R444 to R447): the phases follow one another, each
from the one before it alone; the capture waits for every move and for the packets that are on their way, which only
its operand can tell (log entry 88, the model's choice); the commit ends the snapshot and withdraws SNAPSHOT, and a
snapshot that has been requested meanwhile is then the pending one. REPLICATION_DONE, REPLICATION_TIMEOUT, SLOT_SCAN,
MANAGEMENT_MESSAGE (R448, R449): a replication ends well or sets BUDDY_FAIL with its alert; a scan, which bring-up
makes once every fitted channel is ready (Table 14-1), finds the slots' states from their commit records, whose reads
count at their channels (an uncorrectable burst in a record leaves its bytes undefined, R301); a buddy slot is sent to
the module that asks only when it holds a COMMITTED replica of that module (R451); a buddy's first message makes the
slot that does not hold the latest replica INCOMPLETE and changes no other byte. How the messages name a slot's base
and what they carry is the model's choice (log entry 29). -/
def Obligations.SnapshotsAndReplicas : Prop :=
  ((∀ (s : State) (here : Bool), (∀ j, s.rcv.snap = some j → j.phase ≠ 1 ∨ s.movesDone = false ∨ here = false ∨ s.packetsHere = false) ∨
    s.job.faultSc.isSome = true → exec (.snapshotCaptureDone here) s = .next s) ∧
  (∀ (s : State) (j : SnapJob), s.rcv.snap = some j → j.phase = 1 → s.movesDone = true → s.packetsHere = true → s.job.faultSc = none →
    (∀ m ∈ s.marks, m.2 = false) → ∃ t, exec (.snapshotCaptureDone true) s = .next t ∧ t.rcv.snap = some { j with phase := 2, pos := 0 } ∧
      (∃ d, (d, s.captureReads.captureNow j.sc) ∈ t.rcv.caps) ∧ t.time = s.time ∧ t.hrv = s.hrv ∧
      t.lines = s.captureReads.lines ∧ (s.marks = [] → t.lines = s.lines)) ∧
  (∀ (s : State) (fs : List (BitVec 42 × Bool)), (∀ j, s.rcv.snap = some j → j.phase ≠ 2) ∨ s.job.faultSc.isSome = true →
    exec (.snapshotWriteDone fs) s = .next s) ∧
  (∀ (s : State) (j : SnapJob) (fs : List (BitVec 42 × Bool)), s.rcv.snap = some j → j.phase = 2 → s.job.faultSc = none → s.marks = [] →
    ∃ t, exec (.snapshotWriteDone fs) s = .next t ∧
    t.rcv.snap = some { j with phase := 3 } ∧ t.rcv.prog = s.contentLen / mib ∧ t.time = s.time ∧ t.hrv = s.hrv ∧
    t.lines = s.lines) ∧
  (∀ s : State, (∀ j, s.rcv.snap = some j → j.phase ≠ 3) ∨ s.job.faultSc.isSome = true → exec .snapshotCommitDone s = .next s) ∧
  (∀ (s : State) (j : SnapJob), s.rcv.snap = some j → j.phase = 3 → s.job.faultSc = none → ∃ t, exec .snapshotCommitDone s = .next t ∧
    t.rcv.snap = s.rcv.snapNext ∧ t.rcv.snapNext = none ∧ t.hasHold 9 .snapshot = false ∧ t.host.snapRec = s.host.snapNext ∧
    t.host.snapNext = none ∧ t.rcv.repl = j.buddy ∧
    (∀ b, s.hrv.bounds = [b] → b.latched = true → t.hrv.bounds = []) ∧ t.lines = s.lines ∧
    t.job = s.job)) ∧
  ((∀ s : State, s.rcv.repl = none → exec .replicationDone s = .next s ∧ exec .replicationTimeout s = .next s) ∧
  (∀ (s : State) (b : BitVec 15), s.rcv.repl = some b →
    (∃ t, exec .replicationDone s = .next t ∧ t.rcv.repl = none ∧ t.rcv.replDone = true ∧ t.rcv.buddyFail = s.rcv.buddyFail ∧
      t.rcv.prog = s.rcv.prog ∧ (∀ z, z ∈ t.rcv.sends ↔ z ∈ s.rcv.sends ∧ 2 ≤ z.slot) ∧
      ((∀ m ∈ s.marks, m.2 = false) → t.rcv.scan.a = recState (s.slotRecord 0)) ∧
      t = { s with rcv := t.rcv, gr := t.gr, undef := t.undef, freeIx := t.freeIx }) ∧
    ∃ t, exec .replicationTimeout s = .next t ∧ t.rcv.repl = none ∧ t.rcv.buddyFail = true ∧
      t.rcv.alert.getLsbD 8 = true ∧ t = { s with rcv := t.rcv, gr := t.gr, undef := t.undef, freeIx := t.freeIx }) ∧
  (∀ s : State, s.scanReady = false → exec .slotScan s = .next s) ∧
  (∀ s : State, s.scanReady = true → ∃ t, exec .slotScan s = .next t ∧ t = { s with rcv := t.rcv, gr := t.gr, undef := t.undef, freeIx := t.freeIx } ∧
    ((∀ m ∈ s.marks, m.2 = false) → t = { s with rcv := t.rcv, gr.pairs := t.gr.pairs } ∧
    t.rcv.scan.a = recState (s.slotRecord 0) ∧ t.rcv.scan.b = recState (s.slotRecord 1) ∧
    t.rcv.scan.b0 = recState (s.slotRecord 2) ∧ t.rcv.scan.b1 = recState (s.slotRecord 3) ∧
    (t.rcv.scan.latest = 1 ↔ recState (s.slotRecord 0) = 2 ∧ (recState (s.slotRecord 1) = 2 →
      recField (s.slotRecord 1) 24 8 ≤ recField (s.slotRecord 0) 24 8)) ∧
    ((∃ k, k < 4 ∧ recState (s.slotRecord k) = 1) → t.rcv.alert.getLsbD 7 = true) ∧
    ((∀ k, k < 4 → recState (s.slotRecord k) ≠ 1) → t.rcv.alert = s.rcv.alert))) ∧
  (∀ (s : State) (src : BitVec 15) (r : List Byte),
    (s.rcv.slotsz = 0 → exec (.managementMessage src (.first r)) s = .next s) ∧
    (s.rcv.slotsz ≠ 0 → ∃ t, exec (.managementMessage src (.first r)) s = .next t ∧
      t.rcv.inRepl = some (src, s.buddySlot) ∧ t.lines = s.lines ∧ t.host = s.host ∧
      (recState (s.slotRecord 2) = 2 → recState (s.slotRecord 3) ≠ 2 → t.rcv.inRepl = some (src, 3)) ∧
      ∀ base, base = s.rcv.base s.buddySlot → s.MemCanon → (∀ m ∈ s.marks, m.2 = false) → r.length = 4096 → 0x20000000000 ≤ base →
        base + 4096 ≤ 0x20000000000 + s.gr.capacity → s.gr.pop.Nodup → recState (t.slotRecord s.buddySlot) = 1 ∧
        ∀ a, a < base ∨ base + 4096 ≤ a → t.readLocal a 1 = s.readLocal a 1) ∧
    (∀ b, (s.rcv.repl ≠ some src → exec (.managementMessage src (.place b)) s = .next s) ∧
      (∀ z, s.rcv.repl = some src → s.rcv.sends = [z] → z.dst = src → z.slot < 2 → z.base = none →
        exec (.managementMessage src (.place b)) s = .next { s with rcv.sends := [{ z with base := some (b.toNat * mib) }] })) ∧
    (∀ k b, ∃ t, exec (.managementMessage src (.ask k b)) s = .next t ∧ t.mem = s.mem ∧
      (recState (s.slotRecord (2 + k.toNat)) ≠ 2 ∨ recField (s.slotRecord (2 + k.toNat)) 12 2 ≠ src.toNat → t.rcv = s.rcv) ∧
      (recState (s.slotRecord (2 + k.toNat)) = 2 → recField (s.slotRecord (2 + k.toNat)) 12 2 = src.toNat → ∃ z, t.rcv.sends = s.rcv.sends ++ [z] ∧ z.dst = src ∧ z.slot = 2 + k.toNat ∧
        z.base = some (b.toNat * mib) ∧ z.pos = 0)) ∧
    (s.rcv.inRepl = none → exec (.managementMessage src (.last r)) s = .next s) ∧
    (s.rcv.repl ≠ some src → exec (.managementMessage src .failed) s = .next s) ∧
    (s.rcv.repl = some src → ∃ t, exec (.managementMessage src .failed) s = .next t ∧ t.rcv.buddyFail = true ∧
      t.rcv.repl = none)))

/-- PT.FGET and PT.FPUT (R334 to R336, R339): a stream packet is read in its use sc and the sc after, present 4 sc later,
with its signal at the second beat; outside these it is FAB_USE, outside its region REGION; two beats of a put form a
payload that is handed to the fabric 16 sc later; one to a module outside the torus, or beyond this module's own
fitted granary, is outside the declared regions (R27, R32; of a granary of another module the model knows no end, log
105). Both use the line's memory port (R331). -/
def Obligations.FabricGetsAndPuts : Prop :=
  ∀ (s : State) (q : Queue) (w : FmtM) (k : Ctx) (L : LineState) (g : Region), k = s.ctx .pt q s.sc 0 → L = s.line q.line →
    g = s.region w.region.toNat →
    (s.Repeats .pt q → s.CanIssue .pt q (.ptFget q w) →
      (∀ e ∈ (s.port (cIn (s.circuit g.circ))).lead, e.circ ≠ g.circ) →
      (g.allows 5 false (s.firstOffset .pt q w) = false → s.job.faults.length ≤ 12 →
        ∃ t, exec (.ptFget q w) s = .next t ∧ (t.line q.line).outs = L.outs ∧
          ∃ r ∈ t.job.faults, r.kind = 7 ∧ r.sc = s.sc ∧ r.addr = s.firstOffset .pt q w) ∧
      (∀ p, g.allows 5 false (s.firstOffset .pt q w) = true → s.streamOf k w.region.toNat = some p → p.u = s.sc →
        ∃ t, exec (.ptFget q w) s = .next t ∧
        Emits s t { L with ptUsed := (t.line q.line).ptUsed, ptUsedAt := s.sc + 1 } .pt q (s.sc + 4) (destOf w.data 0)
          ((halfOf p.payload 0).setWidth 4096) 0 ∧ (t.line q.line).ptUsed.getLsbD 0 = true) ∧
      (g.allows 5 false (s.firstOffset .pt q w) = true →
        (∀ p, s.streamOf k w.region.toNat = some p → p.u ≠ s.sc) → s.job.faults.length ≤ 12 →
        ∃ t, exec (.ptFget q w) s = .next t ∧ (t.line q.line).outs = L.outs ∧
          ∃ r ∈ t.job.faults, r.kind = 0x4B ∧ r.sc = s.sc)) ∧
    (∀ (o : Outst) (p : StreamPkt), (s.q .pt q).outst = some o → o.instr = .ptFget q w → o.done = 1 →
      s.mayIssue .pt q o.instr 1 = true → (∀ e ∈ (s.port (cIn (s.circuit g.circ))).lead, e.circ ≠ g.circ) →
      g.allows 5 false (lsOffset w (s.ctx .pt q o.c0 1) o) = true →
      s.streamOf (s.ctx .pt q o.c0 1) w.region.toNat = some p → p.u + 1 = s.sc →
      ∃ t e, exec (.repeatIssue .pt q) s = .next t ∧ (t.line q.line).outs = L.outs ++ [e] ∧ e.due = s.sc + 4 ∧
        e.data = (halfOf p.payload 1).setWidth 4096 ∧ (p.sig = none → t.flags = s.flags) ∧
        ∀ f set, p.sig = some (f, set) → s.predicted (s.ctx .pt q o.c0 1) = false → t.flags.chgs =
          s.flags.chgs ++ [⟨.module, f / 128, f % 128, set, .program, s.sc + flagLat .module q.line (f / 128)⟩]) ∧
    (s.Repeats .pt q → s.CanIssue .pt q (.ptFput q w) →
      (s.predicted k = true → s.job.faults.length ≤ 12 → ∃ t, exec (.ptFput q w) s = .next t ∧ t.fab = s.fab ∧
        ∃ r ∈ t.job.faults, r.kind = 0x28 ∧ r.detail = 1) ∧
      (s.predicted k = false → g.allows 5 true (s.firstOffset .pt q w) = true →
        g.offTorus s = true ∨ g.pastOwn s (g.base + s.firstOffset .pt q w) = true → s.job.faults.length ≤ 11 →
        ∃ t, exec (.ptFput q w) s = .next t ∧ t.fab = s.fab ∧ ∃ r ∈ t.job.faults, r.kind = 7 ∧ r.sc = s.sc ∧
          r.addr = s.firstOffset .pt q w) ∧
      (s.predicted k = false → g.allows 5 true (s.firstOffset .pt q w) = true → g.offTorus s = false →
        g.pastOwn s (g.base + s.firstOffset .pt q w) = false →
        1 < (s.q .pt q).repLatch.getD (w.repcnt.toNat + 1) → ∀ d, d = s.takeBeat k w.data.toNat w.toff →
        ∃ t o, exec (.ptFput q w) s = .next t ∧ IssueFrame s t q.line ∧
          LineFrame { d.1.line q.line with ptUsed := (t.line q.line).ptUsed, ptUsedAt := s.sc + 1 } (t.line q.line) ∧
          (t.line q.line).ptUsed.getLsbD 0 = true ∧ (t.q .pt q).outst = some o ∧ o.instr = .ptFput q w ∧ o.done = 1 ∧ o.buf = [d.2] ∧
          o.nums = [g.base + s.firstOffset .pt q w])) ∧
    (∀ (o : Outst) (x : Ctx) (d : State × BeatData) (lo : BeatData) (a : Nat), (s.q .pt q).outst = some o →
      o.instr = .ptFput q w → o.done = 1 → o.buf = [lo] → o.nums = [a] → s.mayIssue .pt q o.instr 1 = true →
      x = s.ctx .pt q o.c0 1 → s.predicted x = false → d = s.takeBeat x w.data.toNat w.toff →
      g.allows 5 true (lsOffset w x o) = true → g.offTorus s = false → g.pastOwn s (g.base + lsOffset w x o) = false →
      (g.dyn = false → ∃ t, exec (.repeatIssue .pt q) s = .next t ∧ t.fab = { s.fab with
        ready := s.fab.ready ++ [{ circ := g.circ, due := s.sc + 16, addr := a, payload := payloadOf lo d.2, last := o.total == 2
                                   sig := if o.total = 2 ∧ g.sigEn = true then some (g.sig, !g.sigClr) else none }] }) ∧
      (g.dyn = true → ∃ t ps, exec (.repeatIssue .pt q) s = .next t ∧ t.fab.outq = s.fab.outq ++ ps ∧
        ps.map (·.dst) = s.dynDests g ∧ t.fab.nextTag = (s.fab.nextTag + 1) % 2 ^ 32 ∧
        ∀ e ∈ ps, e.due = s.sc + 16 ∧ e.tag = s.fab.nextTag ∧ e.pkt.payload = payloadOf lo d.2))

/-- SCHEDULED_PACKET_READY, DEPARTURE, ARRIVAL, USE (R326 to R330, R337), FAB_LATE_CHECK, FAB_LEAD_CHECK, SIGNAL_APPLY
(R51, R52): a ready packet claims the first slot index of its circuit; it departs in a position that its circuit owns
and that holds no cell yet (one cell a position: log 91), with the destination that its header names a free value (log
107); an arrival in order enters the lead buffer, and the origin's neighbour checks its send sc (R49, R328); a packet
is used in its use sc; one that comes early is held D cc after its launch (R317); a packet that is not there 8 cc
before, or a lead entry that is not free, raises a hold (LINK_REPLAY while its port takes a replay, else FAB_LATE: log
110). -/
def Obligations.ScheduledPackets : Prop :=
  (∀ (s : State) (c : Fin 4096) (r : ReadyPkt) (n : Nat), s.live = true → s.held = false → s.fab.ready = [r] →
    r.circ = c.val → r.due ≤ s.sc → n = ownedFrom (s.circuit c) (max (s.cs c).nextIx (indexFrom s.splitS r.due)) →
    (∀ p, cOuts (s.circuit c) = [p] → s.fab.claims = [] → ∃ t, exec (.scheduledPacketReady c) s = .next t ∧
      t = { s with fab := t.fab } ∧ t.fab.ready = [] ∧ t.fab.claims = [(p, n)] ∧
      t.cs c = { s.cs c with made := (s.cs c).made + 1, nextIx := n + 1 } ∧
      (t.port p).tx = (s.port p).tx ++
        [⟨c, (s.cs c).made, false, nominal s.splitS n, s.originPacket r (s.cs c).made n⟩]) ∧
    (cOuts (s.circuit c) = [] → ∃ t, exec (.scheduledPacketReady c) s = .next t ∧ t.fab.ready = [] ∧
      t.fab.locals.look c [] = s.fab.locals.look c [] ++ [r])) ∧
  (∀ (s : State) (p : PortId), (s.portUp p = false ∨ s.positionFree p = false ∨ s.position = none ∨
      ∃ i, s.position = some i ∧ s.splitS ≤ i) →
    exec (.scheduledPacketDeparture p) s = .next s) ∧
  (∀ (s : State) (p : PortId) (x : TxCell) (i : Nat) (P : FabPort), P = s.port p → P.st = 5 → s.position = some i →
    i < s.splitS → s.positionFree p = true → P.resend = [] → P.tx = [x] → s.txReady x = true → s.hasCredit x = true →
    cOwns (s.circuit x.circ) i = true → ∃ t, exec (.scheduledPacketDeparture p) s = .next t ∧
      t = { s with fab := t.fab, outbox := t.outbox } ∧ t.outbox = .cell p P.seq (.cell x.pkt) x.pkt (x.pkt.trailer P.seq) :: s.outbox ∧
      (t.port p).tx = [] ∧ t.positionFree p = false ∧ (t.port p).seq = (P.seq + 1) % 2 ^ 31 ∧ (t.port p).cnt.tx = wrap64 (P.cnt.tx + 1) ∧
      (x.through = true → t.fab.cnt.fwd = wrap64 (s.fab.cnt.fwd + 1)) ∧
      (x.through = false → t.fab.cnt.sch = wrap64 (s.fab.cnt.sch + 1))) ∧
  (∀ (s : State) (p : PortId) (a : LinkCell) (k : Packet) (P : FabPort) (z : CircState) (n : Nat), P = s.port p → P.st = 5 →
    k = ⟨a.header, a.payload⟩ → P.expect < 2 ^ 31 →
    (a.trailer.extractLsb' 32 32 ≠ k.crc (a.trailer.extractLsb' 0 32).toNat → ∃ t,
      exec (.scheduledPacketArrival p a) s = .next t ∧ (t.port p).ask = true ∧ (t.port p).lead = P.lead ∧
      (t.port p).expect = P.expect ∧ t.job = s.job ∧ t.uses = s.uses) ∧
    (a.trailer = k.trailer P.expect → k.clean = true → k.typ = 1 → s.time.running = true →
      z = s.cs k.circ → n = indexFrom s.splitS (s.fullSc k.sendSc) →
      (∀ c x, P.peer = some (c, x) → c = k.src →
        nominal s.splitS n = s.fullSc k.sendSc ∧ cOwns (s.circuit k.circ) n = true ∧ z.afterIx ≤ n) → cValid (s.circuit k.circ) = true →
      cIn (s.circuit k.circ) = p.val → cEnd (s.circuit k.circ) = true → k.seq = z.expSeq % 2 ^ 32 → P.decl ≤ P.lat →
      ∃ t, exec (.scheduledPacketArrival p a) s = .next t ∧
        (t.port p).lead = P.lead ++
          [⟨k.circ, z.expSeq, n, k, cBase (s.circuit k.circ) + z.expSeq % max 1 (cAllow (s.circuit k.circ))⟩] ∧
        (t.port p).expect = (P.expect + 1) % 2 ^ 31 ∧ t.cs k.circ = { z with afterIx := n + 1, expSeq := z.expSeq + 1 } ∧
        t.hasHold 2 (.packet k.circ z.expSeq) = false ∧ t.hasHold 4 (.packet k.circ z.expSeq) = false ∧ t.job = s.job) ∧
    (a.trailer = k.trailer P.expect → k.clean = true → k.typ = 1 → P.lat < P.decl →
      ∃ t, exec (.scheduledPacketArrival p a) s = .next t ∧ t = { s with fab := t.fab } ∧ (t.port p).lead = P.lead ∧
        (t.port p).delay = P.delay ++ [(s.time.now + (P.decl - P.lat), k)])) ∧
  (∀ (s : State) (c : Fin 4096) (e : LeadEnt) (z : BitVec 256), s.live = true → s.held = false → z = s.circuit c →
    cEnd z = true → (s.port (cIn z)).lead = [e] → e.circ = c.val →
    (nominal s.splitS (e.n + cDelta z) ≠ s.sc → exec (.scheduledPacketUse c) s = .next s) ∧
    (nominal s.splitS (e.n + cDelta z) = s.sc → cOp z = 0 → cNext z = 0 →
      ∃ t, exec (.scheduledPacketUse c) s = .next t ∧ (t.port (cIn z)).lead = [] ∧ (t.cs c).used = e.q + 1 ∧
        c.val ∈ (t.port (cIn z)).due ∧
        (cDlv z = 2 → t.fab.strm.find c = some ⟨c, s.sc, e.pkt.payload, e.pkt.sig⟩ ∧ t.uses = s.uses) ∧
        (cDlv z = 1 → s.landRegion e.pkt.addr = true → ∃ u v, t.uses = s.uses ++ [u, v] ∧
          u.data = halfOf e.pkt.payload 0 ∧ v.data = halfOf e.pkt.payload 1 ∧ u.write = true ∧ v.write = true ∧
          (e.pkt.addr + 128 < 0x18000000000 → u.addr = e.pkt.addr ∧ v.addr = e.pkt.addr + 128)) ∧
        (cDlv z = 1 → s.landRegion e.pkt.addr = false → s.job.faultSc = none → s.job.faults = [] →
          t.uses = s.uses ∧ ∃ r, t.job.faults = [r] ∧ r.kind = 7 ∧ r.sc = s.sc))) ∧
  (∀ (s : State) (c : Fin 4096) (q n u : Nat) (z : BitVec 256), z = s.circuit c → u = nominal s.splitS (n + cDelta z) →
    (cEnd z = true → s.eightBefore u = true → s.inLead c q = false → s.hasHold 2 (.packet c q) = false →
      s.hasHold 4 (.packet c q) = false → ∃ t, exec (.fabLateCheck c q n) s = .next t ∧
        t.hasHold (if (s.port (cIn z)).replaying then 4 else 2) (.packet c q) = true ∧ t.fab = s.fab) ∧
    (s.eightBefore u = false ∨ s.inLead c q = true → exec (.fabLateCheck c q n) s = .next s)) ∧
  (∀ (s : State) (p : PortId), s.toSend p = [] → exec (.fabLeadCheck p) s = .next s) ∧
  (∀ (s : State) (p : PortId) (x : TxCell), s.toSend p = [x] → x.through = false → s.eightBefore x.at_ = true →
    s.hasCredit x = false → s.hasHold 3 (.packet x.circ x.q) = false → ∃ t, exec (.fabLeadCheck p) s = .next t ∧
      t.hasHold 3 (.packet x.circ x.q) = true ∧ t.fab = s.fab) ∧
  (∀ (s : State) (l : LineId) (f : SignalFly), s.live = true → s.held = false → s.fab.sigs = [f] → f.line = l.val →
    f.due ≤ s.sc → exec (.signalApply l) s = .next { s with
      fab.sigs := []
      flags.chgs := s.flags.chgs ++
        [⟨.module, f.flag / 128, f.flag % 128, f.set, .program, f.due + flagLat .module l (f.flag / 128)⟩] })

/-- CONTROL_CELL_CREDIT, TIME, IDENT, NONE, LAUNCH, REPLAY_REQUEST (R315 to R318, R321, R329, R345, R346, Table 10-5): a
cell that fails its CRC, is of another kind, or comes to a port without frame lock is discarded; credit records bring
used counts up to date; identities that agree take the port to CALIBRATE; under COORD_MODE 1 the first identity with a
coordinate gives the module's own, which the others must agree with; a module takes its hall time from its peer; one
control cell in the cc of four positions is launched (log 91), with its port's news: credit first at an UP port, and
in CALIB 64 TIME cells first, one of which the peer's TIME cell shows the round trip of; every cell says which number
its sender expects next, and one that names no cell launched says nothing (log 109). -/
def Obligations.ControlCells : Prop :=
  (∀ (s : State) (p : PortId) (c : BitVec 256) (v : Bool), ((s.port p).st < 3 ∨ 5 < (s.port p).st ∨ kOk c = false) →
    exec (.controlCellCredit p c) s = .next s ∧ exec (.controlCellTime p c v) s = .next s ∧
    exec (.controlCellIdent p c) s = .next s ∧ exec (.controlCellNone p c) s = .next s) ∧
  (∀ (s : State) (p : PortId) (c : BitVec 256) (v : Bool),
    (kf c 0 8 ≠ 0 → exec (.controlCellNone p c) s = .next s) ∧ (kf c 0 8 ≠ 1 → exec (.controlCellCredit p c) s = .next s) ∧
    (kf c 0 8 ≠ 2 → exec (.controlCellTime p c v) s = .next s) ∧ (kf c 0 8 ≠ 3 → exec (.controlCellIdent p c) s = .next s)) ∧
  (∀ (s : State) (p : PortId) (c : BitVec 256) (P : FabPort), P = s.port p → 3 ≤ P.st → P.st ≤ 5 → kOk c = true →
    c.getLsbD 63 = false →
    (kf c 0 8 = 0 → ∃ t, exec (.controlCellNone p c) s = .next t ∧ t = { s with fab := t.fab } ∧
      (∀ v, v < 3 → (t.port p).credits v = min (vcEntries v) (P.credits v + kf c (1 + v) 8)) ∧ (t.port p).tx = P.tx ∧
      (t.port p).acked = (if (kf c 4 31 + 2 ^ 31 - P.acked) % 2 ^ 31 ≤ (P.seq + 2 ^ 31 - P.acked) % 2 ^ 31 then kf c 4 31 else P.acked)) ∧
    (kf c 0 8 = 1 → ∀ r z, r = kf c 8 32 → z = s.circuit (r % 4096) → (∀ i, 0 < i → i < 5 → kf c (8 + 4 * i) 32 = 0) →
      r % 4096 ≠ 0 → cValid z = true → p.val ∈ cOuts z → cIn z = 15 →
      ∃ t, exec (.controlCellCredit p c) s = .next t ∧
        (t.port p).count.look (r % 4096) 0 % 65536 = r / 65536 ∧
        P.count.look (r % 4096) 0 ≤ (t.port p).count.look (r % 4096) 0 ∧
        (t.port p).count.look (r % 4096) 0 < P.count.look (r % 4096) 0 + 65536) ∧
    (kf c 0 8 = 2 → ∀ v, ∃ t, exec (.controlCellTime p c v) s = .next t ∧ (t.port p).timeRx = some (kf c 8 64, s.time.now) ∧
      (t.port p).peerHtc = v ∧ (s.fab.htcValid = true → t.fab.htc = s.fab.htc) ∧
      (P.st = 4 → P.timeTx.contains (kf c 16 64) = true →
        (t.port p).trip = some ((s.fab.htc + 2 ^ 64 - kf c 16 64) % 2 ^ 64, kf c 24 32)) ∧
      (P.st ≠ 4 ∨ P.timeTx.contains (kf c 16 64) = false → (t.port p).trip = P.trip) ∧
      (s.fab.htcValid = false → s.fab.clk = true → v = true → P.st = 5 → s.coordOk = true → s.coord ≠ 0 →
        (∀ o, o < p.val → s.portUp o = false) →
        t.fab.htcValid = true ∧ t.fab.htc = (kf c 8 64 + P.lat) % 2 ^ 64)) ∧
    (kf c 0 8 = 3 → s.coordMode = false → s.fab.taken = none → ∃ t, exec (.controlCellIdent p c) s = .next t ∧
      (t.port p).peer = some (BitVec.ofNat 15 (kf c 16 15), kf c 18 4) ∧
      (P.st = 3 → kf c 18 8 = partner p → kf c 19 15 = s.fab.shape.toNat → (t.port p).st = 4) ∧
      (P.st = 3 → kf c 18 8 ≠ partner p ∨ kf c 19 15 ≠ s.fab.shape.toNat → (t.port p).st = 3 ∧ (t.port p).failcode = 4) ∧
      t.coord = s.coord) ∧
    (∀ x, kf c 0 8 = 3 → c.getLsbD 143 = true → x = s.beside (BitVec.ofNat 15 (kf c 16 15)) p true →
      (s.coordMode = true → s.fab.taken = none → s.fab.discDone = false → (∀ o, o < 12 → o ≠ p.val → s.portUp o = false) →
        ∃ t, exec (.controlCellIdent p c) s = .next t ∧ t.fab.taken = some x ∧ t.coord = x ∧ t.coordOk = true ∧
          t.fab.discDone = true) ∧
      (∀ y, s.fab.taken = some y → y ≠ x → P.st = 5 → ∃ t, exec (.controlCellIdent p c) s = .next t ∧
        t.fab.discErr = true ∧ t.fab.taken = some y ∧ t.coord = s.coord ∧ t.fab.discDone = s.fab.discDone))) ∧
  (∀ (s : State) (p : PortId) (k : Fin 4),
    ((s.port p).st < 2 ∨ 5 < (s.port p).st ∨ (s.port p).ctlAt = s.fab.htc / 10 + 1 →
      exec (.controlCellLaunch p k) s = .next s) ∧
    (2 ≤ (s.port p).st → (s.port p).st ≤ 5 → (s.port p).ctlAt ≠ s.fab.htc / 10 + 1 → ∃ t c, exec (.controlCellLaunch p k) s = .next t ∧
      t.outbox = .control p c :: s.outbox ∧ t = { s with fab := t.fab, outbox := t.outbox } ∧
      (t.port p).ask = false ∧ (t.port p).ctlAt = s.fab.htc / 10 + 1 ∧ kf c 0 8 = (if (s.port p).st = 4 ∧ (s.port p).timeTx.length < 64 then 2
        else if (s.port p).st = 5 ∧ (s.port p).due ≠ [] then 1 else k.val) ∧
      (t.port p).timeTx = (s.port p).timeTx ++ (if (s.port p).st = 4 ∧ kf c 0 8 = 2 then [s.fab.htc] else []) ∧
      ((s.port p).expect < 2 ^ 31 → s.cellBody p (kf c 0 8) < 2 ^ 160 → kOk c = true))) ∧
  (∀ (s : State) (p : PortId) (n : BitVec 31),
    ((s.port p).st ≠ 5 → exec (.replayRequest p n) s = .next s) ∧
    ((s.port p).st = 5 → (s.port p).asked ≠ (n.toNat, 7) → (s.port p).asked.2 < 8 → ∃ t,
      exec (.replayRequest p n) s = .next t ∧ (t.port p).st = 5 ∧ (t.port p).replays = sat32 ((s.port p).replays + 1) ∧
      (∀ c, c ∈ (t.port p).resend ↔ c ∈ (s.port p).sent ∧ (c.seq + 2 ^ 31 - n.toNat) % 2 ^ 31 < 2 ^ 30)) ∧
    ((s.port p).st = 5 → (s.port p).asked = (n.toNat, 7) → ∃ t, exec (.replayRequest p n) s = .next t ∧
      (t.port p).st = 6 ∧ (t.port p).failcode = 1 ∧ t.rcv.alert.getLsbD 5 = true))

/-- DYNAMIC_DATA_ARRIVAL, DYNAMIC_FORWARD, DYNAMIC_FLAG_CHANGE, BUSY_NOTICE, BUSY_RESEND, DONE_NOTICE, ABORT_NOTICE (R339,
R341 to R343, R347): a packet for this module waits in a buffer of 64 for its granary write, and a full one answers
BUSY; a packet in transit is queued on its way, at the port and on the channel of its route; a channel sends by its
credit; a copy is kept until DONE, and sent again 4 microseconds after BUSY; the first ABORT stops the job. The
model's choices: a packet in transit keeps its forwarding entry until it departs, and credit, completion and flags of
dynamic traffic follow log 28; BUSY and DONE name a packet by its destination, tag and address (log 12). -/
def Obligations.DynamicTraffic : Prop :=
  (∀ (s : State) (p : PortId) (a : LinkCell) (k : Packet) (P : FabPort), P = s.port p → P.st = 5 →
    k = ⟨a.header, a.payload⟩ → P.expect < 2 ^ 31 → a.trailer = k.trailer P.expect → k.clean = true → k.typ = 2 →
    s.coordOk = true → k.dst = s.coord → s.fab.recvBuf.length < 64 → P.decl ≤ P.lat → ∃ t, exec (.dynamicDataArrival p a) s = .next t ∧
      t.fab.recvBuf = s.fab.recvBuf ++ [k] ∧ (t.port p).freed.look k.vc 0 = P.freed.look k.vc 0 + 1 ∧
      (t.port p).expect = (P.expect + 1) % 2 ^ 31 ∧ t = { s with fab := t.fab }) ∧
  (∀ (s : State) (p : PortId) (a : LinkCell) (k : Packet) (P : FabPort), P = s.port p → P.st = 5 →
    k = ⟨a.header, a.payload⟩ → P.expect < 2 ^ 31 → a.trailer = k.trailer P.expect → k.clean = true → k.typ = 2 →
    s.coordOk = true → P.decl ≤ P.lat →
    (∀ o v, k.dst ≠ s.coord → s.route k.src k.dst false (some (p.val, k.vc)) = some (o, v) → ∃ t,
      exec (.dynamicDataArrival p a) s = .next t ∧ t = { s with fab := t.fab } ∧ t.fab.recvBuf = s.fab.recvBuf ∧
      (t.port o).vc.look v [] = (s.port o).vc.look v [] ++ [⟨.cell (k.onVc v), s.time.now, some (p.val, k.vc)⟩] ∧
      (t.port p).freed = P.freed ∧ (t.port p).expect = (P.expect + 1) % 2 ^ 31) ∧
    (∀ o v, k.dst = s.coord → 64 ≤ s.fab.recvBuf.length → k.src ≠ s.coord → s.route s.coord k.src true none = some (o, v) → ∃ t,
      exec (.dynamicDataArrival p a) s = .next t ∧ t = { s with fab := t.fab } ∧ t.fab.recvBuf = s.fab.recvBuf ∧
      (t.port o).vc.look v [] = (s.port o).vc.look v [] ++ [⟨.msg k.src (.busy k.seq k.addr), s.time.now, none⟩] ∧
      (t.port p).freed.look k.vc 0 = P.freed.look k.vc 0 + 1)) ∧
  (∀ (s : State) (p : PortId) (P : FabPort) (i v : Nat) (d : DynEnt) (r : List DynEnt), P = s.port p → s.fab.outq = [] →
    P.st = 5 → s.position = some i →
    (i < s.splitS ∨ s.positionFree p = false → exec (.dynamicForward p) s = .next s) ∧
    (s.splitS ≤ i → P.resend = [] → P.pickVc = none → exec (.dynamicForward p) s = .next s) ∧
    (s.splitS ≤ i → s.positionFree p = true → P.resend = [] → P.pickVc = some v → P.vc.look v [] = d :: r → d.src = none →
      ∃ t, exec (.dynamicForward p) s = .next t ∧ t.outbox = s.cellOut p P.seq d.item :: s.outbox ∧
        (t.port p).vc.look v [] = r ∧ (t.port p).credits v + 1 = P.credits v ∧ (t.port p).seq = (P.seq + 1) % 2 ^ 31 ∧
        t = { s with fab := t.fab, outbox := t.outbox })) ∧
  (∀ (s : State) (f : Fin 1024) (b : Bool), s.time.running = false → ∃ t, exec (.dynamicFlagChange f b) s = .next t ∧
    (t.flags.mf.look (f / 128) 0).getLsbD (f % 128) = b ∧ t.time.cnt = s.time.cnt ∧ t.job = s.job ∧
    ∀ h i, i < 128 → (h ≠ f.val / 128 ∨ i ≠ f.val % 128) →
      (t.flags.mf.look h 0).getLsbD i = (s.flags.mf.look h 0).getLsbD i) ∧
  (∀ (s : State) (f : Fin 1024) (b : Bool), s.live = true → s.time.cnt.ndc ≠ 0 → ∃ t,
    exec (.dynamicFlagChange f b) s = .next t ∧
    t.flags = { s.flags with chgs := s.flags.chgs ++ [⟨.module, f / 128, f % 128, b, .other, s.nextSc⟩] } ∧
    t.time.cnt.ndc = wrap64 (s.time.cnt.ndc + 1) ∧ t.time.cnt.ndcD = sat32 (s.time.cnt.ndcD + 1) ∧ t.job = s.job) ∧
  (∀ (s : State) (dst : BitVec 15) (tag : W32) (addr : BitVec 42) (r : Retained),
    (s.fab.retain = [r] → r.named dst tag.toNat addr.toNat = true →
      exec (.busyNotice dst tag addr) s =
        .next { s with fab.resends := s.fab.resends ++ [(s.time.now + 3200, r)] } ∧
      ∃ t, exec (.doneNotice dst tag addr) s = .next t ∧ t.fab.retain = [] ∧
        ((∀ x ∈ s.fab.xfers, x.tag ≠ tag.toNat ∨ x.whole = false) → t = { s with fab.retain := [] })) ∧
    (s.fab.retain = [] → exec (.busyNotice dst tag addr) s = .next s) ∧
    (∀ c, s.fab.resends = [(c, r)] → r.named dst tag.toNat addr.toNat = true → r.pkt.dst ≠ s.coord →
      (s.time.now < c → exec (.busyResend dst tag addr) s = .next s) ∧
      (c ≤ s.time.now → ∃ t, exec (.busyResend dst tag addr) s = .next t ∧ t.fab.resends = [] ∧
        t.fab.cnt.dyn = wrap64 (s.fab.cnt.dyn + 1) ∧ t.fab.retain = s.fab.retain))) ∧
  (∀ (s : State) (x : Transfer) (r : Retained) (f : Nat), s.time.running = false → s.fab.retain = [r] →
    s.fab.outq = [] → s.fab.xfers = [x] → x.whole = true → x.tag = r.tag → x.cflag = some f → f < 1024 →
    r.tag < 2 ^ 32 → r.pkt.addr < 2 ^ 42 → ∃ t, exec (.doneNotice r.dst (BitVec.ofNat 32 r.tag) (BitVec.ofNat 42 r.pkt.addr)) s = .next t ∧
      t.fab.xfers = [] ∧ t.fab.retain = [] ∧ (t.flags.mf.look (f / 128) 0).getLsbD (f % 128) = true) ∧
  (∀ (s : State) (o : BitVec 15), (s.fab.abort.isSome = true → exec (.abortNotice o) s = .next s) ∧
    (s.fab.abort = none → s.time.running = true → s.job.faultSc = none → s.job.faults = [] → ∃ t r,
      exec (.abortNotice o) s = .next t ∧ t.fab.abort = some o ∧ t.job.faults = [r] ∧ r.kind = 0x4D ∧ r.sc = s.nextSc ∧
      r.aux = o.toNat + 0x8000 ∧ t.lines = s.lines ∧
      ∀ p, p < 12 → s.portUp p = true → ∃ e, (t.port p).vc.look 0 [] = (s.port p).vc.look 0 [] ++ [e] ∧
        e.item = .msg o (.abort o)))

/-- CAGE_PRESENT, CABLE_REMOVED, EQUALISER_TRAINING_DONE, FRAME_LOCK, CALIBRATION_DONE, FEC_LOCK_LOSS,
CONTROL_CELL_TIMEOUT, PHASE_WANDER_OVERFLOW, RETRAIN_PORT (R316, R317, R346, R347, Table 10-3): the states of a port,
and a failure's code, alert and fault. The operands of CALIBRATION_DONE, which stand where no echo of a TIME cell has
come, are log 108, the model's choice. -/
def Obligations.LinkStates : Prop :=
  (∀ (s : State) (p : PortId) (P : FabPort), P = s.port p →
    (P.st = 0 → s.fab.clk = true → s.sec.booted = true → ∃ t, exec (.cagePresent p) s = .next t ∧ (t.port p).st = 1 ∧ (t.port p).seq = 0 ∧
      (t.port p).expect = 0 ∧ (t.port p).peer = none ∧ t = { s with fab.ports := t.fab.ports } ∧
      ∀ o, o ≠ p.val → t.port o = s.port o) ∧
    (P.st ≠ 0 ∨ s.fab.clk = false ∨ s.sec.booted = false → exec (.cagePresent p) s = .next s) ∧
    (P.st = 6 → ∃ t, exec (.cableRemoved p) s = .next t ∧ t.port p = { P with st := 0 }) ∧
    (P.st ≠ 6 → exec (.cableRemoved p) s = .next s) ∧
    (P.st = 1 → ∃ t, exec (.equaliserTrainingDone p) s = .next t ∧ t.port p = { P with st := 2 }) ∧
    (P.st ≠ 1 → exec (.equaliserTrainingDone p) s = .next s) ∧
    (P.st = 2 → ∃ t, exec (.frameLock p) s = .next t ∧ t.port p = { P with st := 3 }) ∧
    (P.st ≠ 2 → exec (.frameLock p) s = .next s)) ∧
  (∀ (s : State) (p : PortId) (rt ta h : Nat) (m : Nat × Nat), m = (s.port p).trip.getD (rt, ta) → h = (m.1 - m.2 + 1) / 2 →
    ((s.port p).st ≠ 4 → exec (.calibrationDone p rt ta) s = .next s) ∧
    ((s.port p).st = 4 → h ≤ 240 → s.cabled p = true → ∃ t, exec (.calibrationDone p rt ta) s = .next t ∧
      (t.port p).st = 5 ∧ (t.port p).lat = h) ∧
    ((s.port p).st = 4 → 240 < h → ∃ t, exec (.calibrationDone p rt ta) s = .next t ∧ (t.port p).st = 4 ∧
      t.coordOk = s.coordOk)) ∧
  (∀ (s : State) (p : PortId) (c : Instr) (code : Nat),
    (c = .fecLockLoss p ∧ code = 2 ∨ c = .controlCellTimeout p ∧ code = 3 ∨ c = .phaseWanderOverflow p ∧ code = 5) →
    ((s.port p).st ≠ 5 → exec c s = .next s) ∧
    ((s.port p).st = 5 → ∃ t, exec c s = .next t ∧ (t.port p).st = 6 ∧ (t.port p).failcode = code ∧
      t.rcv.alert.getLsbD 5 = true ∧ t.lines = s.lines ∧ (s.fab.circ = [] → t.job = s.job) ∧
      (∀ n e, s.fab.circ = [(n, e)] → cValid e = true → p.val ∈ cPorts e → s.time.running = true → s.job.faultSc = none →
        s.job.faults = [] → ∃ r, t.job.faults = [r] ∧ r.kind = 0x4C ∧ r.sc = s.nextSc))) ∧
  (∀ (s : State) (who : Requester) (p : PortId), s.OwnerReaches who (0x1401024 + 0x100 * p.val) → s.time.loaded = false →
    (s.port p).st = 6 → ∃ t, exec (.retrainPort who p) s = .next t ∧ t.port p = { s.port p with st := 0 }) ∧
  (∀ (s : State) (who : Requester) (p : PortId), s.Reaches who (0x1401024 + 0x100 * p.val) →
    s.isOwner who = false ∨ s.time.loaded = true ∨ (s.port p).st ≠ 6 → exec (.retrainPort who p) s = .next s)

/-- REFERENCE_INVALID, CLOCK_LOCK, HOLDOVER_EXPIRE, COORDINATED_RELEASE (R313 to R315, R344, R453): the first valid
reference is in use; the hall time of the root starts when CLK sets; holdover beyond its time clears CLK, takes the
ports down and stops the job, and hall time is taken anew after it (log 73); a coordinated start is released in the cc
whose hall time equals FAB_START. -/
def Obligations.ReferencesAndHallTime : Prop :=
  (∀ s : State, ∃ t, exec (.referenceInvalid .hrefA) s = .next t ∧ t.fab.aValid = false ∧
    t.fab.ref = (if s.fab.bValid then 1 else if s.recValid then 2 else 3) ∧
    (t.fab.ref = 3 → s.fab.ref ≠ 3 → s.fab.clk = true → t.rcv.alert.getLsbD 9 = true) ∧
    (t.fab.ref ≠ 3 → t.rcv = s.rcv) ∧ t.fab.clk = s.fab.clk ∧ t.job = s.job) ∧
  (∀ s : State, ∃ t, exec (.referenceInvalid .hrefB) s = .next t ∧ t.fab.bValid = false ∧
    t.fab.ref = if s.fab.aValid then 0 else if s.recValid then 2 else 3) ∧
  (∀ s : State, ∃ t, exec (.referenceInvalid .port) s = .next t ∧
    t.fab.ref = if s.fab.aValid then 0 else if s.fab.bValid then 1 else 3) ∧
  (∀ (s : State) (a b : Bool), (s.mod.rails = false → exec (.clockLock a b) s = .next s) ∧
    (s.mod.rails = true → a = true ∨ b = true → s.fab.clk = false → ∃ t, exec (.clockLock a b) s = .next t ∧
      t.fab.clk = true ∧ t.fab.ref = (if a then 0 else 1) ∧
      t.fab.htc = 0 ∧ (t.fab.htcValid = true ↔ s.coordOk = true ∧ s.coord = 0) ∧
      t.rcv = s.rcv)) ∧
  (∀ s : State, (s.fab.ref ≠ 3 ∨ s.fab.clk = false → exec .holdoverExpire s = .next s) ∧
    (s.fab.ref = 3 → s.fab.clk = true → s.time.running = true → s.job.faultSc = none → s.job.faults = [] → ∃ t r,
      exec .holdoverExpire s = .next t ∧ t.fab.clk = false ∧ t.fab.htcValid = false ∧ (∀ p, p < 12 → (t.port p).st = 0 ∨ (t.port p).st = 7) ∧
      t.job.faults = [r] ∧ r.kind = 0x4E ∧ r.sc = s.nextSc)) ∧
  (∀ s : State, (s.job.coordWait = none → exec .coordinatedRelease s = .next s) ∧
    (∀ n, s.job.coordWait = some n →
      (s.fab.htc ≠ s.fab.start.toNat + n % 2560 → exec .coordinatedRelease s = .next s) ∧
      (s.fab.htc = s.fab.start.toNat + n % 2560 → ∃ t, exec .coordinatedRelease s = .next t ∧ t.time.running = true ∧
        t.time.release = s.time.now ∧ t.sc = n ∧ t.job.coordWait = none ∧ t.host.startRec = none ∧
        t.lines = s.lines ∧ t.mem = s.mem)))

/-- POWER_WINDOW_END, DUTY_PERIOD_END, RAMP_RAISE, BALLAST_KEEP_EXPIRE (R411 to R414, R423 to R425): a window keeps its
readings, peaks and energy; a duty period in which a limit was passed raises the duty by one, the fourth in a row
without a window near a limit lowers it, without management it keeps its value (R432), and THERMAL is raised for 4,096
cc for each level (8 cc before the end of the period, log 68); where no cause is raised, RAMP is raised for the
largest climb from a bay's S_b to its demand 8 cc ahead, beyond the hold lead (log 87); after PWR_KEEP held cc the
currents fall. Writes of PWR_CLASS, PWR_VCTRL and PWR_KEEP (R409, R415 to R417, R423): the owner sets the class up to
the strapped one; a fixed code is entered for the next boundary (log 31) and no code in force changes; with ADAPT the
write enters none. -/
def Obligations.PowerManagement : Prop :=
  ((∀ (s : State) (w : PowerWindow), (s.mod.rails = false → exec (.powerWindowEnd w) s = .next s) ∧
    (s.mod.rails = true → ∃ t, exec (.powerWindowEnd w) s = .next t ∧ t = { s with pwr := t.pwr } ∧
      t.pwr.pinLast = w.pin ∧ t.pwr.vinLast = w.vin ∧
      t.pwr.pinPeak = (if s.time.running then max s.pwr.pinPeak w.pin else s.pwr.pinPeak) ∧
      t.pwr.enUj = s.pwr.enUj + 10 * w.pin ∧ t.pwr.balUj = s.pwr.balUj + w.ballast ∧ t.pwr.duty = s.pwr.duty ∧
      t.pwr.limP = decide (classLimit s.pwr.clsWin < w.pin) ∧ t.pwr.clsWin = s.pwr.cls ∧
      (s.time.running = true → classLimit s.pwr.clsWin < w.pin → t.pwr.over_ = true) ∧
      (s.time.running = false → t.pwr.over_ = s.pwr.over_ ∧ t.pwr.near = s.pwr.near) ∧
      (45 < w.inlet → t.pwr.alert.getLsbD 2 = true) ∧ (w.flow < 200 → t.pwr.alert.getLsbD 3 = true) ∧
      ∀ b, b < 8 → (t.bayPwr b).recent = (s.bayPwr b).recent ∧
        (t.bayPwr b).marginW = min (w.margin.getD b 0) 255 ∧
        (s.time.running = true → (t.bayPwr b).peak = max (s.bayPwr b).peak (w.sb.getD b 0) ∧ (t.bayPwr b).seen = true) ∧
        (s.time.running = false → (t.bayPwr b).peak = (s.bayPwr b).peak ∧ (t.bayPwr b).margin = (s.bayPwr b).margin))) ∧
  (∀ (s : State) (d : Nat), d = (if s.pwr.over_ then min 8 (s.pwr.duty + 1) else s.pwr.duty) →
    (s.time.running = false ∨ s.time.cnt.cc % 65536 ≠ 65528 ∨ s.pwr.dutyAt = s.time.cnt.cc →
      exec .dutyPeriodEnd s = .next s) ∧
    (s.time.running = true → s.time.cnt.cc % 65536 = 65528 → s.pwr.dutyAt ≠ s.time.cnt.cc →
      ∃ t, exec .dutyPeriodEnd s = .next t ∧ t.pwr.dutyAt = s.time.cnt.cc ∧
      (s.mod.mgmt = true → t.pwr.duty = (if s.pwr.near = false ∧ s.pwr.calm = 3 then d - 1 else d) ∧
        t.pwr.calm = (if s.pwr.near = true ∨ s.pwr.calm = 3 then 0 else s.pwr.calm + 1)) ∧
      (s.mod.mgmt = false → t.pwr.duty = s.pwr.duty ∧ t.pwr.calm = s.pwr.calm) ∧
      t.pwr.over_ = false ∧ t.pwr.near = false ∧ t = { s with pwr := t.pwr, time := t.time } ∧
      (s.hasHold 6 .power = false → t.pwr.duty ≠ 0 →
        t.time.reqs = s.time.reqs ++ [⟨6, .power, some (s.time.now + 4096 * t.pwr.duty - 1)⟩]) ∧
      (t.pwr.duty = 0 → t.time = s.time))) ∧
  (∀ s : State, s.live = false ∨ s.causes ≠ 0 → exec (.rampRaise ()) s = .next s) ∧
  (∀ (s : State) (n : Nat), s.live = true → s.causes = 0 →
    n = ((List.range 8).map fun b => (s.demandAhead b - 6000 - s.sb b + 74) / 75).foldl max 0 →
    (n ≤ 8 → exec (.rampRaise ()) s = .next s) ∧
    (8 < n → ∃ t, exec (.rampRaise ()) s = .next t ∧ t = { s with time := t.time } ∧
      t.time.reqs = s.time.reqs ++ [⟨7, .ramp 0, some (s.time.now + (n - 8) - 1)⟩] ∧
      t.time.cnt.hcEv.look 7 0 = sat32 (s.time.cnt.hcEv.look 7 0 + 1))) ∧
  (∀ s : State, (s.held = true → s.pwr.keepHold ≤ s.time.curHold →
      exec .ballastKeepExpire s = .next { s with pwr.falling := true }) ∧
    (s.held = false ∨ s.time.curHold < s.pwr.keepHold → exec .ballastKeepExpire s = .next s))) ∧
  (∀ (s : State) (who : Requester) (v : W32),
    (s.OwnerReaches who 0x40000 → ∀ c, c = (v.extractLsb' 0 3).toNat →
      (c ≤ s.mod.straps.pwrclass.toNat → c ≤ 5 → exec (.pwrClassWrite who v) s = .next { s with pwr.cls := c }) ∧
      (s.mod.straps.pwrclass.toNat < c → c ≤ 5 → exec (.pwrClassWrite who v) s =
        .next { s with pwr.cls := s.mod.straps.pwrclass.toNat, pwr.clamped := true }) ∧
      (5 < c → exec (.pwrClassWrite who v) s = .next { s with pwr.clamped := true })) ∧
    (s.OwnerReaches who 0x40010 →
      exec (.pwrKeepWrite who v) s = .next { s with pwr.keep := (v.extractLsb' 0 16).toNat }) ∧
    (s.OwnerReaches who 0x40020 → ∃ t, exec (.pwrVctrlWrite who v) s = .next t ∧ t.pwr.vctrl = v &&& 0x7F01 ∧
      t = { s with pwr := t.pwr, hrv := { s.hrv with pend := t.hrv.pend } } ∧
      (∀ b, b < 8 → (t.bayPwr b).code = (s.bayPwr b).code ∧ (t.bayPwr b).share = (s.bayPwr b).share) ∧
      (v.getLsbD 0 = false → ∀ b, b < 8 → (t.bayPwr b).next = min 72 (v.extractLsb' 8 7).toNat ∧
        ((t.bayPwr b).pend = true ↔ (t.bayPwr b).next ≠ (s.bayPwr b).code)) ∧
      (v.getLsbD 0 = true → t.pwr = { s.pwr with vctrl := v &&& 0x7F01 })) ∧
    (s.Reaches who 0x40000 → s.isOwner who = false → exec (.pwrClassWrite who v) s = .next s) ∧
    (s.Reaches who 0x40010 → s.isOwner who = false → exec (.pwrKeepWrite who v) s = .next s) ∧
    (s.Reaches who 0x40020 → s.isOwner who = false → exec (.pwrVctrlWrite who v) s = .next s))

/-- VIN_GOOD, STRAP_SAMPLING, RAILS_UP, BAY_READY, GRANARY_CHANNEL_READY (Table 14-1, R20, R21, R23, R429): VSTBY that
comes up is a cold reset (Table 14-3; log 93); the straps are sampled once, while the module is out of reset and in
range; the rails follow; a bay is ready with its memories clear; a population that is not listed, or of a type or
capacity that R300 does not list, leaves the granary empty; AW8-M1T and AW8-M2T hold the modules of Table 0-1 (R1). -/
def Obligations.BringUpSteps : Prop :=
  (∀ (s : State) (lost : Bool), s.mod.standby = true → lost = false ∨ s.mod.vin = true →
    exec (.vinGood lost) s = .next { s with mod.vin := true }) ∧
  (∀ (s : State) (lost : Bool), s.mod.standby = false ∨ lost = true ∧ s.mod.vin = false → ∃ t, exec (.vinGood lost) s = .next t ∧ t.mod.vin = true ∧ t.mod.standby = true ∧
    t.mod.sampled = false ∧ t.mod.cold = true ∧ t.pwr.alert = 0 ∧ t.rcv.alert = 0 ∧ t.time.running = false) ∧
  (∀ (s : State) (p : StrapPins),
    (s.mod.standby = true → s.mod.vin = true → s.mod.rstLow = false → s.mod.shut = false → s.mod.sampled = false →
      ∃ t, exec (.strapSampling p) s = .next t ∧ t.mod.sampled = true ∧ t.mod.straps = strapsOf p ∧
        t.host.owner = (strapsOf p).hostrole.toNat ∧ t.coordOk = ((strapsOf p).coordMode == 0 || s.coordOk) ∧
        ((strapsOf p).coordMode = 0 → t.coord = (strapsOf p).coord) ∧
        (s.mod.cold = true → t.pwr.cls = (strapsOf p).pwrclass.toNat) ∧ (s.mod.cold = false → t.pwr = s.pwr) ∧
        ((strapsOf p).err = true → t.rcv.alert.getLsbD 1 = true) ∧ t.mem = s.mem) ∧
    (s.mod.sampled = true ∨ s.mod.rstLow = true ∨ s.mod.shut = true ∨ s.mod.standby = false ∨ s.mod.vin = false →
      exec (.strapSampling p) s = .next s)) ∧
  (∀ s : State, (s.mod.sampled = true → s.mod.vin = true → s.mod.shut = false →
      exec .railsUp s = .next { s with mod.rails := true }) ∧
    (s.mod.sampled = false ∨ s.mod.vin = false ∨ s.mod.shut = true → exec .railsUp s = .next s)) ∧
  (∀ (s : State) (b : BayId), s.MemCanon →
    (s.upAndManaged = true → s.rcv.disBay.getLsbD b = false → s.mod.bayReady.getLsbD b = false →
      ∃ t, exec (.bayReady b) s = .next t ∧ t.mod.bayReady.getLsbD b = true ∧ (t.bay b).clear = true ∧
        (t.bay b).inReset = false ∧ (∀ a, a < 0x4000000 → t.byte (bbPhys b a) = 0) ∧
        (∀ l a, bayOf l = b.val → a < 0x60000 → t.byte (lsPhys l a) = 0) ∧
        ((s.bay b).ntActive = false → ∀ a, a < 0x18000000000 → t.byte a = s.byte a) ∧ ∀ c, c ≠ b.val → t.bay c = s.bay c) ∧
    (s.upAndManaged = false ∨ s.rcv.disBay.getLsbD b = true ∨ s.mod.bayReady.getLsbD b = true →
      exec (.bayReady b) s = .next s)) ∧
  (∀ (s : State) (n : Fin 8) (d : DimmFound), s.upAndManaged = true → s.rcv.disCh = 0 → s.rcv.disBay = 0 → d.typ ≠ 0 →
    (d.typ < 3 → d.cap < 5 → ∃ t, exec (.granaryChannelReady n (List.replicate 8 d)) s = .next t ∧ t.gr.pop = [0, 1, 2, 3, 4, 5, 6, 7] ∧
      t.mod.chReady.getLsbD n = true ∧ t.gr.mismatch = false ∧ t.gr.popErr = false) ∧
    (s.part.order ≠ 1 → s.part.order ≠ 2 → ∃ t, exec (.granaryChannelReady n [d, d]) s = .next t ∧ t.gr.pop = [] ∧
      t.gr.popErr = true ∧ t.mod.chReady = 0 ∧ t.rcv.alert.getLsbD 2 = true) ∧
    (3 ≤ d.typ ∨ 5 ≤ d.cap → s.part.order ≠ 1 → s.part.order ≠ 2 → ∃ t,
      exec (.granaryChannelReady n (List.replicate 8 d)) s = .next t ∧ t.gr.pop = [] ∧ t.gr.popErr = true ∧ t.mod.chReady = 0 ∧
      t.rcv.alert.getLsbD 2 = true) ∧
    (∀ l, s.part.order = 1 ∨ s.part.order = 2 → ∃ t, exec (.granaryChannelReady n l) s = .next t ∧
      t.gr.pop = [0, 1, 2, 3, 4, 5, 6, 7] ∧ t.gr.capacity = (if s.part.order = 1 then 0x10000000000 else 0x20000000000) ∧
      t.mod.chReady.getLsbD n = true)) ∧
  (∀ (s : State) (n : Fin 8) (l : List DimmFound), s.upAndManaged = false → exec (.granaryChannelReady n l) s = .next s)

/-- MANAGEMENT_BOOT, HOST_BOOT_PACKAGE, HOST_BOOT_TIMEOUT, MANAGEMENT_FAILOVER, STANDBY_READY (R432, R459 to R464): the
boot ROM takes the newest good package and measures it, or waits for one from the host that HOSTROLE names, which
fails when none is posted in time; a failed boot tells the host once its mailbox is IDLE; a failover aborts the record
that holds job control and sets its alert. STANDBY_OK cleared by a failover is log 32; the sources tried within the
command and no fuse action for a host package are log 44. -/
def Obligations.FirmwareBootsAndFailsOver : Prop :=
  (∀ s : State, s.mod.rails = false ∨ s.sec.booted = true ∨ s.mod.bootWait = true ∨ s.mod.bootFail = true →
    exec .managementBoot s = .next s) ∧
  (∀ s : State, s.mod.rails = true → s.sec.booted = false → s.mod.bootWait = false → s.mod.bootFail = false →
    (s.mod.straps.bootsrc ≠ 2 → (s.sec.slot s.newest).state = 3 → s.pkgCode (s.sec.slot s.newest).pkg = none →
      ∃ t, exec .managementBoot s = .next t ∧ t.mod.mgmt = true ∧ t.sec.booted = true ∧ t.sec.run = s.newest ∧
        t.sec.svn = recField (s.sec.slot s.newest).pkg 12 4 ∧
        t.sec.mMgmt = BitVec.ofNat 512 (recField (s.sec.slot s.newest).pkg 32 64) ∧ s.sec.floor ≤ t.sec.floor) ∧
    (s.mod.straps.bootsrc = 2 → ∃ t, exec .managementBoot s = .next t ∧ t.mod.bootWait = true ∧ t.mod.mgmt = s.mod.mgmt ∧
      t.mod.tries = [s.newest, 1 - s.newest])) ∧
  (∀ (s : State) (pkg : List Byte), s.mod.bootWait = false → s.mod.bootFail = false →
    exec (.hostBootPackage pkg) s = .next s ∧ exec .hostBootTimeout s = .next s) ∧
  (∀ (s : State) (pkg : List Byte), s.mod.bootWait = true → s.posted s.bootBox s.mod.straps.hostrole.toNat 0xB0 = true →
    s.postedLen s.bootBox = pkg.length → s.pkgCode pkg = none → ∃ t, exec (.hostBootPackage pkg) s = .next t ∧
      t.mod.mgmt = true ∧ t.mod.bootWait = false ∧ t.sec.booted = true ∧ t.sec.run = 2 ∧ t.sec.floor = s.sec.floor ∧
      (t.box s.bootBox).st = 0) ∧
  (∀ s : State, s.mod.bootWait = true → s.posted s.bootBox s.mod.straps.hostrole.toNat 0xB0 = true →
    exec .hostBootTimeout s = .next s) ∧
  (∀ s : State, s.mod.bootWait = true → s.posted s.bootBox s.mod.straps.hostrole.toNat 0xB0 = false → s.mod.tries = [] →
    ∃ t, exec .hostBootTimeout s = .next t ∧ t.mod.bootFail = true ∧ t.mod.bootWait = false ∧ t.alertN = true ∧
    ((s.box s.bootBox).st ≠ 0 → t.mod.bootMsg.isSome = true ∧ t.host.boxes = s.host.boxes)) ∧
  (∀ s : State, (s.mod.mgmt = true → s.rcv.standby = false → ∃ t, exec .managementFailover s = .next t ∧
      t.mod.mgmt = false ∧ t.rcv.standby = true ∧ t.rcv.standbyOk = false ∧ t.host.jc = none ∧
      t.rcv.failovers = min 255 (s.rcv.failovers + 1) ∧ t.rcv.alert.getLsbD 10 = true ∧ t.lines = s.lines ∧
      t.mem = s.mem ∧ t.time = s.time) ∧
    (s.mod.mgmt = false ∨ s.rcv.standby = true → exec .managementFailover s = .next s) ∧
    (s.mod.rails = true → s.sec.booted = true → s.rcv.standby = true →
      exec .standbyReady s = .next { s with mod.mgmt := true }) ∧
    (s.mod.rails = false ∨ s.sec.booted = false ∨ s.rcv.standby = false → exec .standbyReady s = .next s))

/-- MODRST_N, I3C_RESET_COMMAND, VIN_STOP_THRESHOLD, THERMAL_SHUTDOWN, MODRST, BAYRST, LINERST (Tables 14-3, 14-4, R408,
R426, R433, R436, R455): a module reset keeps the granary and the near tier but for moves, copies, snapshots and pulls
in progress, the flash, the fuses and the keys; with rails removed memory is lost: every byte of the near tier and the
granary is a free value. A bay whose training has failed is reset by the management controller at most twice. Links
and pins after a reset: log 45. -/
def Obligations.ResetsKeepWhatTheyKeep : Prop :=
  (∀ (s : State) (c : Instr), (∃ cool, c = .modrstN true cool) ∨ (∃ cool, c = .i3cResetCommand cool) ∨
      (∃ who, c = .modrstCmd who ∧ s.OwnerReaches who (dieReg 0 0x840)) → s.gr.queue = [] →
    (∀ m ∈ s.host.mem, m.write = true → m.ring = none) → s.rcv.snap = none → s.rcv.pullAct = false →
    s.MemCanon →
    ∃ t, exec c s = .next t ∧ t.time.running = false ∧ t.time.loaded = false ∧ t.job = default ∧ t.mod.mgmt = false ∧
      t.mod.sampled = false ∧ t.mod.rails = s.mod.rails ∧ t.mod.bayReady = 0 ∧ t.sec.keys = s.sec.keys ∧
      t.sec.flashA = s.sec.flashA ∧ t.sec.floor = s.sec.floor ∧ t.sec.unlocked = false ∧ t.rcv.slotA = s.rcv.slotA ∧
      t.part = s.part ∧ t.time.now = s.time.now ∧
      (∀ a, a < 0x18000000000 → t.byte a = s.byte a) ∧ (∀ a, 0x20000000000 ≤ a → t.byte a = s.byte a) ∧
      (∀ a, 0x18000000000 ≤ a → a < 0x20000000000 → t.byte a = 0)) ∧
  (∀ (s : State) (cool : Bool), exec (.modrstN false cool) s = .next { s with mod.rstLow := false }) ∧
  (∀ (s : State) (high : Bool), ∃ t, exec (.vinStopThreshold high) s = .next t ∧ t.mod.vin = false ∧ t.mod.rails = false ∧
    t.mod.sampled = false ∧ t.pwr.alert.getLsbD (if high then 1 else 0) = true ∧ t.time.running = false ∧
    t.rcv.caps = [] ∧ t.sec.keys = s.sec.keys ∧ s.MemoryLost t) ∧
  (∀ (s : State) (b : BayId) (n : Fin 36) (d : BitVec 8),
    (d.toNat < (if n.val < 32 then 110 else 105) → exec (.thermalShutdown b n d) s = .next s) ∧
    ((if n.val < 32 then 110 else 105) ≤ d.toNat → ∃ t, exec (.thermalShutdown b n d) s = .next t ∧ t.mod.shut = true ∧
      t.mod.rails = false ∧ t.pwr.alert.getLsbD 4 = true ∧ s.MemoryLost t ∧
      t.pwr.tmax = BitVec.ofNat 32 (d.toNat + 256 * b.val + 2048 * n.val))) ∧
  (∀ (s : State) (who : Requester), s.Reaches who (dieReg 0 0x840) →
    (s.isOwner who = false → exec (.modrstCmd who) s = .next s) ∧
    (∀ b : BayId, s.isOwner who = false ∨ s.time.loaded = true → s.mayRetrain who b = false → exec (.bayrst who b) s = .next s) ∧
    (∀ b : BayId, who = .mgmt → s.upAndManaged = true → s.mod.bayReady.getLsbD b = false → s.rcv.disBay.getLsbD b = false →
      s.mod.trains.look b 0 < 2 → ∃ t, exec (.bayrst who b) s = .next t ∧ (t.bay b).inReset = true ∧
        t.mod.trains.look b 0 = s.mod.trains.look b 0 + 1 ∧ t.mem = s.mem) ∧
    (s.time.loaded = true → ∀ l, exec (.linerst who l) s = .next s) ∧
    (who ≠ .debug → ∀ l, exec (.linerst who l) s = .next s) ∧
    (s.isOwner who = true → s.time.loaded = false → ∀ b, ∃ t, exec (.bayrst who b) s = .next t ∧
      t.mod.bayReady.getLsbD b = false ∧ (t.bay b).inReset = true ∧ t.mem = s.mem ∧
      (∀ l, bayOf l ≠ b.val → t.line l = s.line l) ∧
      ∀ p, p < 12 → portBay p = b.val → (t.port p).st = 0 ∨ (t.port p).st = 7) ∧
    (who = .debug → s.time.loaded = false → ∀ l, ∃ t, exec (.linerst who l) s = .next t ∧
      t.line l = { (s.line l).cleared with inReset := true } ∧ t = { s with lines := t.lines } ∧
      ∀ k, k ≠ l.val → t.line k = s.line k))

/-- SQ_DB, CQ_DB, RING_CFG_WRITE (R383, R384, Table 12-13): a doorbell within an enabled ring moves its tail or head, any
other sets HST_ERR.DB_RANGE; one that the function does not claim, its memory space not enabled, is an Unsupported
Request (R373, log 71); only the port's host configures a ring; enabling it clears its indices. -/
def Obligations.DoorbellsAndRingConfiguration : Prop :=
  (∀ (s : State) (p : HostId) (q : RingId) (v : W32) (i : Instr), i = .sqDb p q v ∨ i = .cqDb p q v → (s.hp p).memOn = false →
    ∃ t, exec i s = .next t ∧ (t.hp p).sqs = (s.hp p).sqs ∧ (t.hp p).cqs = (s.hp p).cqs ∧ (t.hp p).err = (s.hp p).err ∧
      (t.hp p).aer.getLsbD 20 = true ∧ t.outbox = .regError (.host p) :: s.outbox) ∧
  (∀ (s : State) (p : HostId) (q : RingId) (v : W32), (s.hp p).memOn = true →
    ((s.sq p q).en = true → (v.extractLsb' 0 16).toNat < 2 ^ (s.sq p q).k → ∃ t, exec (.sqDb p q v) s = .next t ∧
      t.sq p q = { s.sq p q with tail := (v.extractLsb' 0 16).toNat } ∧ t = { s with host.ports := t.host.ports } ∧
      ∀ r : RingId, r ≠ q → t.sq p r = s.sq p r) ∧
    ((s.sq p q).en = false ∨ 2 ^ (s.sq p q).k ≤ (v.extractLsb' 0 16).toNat → ∃ t, exec (.sqDb p q v) s = .next t ∧
      (t.hp p).err.getLsbD 0 = true ∧ t.sq p q = s.sq p q) ∧
    ((s.cq p q).en = true → (v.extractLsb' 0 17).toNat < 2 ^ ((s.cq p q).k + 1) → ∃ t, exec (.cqDb p q v) s = .next t ∧
      t.cq p q = { s.cq p q with head := (v.extractLsb' 0 17).toNat }) ∧
    ((s.cq p q).en = false ∨ 2 ^ ((s.cq p q).k + 1) ≤ (v.extractLsb' 0 17).toNat → ∃ t, exec (.cqDb p q v) s = .next t ∧
      (t.hp p).err.getLsbD 0 = true ∧ t.cq p q = s.cq p q)) ∧
  (∀ (s : State) (who : Requester) (p : HostId) (c : Bool) (q : RingId) (v : W32) (k o : Nat),
    o = 0x80000 + 0x10000 * p.val + (if c then 0x308 else 0x108) + 0x20 * q.val → k = (v.extractLsb' 0 5).toNat →
    s.Reaches who o →
    (who ≠ .host p → exec (.ringCfgWrite who p c q v) s = .next s) ∧
    (who = .host p → (k < 6 ∨ 16 < k) → ∃ t, exec (.ringCfgWrite who p c q v) s = .next t ∧ (t.hp p).err.getLsbD 5 = true ∧
      t.sq p q = s.sq p q ∧ t.cq p q = s.cq p q) ∧
    (who = .host p → 6 ≤ k → k ≤ 16 → c = false → (s.sq p q).en = false → v.getLsbD 5 = true →
      ∃ t, exec (.ringCfgWrite who p c q v) s = .next t ∧ t.sq p q = { s.sq p q with
        k := k, en := true, cq := (v.extractLsb' 6 4).toNat, head := 0, tail := 0, stopped := false, part := [], queue := [] }) ∧
    (who = .host p → 6 ≤ k → k ≤ 16 → c = true → (s.cq p q).en = false → v.getLsbD 5 = true →
      ∃ t, exec (.ringCfgWrite who p c q v) s = .next t ∧ (t.cq p q).k = k ∧ (t.cq p q).en = true ∧ (t.cq p q).head = 0 ∧
        (t.cq p q).tail = 0 ∧ (t.cq p q).phase = true))

/-- BALE_FETCH, PAD_REC, NOP_REC, STATUS_REC, COMPLETION_POST, CQ_INTERRUPT (R385 to R387, R395 to R397): units become
records in order; fetches and postings wait while the function makes no requests (R373, log 71); a record that has the
rotation's turn (log 49) begins; a NOP completes with OK, a STATUS after its block is written, a malformed record with
the offset of its least bad byte (log 30); a posted completion carries the ring's phase; a CQ interrupts by its count
or its time as it comes due, where MSI-X is enabled (log 71) and neither the function nor the vector is masked. -/
def Obligations.RingsFetchCompleteAndInterrupt : Prop :=
  (∀ (s : State) (p : HostId) (q : RingId) (us : List (BitVec 512)),
    ((s.sq p q).queue ≠ [] ∨ (s.sq p q).en = false ∨ s.mod.mgmt = false ∨ us.length < (s.sq p q).bale ∨ (s.hp p).masters = false →
      exec (.baleFetch p q us) s = .next s) ∧
    (∀ u, us = [u] → s.mod.mgmt = true → (s.hp p).masters = true → (s.sq p q).en = true → (s.sq p q).stopped = false → (s.sq p q).queue = [] →
      (s.sq p q).part = [] → (s.sq p q).cur = none → (s.sq p q).head + 1 = (s.sq p q).tail →
      (s.sq p q).tail < 2 ^ (s.sq p q).k → (u.extractLsb' 0 8).toNat ≤ 11 → (u.extractLsb' 0 8).toNat ≠ 0 →
      (u.extractLsb' 8 5).toNat = 1 → ∃ t, exec (.baleFetch p q us) s = .next t ∧ (t.sq p q).head = (s.sq p q).tail ∧
        (t.sq p q).queue = [⟨(s.sq p q).head, [u], false⟩] ∧ (t.sq p q).cur = none ∧
        ((s.sq p q).base.toNat % 64 = 0 →
          t.outbox = .hostRead p ((s.sq p q).base.toNat + 64 * (s.sq p q).head) 64 :: s.outbox)) ∧
    (∀ u v, us = [u, v] → s.mod.mgmt = true → (s.hp p).masters = true → (s.sq p q).en = true → (s.sq p q).stopped = false → (s.sq p q).queue = [] →
      (s.sq p q).part = [] → (s.sq p q).cur = none → (s.sq p q).head + 2 = (s.sq p q).tail → (s.sq p q).tail < 2 ^ (s.sq p q).k →
      (∀ x ∈ us, 1 ≤ (x.extractLsb' 0 8).toNat ∧ (x.extractLsb' 0 8).toNat ≤ 11) → ∃ t, exec (.baleFetch p q us) s = .next t ∧
        ((∀ x ∈ us, (x.extractLsb' 8 5).toNat = 1) → (t.sq p q).queue =
          [⟨(s.sq p q).head, [u], false⟩, ⟨(s.sq p q).head + 1, [v], false⟩]) ∧
        ((u.extractLsb' 8 5).toNat = 2 → (t.sq p q).queue = [⟨(s.sq p q).head, us, false⟩]))) ∧
  (∀ (s : State) (p : HostId) (q : RingId) (r : FetchedRec),
    (s.Front p q r → r.typ = 0 → ∃ t, exec (.padRec p q) s = .next t ∧ (t.sq p q).queue = [] ∧ (t.sq p q).cur = none ∧
      ∀ n : RingId, t.cq p n = s.cq p n) ∧
    (s.Accepts p q 1 r → r.quiet = false → ∃ t, exec (.nopRec p q) s = .next t ∧ t.Completes p q r 0 0 0 ∧
      t = { s with host := { s.host with ports := t.host.ports, turn := (16 * p.val + q.val + 1) % 32 } }) ∧
    (s.Accepts p q 9 r → r.quiet = false → ∃ t, exec (.statusRec p q) s = .next t ∧ t.Completes p q r 0 0 128 ∧
      t.outbox = .hostWrite p (r.f 8 8) s.statusBlock :: s.outbox ∧ s.statusBlock.length = 128 ∧ t.time = s.time) ∧
    (s.Front p q r → r.typ = 1 → ∀ o, s.formatErr r = some o → ∃ t, exec (.nopRec p q) s = .next t ∧
      t.Completes p q r 1 o 0)) ∧
  (∀ (s : State) (p : HostId) (q : RingId) (c : Completion) (rest : List (Option Nat × Completion)),
    ((s.cq p q).wait = [] ∨ (s.hp p).masters = false ∧ (s.cq p q).wait = (none, c) :: rest → exec (.completionPost p q) s = .next s) ∧
    ((s.cq p q).wait = (none, c) :: rest → (s.hp p).masters = true → (s.cq p q).en = true → (s.cq p q).full = false →
      ∃ t, exec (.completionPost p q) s = .next t ∧
        (∃ l, t.outbox = l ++ .hostWrite p ((s.cq p q).base.toNat + 32 * (s.cq p q).tail) (c.bytes (s.cq p q).phase) :: s.outbox ∧
          (∀ x ∈ l, x = .msix p (s.cq p q).vec) ∧ ((s.hp p).msixOn = true → (s.hp p).msixHeld = false →
            ((s.hp p).msix.look (s.cq p q).vec 0).getLsbD 96 = false → max 1 (s.cq p q).cnt ≤ (s.cq p q).since + 1 → l ≠ [])) ∧
        (t.cq p q).tail = ((s.cq p q).tail + 1) % (s.cq p q).size ∧ (t.cq p q).wait = rest ∧
        (t.cq p q).phase = (if ((s.cq p q).tail + 1) % (s.cq p q).size = 0 then !(s.cq p q).phase else (s.cq p q).phase)) ∧
    (∀ n, (s.cq p q).wait = (some n, c) :: rest → (s.hp p).masters = true → (s.cq p q).en = true → (s.cq p q).full = false →
      (s.sq p n).queue = [] → ∃ t, exec (.completionPost p q) s = .next t ∧ (t.sq p n).cur = none ∧
        (t.cq p q).wait = rest) ∧
    ((s.cq p q).wait = (none, c) :: rest → (s.cq p q).full = true → exec (.completionPost p q) s = .next s)) ∧
  (∀ (s : State) (p : HostId) (q : RingId),
    ((s.cq p q).due s.time.now = false → exec (.cqInterrupt p q) s = .next s) ∧
    ((s.cq p q).due s.time.now = true → ∃ t, exec (.cqInterrupt p q) s = .next t ∧ (t.cq p q).since = 0 ∧
      (t.cq p q).oldest = none ∧
      ((s.hp p).msixOn = false → t.outbox = s.outbox ∧ (t.hp p).pba = (s.hp p).pba) ∧
      ((s.hp p).msixOn = true → (s.hp p).msixHeld = false → ((s.hp p).msix.look (s.cq p q).vec 0).getLsbD 96 = false →
        t.outbox = .msix p (s.cq p q).vec :: s.outbox) ∧
      ((s.hp p).msixOn = true → (s.hp p).msixHeld = true ∨ ((s.hp p).msix.look (s.cq p q).vec 0).getLsbD 96 = true →
        (s.cq p q).vec < 64 → t.outbox = s.outbox ∧ (t.hp p).pba.getLsbD (s.cq p q).vec = true)))

/-- PERST#, LINK_LEAVES_L0, PCIE_LINK_UP, D3HOT, OWNER_TAKEOVER, RELEASE_REC (R379 to R382, R394, R404): a port that goes
down is reset: its rings are disabled, its open records post nothing, its COPY ends and the bytes it has written into
the device are undefined; its records of job control run to their end with no completion. A change between D0 and
D3hot changes its bit alone (log 71, the model's). The owner changes by RELEASE to a port that is up, or by takeover
after TKOVR. -/
def Obligations.PortsAndOwnership : Prop :=
  (∀ (s : State) (p : HostId) (c : Instr), (c = .perst p true ∨ c = .linkLeavesL0 p ∧ (s.hp p).up = true) →
    ∃ t, exec c s = .next t ∧ (t.hp p).up = false ∧ (∀ q : RingId, (t.sq p q).en = false ∧ (t.cq p q).en = false) ∧
      t.portDown p = true ∧ (t.hp p).downAt.isSome = true ∧ (t.box (.open_ p)).st = 0 ∧ (t.box (.secure p)).st = 0 ∧
      (∀ o : HostId, o ≠ p → t.hp o = s.hp o) ∧ t.lines = s.lines ∧ t.mem = s.mem ∧
      t.time = s.time ∧ t.job = s.job ∧
      (∀ q : RingId, (t.sq p q).cur = none ∧ (t.sq p q).queue = [] ∧ (t.cq p q).wait = []) ∧
      (∀ a d, .hostWrite p a d ∈ t.outbox → .hostWrite p a d ∈ s.outbox) ∧
      (∀ x, x ∈ t.host.mem ↔ x ∈ s.host.mem ∧ ¬(x.ring.isSome = true ∧ x.who = .host p)) ∧
      ((∀ x ∈ s.host.mem, x.ring.isSome = true → x.who = .host p → x.write = true → x.done = 0) →
        t.undef = s.undef ∧ t.freeIx = s.freeIx) ∧
      (∀ x y, s.host.mem = [x] → x.ring.isSome = true → x.who = .host p → x.write = true → x.done ≠ 0 →
        x.addr % 4096 + x.done ≤ 4096 → s.phys x.addr = some y →
          (∀ i, i < x.done → t.byte (y + i) = Config.freeByte s.freeIx (y + i)) ∧
          ∀ z, z < y ∨ y + x.done ≤ z → t.byte z = s.byte z) ∧
      (∀ q, s.host.jc = some (p.val, q) → t.host.jc = some (p.val, 16)) ∧
      (∀ q, s.host.startRec = some (p.val, q) → t.host.startRec = some (p.val, 16)) ∧
      (∀ q, s.host.loadRec = some (p.val, q) → t.host.loadRec = some (p.val, 16) ∧ t.host.loadFr = s.host.loadFr) ∧
      (∀ q, s.host.snapRec = some (p.val, q) → t.host.snapRec = some (p.val, 16) ∧ t.rcv.snap = s.rcv.snap) ∧
      (∀ q, (p.val, q) ∈ s.host.killRec → (p.val, 16) ∈ t.host.killRec) ∧
      (∀ q a b, ((p.val, q), a, b) ∈ s.host.attest → ((p.val, 16), a, b) ∈ t.host.attest)) ∧
  (∀ (s : State) (p : HostId), s.host.killRec = [(p.val, 16)] → (s.sq p 16).cur = none →
    ∃ t, exec .fillComplete s = .next t ∧ t.host.killRec = [] ∧ t.host.ports = s.host.ports ∧ t.outbox = s.outbox) ∧
  (∀ (s : State) (p : HostId), (s.hp p).up = false → exec (.linkLeavesL0 p) s = .next s) ∧
  (∀ (s : State) (p : HostId), ∃ t, exec (.perst p false) s = .next t ∧ t.hp p = { s.hp p with perst := false }) ∧
  (∀ (s : State) (p : HostId) (r w : Nat), ((s.hp p).perst = true → exec (.pcieLinkUp p r w) s = .next s) ∧
    ((s.hp p).perst = false → ∃ t, exec (.pcieLinkUp p r w) s = .next t ∧ t.portDown p = false ∧ (t.hp p).rate = r % 8 ∧
      (t.hp p).width = w % 16 ∧ (t.hp p).sqs = (s.hp p).sqs)) ∧
  (∀ (s : State) (p : HostId) (e : Bool), ∃ t, exec (.d3hot p e) s = .next t ∧ t.hp p = { s.hp p with d3hot := e } ∧
    t = { s with host.ports := t.host.ports }) ∧
  (∀ s : State,
    (s.portDown s.host.owner = false ∨ s.host.tkovr = 0 ∨ s.portDown (1 - s.host.owner) = true →
      exec .ownerTakeover s = .next s) ∧
    (∀ d, s.portDown s.host.owner = true → s.portDown (1 - s.host.owner) = false → s.host.tkovr ≠ 0 →
      (s.hp s.host.owner).downAt = some d →
      (s.time.now ≤ d + 8000000 * s.host.tkovr → exec .ownerTakeover s = .next s) ∧
      (d + 8000000 * s.host.tkovr < s.time.now → ∃ t, exec .ownerTakeover s = .next t ∧
        t.host.owner = 1 - s.host.owner ∧ t.host.lastTk = true ∧ t.host.changed = true ∧
        t.host.changes = min 255 (s.host.changes + 1) ∧ t.sec.unlocked = false ∧ t.job = s.job ∧ t.lines = s.lines))) ∧
  (∀ (s : State) (p : HostId) (q : RingId) (r : FetchedRec), s.Accepts p q 8 r → s.host.jc = none →
    (s.portDown (1 - p.val) = true → ∃ t, exec (.releaseRec p q) s = .next t ∧ t.Completes p q r 3 0 0 ∧
      t.host.owner = s.host.owner) ∧
    (s.portDown (1 - p.val) = false → ∃ t, exec (.releaseRec p q) s = .next t ∧ t.host.owner = 1 - p.val ∧
      t.host.lastTk = false ∧ (t.box (.secure p)).allow.getLsbD p.val = false ∧ t.sec.unlocked = false ∧ t.job = s.job))

/-- COPY_REC, COPY_COMPLETE, PCIE_COMPLETION_TIMEOUT (R290, R305, R373, R388, R392, Table 12-9): a COPY of the near tier,
a bay buffer or the granary becomes an access that goes on row by row; the host's memory is read in requests of at
most 4,096 bytes that together are the range (their size is log 71); a copy waits while the function makes no requests
(log 71); one of the local-store window writes exactly its range or sends it, whole and in the command (log 40), and
completes; a range that is refused, as the record begins or at COPY_COMPLETE (log 15), completes with ADDRESS; the
bytes to the device are read at HADDR; a failed request ends the copy with PCIE, after the bytes that have come are
written, in their slots or at HADDR, and AER logs a timeout or a poisoned completion (log 71). -/
def Obligations.CopiesMoveTheirRange : Prop :=
  (∀ (s : State) (p : HostId) (a n : Nat), ∃ l, (s.readHost p a n).outbox = l ++ s.outbox ∧
    (∀ x ∈ l, ∃ b k, x = .hostRead p b k ∧ 0 < k ∧ k ≤ (s.hp p).readMax ∧ k ≤ 4096 ∧ a ≤ b ∧ b + k ≤ a + n ∧
      b / 4096 = (b + k - 1) / 4096) ∧
    (∀ y, a ≤ y → y < a + n → ∃ b k, .hostRead p b k ∈ l ∧ b ≤ y ∧ y < b + k) ∧
    s.readHost p a n = { s with outbox := l ++ s.outbox }) ∧
  ∀ (s : State) (p : HostId) (q : RingId) (r : FetchedRec) (a n : Nat), a = r.f 16 6 → n = r.f 24 5 →
    (s.Accepts p q 2 r → s.copying p < 8 →
      (s.against s.windowsClosed a n = none → ∃ t, exec (.copyRec p q) s = .next t ∧
        (t.sq p q).cur = some ⟨r, none⟩ ∧ t.mem = s.mem ∧ t.lines = s.lines ∧
        t.outbox = if r.opt % 2 = 0 then (s.readHost p (r.f 8 8) n).outbox else s.outbox) ∧
      (∀ d, s.against s.windowsClosed a n = some d → ∃ t, exec (.copyRec p q) s = .next t ∧
        t.Completes p q r 5 d 0 ∧ t.mem = s.mem)) ∧
    ((s.sq p q).cur = none ∨ (s.hp p).masters = false → ∀ data bad, exec (.copyComplete p q data bad) s = .next s) ∧
    ((s.sq p q).cur = some ⟨r, none⟩ → r.typ = 2 → r.quiet = false → ∀ data bad,
      ((s.hp p).masters = true → ∀ d, s.against s.windowsClosed a n = some d → ∃ t, exec (.copyComplete p q data bad) s = .next t ∧
        t.Completes p q r 5 d 0 ∧ t.mem = s.mem) ∧
      ((s.hp p).masters = true → ∀ ar, s.against s.windowsClosed a n = none → s.areaOf a n = some ar → n ≠ 0 →
        (r.opt % 2 = 0 → data.length < n → exec (.copyComplete p q data bad) s = .next s) ∧
        ((∃ x ∈ s.host.mem, x.ring = some q.val ∧ x.who = .host p) → ar.slotted = true →
          exec (.copyComplete p q data bad) s = .next s) ∧
        (ar.slotted = true → (∀ x ∈ s.host.mem, ¬(x.ring = some q.val ∧ x.who = .host p)) →
          (r.opt % 2 = 0 → n ≤ data.length) → exec (.copyComplete p q data bad) s = .next { s with
            host.mem := s.host.mem ++
              [⟨.host p, some q, a, n, decide (r.opt % 2 = 0), if r.opt % 2 = 0 then data.take n else [], bad, 0, 0⟩] }) ∧
        (∀ l, ar = .ls l → (s.line l).ls.held = [] → s.MemCanon → r.opt % 2 = 0 → n ≤ data.length →
          ∃ t, exec (.copyComplete p q data bad) s = .next t ∧ t.Completes p q r 0 0 n ∧
            (∀ i, i < n → t.byte (a + i) = data.getD i 0) ∧ ∀ x, x < a ∨ a + n ≤ x → t.byte x = s.byte x) ∧
        (∀ l, ar = .ls l → r.opt % 2 = 1 → bad = none → s.marks = [] →
          ∃ t, exec (.copyComplete p q data bad) s = .next t ∧ t.Completes p q r 0 0 n ∧
            t.outbox = .hostWrite p (r.f 8 8) (s.hostBytes a n) :: s.outbox ∧ t.mem = s.mem ∧ t.undef = s.undef)) ∧
      (r.opt % 2 = 1 → ∀ e d, (s.host.mem.find? fun m => m.ring == some q.val && m.who == .host p).map (·.data) = some d ∨
          (∀ x ∈ s.host.mem, ¬(x.ring = some q.val ∧ x.who = .host p)) ∧ d = [] →
        ∃ t, exec (.pcieCompletionTimeout p q e data) s = .next t ∧
        t.Completes p q r 6 (pcieDetail e) d.length ∧ (t.hp p).err.getLsbD 4 = true ∧
        (e = .timeout → (t.hp p).aer.getLsbD 14 = true) ∧ (e = .poisoned → (t.hp p).aer.getLsbD 12 = true) ∧
        t.outbox = (if d = [] then s.outbox else .hostWrite p (r.f 8 8) d :: s.outbox) ∧
        t.mem = s.mem ∧ ∀ x ∈ t.host.mem, ¬(x.ring = some q.val ∧ x.who = .host p)) ∧
      (r.opt % 2 = 0 → ∀ e ar m, s.areaOf a n = some ar → m = min data.length n / 64 * 64 →
        (ar.slotted = true → m ≠ 0 → ∃ t, exec (.pcieCompletionTimeout p q e data) s = .next t ∧
          (⟨.host p, some q, a, m, true, data.take m, none, 0, pcieDetail e⟩ : MemAccess) ∈ t.host.mem ∧
          (t.hp p).err.getLsbD 4 = true ∧ t.mem = s.mem) ∧
        (ar.slotted = true → m = 0 → ∃ t, exec (.pcieCompletionTimeout p q e data) s = .next t ∧
          t.Completes p q r 6 (pcieDetail e) 0 ∧ (t.hp p).err.getLsbD 4 = true ∧ t.mem = s.mem) ∧
        (∀ l, ar = .ls l → (s.line l).ls.held = [] → s.MemCanon → ∃ t, exec (.pcieCompletionTimeout p q e data) s = .next t ∧
          t.Completes p q r 6 (pcieDetail e) m ∧ (∀ i, i < m → t.byte (a + i) = data.getD i 0) ∧
          ∀ x, x < a ∨ a + n ≤ x → t.byte x = s.byte x)))

/-- LOAD_REC, LOAD_PROCEED, START_JOB, KILL_REC, FILL_COMPLETE, CLEAR_UNIT_DONE, NT_SLICE_CLEAR_DONE (R280, R299, R363,
R394, R435): a LOAD takes job control and is refused while a job is loaded; a refused image leaves the module
unloaded; START releases sc 0 in the next cc, and completes then; KILL resets the job and completes when the fills
have; a slice's clear writes its rows from the next one on. -/
def Obligations.JobsLoadStartAndAreKilled : Prop :=
  (∀ (s : State) (p : HostId) (q : RingId) (r : FetchedRec),
    (s.Accepts p q 3 r → s.host.jc = none →
      (s.time.loaded = true → ∃ t, exec (.loadRec p q) s = .next t ∧ t.Completes p q r 3 0 0 ∧ t.host.jc = none) ∧
      (s.time.loaded = false → ∃ t, exec (.loadRec p q) s = .next t ∧ t.host.jc = some (p.val, q.val) ∧
        t.host.loadRec = some (p.val, q.val) ∧ t.job.ldBusy = true ∧ t.job.ldCode = 0 ∧ t.mem = s.mem ∧
        t.outbox = (s.readHost p (r.f 24 8) (16 * r.f 32 2)).outbox ∧ t.time = s.time)) ∧
    (s.Accepts p q 4 r → s.host.jc = none →
      (s.time.loaded = false ∨ s.time.running = true ∨ s.job.faultSc.isSome = true ∨ s.job.startAt.isSome = true → ∃ t,
        exec (.startJob p q) s = .next t ∧ t.Completes p q r 3 0 0 ∧ t.time = s.time ∧ t.job = s.job) ∧
      (s.time.loaded = true → s.time.running = false → s.job.faultSc = none → s.job.coordWait = none →
        s.job.startAt = none → s.job.resume = none → r.opt % 2 = 0 → ∃ t, exec (.startJob p q) s = .next t ∧
          t.time.running = false ∧ t.job.startAt = some (s.time.now + 1, 0) ∧ t.host.startRec = some (p.val, q.val) ∧
          (t.sq p q).cur = some ⟨r, none⟩ ∧ t.sc = 0 ∧ t.time.cnt.cc = 0 ∧ t.time.cnt.holdCc = 0 ∧ t.time.cnt.ndc = 0 ∧
          t.hrv.seq = 0 ∧ t.hrv.armed = false ∧ t.hrv.lost = 0 ∧ t.pwr.duty = 0 ∧ t.mem = s.mem ∧
          ∀ b, b < 8 → (t.bayPwr b).share = 3200) ∧
      (s.time.loaded = true → s.time.running = false → s.job.faultSc = none → s.job.coordWait = none →
        s.job.startAt = none → r.opt % 2 = 1 → s.fab.start.toNat % 2560 = 0 → s.fab.htcValid = true →
        (s.fab.start.toNat ≤ s.fab.htc → ∃ t, exec (.startJob p q) s = .next t ∧ t.Completes p q r 8 0 0 ∧
          t.time = s.time) ∧
        (s.fab.htc < s.fab.start.toNat → ∃ t, exec (.startJob p q) s = .next t ∧ t.job.coordWait.isSome = true ∧
          t.time.running = false ∧ t.host.startRec = some (p.val, q.val)))) ∧
    (s.Accepts p q 5 r → ∃ t, exec (.killRec p q) s = .next t ∧ t.host.loadRec = none ∧ (p.val, q.val) ∈ t.host.killRec ∧
      t.time.loaded = false ∧ t.mem = s.mem ∧
      (s.time.loaded = true → t.time.running = false ∧ t.job.img = none ∧ t.job.faults = [] ∧ t.uses = [] ∧ t.gr.queue = []) ∧
      (s.time.loaded = false → t.time = s.time ∧ t.gr = s.gr ∧ t.job.faults = s.job.faults ∧ t.fab = s.fab) ∧
      ∀ b, b < 8 → (t.bay b).lineActive = true ∧ (t.bay b).bbActive = true ∧ (t.bay b).clrLines = [] ∧
        (t.bay b).clrSlices = [] ∧ (r.opt % 2 = 1 → (t.bay b).ntActive = true ∧ (t.bay b).ntDone = []))) ∧
  (∀ (s : State) (n : Nat), s.pending = [] → s.time.running = false → s.job.coordWait = none → s.openBoundary = none →
    s.host.hall = [] → s.host.mem = [] → s.free = [] → s.gr.cur = none → (∀ p, p < 12 → (s.port p).delay = []) →
    s.rcv.snap = none → s.rcv.sends = [] → s.job.startAt = some (s.time.now + 1, n) → ∃ t, step s = .next t ∧
    t.time.running = true ∧ t.time.release = s.time.now + 1 ∧ t.time.now = s.time.now + 1 ∧ t.sc = n ∧ t.job.startAt = none ∧
    ∀ (p : HostId) (q : RingId) (r : FetchedRec), s.host.startRec = some (p.val, q.val) → (s.sq p q).cur = some ⟨r, none⟩ →
      r.quiet = false → t.Completes p q r 0 0 s.nextHtc) ∧
  (∀ (s : State) (rl : List (BitVec 128)) (fe : Bool) (se : List (BitVec 42 × Bool)),
    (s.host.loadRec = none ∨ s.filling = true ∨ s.mod.mgmt = false → exec (.loadProceed rl fe se) s = .next s) ∧
    (∀ (p : HostId) (q : RingId) (r : FetchedRec) (z : LoadRefusal), s.host.loadRec = some (p.val, q.val) →
      s.host.loadFr = some r → s.filling = false → s.mod.mgmt = true → r.f 32 2 ≤ rl.length →
      s.checkLoad (s.readImage (r.f 8 8) (r.f 16 8)) (r.f 34 1) (rl.take (r.f 32 2)) = .error z →
      ∃ t, exec (.loadProceed rl fe se) s = .next t ∧ t.job.ldRefused = true ∧ t.job.ldBusy = false ∧
        t.job.ldStage = z.stage ∧ t.job.ldCode = z.code ∧ t.time = s.time ∧ t.host.loadRec = none ∧ t.mem = s.mem ∧
        t.lines = s.lines) ∧
    (∀ (p : HostId) (q : RingId) (r : FetchedRec) (x : Part) (g : List Region), s.host.loadRec = some (p.val, q.val) →
      s.host.loadFr = some r → s.filling = false → s.mod.mgmt = true → r.f 32 2 ≤ rl.length →
      s.checkLoad (s.readImage (r.f 8 8) (r.f 16 8)) (r.f 34 1) (rl.take (r.f 32 2)) = .ok (x, g) →
      r.opt % 2 = 0 →
      (fe = false → ∃ t, exec (.loadProceed rl fe se) s = .next t ∧ t.time.loaded = true ∧ t.time.running = s.time.running ∧
        (∃ i, t.job.img = some i ∧ i.regions = g) ∧ t.time.ctrlLoad = s.time.ctrl ∧ t.time.limitLoad = s.time.limit ∧
        t.time.cnt.ndc = 0 ∧ t.host.loadRec = none) ∧
      (fe = true → ∃ t, exec (.loadProceed rl fe se) s = .next t ∧ t.time.loaded = false ∧ t.job.img = none ∧
        t.job.ldStage = 9 ∧ t.job.ldCode = 0x80 ∧ t.job.ldRefused = true))) ∧
  (∀ s : State, s.MemCanon → ∃ t, exec .fillComplete s = .next t ∧ t.host.killRec = [] ∧
    (∀ b, b < 8 → (t.bay b).lineActive = false ∧ (t.bay b).bbActive = false ∧ (t.bay b).ntActive = false) ∧
    (∀ b a, b < 8 → a < 0x4000000 → (s.bay b).bbActive = true → (s.bay b).clrSlices.contains (bbSlice a) = false →
      t.byte (bbPhys b a) = 0) ∧
    ∀ (p : HostId) (q : RingId) (r : FetchedRec), s.host.killRec = [(p.val, q.val)] → (s.sq p q).cur = some ⟨r, none⟩ →
      r.quiet = false → t.Completes p q r 0 0 0) ∧
  (∀ (s : State) (b : BayId) (u : Fin 64), s.MemCanon →
    (s.lineFilling (b * 64 + u) = true → ∃ t, exec (.clearUnitDone b true u) s = .next t ∧
      (∀ a, a < 0x60000 → t.byte (lsPhys (b * 64 + u) a) = 0) ∧ (t.line (b * 64 + u)).inReset = false) ∧
    (s.lineFilling (b * 64 + u) = false → exec (.clearUnitDone b true u) s = .next s) ∧
    ((s.bay b).bbActive = true → (s.bay b).clrSlices.contains u.val = false → ∃ t, exec (.clearUnitDone b false u) s = .next t ∧
      (t.bay b).clrSlices = u.val :: (s.bay b).clrSlices ∧ t.lines = s.lines ∧
      (∀ a, a < 0x4000000 → bbSlice a = u.val → t.byte (bbPhys b a) = 0)) ∧
    ((s.bay b).bbActive = false ∨ (s.bay b).clrSlices.contains u.val = true →
      exec (.clearUnitDone b false u) s = .next s)) ∧
  (∀ (s : State) (sl : Fin 256), s.MemCanon →
    ((s.bay (sl / 32)).ntActive = true → (s.bay (sl / 32)).ntDone.contains sl.val = false → ∃ t,
      exec (.ntSliceClearDone sl) s = .next t ∧
      (∀ o, 128 * (s.bay (sl / 32)).ntPos.look sl 0 ≤ o → o < 0x180000000 → t.byte (ntPhys sl o) = 0) ∧
      (t.bay (sl / 32)).ntDone.contains sl.val = true) ∧
    ((s.bay (sl / 32)).ntActive = false → exec (.ntSliceClearDone sl) s = .next s))

/-- HARVEST_REC, SNAPSHOT_REC (R61, R62, R394, R442), JOB_END and FAULT_REPORTING (R38, R365, R366, R454, R475): a request
arms or is refused without a running job; a SNAPSHOT that comes while an earlier one is captured or written waits its
turn, one that finds one pending is refused; a part that is done ends with RUNNING and LOADED clear and its event; a
job that a fault has ended is reported once, with its alert. -/
def Obligations.JobsHarvestAndEnd : Prop :=
  (∀ (s : State) (p : HostId) (q : RingId) (r : FetchedRec), s.host.jc = none → r.quiet = false →
    (s.Accepts p q 6 r → (s.time.running = true → ∃ t, exec (.harvestRec p q) s = .next t ∧ t.Completes p q r 0 0 0 ∧
        t.hrv = { s.hrv with armed := true, armedWas := false, reqSc := BitVec.ofNat 64 (r.f 8 8)
                             bounds := s.hrv.bounds.filter fun b => !b.onReq || b.at_ != s.time.now }) ∧
      (s.time.running = false → ∃ t, exec (.harvestRec p q) s = .next t ∧ t.Completes p q r 3 0 0 ∧ t.hrv = s.hrv)) ∧
    (s.Accepts p q 7 r →
      (s.time.running = false ∨ s.snapPending = true ∨ s.areasBad = true → ∃ t, exec (.snapshotRec p q) s = .next t ∧
        t.Completes p q r 3 0 0 ∧ t.rcv.snap = s.rcv.snap) ∧
      (s.time.running = true → s.rcv.snap = none → s.rcv.snapNext = none → s.areasBad = false → ∃ t j, exec (.snapshotRec p q) s = .next t ∧
        t.rcv.snap = some j ∧ j.phase = 0 ∧ j.slot = r.opt % 4 ∧ t.hrv.pend.getLsbD 4 = true ∧
        t.host.snapRec = some (p.val, q.val) ∧ (r.opt / 8 % 2 = 1 → t.hrv.armed = true) ∧
        (r.opt / 8 % 2 = 0 → t.hrv.armed = s.hrv.armed)) ∧
      (s.time.running = true → s.rcv.snap.isSome = true → s.snapPending = false → s.areasBad = false → ∃ t j,
        exec (.snapshotRec p q) s = .next t ∧ t.rcv.snap = s.rcv.snap ∧ t.host.snapRec = s.host.snapRec ∧ t.rcv.snapNext = some j ∧
        j.phase = 0 ∧ t.host.snapNext = some (p.val, q.val) ∧ t.hrv.pend.getLsbD 4 = true))) ∧
  (∀ s : State, (s.partDone = false ∨ s.job.faultSc.isSome = true → exec .jobEnd s = .next s) ∧
    (s.partDone = true → s.job.faultSc = none → ∃ t, exec .jobEnd s = .next t ∧ t.time.running = false ∧
      t.time.loaded = false ∧ t.hrv.armed = false ∧ t.hrv.bounds = [] ∧ t.job.endPosted = true ∧ t.mem = s.mem ∧
      t.lines = s.lines ∧ t.time.cnt = s.time.cnt ∧
      (∀ x, x ∈ t.time.reqs ↔ x ∈ s.time.reqs ∧ x.cause ∉ endCauses))) ∧
  (∀ s : State, (s.job.faultSc = none ∨ s.time.running = true ∨ s.job.endPosted = true →
      exec .faultReporting s = .next s) ∧ (s.mod.mgmt = false → exec .faultReporting s = .next s) ∧
    (∀ f, s.job.faultSc = some f → s.time.running = false → s.job.endPosted = false → s.mod.mgmt = true → ∃ t,
      exec .faultReporting s = .next t ∧ t.job = { s.job with endPosted := true } ∧ t.rcv.alert.getLsbD 6 = true ∧
      t.lines = s.lines ∧ t.time = s.time ∧ exec .faultReporting t = .next t))

/-- ATTEST_REC, ATTEST_REPORT_WRITTEN, FWUPD_STAGE, FWUPD_COMMIT (R465, R466, R472, Table 15-3): a report is sampled as
its record begins and written with its signature; a package goes to the staging slot, INCOMPLETE until all of it is
there, when it passes its checks, and COMMIT makes it the newest. The part of the package read so far, the open
staging record and flashOk are log 43, the model's choice; a slot's state is that of a header whose digest holds
(R460, log 92). -/
def Obligations.AttestationAndFirmwareUpdate : Prop :=
  ∀ (s : State) (p : HostId) (q : RingId) (r : FetchedRec),
    (s.Accepts p q 10 r → ∃ t, exec (.attestRec p q) s = .next t ∧
      t.host.attest = s.host.attest ++ [((p.val, q.val), r.f 8 8, s.attestReport (r.f 32 32))] ∧ (t.sq p q).cur = some ⟨r, none⟩ ∧
      t.sec = s.sec) ∧
    ((s.sq p q).cur = some ⟨r, none⟩ → r.typ = 10 → r.quiet = false → (s.sq p q).queue = [] → ∀ a body,
      s.host.attest = [((p.val, q.val), a, body)] → ∃ t, exec (.attestReportWritten p q) s = .next t ∧ t.host.attest = [] ∧
        t.Completes p q r 0 0 9229 ∧ t.sec = { s.sec with signs := s.sec.signs + 1 } ∧
        ∃ sig, t.outbox = .hostWrite p a (body ++ sig) :: s.outbox ∧ sig.length = 3309) ∧
    (∀ a body, s.host.attest = [((p.val, 16), a, body)] → s.portDown p = true → exec (.attestReportWritten p q) s =
      .next { s with host.attest := [], sec.signs := s.sec.signs + 1 }) ∧
    (s.host.attest = [] → exec (.attestReportWritten p q) s = .next s) ∧
    (∀ (pkg : List Byte) (ok : Bool), s.Accepts p q 11 r → s.host.jc = none → r.quiet = false → r.opt % 2 = 0 →
      r.f 16 8 = pkg.length → ∃ t, exec (.fwupdStage p q pkg ok) s = .next t ∧ (∀ x ∈ (s.readHost p (r.f 8 8) (r.f 16 8)).outbox, x ∈ t.outbox) ∧
        (ok = true → s.pkgCode pkg = none → t.Completes p q r 0 0 0 ∧ (t.sec.slot (1 - s.newest)).state = 2 ∧
          (t.sec.slot (1 - s.newest)).pkg = pkg ∧ t.sec.slot s.newest = s.sec.slot s.newest) ∧
        (∀ c, (ok = true ∧ s.pkgCode pkg = some c ∨ ok = false ∧ c = 6) → t.Completes p q r 4 (0xF00 + c) 0 ∧
          (t.sec.slot (1 - s.newest)).state = 1 ∧ t.sec.lastCode = some c)) ∧
    (∀ (pkg : List Byte) (ok : Bool), s.Accepts p q 11 r → s.host.jc = none → r.opt % 2 = 0 → pkg.length < r.f 16 8 →
      ∃ t, exec (.fwupdStage p q pkg ok) s = .next t ∧ (t.sec.slot (1 - s.newest)).state = 1 ∧
        t.sec.slot s.newest = s.sec.slot s.newest ∧ t.host.jc = some (p.val, q.val) ∧ (t.sq p q).cur = some ⟨r, none⟩) ∧
    (∀ pkg : List Byte, s.host.fwRec = some ((p.val, q.val), r) → s.host.jc = some (p.val, q.val) →
      (s.sq p q).cur = some ⟨r, none⟩ → r.quiet = false → r.f 16 8 = pkg.length → s.pkgCode pkg = none →
      ∃ t, exec (.fwupdStage p q pkg true) s = .next t ∧ t.Completes p q r 0 0 0 ∧ t.host.jc = none ∧
        t.sec.slot (1 - s.newest) = .written 2 (s.sec.slot (1 - s.newest)).seq pkg) ∧
    (∀ ok : Bool, s.Accepts p q 11 r → s.host.jc = none → r.quiet = false → r.opt % 2 = 1 →
      ∃ t, exec (.fwupdCommit p q ok) s = .next t ∧
        (s.sec.flashA.state ≠ 2 → s.sec.flashB.state ≠ 2 → t.Completes p q r 3 0 0 ∧ t.sec = s.sec) ∧
        (ok = true → s.sec.flashA.state ≠ 2 → s.sec.flashB.state = 2 → t.Completes p q r 0 0 0 ∧ t.sec.flashB.state = 3 ∧
          t.sec.flashB.seq = (s.sec.flashA.seq + 1) % 2 ^ 32 ∧ t.sec.flashB.pkg = s.sec.flashB.pkg ∧
          t.sec.flashA = s.sec.flashA) ∧
        (ok = false → s.sec.flashB.state = 2 → t.Completes p q r 4 0xF06 0))

/-- MB_CLAIM, MB_MSG_WRITE, MB_DBSET, MB_DBCLR, MB_UNCLAIM, MB_ACK (R401 to R404): a mailbox goes from IDLE to CLAIMED by
a read of an allowed end, to FULL by the claimant's doorbell, and back to IDLE when its receiver has cleared every
bit; a write, a doorbell, a clear or an unclaim of an end whose turn it is not is dropped and counted; at a dead peer
without DEAD_MODE an access is an error; a host's access that its function does not claim is an Unsupported Request
(R373, log 71); a reset of an end takes the mailbox to IDLE and tells the other (R405); doorbell bits set in the cc of
a reset that cut their sender off stay set on an IDLE mailbox, whoever is dead by then and whatever SRC_ID the
management controller has (R11, log 70), and an emptying write of that cc gives way to the reset. -/
def Obligations.MailboxesCarryMessages : Prop :=
  (∀ (s : State) (b : MailboxId) (who : Requester), endOf b who = none → s.claims who = true →
    exec (.mbClaim b who) s = .next s ∧ (∀ w v, exec (.mbMsgWrite b who w v) s = .next s) ∧
    (∀ v, exec (.mbDbset b who v) s = .next s) ∧ (∀ v, exec (.mbDbclr b who v) s = .next s) ∧
    exec (.mbUnclaim b who) s = .next s ∧ exec (.mbAck b who) s = .next s) ∧
  (∀ (s : State) (b : MailboxId) (p : HostId) (i : Instr) (w : Fin 16) (v : W32), (s.hp p).memOn = false →
    i = .mbClaim b (.host p) ∨ i = .mbMsgWrite b (.host p) w v ∨ i = .mbDbset b (.host p) v ∨ i = .mbDbclr b (.host p) v ∨
      i = .mbUnclaim b (.host p) ∨ i = .mbAck b (.host p) →
    ∃ t, exec i s = .next t ∧ t.host.boxes = s.host.boxes ∧ t.outbox = .regError (.host p) :: s.outbox ∧
      (t.hp p).aer.getLsbD 20 = true) ∧
  (∀ (s : State) (b : MailboxId) (who : Requester) (me : Bool) (m : Mailbox) (id : Nat), endOf b who = some me →
    s.claims who = true → m = s.box b → id = s.srcId who → s.endDead b (!me) = false ∨ m.deadMode = true →
    (m.allow.getLsbD id = true → m.st = 0 → ∃ t, exec (.mbClaim b who) s = .next t ∧
      t.box b = { m with st := 1, src := id, msg := [] } ∧ t.outbox = .regData who (BitVec.ofNat 32 (16 + id)) :: s.outbox) ∧
    (m.allow.getLsbD id = false → ∃ t, exec (.mbClaim b who) s = .next t ∧ t.box b = { m with drop := sat32 (m.drop + 1) } ∧
      t.outbox = .regData who (BitVec.ofNat 32 id) :: s.outbox) ∧
    (m.allow.getLsbD id = true → m.st = 2 ∨ m.st = 1 ∧ m.src ≠ id → ∃ t, exec (.mbClaim b who) s = .next t ∧ t.box b = m ∧
      t.outbox = .regData who (BitVec.ofNat 32 id) :: s.outbox) ∧
    (∀ w v, (m.st = 1 → m.src = id → ∃ t, exec (.mbMsgWrite b who w v) s = .next t ∧
        t.box b = { m with msg := m.msg.put w v }) ∧
      (m.st ≠ 1 ∨ m.src ≠ id → ∃ t, exec (.mbMsgWrite b who w v) s = .next t ∧
        t.box b = { m with drop := sat32 (m.drop + 1) })) ∧
    (∀ v, (m.st = 1 → m.src = id → v ≠ 0 → s.endDead b (!me) = false → ∃ t, exec (.mbDbset b who v) s = .next t ∧
        t.box b = { m with st := 2, db := m.db ||| v, rung := m.rung ||| v }) ∧
      (m.st = 1 → m.src = id → v ≠ 0 → s.endDead b (!me) = true → ∃ t, exec (.mbDbset b who v) s = .next t ∧
        t.box b = { m with st := 0, aborted := true }) ∧
      (m.st = 2 → m.src = id → ∃ t, exec (.mbDbset b who v) s = .next t ∧
        t.box b = { m with db := m.db ||| v, rung := m.rung ||| v }) ∧
      (m.st = 1 → m.src = id → v = 0 → exec (.mbDbset b who v) s = .next s) ∧
      (m.st = 0 ∧ s.cutOff b who = false ∨ 3 ≤ m.st ∨ m.st ≠ 0 ∧ m.src ≠ id → ∃ t, exec (.mbDbset b who v) s = .next t ∧
        t.box b = { m with drop := sat32 (m.drop + 1) }))) ∧
  (∀ (s : State) (b : MailboxId) (who : Requester) (me : Bool) (m : Mailbox), endOf b who = some me → s.claims who = true →
    m = s.box b →
    (∀ v k, m.st = 0 → m.cutOff = some k → k = s.srcId who ∨ who = .mgmt ∧ idIsMgmt k = true → ∃ t, exec (.mbDbset b who v) s = .next t ∧
      t.box b = { m with db := m.db ||| v, rung := m.rung ||| v } ∧ t.outbox = s.outbox) ∧
    (∀ v, (m.st = 2 → idIsMgmt m.src = !me → (m.db &&& ~~~v ≠ 0 → ∃ t, exec (.mbDbclr b who v) s = .next t ∧
          t.box b = { m with db := m.db &&& ~~~v }) ∧
        (m.db &&& ~~~v = 0 → ∃ t, exec (.mbDbclr b who v) s = .next t ∧
          t.box b = { m with st := 0, db := 0, emptied := true, drained := some (m.src, m.emptied) })) ∧
      (m.st = 2 ∧ idIsMgmt m.src = me ∨ m.st ≠ 2 ∧ m.taken me = false → ∃ t, exec (.mbDbclr b who v) s = .next t ∧
        t.box b = { m with drop := sat32 (m.drop + 1) }) ∧
      (∀ k, m.st = 0 → m.met ≠ 0 → m.cutOff = some k → idIsMgmt k = !me → ∃ t, exec (.mbDbclr b who v) s = .next t ∧
        t.box b = { m with met := m.met &&& ~~~v, aborted := m.aborted || m.met &&& ~~~v == 0 })) ∧
    (m.st = 1 → m.src = s.srcId who → ∃ t, exec (.mbUnclaim b who) s = .next t ∧ t.box b = { m with st := 0 }) ∧
    (m.st ≠ 1 ∨ m.src ≠ s.srcId who → ∃ t, exec (.mbUnclaim b who) s = .next t ∧ t.box b = { m with drop := sat32 (m.drop + 1) }) ∧
    (∃ t, exec (.mbAck b who) s = .next t ∧ t.box b = { m with aborted := false, emptied := false }) ∧
    (s.endDead b (!me) = true → m.deadMode = false →
      (∃ t, exec (.mbClaim b who) s = .next t ∧ t.box b = m ∧ t.outbox = .regError who :: s.outbox) ∧
      (∀ w v, ∃ t, exec (.mbMsgWrite b who w v) s = .next t ∧ t.box b = { m with drop := sat32 (m.drop + 1) } ∧
        t.outbox = .regError who :: s.outbox) ∧
      (∀ v, s.cutOff b who = false → ∃ t, exec (.mbDbset b who v) s = .next t ∧ t.box b = { m with drop := sat32 (m.drop + 1) } ∧
        t.outbox = .regError who :: s.outbox))) ∧
  (∀ (s : State) (p : HostId) (m : Mailbox), m = s.box (.open_ p) → (s.hp p).up = true →
    ∃ t, exec (.linkLeavesL0 p) s = .next t ∧ (t.box (.open_ p)).st = 0 ∧ (t.box (.open_ p)).db = m.rung ∧
      (t.box (.open_ p)).msg = [] ∧ (t.box (.open_ p)).allow = m.allow ∧
      ((t.box (.open_ p)).aborted = true ↔ m.aborted = true ∨ m.drained.isSome = true ∨ m.st ≠ 0 ∧ idIsMgmt m.src = true) ∧
      (m.drained = none → (t.box (.open_ p)).emptied = m.emptied))

/-- KEY_ADD, KEY_REMOVE, OWNER_POLICY, TAP_UNLOCK, TAP_LOCK (R468 to R470, R473): an owner's command is carried out only
with status 0, its answer carries the status and the counter, and the counter goes up with every command that its
signature verified; without the owner's posted block nothing happens; while the port is locked the debug port's
accesses are none. The order of the checks, SERIAL and CTR for every block, the answer's doorbell bit and the counter
of a signed LOCK are log 42. -/
def Obligations.OwnerCommandsAreAuthenticated : Prop :=
  ∀ (s : State) (p : HostId) (b : List Byte) (m : MailboxId), m = .secure p →
    (s.mod.mgmt = false ∨ s.host.owner ≠ p.val ∨ (s.box m).st ≠ 2 →
      exec (.keyAdd p b) s = .next s ∧ exec (.keyRemove p b) s = .next s ∧ exec (.ownerPolicy p b) s = .next s ∧
      exec (.tapUnlock p b) s = .next s ∧ exec (.tapLock p b) s = .next s) ∧
    (s.sec.unlocked = false → exec (.dbgHalt .debug) s = .next s ∧ exec (.dbgResume .debug) s = .next s) ∧
    (s.mod.mgmt = true → s.host.owner = p.val → s.postedLen m = b.length → s.endDead m false = false →
      (s.box m).allow.getLsbD (s.srcId .mgmt) = true →
      (s.posted m p 1 = true → ∀ st, st = s.blockStatus b 1 1952
          (if s.sec.keys ≠ [] then 2 else if s.time.loaded then 4 else 0)
          (if (s.sec.keys.find (recField b 9 1)).isSome then 4 else 0) →
        ∃ t, exec (.keyAdd p b) s = .next t ∧ t.Answered m st ∧ (st ≠ 0 → t.sec = s.sec) ∧
          (st = 0 → t.sec.keys = s.sec.keys.put (recField b 9 1) (sub b 64 1952) ∧
            t.sec.ownCtr = if s.blockSigned b 1952 then (s.sec.ownCtr + 1) % 2 ^ 32 else s.sec.ownCtr)) ∧
      (s.posted m p 2 = true → ∀ st, st = s.blockStatus b 2 0 2 0 →
        ∃ t, exec (.keyRemove p b) s = .next t ∧ t.Answered m st ∧ (st ≠ 0 → t.sec = s.sec) ∧
          (st = 0 → s.blockSigned b 0 = true ∧ t.sec.keys = s.sec.keys.del (recField b 9 1) ∧
            t.sec.ownCtr = (s.sec.ownCtr + 1) % 2 ^ 32)) ∧
      (s.posted m p 3 = true → ∀ st, st = s.blockStatus b 3 0 2 0 →
        ∃ t, exec (.ownerPolicy p b) s = .next t ∧ t.Answered m st ∧ (st ≠ 0 → t.sec = s.sec) ∧
          (st = 0 → s.blockSigned b 0 = true ∧ t.sec.sigReq = (recField b 24 1 % 2 == 1) ∧ t.sec.keys = s.sec.keys)) ∧
      (s.posted m p 4 = true → ∀ st, st = s.blockStatus b 4 0 2 0 →
        ∃ t, exec (.tapUnlock p b) s = .next t ∧ t.Answered m st ∧ (st ≠ 0 → t.sec = s.sec) ∧
          (st = 0 → s.blockSigned b 0 = true ∧ t.sec.unlocked = true ∧ t.sec.keys = s.sec.keys)) ∧
      (s.posted m p 5 = true → ∀ st, st = s.blockStatus b 5 0 0 0 →
        ∃ t, exec (.tapLock p b) s = .next t ∧ t.Answered m st ∧ (st ≠ 0 → t.sec = s.sec) ∧
          (st = 0 → t.sec.unlocked = false ∧ t.sec.keys = s.sec.keys)))

/-- DBG_HALT, DBG_RESUME, STEP_COUNT, STEP_COUNT_EXPIRE (R371), HRV_ARM, HRV_DISARM, HRV_ACK (R61, R62, R67),
SCH_CTRL_WRITE, SCH_HOLD_LIMIT_WRITE (R71, R72), FLG_MF_SET, FLG_MF_CLR (R222, R247): what each write does at its
register, and for whom. A STEP of count 0 is ignored (log 48). -/
def Obligations.DebugHarvestTimeAndFlagRegisters : Prop :=
  (∀ s : State, s.Reaches .debug 0x1700600 →
    (∃ t, exec (.dbgHalt .debug) s = .next t ∧ t.dbg = ⟨true, none⟩ ∧ t.hasHold 10 .debug = true ∧
      t = { s with dbg := t.dbg, time := t.time } ∧ (s.hasHold 10 .debug = true → t.time = s.time)) ∧
    (∃ t, exec (.dbgResume .debug) s = .next t ∧ t.dbg = ⟨false, none⟩ ∧ t.hasHold 10 .debug = false ∧
      t = { s with dbg := t.dbg, time := { s.time with reqs := t.time.reqs } }) ∧
    ∀ n : BitVec 24, (n = 0 → exec (.stepCount .debug n) s = .next s) ∧ (n ≠ 0 → ∃ t,
      exec (.stepCount .debug n) s = .next t ∧ t.dbg = ⟨false, some (s.nextSc + n.toNat)⟩ ∧ t.hasHold 10 .debug = false)) ∧
  (∀ (s : State) (who : Requester), who ≠ .debug → s.Reaches who 0x1700600 → exec (.dbgHalt who) s = .next s ∧
    exec (.dbgResume who) s = .next s ∧ ∀ n, exec (.stepCount who n) s = .next s) ∧
  (∀ s : State, (s.dbg.stepTo = none → exec .stepCountExpire s = .next s) ∧
    ∀ n, s.dbg.stepTo = some n → (s.eightBefore n = false → exec .stepCountExpire s = .next s) ∧
      (s.eightBefore n = true → ∃ t, exec .stepCountExpire s = .next t ∧ t.dbg = ⟨true, none⟩ ∧
        t.hasHold 10 .debug = true ∧ t.lines = s.lines)) ∧
  (∀ (s : State) (who : Requester), s.Reaches who 0x10020 →
    (s.isOwner who = true → exec (.hrvArm who) s =
        .next { s with
          hrv.armed := true, hrv.armedWas := false
          hrv.bounds := s.hrv.bounds.filter fun b => !b.onReq || b.at_ != s.time.now } ∧
      exec (.hrvDisarm who) s = .next { s with hrv.armed := false }) ∧
    (s.isOwner who = false → exec (.hrvArm who) s = .next s ∧ exec (.hrvDisarm who) s = .next s)) ∧
  (∀ (s : State) (who : Requester) (v : W32),
    (s.Reaches who 0x1000C → (v.toNat = s.hrv.seq → exec (.hrvAck who v) s = .next { s with hrv.unread := false }) ∧
      (v.toNat ≠ s.hrv.seq → exec (.hrvAck who v) s = .next s)) ∧
    (s.Reaches who 0x20010 → ∃ t, exec (.schCtrlWrite who v) s = .next t ∧ t.time.ctrl = v &&& 0x1010F ∧
      t.time.ctrlLoad = (if s.time.loaded then s.time.ctrlLoad else v &&& 0x1010F) ∧
      t = { s with time := { s.time with ctrl := t.time.ctrl, ctrlLoad := t.time.ctrlLoad } }) ∧
    (s.Reaches who 0x20028 → ∃ t, exec (.schHoldLimitWrite who v) s = .next t ∧ t.time.limit = v ∧
      t.time.limitLoad = (if s.time.loaded then s.time.limitLoad else v) ∧
      t = { s with time := { s.time with limit := t.time.limit, limitLoad := t.time.limitLoad } }) ∧
    (onBus who = false → exec (.hrvAck who v) s = .next s ∧ exec (.schCtrlWrite who v) s = .next s ∧
      exec (.schHoldLimitWrite who v) s = .next s)) ∧
  (∀ (s : State) (who : Requester) (b : BayId) (k : Fin 4) (v : W32) (i : Instr) (set : Bool) (o : Nat),
    (i = .flgMfSet who b k v ∧ set = true ∧ o = dieReg b (0x40 + 4 * k) ∨
      i = .flgMfClr who b k v ∧ set = false ∧ o = dieReg b (0x50 + 4 * k)) → s.Reaches who o →
    (s.isOwner who = false → exec i s = .next s) ∧
    (s.isOwner who = true → s.live = false → ∃ t, exec i s = .next t ∧ ∀ h j, j < 128 →
      (t.flags.mf.look h 0).getLsbD j =
        if h = b.val ∧ j / 32 = k.val ∧ v.getLsbD (j % 32) = true then set else (s.flags.mf.look h 0).getLsbD j) ∧
    (s.isOwner who = true → s.live = true → ∃ t, exec i s = .next t ∧ t.flags.mf = s.flags.mf ∧
      (∀ j, j < 32 → v.getLsbD j = true → ⟨.module, b, 32 * k + j, set, .other, s.nextSc⟩ ∈ t.flags.chgs) ∧
      ∀ c ∈ s.flags.chgs, c ∈ t.flags.chgs))

/-- NT_ZONE_WRITE, FAB_SHAPE_WRITE, FAB_DISREQ_WRITE, RCV_DISREQ_WRITE, RCV_DISFORCE_WRITE, DISABLE_TAKE_EFFECT,
PULL_REPLICA, PULL_COMPLETE, RESCAN_SLOTS (R294, R311, R348, R437 to R439, R449, R451): the environment is written
while no job is loaded; a disable is requested, or forced, in which case a job that uses the function faults; a pull
asks its holder for a COMMITTED replica of this module's coordinate, or is refused and asks for nothing; a port is
idle once its peer has acknowledged every cell; work in flight on a bay or channel disabled by force is abandoned; a
rescan reads the four commit records. A request for a function already disabled reads 0 (log 45); a PULL while slot
work is in progress is dropped (log 103); the messages of a pull are log 29. -/
def Obligations.EnvironmentDisablesAndPulls : Prop :=
  (∀ (s : State) (who : Requester) (v : W32),
    (s.OwnerReaches who (dieReg 0 0x208) →
      exec (.ntZoneWrite who v) s = .next (if s.time.loaded then s else { s with zone := v.setWidth 24 })) ∧
    (s.OwnerReaches who 0x1400008 →
      exec (.fabShapeWrite who v) s = .next (if s.time.loaded then s else { s with fab.shape := v.setWidth 15 })) ∧
    (s.OwnerReaches who 0x1400020 → ∃ t, exec (.fabDisreqWrite who v) s = .next t ∧
      t.fab.disreq = v.setWidth 12 &&& ~~~s.fab.disabled ∧ t.rcv.disreq = s.rcv.disreq ∧
      (t.hrv.pend.getLsbD 1 = true ↔ t.fab.disreq ≠ 0 ∨ t.rcv.disreq ≠ 0) ∧ t.fab.disabled = s.fab.disabled) ∧
    (s.OwnerReaches who (dieReg 0 0x804) → ∃ t, exec (.rcvDisreqWrite who v) s = .next t ∧ t.fab = s.fab ∧
      (∀ i, i < 8 → t.rcv.disreq.getLsbD i = (v.getLsbD i && !s.rcv.disBay.getLsbD i)) ∧
      (∀ i, i < 8 → t.rcv.disreq.getLsbD (8 + i) = (v.getLsbD (8 + i) && !s.rcv.disCh.getLsbD i)) ∧
      (t.hrv.pend.getLsbD 1 = true ↔ t.fab.disreq ≠ 0 ∨ t.rcv.disreq ≠ 0)) ∧
    (s.OwnerReaches who (dieReg 0 0x808) → (v = 0 → exec (.rcvDisforceWrite who v) s = .next s) ∧
      ∀ f, v = (1 : W32) <<< funcIx f → (s.isDisabled f = true → exec (.rcvDisforceWrite who v) s = .next s) ∧
        (s.isDisabled f = false → ∃ t, exec (.rcvDisforceWrite who v) s = .next t ∧ t.isDisabled f = true ∧
          (s.jobUses f = true ∨ s.job.faultSc.isSome = true ∧ s.partUses f = true → (∀ p, f ≠ .port p) →
            t.gr.cur = none ∧ t.gr.abandoned = true ∧
            ∀ b : BayId, f = .bay b → ∀ c, c ∈ t.free ↔ c ∈ s.free ∧ c.slice / 32 ≠ b.val) ∧
          t.disWaits f = false ∧ t.rcv.alert.getLsbD 11 = true ∧ (s.time.running = false → t.job = s.job) ∧
          (s.jobUses f = true → s.job.faultSc = none → s.job.faults = [] →
            ∃ r ∈ t.job.faults, r.kind = 0x50 ∧ r.aux = funcAux f ∧ r.sc = s.nextSc)))) ∧
  (∀ (s : State) (f : Func),
    (s.disWaits f = false ∨ s.time.running = true ∨ s.idleFunc f = false → exec (.disableTakeEffect f) s = .next s) ∧
    (s.disWaits f = true → s.time.running = false → s.idleFunc f = true → ∃ t, exec (.disableTakeEffect f) s = .next t ∧
      t.isDisabled f = true ∧ t.disWaits f = false ∧ t.rcv.alert.getLsbD 11 = true ∧ t.mem = s.mem ∧ t.job = s.job) ∧
    ∀ p : PortId, f = .port p → s.disWaits f = true → s.time.running = false → s.txCells p = 0 → (s.port p).resend = [] →
      (s.port p).acked = (s.port p).seq → (∀ e ∈ (s.port p).vc, e.2 = []) → ∃ t, exec (.disableTakeEffect f) s = .next t ∧
        (t.port p).st = 7 ∧ t.fab.disabled.getLsbD p = true ∧ t.fab.disreq.getLsbD p = false) ∧
  (∀ (s : State) (who : Requester) (r : List Byte), s.Reaches who (dieReg 0 0x840) →
    (s.isOwner who = false ∨ s.slotsBusy = true → exec (.pullReplica who r) s = .next s) ∧
    (s.isOwner who = true → s.slotsBusy = false →
      (recState r = 2 → recField r 12 2 = s.coord.toNat → ∃ t, exec (.pullReplica who r) s = .next t ∧
        t.rcv.pullAct = true ∧ t.rcv.pullTo = s.pullSlot ∧ t.rcv.pullDone = false ∧ t.rcv.pullFail = false) ∧
      (recState r ≠ 2 ∨ recField r 12 2 ≠ s.coord.toNat → ∃ t, exec (.pullReplica who r) s = .next t ∧
        t = { s with rcv := { s.rcv with pullDone := false, pullFail := true } }) ∧
      (∀ d n o v, d = s.rcv.pull.extractLsb' 0 15 → n = (if s.rcv.pull.getLsbD 16 then 1 else 0) + 2 * (s.rcv.base s.pullSlot / mib) →
        recState r = 2 → recField r 12 2 = s.coord.toNat → d ≠ s.coord → s.route s.coord d true none = some (o, v) → ∃ t, exec (.pullReplica who r) s = .next t ∧
          (t.port o).vc.look v [] = (s.port o).vc.look v [] ++ [⟨.msg d (.manage 5 n), s.time.now, none⟩])) ∧
    (s.isOwner who = true → (∀ m ∈ s.marks, m.2 = false) → ∃ t, exec (.rescanSlots who) s = .next t ∧
      t = { s with rcv := t.rcv, gr.pairs := t.gr.pairs } ∧ (s.rcv.slotsz = 0 → t.gr.pairs = s.gr.pairs) ∧
      t.rcv.scan.a = recState (s.slotRecord 0) ∧ t.rcv.scan.b = recState (s.slotRecord 1) ∧
      t.rcv.scan.b0 = recState (s.slotRecord 2) ∧ t.rcv.scan.b1 = recState (s.slotRecord 3) ∧
      ((∃ k, k < 4 ∧ recState (s.slotRecord k) = 1) → t.rcv.alert.getLsbD 7 = true)) ∧
    (s.isOwner who = false → exec (.rescanSlots who) s = .next s)) ∧
  (∀ (s : State) (r c : List Byte), (s.rcv.pullAct = false → exec (.pullComplete r c) s = .next s) ∧
    (s.rcv.pullAct = true → ∃ t, exec (.pullComplete r c) s = .next t ∧ t.rcv.pullAct = false ∧
      (t.rcv.pullDone = true ↔ recState r = 2 ∧ recField r 12 2 = s.coord.toNat ∧ recField r 96 8 = c.length ∧
        recField r 112 64 = (shake512 c).toNat) ∧ (t.rcv.pullFail = !t.rcv.pullDone) ∧ t.lines = s.lines))

/-- REGISTER_WRITE, LO_READ, WINDOW_ACCESS, BAR4_ACCESS (R8 to R11, R29 to R32, R70, R370, R375, R376, R378): a write at
the register of a command is that command; at a plain register RW bits are stored and RSV bits stay 0, W1C bits that
are written 1 clear but for those set in the cc, W1S bits are set, RO and RSV offsets ignore it, and one of another
than the owner is dropped; 8 bytes are two words; a wrong size or alignment is an error that a host's HST_ERR shows; a
LO read keeps HI, which the next read of HI takes; any other read answers the register (MOD_ID reads 0x41570008,
SCH_HOLD_LEAD 8); a read of a mailbox answers its ends; an access to a local range that nothing stands against reads
or writes it, row by row in the near tier, the bay buffers and the granary, any other is an error; on BAR4 one that
needs the coordinate waits for it (R35), and a write to the granary of another module of the torus travels as a
dynamic packet (its other bytes are log 16). A host's access that its function does not claim is an Unsupported
Request, and AER logs a refused write (log 71). The W1C register that any requester clears is PWR_ALERT (log 46, the
model's reading: Table 13-7 names no writer). LO_READ as the row of every plain read is log 60, an access across two
memories refused as a whole log 64. -/
def Obligations.RegistersAndWindows : Prop :=
  (∀ (s : State) (who : Requester) (v : W64) (x : W32), x = v.extractLsb' 0 32 →
    exec (.registerWrite who (.bar0 0x20010) 4 v) s = exec (.schCtrlWrite who x) s ∧
    exec (.registerWrite who (.bar0 0x20028) 4 v) s = exec (.schHoldLimitWrite who x) s ∧
    exec (.registerWrite who (.bar0 0x1000C) 4 v) s = exec (.hrvAck who x) s ∧
    exec (.registerWrite who (.bar0 0x40000) 4 v) s = exec (.pwrClassWrite who x) s ∧
    exec (.registerWrite who (.bar0 0x1400008) 4 v) s = exec (.fabShapeWrite who x) s ∧
    exec (.registerWrite who (.bar0 0x500208) 4 v) s = exec (.ntZoneWrite who x) s ∧
    exec (.registerWrite who (.bar0 0x500804) 4 v) s = exec (.rcvDisreqWrite who x) s ∧
    (x.extractLsb' 0 2 = 1 → exec (.registerWrite who (.bar0 0x10020) 4 v) s = exec (.hrvArm who) s) ∧
    (x.extractLsb' 0 3 = 1 → exec (.registerWrite who (.bar0 0x1700600) 4 v) s = exec (.dbgHalt who) s) ∧
    (∀ p : HostId, who = .host p → exec (.registerWrite who (.bar2 0) 4 v) s = exec (.sqDb p 0 x) s ∧
      exec (.registerWrite who (.bar2 4) 4 v) s = exec (.cqDb p 0 x) s ∧
      exec (.registerWrite who (.bar2 0x1044) 4 v) s = exec (.mbDbset (.open_ p) who x) s)) ∧
  (∀ (s : State) (who : Requester) (v : W64) (x : W32), x = v.extractLsb' 0 32 →
    (s.Reaches who 0x1400000 → exec (.registerWrite who (.bar0 0x1400000) 4 v) s =
      .next (if s.isOwner who = true ∧ s.time.loaded = false then { s with fab.ctrl := x &&& 0x1F } else s)) ∧
    (s.Reaches who 0x10018 → exec (.registerWrite who (.bar0 0x10018) 4 v) s =
      .next (if s.isOwner who = true then { s with hrv.reqSc := s.hrv.reqSc.extractLsb' 32 32 ++ x } else s)) ∧
    (s.Reaches who 0x1001C → exec (.registerWrite who (.bar0 0x1001C) 4 v) s =
      .next (if s.isOwner who = true then { s with hrv.reqSc := x ++ s.hrv.reqSc.extractLsb' 0 32 } else s)) ∧
    (s.Reaches who 0x10000 → exec (.registerWrite who (.bar0 0x10000) 4 v) s = .next { s with hrv.ctrl := x &&& 1 }) ∧
    (s.Reaches who 0x4001C → ∃ t, exec (.registerWrite who (.bar0 0x4001C) 4 v) s = .next t ∧ t = { s with pwr.alert := t.pwr.alert } ∧
      ∀ i, i < 6 → t.pwr.alert.getLsbD i = (s.pwr.alert.getLsbD i && !x.getLsbD i || s.pwr.alertCc.getLsbD i)) ∧
    (s.Reaches who 0x500800 → (s.isOwner who = false → exec (.registerWrite who (.bar0 0x500800) 4 v) s = .next s) ∧
      (s.isOwner who = true → ∃ t, exec (.registerWrite who (.bar0 0x500800) 4 v) s = .next t ∧
        t = { s with rcv.alert := t.rcv.alert } ∧ ∀ i, i < 12 → t.rcv.alert.getLsbD i =
          (s.rcv.alert.getLsbD i && !(x.getLsbD i && i != 0) || s.rcv.alertCc.getLsbD i))) ∧
    exec (.registerWrite who (.bar0 0x500040) 4 v) s = exec (.flgMfSet who 0 0 x) s ∧
    (∀ o : BitVec 25, o.toNat % 4 = 0 → s.Reaches who o.toNat → o.toNat < 0x10000 ∨ 0x1600000 ≤ o.toNat ∧ o ≠ 0x1700600 ∨
        0x20000 ≤ o.toNat ∧ o.toNat < 0x40000 ∧ o ≠ 0x20010 ∧ o ≠ 0x20028 →
      exec (.registerWrite who (.bar0 o) 4 v) s = .next s) ∧
    (∀ (o : BitVec 25) (p : HostId), who = .host p → o.toNat % 4 = 0 → (s.hp p).memOn = false → ∃ t,
      exec (.registerWrite who (.bar0 o) 4 v) s = .next t ∧ t.outbox = .regError who :: s.outbox ∧ (t.hp p).err = (s.hp p).err ∧
      (t.hp p).aer.getLsbD 20 = true ∧ t = { s with host.ports := t.host.ports, outbox := t.outbox }) ∧
    (∀ o : BitVec 25, o.toNat % 4 = 0 → onBus who = true → s.tapOpen who = true → s.claims who = true → s.answers who o.toNat = false → ∃ t,
      exec (.registerWrite who (.bar0 o) 4 v) s = .next t ∧ t.outbox = .regError who :: s.outbox ∧
      t = { s with host := t.host, outbox := t.outbox }) ∧
    ∀ (o : BitVec 25) (a : State), o.toNat % 8 = 0 → exec (.registerWrite who (.bar0 o) 4 v) s = .next a →
      exec (.registerWrite who (.bar0 o) 8 v) s = exec (.registerWrite who (.bar0 (o + 4)) 4 (v >>> 32)) a) ∧
  (∀ (s : State) (p : HostId) (t : RegTarget) (n : Fin 9) (v : W64),
    (n ≠ 4 ∧ n ≠ 8 ∨ n = 4 ∧ RegTarget.off t % 4 ≠ 0 ∨ n = 8 ∧ RegTarget.off t % 8 ≠ 0) →
    ∃ u, exec (.registerWrite (.host p) t n v) s = .next u ∧ (u.hp p).err.getLsbD 2 = true ∧
      (u.hp p).errCnt = sat32 ((s.hp p).errCnt + 1) ∧ u.outbox = .regError (.host p) :: s.outbox ∧
      u = { s with host.ports := u.host.ports, outbox := u.outbox }) ∧
  (∀ (s : State) (who : Requester) (o : BitVec 25) (v : Nat), s.tapOpen who = true → s.claims who = true → onBus who = true →
    o.toNat % 4 = 0 →
    (s.readStopped who o.toNat = false → s.pair64 o.toNat = some v → ∃ t, exec (.loRead who ⟨.bar0 o, 4⟩) s = .next t ∧
      t.outbox = .regData who (BitVec.ofNat 32 v) :: s.outbox ∧
      (who, o.toNat + 4, BitVec.ofNat 32 (v / 2 ^ 32)) ∈ t.host.hiBuf ∧
      ∀ e ∈ t.host.hiBuf, e.1 = who → e.2.1 = o.toNat + 4 → e.2.2 = BitVec.ofNat 32 (v / 2 ^ 32)) ∧
    (s.readStopped who o.toNat = true → ∃ t, exec (.loRead who ⟨.bar0 o, 4⟩) s = .next t ∧
      t.outbox = .regError who :: s.outbox) ∧
    (∀ w r, s.readStopped who o.toNat = false → s.pair64 o.toNat = none → s.host.hiBuf = (who, o.toNat, w) :: r →
      ∃ t, exec (.loRead who ⟨.bar0 o, 4⟩) s = .next t ∧ t.outbox = .regData who w :: s.outbox ∧
        ∀ e ∈ t.host.hiBuf, ¬(e.1 = who ∧ e.2.1 = o.toNat)) ∧
    (s.readStopped who o.toNat = false → s.pair64 o.toNat = none →
      (∀ e ∈ s.host.hiBuf, ¬(e.1 = who ∧ e.2.1 = o.toNat)) →
      exec (.loRead who ⟨.bar0 o, 4⟩) s = .next (s.send (.regData who (s.readReg who o.toNat)))) ∧
    (o.toNat % 8 = 0 → ∀ a b, exec (.loRead who ⟨.bar0 o, 4⟩) s = .next a → exec (.loRead who ⟨.bar0 (o + 4), 4⟩) a = .next b →
      exec (.loRead who ⟨.bar0 o, 8⟩) s = .next b) ∧
    s.readReg who 0 = 0x41570008 ∧ s.readReg who 0x2002C = 8) ∧
  (∀ (s : State) (p : HostId) (t : RegTarget) (n : Fin 9),
    (n ≠ 4 ∧ n ≠ 8 ∨ n = 4 ∧ RegTarget.off t % 4 ≠ 0 ∨ n = 8 ∧ RegTarget.off t % 8 ≠ 0) →
    ∃ u, exec (.loRead (.host p) ⟨t, n⟩) s = .next u ∧ (u.hp p).err.getLsbD 2 = true ∧
      u.outbox = .regError (.host p) :: s.outbox ∧ u = { s with host.ports := u.host.ports, outbox := u.outbox }) ∧
  (∀ (s : State) (b : MailboxId) (who : Requester), exec (.loRead who ⟨.box b 0x50, 4⟩) s = exec (.mbClaim b who) s ∧
    (∀ me, endOf b who = some me → s.claims who = true →
      exec (.loRead who ⟨.box b 0x40, 4⟩) s = .next (s.send (.regData who (s.box b).db)) ∧
      exec (.loRead who ⟨.box b 0x54, 4⟩) s = .next (s.send (.regData who (BitVec.ofNat 32 (s.boxStatus b me))))) ∧
    (∀ p : HostId, who = .host p → b = .secure p → s.claims who = true → (s.box b).allow.getLsbD p.val = false →
      exec (.loRead who ⟨.box b 0, 4⟩) s = .next (s.send (.regData who 0)))) ∧
  (∀ (s : State) (who : Requester) (a : BitVec 42) (w : Bool) (d : List Byte) (n : Fin 4097) (bad : Option Nat) (m : Nat),
    m = (if w then d.length else n.val) →
    (s.tapOpen who = false → exec (.windowAccess who a w d n bad) s = .next s) ∧
    (∀ p : HostId, who = .host p → (s.hp p).memOn = false → ∃ t, exec (.windowAccess who a w d n bad) s = .next t ∧
      t.outbox = .regError who :: s.outbox ∧ t = { s with host.ports := t.host.ports, outbox := t.outbox }) ∧
    (s.tapOpen who = true → s.claims who = true → who = .debug ∧ (a.toNat < 0x18100000000 ∨ 0x18300000000 ≤ a.toNat) ∨
        s.against (s.closedFor who w) a.toNat m ≠ none → ∃ t, exec (.windowAccess who a w d n bad) s = .next t ∧
      t.outbox = .regError who :: s.outbox ∧ t.mem = s.mem ∧ t.lines = s.lines ∧ t.host.mem = s.host.mem) ∧
    (s.tapOpen who = true → s.claims who = true → who ≠ .debug ∨ 0x18100000000 ≤ a.toNat ∧ a.toNat < 0x18300000000 →
      s.against (s.closedFor who w) a.toNat m = none → ∀ ar, s.areaOf a.toNat m = some ar →
      (ar.slotted = true → m ≠ 0 → exec (.windowAccess who a w d n bad) s = .next { s with
        host.mem := s.host.mem ++ [⟨who, none, a.toNat, m, w, if w then d else [], bad, 0, 0⟩] }) ∧
      (ar.slotted = false → w = false → bad = none → s.marks = [] → ∃ t, exec (.windowAccess who a w d n bad) s = .next t ∧
        t.outbox = .memData who (s.hostBytes a.toNat m) :: s.outbox ∧ t.mem = s.mem) ∧
      (∀ l, ar = .ls l → w = true → (s.line l).ls.held = [] → s.MemCanon →
        ∃ t, exec (.windowAccess who a w d n bad) s = .next t ∧ (∀ i, i < d.length → t.byte (a.toNat + i) = d.getD i 0) ∧
        (∀ x, x < a.toNat ∨ a.toNat + d.length ≤ x → t.byte x = s.byte x) ∧ t.outbox = s.outbox))) ∧
  (∀ (s : State) (p : HostId) (o : BitVec 36) (w : Bool) (d : List Byte) (n : Fin 4097) (bad : Option Nat) (g m : Nat),
    g = (s.hp p).b4Base.toNat / s.bar4Size * s.bar4Size + o.toNat → m = (if w then d.length else n.val) →
    ((s.hp p).memOn = false ∨ s.mod.mgmt = false → ∃ t, exec (.bar4Access p o w d n bad) s = .next t ∧ t.outbox = .regError (.host p) :: s.outbox ∧
      t.mem = s.mem) ∧
    ((s.hp p).memOn = true → s.mod.mgmt = true → o.toNat + m ≤ s.bar4Size →
      (g < 2 ^ 57 → s.coordOk = false → exec (.bar4Access p o w d n bad) s =
        .next { s with host.hall := s.host.hall ++ [⟨p, o.toNat, w, d, n.val, bad⟩] }) ∧
      (g < 2 ^ 57 ∧ s.coordOk = true ∧ g / 2 ^ 42 = s.coord.toNat ∨ 2 ^ 57 ≤ g ∧ g < 2 ^ 57 + 2 ^ 42 → s.against (s.closedFor (.host p) w) (g % 2 ^ 42) m = none →
        ∀ ar, s.areaOf (g % 2 ^ 42) m = some ar →
        (ar.slotted = true → m ≠ 0 → exec (.bar4Access p o w d n bad) s = .next { s with
          host.mem := s.host.mem ++ [⟨.host p, none, g % 2 ^ 42, m, w, if w then d else [], bad, 0, 0⟩] }) ∧
        (ar.slotted = false → w = false → bad = none → s.marks = [] → ∃ t, exec (.bar4Access p o w d n bad) s = .next t ∧
          t.outbox = .memData (.host p) (s.hostBytes (g % 2 ^ 42) m) :: s.outbox ∧ t.mem = s.mem)) ∧
      (∀ c : BitVec 15, g < 2 ^ 57 → s.coordOk = true → g / 2 ^ 42 = c.toNat → c ≠ s.coord →
        (s.inTorus c = false ∨ w = false ∨ inGranary (g % 2 ^ 42) = false → ∃ t, exec (.bar4Access p o w d n bad) s = .next t ∧
          (t.hp p).err.getLsbD 1 = true ∧ t.outbox = .regError (.host p) :: s.outbox ∧ t.mem = s.mem ∧ t.fab = s.fab) ∧
        (s.inTorus c = true → w = true → inGranary (g % 2 ^ 42) = true → s.canReach c = false → ∃ t,
          exec (.bar4Access p o w d n bad) s = .next t ∧ (t.hp p).err = (s.hp p).err ∧ t.outbox = .regError (.host p) :: s.outbox ∧
          t.mem = s.mem ∧ t.fab = s.fab) ∧
        (s.inTorus c = true → w = true → inGranary (g % 2 ^ 42) = true → s.canReach c = true → d ≠ [] → g % 128 + d.length ≤ 256 →
          s.fab.outq = [] → s.fab.retain.length < 64 → ∃ t k, exec (.bar4Access p o w d n bad) s = .next t ∧ t.mem = s.mem ∧
            t.outbox = s.outbox ∧ t.fab.retain = s.fab.retain ++ [⟨s.fab.nextTag, c, k⟩] ∧
            t.fab.nextTag = (s.fab.nextTag + 1) % 2 ^ 32 ∧
            k.header = mkHeader 2 1 0 none true 0 s.coord c 0 (g % 2 ^ 42 / 128 * 128) s.fab.nextTag ∧
            ∀ i, i < d.length → byteOf k.payload (g % 128 + i) = d.getD i 0)) ∧
      (2 ^ 57 + 2 ^ 42 ≤ g → ∃ t, exec (.bar4Access p o w d n bad) s = .next t ∧ (t.hp p).err.getLsbD 1 = true ∧
        t.outbox = .regError (.host p) :: s.outbox ∧ t.mem = s.mem)))
end

