-- ==== Sys2Proof/Laws/Memory.lean ====
section
/-! SUPPORT. Laws of memory: every operation over the memory list keeps its canonical form, and a read after a write gives
the byte written at its address and the earlier byte at every other. -/

namespace Sys2Proof.Machine

/-- Every listed address is above `a`. -/
def Memory.above (a : Nat) (m : List Host.Cell) : Prop := ∀ c ∈ m, a < c.1

theorem Memory.wf_cons (c : Host.Cell) (m : List Host.Cell) :
    Memory.wf (c :: m) = true ↔ c.2 ≠ Memory.blank ∧ Memory.above c.1 m ∧ Memory.wf m = true := by
  induction m generalizing c with
  | nil => simp [Memory.wf, Memory.above]
  | cons e m ih =>
    simp only [Memory.wf, Bool.and_eq_true, bne_iff_ne, ne_eq, decide_eq_true_eq]
    constructor
    · rintro ⟨⟨hv, hlt⟩, hw⟩
      refine ⟨hv, ?_, hw⟩
      intro d hd
      rcases List.mem_cons.1 hd with rfl | hd
      · exact hlt
      · exact Nat.lt_trans hlt (((ih e).1 hw).2.1 d hd)
    · rintro ⟨hv, ha, hw⟩
      exact ⟨⟨hv, ha e (by simp)⟩, hw⟩

theorem Memory.get_above (m : List Host.Cell) (a r : Nat) (h : Memory.above a m) (hr : r ≤ a) :
    Memory.get m r = Memory.blank := by
  induction m with
  | nil => rfl
  | cons c m ih =>
    obtain ⟨k, v⟩ := c
    have hk : a < k := h (k, v) (by simp)
    simp only [Memory.get]
    split
    · omega
    · exact ih fun d hd => h d (by simp [hd])

theorem Memory.above_set (m : List Host.Cell) (a b : Nat) (v : Byte) (h : Memory.above b m) (hb : b < a) :
    Memory.above b (Memory.set m a v) := by
  induction m with
  | nil => simp only [Memory.set]; split <;> intro d hd <;> simp_all
  | cons c m ih =>
    obtain ⟨k, w⟩ := c
    have h1 : Memory.above b m := fun d hd => h d (by simp [hd])
    have hk : b < k := h (k, w) (by simp)
    simp only [Memory.set]
    split
    · split
      · exact h
      · intro d hd; rcases List.mem_cons.1 hd with rfl | hd
        · exact hb
        · exact h d hd
    · split
      · split
        · exact h1
        · intro d hd; rcases List.mem_cons.1 hd with rfl | hd
          · exact hb
          · exact h1 d hd
      · intro d hd; rcases List.mem_cons.1 hd with rfl | hd
        · exact hk
        · exact ih h1 d hd

/-- Writing one byte keeps the canonical form. -/
theorem Memory.wf_set (m : List Host.Cell) (a : Nat) (v : Byte) (h : Memory.wf m = true) :
    Memory.wf (Memory.set m a v) = true := by
  induction m with
  | nil => simp only [Memory.set]; split <;> simp_all [Memory.wf]
  | cons c m ih =>
    obtain ⟨k, w⟩ := c
    obtain ⟨hw, ha, hm⟩ := (Memory.wf_cons _ _).1 h
    simp only [Memory.set]
    split
    · split
      · exact h
      · next hlt hv =>
        refine (Memory.wf_cons _ _).2 ⟨hv, ?_, h⟩
        intro d hd; rcases List.mem_cons.1 hd with rfl | hd
        · exact hlt
        · exact Nat.lt_trans hlt (ha d hd)
    · split
      · next _ he =>
        subst he
        split
        · exact hm
        · next hv => exact (Memory.wf_cons _ _).2 ⟨hv, ha, hm⟩
      · exact (Memory.wf_cons _ _).2 ⟨hw, Memory.above_set m a k v ha (by omega), ih hm⟩

/-- A read after a byte write. -/
theorem Memory.get_set (m : List Host.Cell) (a r : Nat) (v : Byte) (h : Memory.wf m = true) :
    Memory.get (Memory.set m a v) r = if r = a then v else Memory.get m r := by
  induction m with
  | nil => simp only [Memory.set]; split <;> simp [Memory.get] <;> grind
  | cons c m ih =>
    obtain ⟨k, w⟩ := c
    obtain ⟨hw, ha, hm⟩ := (Memory.wf_cons _ _).1 h
    simp only [Memory.set]
    split
    · split
      · next hlt hv =>
        split
        · next hr =>
          subst hr; subst hv
          refine Memory.get_above _ r r ?_ (Nat.le_refl _)
          intro d hd; rcases List.mem_cons.1 hd with rfl | hd
          · exact hlt
          · exact Nat.lt_trans hlt (ha d hd)
        · rfl
      · simp only [Memory.get]; grind
    · split
      · next _ he =>
        subst he
        split
        · next hv =>
          split
          · next hr => subst hr; subst hv; exact Memory.get_above _ _ _ ha (Nat.le_refl _)
          · simp only [Memory.get]; grind
        · simp only [Memory.get]; grind
      · simp only [Memory.get, ih hm]; grind

/-- Writing consecutive bytes keeps the canonical form. -/
theorem Memory.wf_setBytes (bs : List Byte) (m : List Host.Cell) (a : Nat) (h : Memory.wf m = true) :
    Memory.wf (Memory.setBytes m a bs) = true := by
  induction bs generalizing m a with
  | nil => exact h
  | cons b r ih => exact ih _ _ (Memory.wf_set m a b h)

theorem Memory.above_filter (m : List Host.Cell) (a : Nat) (p : Host.Cell → Bool) (h : Memory.above a m) :
    Memory.above a (m.filter p) := fun d hd => h d (List.mem_filter.1 hd).1

/-- Taking entries out keeps the canonical form. -/
theorem Memory.wf_filter (m : List Host.Cell) (p : Host.Cell → Bool) (h : Memory.wf m = true) :
    Memory.wf (m.filter p) = true := by
  induction m with
  | nil => rfl
  | cons c m ih =>
    obtain ⟨hv, ha, hm⟩ := (Memory.wf_cons _ _).1 h
    rw [List.filter_cons]
    split
    · exact (Memory.wf_cons _ _).2 ⟨hv, Memory.above_filter m c.1 p ha, ih hm⟩
    · exact ih hm

/-- Zeroing a range keeps the canonical form. -/
theorem Memory.wf_zero (m : List Host.Cell) (a n : Nat) (h : Memory.wf m = true) :
    Memory.wf (Memory.zero m a n) = true := Memory.wf_filter m _ h

/-- A read outside the bytes written gives the earlier byte. -/
theorem Memory.get_setBytes_outside (bs : List Byte) (m : List Host.Cell) (a r : Nat) (h : Memory.wf m = true)
    (hr : r < a ∨ a + bs.length ≤ r) : Memory.get (Memory.setBytes m a bs) r = Memory.get m r := by
  induction bs generalizing m a with
  | nil => rfl
  | cons b t ih =>
    simp only [Memory.setBytes, List.length_cons] at hr ⊢
    rw [ih _ _ (Memory.wf_set m a b h) (by omega), Memory.get_set m a r b h, if_neg (by omega)]

theorem Memory.get_setBytes (bs : List Byte) (m : List Host.Cell) (a r : Nat) (h : Memory.wf m = true) :
    Memory.get (Memory.setBytes m a bs) r =
      if a ≤ r ∧ r < a + bs.length then bs.getD (r - a) 0 else Memory.get m r := by
  induction bs generalizing m a with
  | nil => simp [Memory.setBytes]
  | cons b t ih =>
    simp only [Memory.setBytes, ih _ _ (Memory.wf_set m a b h), List.length_cons]
    by_cases h1 : r = a
    · subst h1; simp [Memory.get_set m r r b h]
    · rw [Memory.get_set m a r b h, if_neg h1]
      by_cases h2 : a + 1 ≤ r ∧ r < a + 1 + t.length
      · rw [if_pos h2, if_pos (by omega)]
        obtain ⟨n, rfl⟩ : ∃ n, r = a + (n + 1) := ⟨r - a - 1, by omega⟩
        have e1 : a + (n + 1) - (a + 1) = n := by omega
        have e2 : a + (n + 1) - a = n + 1 := by omega
        rw [e1, e2]; rfl
      · rw [if_neg h2, if_neg (by omega)]

theorem UndefRange.find_cut (us : List UndefRange) (a n r : Nat) :
    ((us.flatMap fun u => u.cut a n).find? fun u => u.base ≤ r && r < u.base + u.len).map UndefRange.stamp =
      if a ≤ r ∧ r < a + n then none else (us.find? fun u => u.base ≤ r && r < u.base + u.len).map UndefRange.stamp := by
  induction us with
  | nil => simp
  | cons u us ih =>
    rw [List.flatMap_cons, List.find?_append]
    have hc : ((u.cut a n).find? fun u => u.base ≤ r && r < u.base + u.len).map UndefRange.stamp =
        if a ≤ r ∧ r < a + n then none
        else if u.base ≤ r ∧ r < u.base + u.len then some u.stamp else none := by
      unfold UndefRange.cut
      split
      · simp only [List.find?_cons, List.find?_nil]
        split <;> split <;> simp_all <;> omega
      · split <;> split <;> simp only [List.nil_append, List.cons_append, List.append_nil, List.find?_cons, List.find?_nil] <;>
          (repeat' split) <;> simp_all <;> omega
    rw [List.find?_cons]
    by_cases hr : a ≤ r ∧ r < a + n
    · rw [if_pos hr] at hc ih ⊢
      simp only [Option.map_eq_none_iff] at hc
      rw [hc]; simpa using ih
    · rw [if_neg hr] at hc ih ⊢
      by_cases hu : u.base ≤ r ∧ r < u.base + u.len
      · rw [if_pos hu] at hc
        simp only [hu.1, hu.2, decide_true, Bool.and_self, Option.map_some]
        cases hf : (u.cut a n).find? fun u => u.base ≤ r && r < u.base + u.len with
        | none => simp [hf] at hc
        | some v => simp [hf] at hc; simp [hc]
      · rw [if_neg hu] at hc
        simp only [Option.map_eq_none_iff] at hc
        have : (decide (u.base ≤ r) && decide (r < u.base + u.len)) = false := by simp; omega
        rw [hc, this]; simpa using ih

theorem State.byte_eq (s : State) (a : Nat) :
    s.byte a = match (s.undef.find? fun u => u.base ≤ a && a < u.base + u.len).map UndefRange.stamp with
      | some n => Config.freeByte n a
      | none => Memory.get s.mem a := by
  unfold State.byte
  cases s.undef.find? fun u => u.base ≤ a && a < u.base + u.len <;> rfl

/-- A read after a write of consecutive bytes: the bytes written in their range, every other byte as before. -/
theorem State.byte_setBytes (s : State) (a r : Nat) (bs : List Byte) (h : Memory.wf s.mem = true) :
    (s.setBytes a bs).byte r = if a ≤ r ∧ r < a + bs.length then bs.getD (r - a) 0 else s.byte r := by
  rw [State.byte_eq, State.byte_eq]
  simp only [State.setBytes, UndefRange.find_cut, Memory.get_setBytes bs s.mem a r h]
  by_cases hr : a ≤ r ∧ r < a + bs.length
  · simp only [if_pos hr]
  · simp only [if_neg hr]

theorem State.wf_setBytes (s : State) (a : Nat) (bs : List Byte) (h : Memory.wf s.mem = true) :
    Memory.wf (s.setBytes a bs).mem = true := Memory.wf_setBytes bs s.mem a h

theorem State.wf_zeroBytes (s : State) (a n : Nat) (h : Memory.wf s.mem = true) :
    Memory.wf (s.zeroBytes a n).mem = true := Memory.wf_zero s.mem a n h

end Sys2Proof.Machine
end

