-- ==== Sys2Proof/Laws/Bytes.lean ====
section
/-! SUPPORT. Laws of byte strings and of local ranges: the number that bytes spell, a field of bytes joined, and what a local range in the
near tier reads as after bytes are written to one. -/

namespace Sys2Proof.Machine

@[simp] theorem length_leBytes (n v : Nat) : (leBytes n v).length = n := by
  induction n generalizing v with
  | zero => rfl
  | succ n ih => simp [leBytes, ih]

/-- The bytes of a number spell it, within their width. -/
theorem leNat_leBytes (n v : Nat) : leNat (leBytes n v) = v % 256 ^ n := by
  induction n generalizing v with
  | zero => simp [leBytes, leNat, Nat.mod_one]
  | succ n ih =>
    rw [leBytes, leNat, ih, BitVec.toNat_ofNat, show (2 : Nat) ^ 8 = 256 from rfl,
      show (256 : Nat) ^ (n + 1) = 256 * 256 ^ n by rw [Nat.pow_succ, Nat.mul_comm], Nat.mod_mul]

/-- A field that lies in the first of two strings. -/
theorem sub_left (a b : List Byte) (o n : Nat) (h : o + n ≤ a.length) : sub (a ++ b) o n = sub a o n := by
  unfold sub
  rw [List.drop_append_of_le_length (by omega), List.take_append_of_le_length (by simp; omega)]

/-- A field that lies behind the first of two strings. -/
theorem sub_right (a b : List Byte) (o n : Nat) (h : a.length ≤ o) : sub (a ++ b) o n = sub b (o - a.length) n := by
  unfold sub
  rw [List.drop_append, List.drop_eq_nil_of_le h, List.nil_append]

/-- A string is its own field. -/
theorem sub_all (a b : List Byte) (n : Nat) (h : a.length = n) : sub (a ++ b) 0 n = a := by
  subst h; simp [sub]

theorem recField_eq_sub (l : List Byte) (o n : Nat) : recField l o n = leNat (sub l o n) := rfl

/-- A field of bytes that are all one byte. -/
theorem sub_replicate (x : Byte) (m o n : Nat) (h : o + n ≤ m) : sub (List.replicate m x) o n = List.replicate n x := by
  rw [sub, List.drop_replicate, List.take_replicate, Nat.min_eq_left (by omega)]

/-- A digest that is written out reads as itself. -/
theorem recField_digest (x : BitVec 512) (a b : List Byte) (o : Nat) (h : a.length = o) :
    recField (a ++ (leBytes 64 x.toNat ++ b)) o 64 = x.toNat := by
  rw [recField_eq_sub, sub_right _ _ _ _ (by omega), h, Nat.sub_self, sub_all _ _ _ (length_leBytes 64 _), leNat_leBytes]
  exact Nat.mod_eq_of_lt (Nat.lt_of_lt_of_eq x.isLt (by rw [show (256 : Nat) = 2 ^ 8 from rfl, ← Nat.pow_mul]))

/-- The place of a near-tier address within its slice stays within the slice's 6 GiB. -/
theorem ntMap_lt (z : BitVec 24) (a : Nat) (h : a < 0x18000000000) :
    (ntMap z a).1 < 256 ∧ (ntMap z a).2 < 0x180000000 := by
  simp only [ntMap]; split <;> simp only <;> omega

/-- Two near-tier addresses stand at two places (R293). -/
theorem ntMap_inj (z : BitVec 24) (a b : Nat) (ha : a < 0x18000000000) (hb : b < 0x18000000000)
    (h : ntPhys (ntMap z a).1 (ntMap z a).2 = ntPhys (ntMap z b).1 (ntMap z b).2) : a = b := by
  have la := ntMap_lt z a ha
  have lb := ntMap_lt z b hb
  simp only [ntPhys] at h
  have h1 : (ntMap z a).1 = (ntMap z b).1 := by omega
  have h2 : (ntMap z a).2 = (ntMap z b).2 := by omega
  clear h la lb
  simp only [ntMap] at h1 h2
  have hz : a / 2 ^ 36 = b / 2 ^ 36 := by
    split at h2 <;> split at h2 <;> simp only at h2 <;> omega
  rw [hz] at h1 h2
  cases hc : z.getLsbD (b / 2 ^ 36) <;> simp only [hc, if_true, if_false, Bool.false_eq_true] at h1 h2 <;> omega

/-- Two near-tier addresses share no place. -/
theorem State.phys_inj (s : State) (a b : Nat) (ha : a < 0x18000000000) (hb : b < 0x18000000000)
    (h : s.phys a = s.phys b) : a = b := by
  simp only [State.phys, if_pos ha, if_pos hb, Option.some.injEq] at h
  exact ntMap_inj s.zone a b ha hb h

@[simp] theorem State.phys_setBytes (s : State) (p a : Nat) (bs : List Byte) : (s.setBytes p bs).phys a = s.phys a := rfl

/-- Writing keeps the canonical form of memory, and touches no other part of the state. -/
theorem State.wf_writeLocal (bs : List Byte) (s : State) (a : Nat) (h : Memory.wf s.mem = true) :
    Memory.wf (s.writeLocal a bs).mem = true := by
  induction bs generalizing s a with
  | nil => exact h
  | cons b r ih =>
    unfold State.writeLocal
    apply ih
    split
    · exact State.wf_setBytes s _ _ h
    · exact h
theorem State.phys_writeLocal (bs : List Byte) (s : State) (a x : Nat) : (s.writeLocal a bs).phys x = s.phys x := by
  induction bs generalizing s a with
  | nil => rfl
  | cons b r ih => unfold State.writeLocal; rw [ih]; split <;> rfl

/-- A write to a local range changes memory and nothing else. -/
theorem State.writeLocal_eq (bs : List Byte) (s : State) (a : Nat) :
    ∃ m u k x, s.writeLocal a bs = { s with mem := m, undef := u, marks := k, fixes := x } := by
  induction bs generalizing s a with
  | nil => exact ⟨s.mem, s.undef, s.marks, s.fixes, rfl⟩
  | cons b r ih =>
    unfold State.writeLocal
    split
    · obtain ⟨m, u, k, x, e⟩ := ih (s.setBytes _ [b]) (a + 1)
      exact ⟨m, u, k, x, by rw [e]; rfl⟩
    · exact ih s (a + 1)

/-- A place that none of the addresses written has keeps its byte. -/
theorem State.byte_writeLocal_outside (bs : List Byte) (s : State) (a p : Nat) (h : Memory.wf s.mem = true)
    (hp : ∀ i, i < bs.length → s.phys (a + i) ≠ some p) : (s.writeLocal a bs).byte p = s.byte p := by
  induction bs generalizing s a with
  | nil => rfl
  | cons b r ih =>
    unfold State.writeLocal
    have h0 := hp 0 (by simp)
    have hr : ∀ i, i < r.length → s.phys (a + 1 + i) ≠ some p := fun i hi => by
      have := hp (i + 1) (by simp; omega); rwa [show a + (i + 1) = a + 1 + i by omega] at this
    split
    · next q hq =>
      rw [Nat.add_zero] at h0
      rw [ih _ _ (State.wf_setBytes s _ _ h) (by simpa using hr), State.byte_setBytes _ _ _ _ h]
      have : p ≠ q := fun e => h0 (by rw [hq, e])
      simp; omega
    · exact ih _ _ h hr

/-- Each address of a near-tier range reads the byte written there. -/
theorem State.byte_writeLocal (bs : List Byte) (s : State) (a i p : Nat) (h : Memory.wf s.mem = true)
    (hr : a + bs.length ≤ 0x18000000000) (hi : i < bs.length) (hp : s.phys (a + i) = some p) :
    (s.writeLocal a bs).byte p = bs.getD i 0 := by
  induction bs generalizing s a i with
  | nil => simp at hi
  | cons b r ih =>
    simp only [List.length_cons] at hr hi
    unfold State.writeLocal
    cases i with
    | zero =>
      rw [Nat.add_zero] at hp
      rw [hp]
      simp only
      rw [State.byte_writeLocal_outside _ _ _ _ (State.wf_setBytes s _ _ h), State.byte_setBytes _ _ _ _ h]
      · simp
      · intro j hj e
        rw [State.phys_setBytes] at e
        have := s.phys_inj a (a + 1 + j) (by omega) (by omega) (by rw [hp, e])
        omega
    | succ i =>
      have e : a + (i + 1) = a + 1 + i := by omega
      rw [e] at hp
      split
      · rw [ih _ _ i (State.wf_setBytes s _ _ h) (by omega) (by omega) (by simpa using hp)]; simp
      · rw [ih _ _ i h (by omega) (by omega) hp]; simp

/-- A near-tier address is mapped. -/
theorem State.phys_near (s : State) (a : Nat) (h : a < 0x18000000000) : ∃ p, s.phys a = some p := by
  simp only [State.phys, if_pos h]; exact ⟨_, rfl⟩

/-- What was written to a near-tier range is what each range within it reads as. -/
theorem State.readLocal_writeLocal (s : State) (bs : List Byte) (a o n : Nat) (h : Memory.wf s.mem = true)
    (hr : a + bs.length ≤ 0x18000000000) (hn : o + n ≤ bs.length) : (s.writeLocal a bs).readLocal (a + o) n = sub bs o n := by
  apply List.ext_getElem
  · simp [State.readLocal, sub]; omega
  · intro i h1 h2
    simp only [State.readLocal, List.length_map, List.length_range] at h1
    obtain ⟨p, hp⟩ := s.phys_near (a + o + i) (by omega)
    simp only [State.readLocal, List.getElem_map, List.getElem_range, State.phys_writeLocal, hp, sub, List.getElem_take,
      List.getElem_drop]
    rw [State.byte_writeLocal bs s a (o + i) p h hr (by omega) (by rw [← hp, Nat.add_assoc])]
    simp [List.getD_eq_getElem?_getD]; grind

end Sys2Proof.Machine
end

