-- ==== Sys2Proof/Laws/Cells.lean ====
section
/-! SUPPORT. Laws of cells: a control cell that is sealed with its CRC passes its check, and its fields read as they were put in
(Table 10-5). -/

namespace Sys2Proof.Machine

/-- The low bytes of a number say nothing of what stands above them. -/
theorem leBytes_mod (n v : Nat) : leBytes n (v % 256 ^ n) = leBytes n v := by
  induction n generalizing v with
  | zero => rfl
  | succ n ih =>
    have h1 : v % 256 ^ (n + 1) / 256 = v / 256 % 256 ^ n := by
      rw [Nat.pow_succ, Nat.mul_comm, Nat.mod_mul_right_div_self]
    have h2 : v % 256 ^ (n + 1) % 256 = v % 256 := by
      rw [Nat.pow_succ]; exact Nat.mod_mul_left_mod v (256 ^ n) 256
    unfold leBytes
    rw [h1, ih]
    congr 1
    apply BitVec.eq_of_toNat_eq
    simp

/-- A control cell whose last four bytes are the CRC of the first 28 passes its check. -/
theorem kOk_seal (b : Nat) (h : b < 2 ^ 224) :
    kOk (BitVec.ofNat 256 (b + 2 ^ 224 * (crc32c (leBytes 28 b)).toNat)) = true := by
  unfold kOk
  have hc := (crc32c (leBytes 28 b)).isLt
  have hn : (BitVec.ofNat 256 (b + 2 ^ 224 * (crc32c (leBytes 28 b)).toNat)).toNat =
      b + 2 ^ 224 * (crc32c (leBytes 28 b)).toNat := by
    rw [BitVec.toNat_ofNat]; omega
  have hm : leBytes 28 (b + 2 ^ 224 * (crc32c (leBytes 28 b)).toNat) = leBytes 28 b := by
    rw [← leBytes_mod, show (256 : Nat) ^ 28 = 2 ^ 224 from rfl, Nat.add_mul_mod_self_left, Nat.mod_eq_of_lt h]
  rw [hn, hm, beq_iff_eq]
  apply BitVec.eq_of_toNat_eq
  rw [BitVec.extractLsb'_toNat, hn, Nat.shiftRight_eq_div_pow]
  omega

end Sys2Proof.Machine
end

