-- ==== Sys2Proof/Laws/Tables.lean ====
section
/-! SUPPORT. Laws of tables: what a lookup gives after a change. -/

namespace Sys2Proof

@[simp] theorem Tbl.look_put {α : Type} (t : Tbl α) (k r : Nat) (v d : α) :
    (t.put k v).look r d = if k = r then v else t.look r d := by
  induction t with
  | nil => simp [Tbl.put, Tbl.look]
  | cons e t ih =>
    obtain ⟨j, w⟩ := e
    simp only [Tbl.put]
    split
    · simp [Tbl.look]
    · split
      · next h => subst h; simp only [Tbl.look]; split <;> simp_all
      · simp only [Tbl.look, ih]; split <;> split <;> simp_all

@[simp] theorem Tbl.look_nil {α : Type} (r : Nat) (d : α) : Tbl.look ([] : Tbl α) r d = d := rfl

theorem Tbl.look_put_self {α : Type} (t : Tbl α) (k : Nat) (v d : α) : (t.put k v).look k d = v := by simp

theorem Tbl.look_put_ne {α : Type} (t : Tbl α) (k r : Nat) (v d : α) (h : k ≠ r) :
    (t.put k v).look r d = t.look r d := by simp [h]

@[simp] theorem Tbl.look_upd {α : Type} (t : Tbl α) (k r : Nat) (e d : α) (f : α → α) :
    (t.upd k e f).look r d = if k = r then f (t.look k e) else t.look r d := by
  simp [Tbl.upd]

end Sys2Proof
end

