-- ==== Sys2Proof/Laws/State.lean ====
section
/-! SUPPORT. Laws of the state's accessors and updates: what each update leaves as it was. -/

namespace Sys2Proof.Machine

/-! ### Lines and queues -/

theorem qKey_inj (st st' : Station) (t t' : Nat) : qKey st t = qKey st' t' ↔ st = st' ∧ t = t' := by
  cases st <;> cases st' <;> simp [qKey, Station.code] <;> omega

@[simp] theorem LineState.q_updQ (L : LineState) (st st' : Station) (t t' : Nat) (f : QState → QState) :
    (L.updQ st t f).q st' t' = if st = st' ∧ t = t' then f (L.q st t) else L.q st' t' := by
  simp [LineState.updQ, LineState.setQ, LineState.q, qKey_inj]

@[simp] theorem State.line_updLine (s : State) (l k : Nat) (f : LineState → LineState) :
    (s.updLine l f).line k = if l = k then f (s.line l) else s.line k := by
  simp [State.updLine, State.setLine, State.line]

@[simp] theorem State.q_updQ_self (s : State) (st : Station) (q : Queue) (f : QState → QState) :
    (s.updQ st q f).q st q = f (s.q st q) := by
  simp [State.updQ, State.q]

theorem State.bay_updBay (s : State) (b k : Nat) (f : BayState → BayState) :
    (s.updBay b f).bay k = if b = k then f (s.bay b) else s.bay k := by
  simp [State.updBay, State.bay]

/-! ### Fields that an update of lines, bays, memory, holds and of the outbox leaves as they were -/

@[simp] theorem State.updLine_time (s : State) (l : Nat) (f : LineState → LineState) : (s.updLine l f).time = s.time := rfl
@[simp] theorem State.updLine_hrv (s : State) (l : Nat) (f : LineState → LineState) : (s.updLine l f).hrv = s.hrv := rfl
@[simp] theorem State.updLine_job (s : State) (l : Nat) (f : LineState → LineState) : (s.updLine l f).job = s.job := rfl
@[simp] theorem State.updLine_mem (s : State) (l : Nat) (f : LineState → LineState) : (s.updLine l f).mem = s.mem := rfl
@[simp] theorem State.updLine_undef (s : State) (l : Nat) (f : LineState → LineState) : (s.updLine l f).undef = s.undef := rfl
@[simp] theorem State.updLine_marks (s : State) (l : Nat) (f : LineState → LineState) : (s.updLine l f).marks = s.marks := rfl
@[simp] theorem State.updLine_fixes (s : State) (l : Nat) (f : LineState → LineState) : (s.updLine l f).fixes = s.fixes := rfl
@[simp] theorem State.updLine_bays (s : State) (l : Nat) (f : LineState → LineState) : (s.updLine l f).bays = s.bays := rfl
@[simp] theorem State.updLine_uses (s : State) (l : Nat) (f : LineState → LineState) : (s.updLine l f).uses = s.uses := rfl
@[simp] theorem State.updLine_cross (s : State) (l : Nat) (f : LineState → LineState) : (s.updLine l f).cross = s.cross := rfl
@[simp] theorem State.updLine_free (s : State) (l : Nat) (f : LineState → LineState) : (s.updLine l f).free = s.free := rfl
@[simp] theorem State.updLine_flags (s : State) (l : Nat) (f : LineState → LineState) : (s.updLine l f).flags = s.flags := rfl
@[simp] theorem State.updLine_words (s : State) (l : Nat) (f : LineState → LineState) : (s.updLine l f).words = s.words := rfl
@[simp] theorem State.updLine_nacks (s : State) (l : Nat) (f : LineState → LineState) : (s.updLine l f).nacks = s.nacks := rfl
@[simp] theorem State.updLine_elb (s : State) (l : Nat) (f : LineState → LineState) : (s.updLine l f).elb = s.elb := rfl
@[simp] theorem State.updLine_gr (s : State) (l : Nat) (f : LineState → LineState) : (s.updLine l f).gr = s.gr := rfl
@[simp] theorem State.updLine_fab (s : State) (l : Nat) (f : LineState → LineState) : (s.updLine l f).fab = s.fab := rfl
@[simp] theorem State.updLine_host (s : State) (l : Nat) (f : LineState → LineState) : (s.updLine l f).host = s.host := rfl
@[simp] theorem State.updLine_pwr (s : State) (l : Nat) (f : LineState → LineState) : (s.updLine l f).pwr = s.pwr := rfl
@[simp] theorem State.updLine_rcv (s : State) (l : Nat) (f : LineState → LineState) : (s.updLine l f).rcv = s.rcv := rfl
@[simp] theorem State.updLine_mod (s : State) (l : Nat) (f : LineState → LineState) : (s.updLine l f).mod = s.mod := rfl
@[simp] theorem State.updLine_sec (s : State) (l : Nat) (f : LineState → LineState) : (s.updLine l f).sec = s.sec := rfl
@[simp] theorem State.updLine_dbg (s : State) (l : Nat) (f : LineState → LineState) : (s.updLine l f).dbg = s.dbg := rfl
@[simp] theorem State.updLine_zone (s : State) (l : Nat) (f : LineState → LineState) : (s.updLine l f).zone = s.zone := rfl
@[simp] theorem State.updLine_part (s : State) (l : Nat) (f : LineState → LineState) : (s.updLine l f).part = s.part := rfl
@[simp] theorem State.updLine_coord (s : State) (l : Nat) (f : LineState → LineState) : (s.updLine l f).coord = s.coord := rfl
@[simp] theorem State.updLine_coordOk (s : State) (l : Nat) (f : LineState → LineState) : (s.updLine l f).coordOk = s.coordOk := rfl
@[simp] theorem State.updLine_pending (s : State) (l : Nat) (f : LineState → LineState) : (s.updLine l f).pending = s.pending := rfl
@[simp] theorem State.updLine_freeIx (s : State) (l : Nat) (f : LineState → LineState) : (s.updLine l f).freeIx = s.freeIx := rfl
@[simp] theorem State.updLine_outbox (s : State) (l : Nat) (f : LineState → LineState) : (s.updLine l f).outbox = s.outbox := rfl

@[simp] theorem State.updQ_time (s : State) (st : Station) (q : Queue) (f : QState → QState) : (s.updQ st q f).time = s.time := rfl
@[simp] theorem State.updQ_hrv (s : State) (st : Station) (q : Queue) (f : QState → QState) : (s.updQ st q f).hrv = s.hrv := rfl
@[simp] theorem State.updQ_job (s : State) (st : Station) (q : Queue) (f : QState → QState) : (s.updQ st q f).job = s.job := rfl
@[simp] theorem State.updQ_mem (s : State) (st : Station) (q : Queue) (f : QState → QState) : (s.updQ st q f).mem = s.mem := rfl
@[simp] theorem State.updQ_undef (s : State) (st : Station) (q : Queue) (f : QState → QState) : (s.updQ st q f).undef = s.undef := rfl
@[simp] theorem State.updQ_marks (s : State) (st : Station) (q : Queue) (f : QState → QState) : (s.updQ st q f).marks = s.marks := rfl
@[simp] theorem State.updQ_fixes (s : State) (st : Station) (q : Queue) (f : QState → QState) : (s.updQ st q f).fixes = s.fixes := rfl
@[simp] theorem State.updQ_bays (s : State) (st : Station) (q : Queue) (f : QState → QState) : (s.updQ st q f).bays = s.bays := rfl
@[simp] theorem State.updQ_uses (s : State) (st : Station) (q : Queue) (f : QState → QState) : (s.updQ st q f).uses = s.uses := rfl
@[simp] theorem State.updQ_cross (s : State) (st : Station) (q : Queue) (f : QState → QState) : (s.updQ st q f).cross = s.cross := rfl
@[simp] theorem State.updQ_free (s : State) (st : Station) (q : Queue) (f : QState → QState) : (s.updQ st q f).free = s.free := rfl
@[simp] theorem State.updQ_flags (s : State) (st : Station) (q : Queue) (f : QState → QState) : (s.updQ st q f).flags = s.flags := rfl
@[simp] theorem State.updQ_words (s : State) (st : Station) (q : Queue) (f : QState → QState) : (s.updQ st q f).words = s.words := rfl
@[simp] theorem State.updQ_nacks (s : State) (st : Station) (q : Queue) (f : QState → QState) : (s.updQ st q f).nacks = s.nacks := rfl
@[simp] theorem State.updQ_elb (s : State) (st : Station) (q : Queue) (f : QState → QState) : (s.updQ st q f).elb = s.elb := rfl
@[simp] theorem State.updQ_gr (s : State) (st : Station) (q : Queue) (f : QState → QState) : (s.updQ st q f).gr = s.gr := rfl
@[simp] theorem State.updQ_fab (s : State) (st : Station) (q : Queue) (f : QState → QState) : (s.updQ st q f).fab = s.fab := rfl
@[simp] theorem State.updQ_host (s : State) (st : Station) (q : Queue) (f : QState → QState) : (s.updQ st q f).host = s.host := rfl
@[simp] theorem State.updQ_pwr (s : State) (st : Station) (q : Queue) (f : QState → QState) : (s.updQ st q f).pwr = s.pwr := rfl
@[simp] theorem State.updQ_rcv (s : State) (st : Station) (q : Queue) (f : QState → QState) : (s.updQ st q f).rcv = s.rcv := rfl
@[simp] theorem State.updQ_mod (s : State) (st : Station) (q : Queue) (f : QState → QState) : (s.updQ st q f).mod = s.mod := rfl
@[simp] theorem State.updQ_sec (s : State) (st : Station) (q : Queue) (f : QState → QState) : (s.updQ st q f).sec = s.sec := rfl
@[simp] theorem State.updQ_dbg (s : State) (st : Station) (q : Queue) (f : QState → QState) : (s.updQ st q f).dbg = s.dbg := rfl
@[simp] theorem State.updQ_zone (s : State) (st : Station) (q : Queue) (f : QState → QState) : (s.updQ st q f).zone = s.zone := rfl
@[simp] theorem State.updQ_part (s : State) (st : Station) (q : Queue) (f : QState → QState) : (s.updQ st q f).part = s.part := rfl
@[simp] theorem State.updQ_coord (s : State) (st : Station) (q : Queue) (f : QState → QState) : (s.updQ st q f).coord = s.coord := rfl
@[simp] theorem State.updQ_coordOk (s : State) (st : Station) (q : Queue) (f : QState → QState) : (s.updQ st q f).coordOk = s.coordOk := rfl
@[simp] theorem State.updQ_pending (s : State) (st : Station) (q : Queue) (f : QState → QState) : (s.updQ st q f).pending = s.pending := rfl
@[simp] theorem State.updQ_freeIx (s : State) (st : Station) (q : Queue) (f : QState → QState) : (s.updQ st q f).freeIx = s.freeIx := rfl
@[simp] theorem State.updQ_outbox (s : State) (st : Station) (q : Queue) (f : QState → QState) : (s.updQ st q f).outbox = s.outbox := rfl

@[simp] theorem State.updBay_time (s : State) (b : Nat) (f : BayState → BayState) : (s.updBay b f).time = s.time := rfl
@[simp] theorem State.updBay_hrv (s : State) (b : Nat) (f : BayState → BayState) : (s.updBay b f).hrv = s.hrv := rfl
@[simp] theorem State.updBay_job (s : State) (b : Nat) (f : BayState → BayState) : (s.updBay b f).job = s.job := rfl
@[simp] theorem State.updBay_mem (s : State) (b : Nat) (f : BayState → BayState) : (s.updBay b f).mem = s.mem := rfl
@[simp] theorem State.updBay_undef (s : State) (b : Nat) (f : BayState → BayState) : (s.updBay b f).undef = s.undef := rfl
@[simp] theorem State.updBay_marks (s : State) (b : Nat) (f : BayState → BayState) : (s.updBay b f).marks = s.marks := rfl
@[simp] theorem State.updBay_fixes (s : State) (b : Nat) (f : BayState → BayState) : (s.updBay b f).fixes = s.fixes := rfl
@[simp] theorem State.updBay_lines (s : State) (b : Nat) (f : BayState → BayState) : (s.updBay b f).lines = s.lines := rfl
@[simp] theorem State.updBay_uses (s : State) (b : Nat) (f : BayState → BayState) : (s.updBay b f).uses = s.uses := rfl
@[simp] theorem State.updBay_cross (s : State) (b : Nat) (f : BayState → BayState) : (s.updBay b f).cross = s.cross := rfl
@[simp] theorem State.updBay_free (s : State) (b : Nat) (f : BayState → BayState) : (s.updBay b f).free = s.free := rfl
@[simp] theorem State.updBay_flags (s : State) (b : Nat) (f : BayState → BayState) : (s.updBay b f).flags = s.flags := rfl
@[simp] theorem State.updBay_words (s : State) (b : Nat) (f : BayState → BayState) : (s.updBay b f).words = s.words := rfl
@[simp] theorem State.updBay_nacks (s : State) (b : Nat) (f : BayState → BayState) : (s.updBay b f).nacks = s.nacks := rfl
@[simp] theorem State.updBay_elb (s : State) (b : Nat) (f : BayState → BayState) : (s.updBay b f).elb = s.elb := rfl
@[simp] theorem State.updBay_gr (s : State) (b : Nat) (f : BayState → BayState) : (s.updBay b f).gr = s.gr := rfl
@[simp] theorem State.updBay_fab (s : State) (b : Nat) (f : BayState → BayState) : (s.updBay b f).fab = s.fab := rfl
@[simp] theorem State.updBay_host (s : State) (b : Nat) (f : BayState → BayState) : (s.updBay b f).host = s.host := rfl
@[simp] theorem State.updBay_pwr (s : State) (b : Nat) (f : BayState → BayState) : (s.updBay b f).pwr = s.pwr := rfl
@[simp] theorem State.updBay_rcv (s : State) (b : Nat) (f : BayState → BayState) : (s.updBay b f).rcv = s.rcv := rfl
@[simp] theorem State.updBay_mod (s : State) (b : Nat) (f : BayState → BayState) : (s.updBay b f).mod = s.mod := rfl
@[simp] theorem State.updBay_sec (s : State) (b : Nat) (f : BayState → BayState) : (s.updBay b f).sec = s.sec := rfl
@[simp] theorem State.updBay_dbg (s : State) (b : Nat) (f : BayState → BayState) : (s.updBay b f).dbg = s.dbg := rfl
@[simp] theorem State.updBay_zone (s : State) (b : Nat) (f : BayState → BayState) : (s.updBay b f).zone = s.zone := rfl
@[simp] theorem State.updBay_part (s : State) (b : Nat) (f : BayState → BayState) : (s.updBay b f).part = s.part := rfl
@[simp] theorem State.updBay_coord (s : State) (b : Nat) (f : BayState → BayState) : (s.updBay b f).coord = s.coord := rfl
@[simp] theorem State.updBay_coordOk (s : State) (b : Nat) (f : BayState → BayState) : (s.updBay b f).coordOk = s.coordOk := rfl
@[simp] theorem State.updBay_pending (s : State) (b : Nat) (f : BayState → BayState) : (s.updBay b f).pending = s.pending := rfl
@[simp] theorem State.updBay_freeIx (s : State) (b : Nat) (f : BayState → BayState) : (s.updBay b f).freeIx = s.freeIx := rfl
@[simp] theorem State.updBay_outbox (s : State) (b : Nat) (f : BayState → BayState) : (s.updBay b f).outbox = s.outbox := rfl

@[simp] theorem State.setBytes_time (s : State) (a : Nat) (bs : List Byte) : (s.setBytes a bs).time = s.time := rfl
@[simp] theorem State.setBytes_hrv (s : State) (a : Nat) (bs : List Byte) : (s.setBytes a bs).hrv = s.hrv := rfl
@[simp] theorem State.setBytes_job (s : State) (a : Nat) (bs : List Byte) : (s.setBytes a bs).job = s.job := rfl
@[simp] theorem State.setBytes_lines (s : State) (a : Nat) (bs : List Byte) : (s.setBytes a bs).lines = s.lines := rfl
@[simp] theorem State.setBytes_bays (s : State) (a : Nat) (bs : List Byte) : (s.setBytes a bs).bays = s.bays := rfl
@[simp] theorem State.setBytes_uses (s : State) (a : Nat) (bs : List Byte) : (s.setBytes a bs).uses = s.uses := rfl
@[simp] theorem State.setBytes_cross (s : State) (a : Nat) (bs : List Byte) : (s.setBytes a bs).cross = s.cross := rfl
@[simp] theorem State.setBytes_free (s : State) (a : Nat) (bs : List Byte) : (s.setBytes a bs).free = s.free := rfl
@[simp] theorem State.setBytes_flags (s : State) (a : Nat) (bs : List Byte) : (s.setBytes a bs).flags = s.flags := rfl
@[simp] theorem State.setBytes_words (s : State) (a : Nat) (bs : List Byte) : (s.setBytes a bs).words = s.words := rfl
@[simp] theorem State.setBytes_nacks (s : State) (a : Nat) (bs : List Byte) : (s.setBytes a bs).nacks = s.nacks := rfl
@[simp] theorem State.setBytes_elb (s : State) (a : Nat) (bs : List Byte) : (s.setBytes a bs).elb = s.elb := rfl
@[simp] theorem State.setBytes_gr (s : State) (a : Nat) (bs : List Byte) : (s.setBytes a bs).gr = s.gr := rfl
@[simp] theorem State.setBytes_fab (s : State) (a : Nat) (bs : List Byte) : (s.setBytes a bs).fab = s.fab := rfl
@[simp] theorem State.setBytes_host (s : State) (a : Nat) (bs : List Byte) : (s.setBytes a bs).host = s.host := rfl
@[simp] theorem State.setBytes_pwr (s : State) (a : Nat) (bs : List Byte) : (s.setBytes a bs).pwr = s.pwr := rfl
@[simp] theorem State.setBytes_rcv (s : State) (a : Nat) (bs : List Byte) : (s.setBytes a bs).rcv = s.rcv := rfl
@[simp] theorem State.setBytes_mod (s : State) (a : Nat) (bs : List Byte) : (s.setBytes a bs).mod = s.mod := rfl
@[simp] theorem State.setBytes_sec (s : State) (a : Nat) (bs : List Byte) : (s.setBytes a bs).sec = s.sec := rfl
@[simp] theorem State.setBytes_dbg (s : State) (a : Nat) (bs : List Byte) : (s.setBytes a bs).dbg = s.dbg := rfl
@[simp] theorem State.setBytes_zone (s : State) (a : Nat) (bs : List Byte) : (s.setBytes a bs).zone = s.zone := rfl
@[simp] theorem State.setBytes_part (s : State) (a : Nat) (bs : List Byte) : (s.setBytes a bs).part = s.part := rfl
@[simp] theorem State.setBytes_coord (s : State) (a : Nat) (bs : List Byte) : (s.setBytes a bs).coord = s.coord := rfl
@[simp] theorem State.setBytes_coordOk (s : State) (a : Nat) (bs : List Byte) : (s.setBytes a bs).coordOk = s.coordOk := rfl
@[simp] theorem State.setBytes_pending (s : State) (a : Nat) (bs : List Byte) : (s.setBytes a bs).pending = s.pending := rfl
@[simp] theorem State.setBytes_freeIx (s : State) (a : Nat) (bs : List Byte) : (s.setBytes a bs).freeIx = s.freeIx := rfl
@[simp] theorem State.setBytes_outbox (s : State) (a : Nat) (bs : List Byte) : (s.setBytes a bs).outbox = s.outbox := rfl

@[simp] theorem State.zeroBytes_time (s : State) (a n : Nat) : (s.zeroBytes a n).time = s.time := rfl
@[simp] theorem State.zeroBytes_hrv (s : State) (a n : Nat) : (s.zeroBytes a n).hrv = s.hrv := rfl
@[simp] theorem State.zeroBytes_job (s : State) (a n : Nat) : (s.zeroBytes a n).job = s.job := rfl
@[simp] theorem State.zeroBytes_lines (s : State) (a n : Nat) : (s.zeroBytes a n).lines = s.lines := rfl
@[simp] theorem State.zeroBytes_bays (s : State) (a n : Nat) : (s.zeroBytes a n).bays = s.bays := rfl
@[simp] theorem State.zeroBytes_uses (s : State) (a n : Nat) : (s.zeroBytes a n).uses = s.uses := rfl
@[simp] theorem State.zeroBytes_cross (s : State) (a n : Nat) : (s.zeroBytes a n).cross = s.cross := rfl
@[simp] theorem State.zeroBytes_free (s : State) (a n : Nat) : (s.zeroBytes a n).free = s.free := rfl
@[simp] theorem State.zeroBytes_flags (s : State) (a n : Nat) : (s.zeroBytes a n).flags = s.flags := rfl
@[simp] theorem State.zeroBytes_words (s : State) (a n : Nat) : (s.zeroBytes a n).words = s.words := rfl
@[simp] theorem State.zeroBytes_nacks (s : State) (a n : Nat) : (s.zeroBytes a n).nacks = s.nacks := rfl
@[simp] theorem State.zeroBytes_elb (s : State) (a n : Nat) : (s.zeroBytes a n).elb = s.elb := rfl
@[simp] theorem State.zeroBytes_gr (s : State) (a n : Nat) : (s.zeroBytes a n).gr = s.gr := rfl
@[simp] theorem State.zeroBytes_fab (s : State) (a n : Nat) : (s.zeroBytes a n).fab = s.fab := rfl
@[simp] theorem State.zeroBytes_host (s : State) (a n : Nat) : (s.zeroBytes a n).host = s.host := rfl
@[simp] theorem State.zeroBytes_pwr (s : State) (a n : Nat) : (s.zeroBytes a n).pwr = s.pwr := rfl
@[simp] theorem State.zeroBytes_rcv (s : State) (a n : Nat) : (s.zeroBytes a n).rcv = s.rcv := rfl
@[simp] theorem State.zeroBytes_mod (s : State) (a n : Nat) : (s.zeroBytes a n).mod = s.mod := rfl
@[simp] theorem State.zeroBytes_sec (s : State) (a n : Nat) : (s.zeroBytes a n).sec = s.sec := rfl
@[simp] theorem State.zeroBytes_dbg (s : State) (a n : Nat) : (s.zeroBytes a n).dbg = s.dbg := rfl
@[simp] theorem State.zeroBytes_zone (s : State) (a n : Nat) : (s.zeroBytes a n).zone = s.zone := rfl
@[simp] theorem State.zeroBytes_part (s : State) (a n : Nat) : (s.zeroBytes a n).part = s.part := rfl
@[simp] theorem State.zeroBytes_coord (s : State) (a n : Nat) : (s.zeroBytes a n).coord = s.coord := rfl
@[simp] theorem State.zeroBytes_coordOk (s : State) (a n : Nat) : (s.zeroBytes a n).coordOk = s.coordOk := rfl
@[simp] theorem State.zeroBytes_pending (s : State) (a n : Nat) : (s.zeroBytes a n).pending = s.pending := rfl
@[simp] theorem State.zeroBytes_freeIx (s : State) (a n : Nat) : (s.zeroBytes a n).freeIx = s.freeIx := rfl
@[simp] theorem State.zeroBytes_outbox (s : State) (a n : Nat) : (s.zeroBytes a n).outbox = s.outbox := rfl

@[simp] theorem State.send_time (s : State) (m : Sent) : (s.send m).time = s.time := rfl
@[simp] theorem State.send_hrv (s : State) (m : Sent) : (s.send m).hrv = s.hrv := rfl
@[simp] theorem State.send_job (s : State) (m : Sent) : (s.send m).job = s.job := rfl
@[simp] theorem State.send_mem (s : State) (m : Sent) : (s.send m).mem = s.mem := rfl
@[simp] theorem State.send_undef (s : State) (m : Sent) : (s.send m).undef = s.undef := rfl
@[simp] theorem State.send_marks (s : State) (m : Sent) : (s.send m).marks = s.marks := rfl
@[simp] theorem State.send_fixes (s : State) (m : Sent) : (s.send m).fixes = s.fixes := rfl
@[simp] theorem State.send_lines (s : State) (m : Sent) : (s.send m).lines = s.lines := rfl
@[simp] theorem State.send_bays (s : State) (m : Sent) : (s.send m).bays = s.bays := rfl
@[simp] theorem State.send_uses (s : State) (m : Sent) : (s.send m).uses = s.uses := rfl
@[simp] theorem State.send_cross (s : State) (m : Sent) : (s.send m).cross = s.cross := rfl
@[simp] theorem State.send_free (s : State) (m : Sent) : (s.send m).free = s.free := rfl
@[simp] theorem State.send_flags (s : State) (m : Sent) : (s.send m).flags = s.flags := rfl
@[simp] theorem State.send_words (s : State) (m : Sent) : (s.send m).words = s.words := rfl
@[simp] theorem State.send_nacks (s : State) (m : Sent) : (s.send m).nacks = s.nacks := rfl
@[simp] theorem State.send_elb (s : State) (m : Sent) : (s.send m).elb = s.elb := rfl
@[simp] theorem State.send_gr (s : State) (m : Sent) : (s.send m).gr = s.gr := rfl
@[simp] theorem State.send_fab (s : State) (m : Sent) : (s.send m).fab = s.fab := rfl
@[simp] theorem State.send_host (s : State) (m : Sent) : (s.send m).host = s.host := rfl
@[simp] theorem State.send_pwr (s : State) (m : Sent) : (s.send m).pwr = s.pwr := rfl
@[simp] theorem State.send_rcv (s : State) (m : Sent) : (s.send m).rcv = s.rcv := rfl
@[simp] theorem State.send_mod (s : State) (m : Sent) : (s.send m).mod = s.mod := rfl
@[simp] theorem State.send_sec (s : State) (m : Sent) : (s.send m).sec = s.sec := rfl
@[simp] theorem State.send_dbg (s : State) (m : Sent) : (s.send m).dbg = s.dbg := rfl
@[simp] theorem State.send_zone (s : State) (m : Sent) : (s.send m).zone = s.zone := rfl
@[simp] theorem State.send_part (s : State) (m : Sent) : (s.send m).part = s.part := rfl
@[simp] theorem State.send_coord (s : State) (m : Sent) : (s.send m).coord = s.coord := rfl
@[simp] theorem State.send_coordOk (s : State) (m : Sent) : (s.send m).coordOk = s.coordOk := rfl
@[simp] theorem State.send_pending (s : State) (m : Sent) : (s.send m).pending = s.pending := rfl
@[simp] theorem State.send_freeIx (s : State) (m : Sent) : (s.send m).freeIx = s.freeIx := rfl

@[simp] theorem State.setAlert_time (s : State) (n : Nat) : (s.setAlert n).time = s.time := rfl
@[simp] theorem State.setAlert_hrv (s : State) (n : Nat) : (s.setAlert n).hrv = s.hrv := rfl
@[simp] theorem State.setAlert_job (s : State) (n : Nat) : (s.setAlert n).job = s.job := rfl
@[simp] theorem State.setAlert_mem (s : State) (n : Nat) : (s.setAlert n).mem = s.mem := rfl
@[simp] theorem State.setAlert_undef (s : State) (n : Nat) : (s.setAlert n).undef = s.undef := rfl
@[simp] theorem State.setAlert_marks (s : State) (n : Nat) : (s.setAlert n).marks = s.marks := rfl
@[simp] theorem State.setAlert_fixes (s : State) (n : Nat) : (s.setAlert n).fixes = s.fixes := rfl
@[simp] theorem State.setAlert_lines (s : State) (n : Nat) : (s.setAlert n).lines = s.lines := rfl
@[simp] theorem State.setAlert_bays (s : State) (n : Nat) : (s.setAlert n).bays = s.bays := rfl
@[simp] theorem State.setAlert_uses (s : State) (n : Nat) : (s.setAlert n).uses = s.uses := rfl
@[simp] theorem State.setAlert_cross (s : State) (n : Nat) : (s.setAlert n).cross = s.cross := rfl
@[simp] theorem State.setAlert_free (s : State) (n : Nat) : (s.setAlert n).free = s.free := rfl
@[simp] theorem State.setAlert_flags (s : State) (n : Nat) : (s.setAlert n).flags = s.flags := rfl
@[simp] theorem State.setAlert_words (s : State) (n : Nat) : (s.setAlert n).words = s.words := rfl
@[simp] theorem State.setAlert_nacks (s : State) (n : Nat) : (s.setAlert n).nacks = s.nacks := rfl
@[simp] theorem State.setAlert_elb (s : State) (n : Nat) : (s.setAlert n).elb = s.elb := rfl
@[simp] theorem State.setAlert_gr (s : State) (n : Nat) : (s.setAlert n).gr = s.gr := rfl
@[simp] theorem State.setAlert_fab (s : State) (n : Nat) : (s.setAlert n).fab = s.fab := rfl
@[simp] theorem State.setAlert_host (s : State) (n : Nat) : (s.setAlert n).host = s.host := rfl
@[simp] theorem State.setAlert_pwr (s : State) (n : Nat) : (s.setAlert n).pwr = s.pwr := rfl
@[simp] theorem State.setAlert_mod (s : State) (n : Nat) : (s.setAlert n).mod = s.mod := rfl
@[simp] theorem State.setAlert_sec (s : State) (n : Nat) : (s.setAlert n).sec = s.sec := rfl
@[simp] theorem State.setAlert_dbg (s : State) (n : Nat) : (s.setAlert n).dbg = s.dbg := rfl
@[simp] theorem State.setAlert_zone (s : State) (n : Nat) : (s.setAlert n).zone = s.zone := rfl
@[simp] theorem State.setAlert_part (s : State) (n : Nat) : (s.setAlert n).part = s.part := rfl
@[simp] theorem State.setAlert_coord (s : State) (n : Nat) : (s.setAlert n).coord = s.coord := rfl
@[simp] theorem State.setAlert_coordOk (s : State) (n : Nat) : (s.setAlert n).coordOk = s.coordOk := rfl
@[simp] theorem State.setAlert_pending (s : State) (n : Nat) : (s.setAlert n).pending = s.pending := rfl
@[simp] theorem State.setAlert_freeIx (s : State) (n : Nat) : (s.setAlert n).freeIx = s.freeIx := rfl
@[simp] theorem State.setAlert_outbox (s : State) (n : Nat) : (s.setAlert n).outbox = s.outbox := rfl

@[simp] theorem State.dropHold_hrv (s : State) (c : Nat) (src : HoldSrc) : (s.dropHold c src).hrv = s.hrv := rfl
@[simp] theorem State.dropHold_job (s : State) (c : Nat) (src : HoldSrc) : (s.dropHold c src).job = s.job := rfl
@[simp] theorem State.dropHold_mem (s : State) (c : Nat) (src : HoldSrc) : (s.dropHold c src).mem = s.mem := rfl
@[simp] theorem State.dropHold_undef (s : State) (c : Nat) (src : HoldSrc) : (s.dropHold c src).undef = s.undef := rfl
@[simp] theorem State.dropHold_marks (s : State) (c : Nat) (src : HoldSrc) : (s.dropHold c src).marks = s.marks := rfl
@[simp] theorem State.dropHold_fixes (s : State) (c : Nat) (src : HoldSrc) : (s.dropHold c src).fixes = s.fixes := rfl
@[simp] theorem State.dropHold_lines (s : State) (c : Nat) (src : HoldSrc) : (s.dropHold c src).lines = s.lines := rfl
@[simp] theorem State.dropHold_bays (s : State) (c : Nat) (src : HoldSrc) : (s.dropHold c src).bays = s.bays := rfl
@[simp] theorem State.dropHold_uses (s : State) (c : Nat) (src : HoldSrc) : (s.dropHold c src).uses = s.uses := rfl
@[simp] theorem State.dropHold_cross (s : State) (c : Nat) (src : HoldSrc) : (s.dropHold c src).cross = s.cross := rfl
@[simp] theorem State.dropHold_free (s : State) (c : Nat) (src : HoldSrc) : (s.dropHold c src).free = s.free := rfl
@[simp] theorem State.dropHold_flags (s : State) (c : Nat) (src : HoldSrc) : (s.dropHold c src).flags = s.flags := rfl
@[simp] theorem State.dropHold_words (s : State) (c : Nat) (src : HoldSrc) : (s.dropHold c src).words = s.words := rfl
@[simp] theorem State.dropHold_nacks (s : State) (c : Nat) (src : HoldSrc) : (s.dropHold c src).nacks = s.nacks := rfl
@[simp] theorem State.dropHold_elb (s : State) (c : Nat) (src : HoldSrc) : (s.dropHold c src).elb = s.elb := rfl
@[simp] theorem State.dropHold_gr (s : State) (c : Nat) (src : HoldSrc) : (s.dropHold c src).gr = s.gr := rfl
@[simp] theorem State.dropHold_fab (s : State) (c : Nat) (src : HoldSrc) : (s.dropHold c src).fab = s.fab := rfl
@[simp] theorem State.dropHold_host (s : State) (c : Nat) (src : HoldSrc) : (s.dropHold c src).host = s.host := rfl
@[simp] theorem State.dropHold_pwr (s : State) (c : Nat) (src : HoldSrc) : (s.dropHold c src).pwr = s.pwr := rfl
@[simp] theorem State.dropHold_rcv (s : State) (c : Nat) (src : HoldSrc) : (s.dropHold c src).rcv = s.rcv := rfl
@[simp] theorem State.dropHold_mod (s : State) (c : Nat) (src : HoldSrc) : (s.dropHold c src).mod = s.mod := rfl
@[simp] theorem State.dropHold_sec (s : State) (c : Nat) (src : HoldSrc) : (s.dropHold c src).sec = s.sec := rfl
@[simp] theorem State.dropHold_dbg (s : State) (c : Nat) (src : HoldSrc) : (s.dropHold c src).dbg = s.dbg := rfl
@[simp] theorem State.dropHold_zone (s : State) (c : Nat) (src : HoldSrc) : (s.dropHold c src).zone = s.zone := rfl
@[simp] theorem State.dropHold_part (s : State) (c : Nat) (src : HoldSrc) : (s.dropHold c src).part = s.part := rfl
@[simp] theorem State.dropHold_coord (s : State) (c : Nat) (src : HoldSrc) : (s.dropHold c src).coord = s.coord := rfl
@[simp] theorem State.dropHold_coordOk (s : State) (c : Nat) (src : HoldSrc) : (s.dropHold c src).coordOk = s.coordOk := rfl
@[simp] theorem State.dropHold_pending (s : State) (c : Nat) (src : HoldSrc) : (s.dropHold c src).pending = s.pending := rfl
@[simp] theorem State.dropHold_freeIx (s : State) (c : Nat) (src : HoldSrc) : (s.dropHold c src).freeIx = s.freeIx := rfl
@[simp] theorem State.dropHold_outbox (s : State) (c : Nat) (src : HoldSrc) : (s.dropHold c src).outbox = s.outbox := rfl

@[simp] theorem State.line_updQ (s : State) (st : Station) (q : Queue) (f : QState → QState) (k : Nat) :
    (s.updQ st q f).line k = if (q.line : Nat) = k then (s.line q.line).updQ st q.task f else s.line k := by
  simp [State.updQ]

end Sys2Proof.Machine
end

