-- ==== Sys2Proof/Laws/Issue.lean ====
section
/-! SUPPORT. Laws of the operations every issue shares: recording a fault, noting the issue, moving to the next instruction. -/

namespace Sys2Proof.Machine

theorem IssueFrame.refl (s : State) (l : Nat) : IssueFrame s s l := ⟨rfl, fun _ _ => rfl⟩

theorem IssueFrame.trans {s t u : State} {l : Nat} (h : IssueFrame s t l) (g : IssueFrame t u l) : IssueFrame s u l := by
  refine ⟨?_, fun k hk => (g.2 k hk).trans (h.2 k hk)⟩
  obtain ⟨h, -⟩ := h
  obtain ⟨g, -⟩ := g
  rw [h] at g
  exact g

theorem LineFrame.refl (L : LineState) : LineFrame L L := rfl

theorem LineFrame.trans {L M N : LineState} (h : LineFrame L M) (g : LineFrame M N) : LineFrame L N := by
  unfold LineFrame at *
  rw [h] at g
  exact g

theorem QueueFrame.refl (a : QState) : QueueFrame a a := rfl

theorem QueueFrame.trans {a b c : QState} (h : QueueFrame a b) (g : QueueFrame b c) : QueueFrame a c := by
  unfold QueueFrame at *
  rw [h] at g
  exact g

/-- A change of the line alone. -/
theorem IssueFrame.updLine (s : State) (l : Nat) (f : LineState → LineState) : IssueFrame s (s.updLine l f) l :=
  ⟨rfl, fun k hk => by simp [Ne.symm hk]⟩

/-- Recording a fault changes the fault records and FAULT of the unit's line. -/
theorem State.faultAt_frame (s : State) (f : Nat) (k : FaultKind) (d : Nat) (u u2 : UnitRef)
    (addr aux e o : Nat) (r : Bool) : IssueFrame s (s.faultAt f k d u u2 addr aux e o r) u.line := by
  unfold State.faultAt
  split
  · exact .refl ..
  split
  · exact .refl ..
  simp only
  split
  · exact IssueFrame.trans (t := { s with job := _ }) ⟨rfl, fun _ _ => rfl⟩ (.updLine ..)
  · exact ⟨rfl, fun _ _ => rfl⟩

/-- Recording a fault leaves every line as it was but for FAULT. -/
theorem State.line_faultAt (s : State) (f : Nat) (k : FaultKind) (d : Nat) (u u2 : UnitRef)
    (addr aux e o : Nat) (r : Bool) (l : Nat) :
    (s.faultAt f k d u u2 addr aux e o r).line l =
      { s.line l with fault := ((s.faultAt f k d u u2 addr aux e o r).line l).fault } := by
  unfold State.faultAt
  split
  · rfl
  split
  · rfl
  simp only
  split
  · by_cases h : u.line = l
    · subst h; simp only [State.line_updLine, if_pos]; rfl
    · simp only [State.line_updLine, if_neg h]; rfl
  · rfl

theorem State.faultQ_frame (s : State) (st : Station) (l t : Nat) (k : FaultKind) (d addr aux e o : Nat) :
    IssueFrame s (s.faultQ st l t k d addr aux e o) l := s.faultAt_frame ..

theorem State.line_faultQ (s : State) (st : Station) (l t : Nat) (k : FaultKind) (d addr aux e o m : Nat) :
    (s.faultQ st l t k d addr aux e o).line m =
      { s.line m with fault := ((s.faultQ st l t k d addr aux e o).line m).fault } := s.line_faultAt ..

theorem State.countNdc_frame (s : State) (u : UnitRef) : IssueFrame s (s.countNdc .yield u) u.line := by
  unfold State.countNdc
  simp only
  split
  · refine IssueFrame.trans (t := { s with time := _ }) ?_ (State.faultAt_frame ..)
    exact ⟨rfl, fun _ _ => rfl⟩
  · exact ⟨rfl, fun _ _ => rfl⟩

/-- Noting an issue changes no state but what every issue may change. -/
theorem State.noteIssue_frame (s : State) (st : Station) (q : Queue) : IssueFrame s (s.noteIssue st q) q.line := by
  unfold State.noteIssue
  simp only
  have h := IssueFrame.updLine s q.line
    (fun L => { L with lastIssue := L.lastIssue.put st.code (s.sc + 1) })
  split
  · exact h.trans (State.countNdc_frame ..)
  · exact h

/-- What noting an issue may change in a line: the note itself and FAULT. -/
def NoteFrame (L M : LineState) : Prop := M = { L with lastIssue := M.lastIssue, fault := M.fault }

theorem NoteFrame.refl (L : LineState) : NoteFrame L L := rfl

theorem NoteFrame.trans {L M N : LineState} (h : NoteFrame L M) (g : NoteFrame M N) : NoteFrame L N := by
  unfold NoteFrame at *
  rw [h] at g
  exact g

theorem NoteFrame.lineFrame {L M : LineState} (h : NoteFrame L M) : LineFrame L M := by
  rw [h]; rfl

theorem NoteFrame.queues {L M : LineState} (h : NoteFrame L M) : M.queues = L.queues := by rw [h]

theorem State.noteFrame_faultAt (s : State) (f : Nat) (k : FaultKind) (d : Nat) (u u2 : UnitRef)
    (addr aux e o : Nat) (r : Bool) (l : Nat) :
    NoteFrame (s.line l) ((s.faultAt f k d u u2 addr aux e o r).line l) := by
  rw [State.line_faultAt]; rfl

theorem State.noteFrame_countNdc (s : State) (f : Feature) (u : UnitRef) (l : Nat) :
    NoteFrame (s.line l) ((s.countNdc f u).line l) := by
  unfold State.countNdc
  cases f <;> simp only <;> split <;> first | exact State.noteFrame_faultAt .. | exact NoteFrame.refl _

/-- Noting an issue leaves every queue as it was. -/
theorem State.noteIssue_note (s : State) (st : Station) (q : Queue) (l : Nat) :
    NoteFrame (s.line l) ((s.noteIssue st q).line l) := by
  have h : NoteFrame (s.line l) ((s.updLine q.line
      (fun L => { L with lastIssue := L.lastIssue.put st.code (s.sc + 1) })).line l) := by
    by_cases h : (q.line : Nat) = l
    · subst h; simp; rfl
    · simp [h]; rfl
  unfold State.noteIssue
  simp only
  split
  · exact h.trans (State.noteFrame_countNdc ..)
  · exact h

/-- Noting an issue leaves the queues as they were. -/
@[simp] theorem State.q_noteIssue (s : State) (st st' : Station) (q q' : Queue) :
    (s.noteIssue st q).q st' q' = s.q st' q' := by
  have h := (s.noteIssue_note st q q'.line).queues
  simp [State.q, LineState.q, h]

@[simp] theorem State.sc_noteIssue (s : State) (st : Station) (q : Queue) : (s.noteIssue st q).sc = s.sc := by
  have h := (s.noteIssue_frame st q).1
  rw [h]; rfl

/-- The end of a pass changes the pc and the active loops. -/
theorem loopsEnd_frame (n : Nat) (q : QState) (x : Nat) : QueueFrame q (loopsEnd n q x) := by
  induction n generalizing q with
  | zero => rfl
  | succ n ih =>
    simp only [loopsEnd]
    split
    · rfl
    · split
      · rfl
      · exact QueueFrame.trans (b := { q with loops := _ }) rfl (ih _)

theorem QState.pass_frame (q : QState) (x sc : Nat) : QueueFrame q (q.pass x sc) :=
  QueueFrame.trans (loopsEnd_frame 4 q x) rfl

/-- A change of one queue is a change of its line alone. -/
theorem IssueFrame.updQ (s : State) (st : Station) (q : Queue) (f : QState → QState) :
    IssueFrame s (s.updQ st q f) q.line := .updLine ..

theorem LineFrame.updQ (s : State) (st : Station) (q : Queue) (f : QState → QState) :
    LineFrame (s.line q.line) ((s.updQ st q f).line q.line) := by simp; rfl

theorem OtherQueues.updQ (s : State) (st : Station) (q : Queue) (f : QState → QState) :
    OtherQueues (s.line q.line) ((s.updQ st q f).line q.line) st q.task := by
  intro st' t' h
  simp only [State.line_updQ, if_pos, LineState.q_updQ]
  rw [if_neg]
  grind

theorem NoteFrame.otherQueues {L M : LineState} (h : NoteFrame L M) (st : Station) (t : Nat) : OtherQueues L M st t := by
  intro st' t' _
  simp [LineState.q, h.queues]

theorem OtherQueues.trans {L M N : LineState} {st : Station} {t : Nat} (h : OtherQueues L M st t)
    (g : OtherQueues M N st t) : OtherQueues L N st t := fun st' t' k => (g st' t' k).trans (h st' t' k)

/-- Recording a fault leaves every queue as it was. -/
@[simp] theorem State.q_faultAt (s : State) (f : Nat) (k : FaultKind) (d : Nat) (u u2 : UnitRef)
    (addr aux e o : Nat) (r : Bool) (st : Station) (q : Queue) :
    (s.faultAt f k d u u2 addr aux e o r).q st q = s.q st q := by
  have h := (s.noteFrame_faultAt f k d u u2 addr aux e o r q.line).queues
  rw [State.q, State.q, LineState.q, LineState.q, h]

@[simp] theorem State.q_faultQ (s : State) (st st' : Station) (l t : Nat) (k : FaultKind) (d addr aux e o : Nat) (q : Queue) :
    (s.faultQ st l t k d addr aux e o).q st' q = s.q st' q := State.q_faultAt ..

/-- Moving on to the next instruction: the pc, loops and earliest sc of the queue, and PC_OVERRUN. -/
theorem State.advance_frame (s : State) (st : Station) (q : Queue) :
    OwnQueueOnly s (s.advance st q) st q (s.q st q) := by
  unfold State.advance
  simp only
  have h1 : OwnQueueOnly s (s.updQ st q fun z => z.pass z.pc s.sc) st q (s.q st q) :=
    ⟨.updQ s st q _, LineFrame.updQ s st q _, OtherQueues.updQ s st q _, by rw [State.q_updQ_self]; exact QState.pass_frame ..⟩
  split
  · have h2 := IssueFrame.updQ (s.updQ st q fun z => z.pass z.pc s.sc) st q fun z => { z with pc := 4095 }
    have h3 := LineFrame.updQ (s.updQ st q fun z => z.pass z.pc s.sc) st q fun z => { z with pc := 4095 }
    have h4 := OtherQueues.updQ (s.updQ st q fun z => z.pass z.pc s.sc) st q fun z => { z with pc := 4095 }
    have n := State.noteFrame_faultAt ((s.updQ st q fun z => z.pass z.pc s.sc).updQ st q fun z => { z with pc := 4095 })
    refine ⟨(h1.1.trans h2).trans (State.faultQ_frame ..), (h1.2.1.trans h3).trans (n ..).lineFrame,
      (h1.2.2.1.trans h4).trans ((n _ _ _ _ _ _ _ _ _ _ _).otherQueues st q.task), ?_⟩
    rw [State.q_faultQ, State.q_updQ_self]
    exact QueueFrame.trans h1.2.2.2 rfl
  · exact h1

/-- A change of one queue and nothing else. -/
theorem OwnQueueOnly.updQ (s : State) (st : Station) (q : Queue) (f : QState → QState) :
    OwnQueueOnly s (s.updQ st q f) st q (f (s.q st q)) :=
  ⟨.updQ s st q f, LineFrame.updQ s st q f, OtherQueues.updQ s st q f, by rw [State.q_updQ_self]; rfl⟩

theorem OwnQueueOnly.trans {s t u : State} {st : Station} {q : Queue} {a : QState}
    (h : OwnQueueOnly s t st q a) (g : OwnQueueOnly t u st q (t.q st q)) : OwnQueueOnly s u st q a :=
  ⟨h.1.trans g.1, h.2.1.trans g.2.1, h.2.2.1.trans g.2.2.1, h.2.2.2.trans g.2.2.2⟩

theorem OwnQueueOnly.noteIssue (s : State) (st : Station) (q : Queue) :
    OwnQueueOnly s (s.noteIssue st q) st q (s.q st q) :=
  ⟨s.noteIssue_frame st q, (s.noteIssue_note st q q.line).lineFrame, (s.noteIssue_note st q q.line).otherQueues st q.task,
    by rw [State.q_noteIssue]; rfl⟩

/-- An instruction that weighs nothing draws nothing (Table 13-5). -/
theorem State.draws_zero (s : State) (q : Queue) (i : Instr) (h : (rampWeight i).2.2 = 0) : s.draws q i = s.updLine q.line id := by
  simp [State.draws, LineState.drawn, h, State.updLine]

/-- A change of one line to itself leaves its queues. -/
theorem State.draws_frame (s : State) (q : Queue) (i : Instr) :
    IssueFrame s (s.draws q i) q.line ∧ LineFrame (s.line q.line) ((s.draws q i).line q.line) ∧
    ∀ st t, ((s.draws q i).line q.line).q st t = (s.line q.line).q st t := by
  refine ⟨.updLine .., ?_, ?_⟩
  · simp only [State.draws, State.line_updLine, if_pos, LineState.drawn]
    split <;> rfl
  · intro st t
    simp only [State.draws, State.line_updLine, if_pos, LineState.drawn]
    split <;> rfl

/-- What a fresh instruction does when it may issue and its word is good (R272). -/
theorem State.issueWith_eq (s : State) (st : Station) (q : Queue) (i : Instr) (f : State → State) (h : s.CanIssue st q i) :
    s.issueWith st q i f = .next (f (s.noteIssue st q)) := by
  obtain ⟨hw, hm, hp⟩ := h
  simp [State.issueWith, hw, hm, hp]

/-- An instruction without repeats that changes its own queue alone completes with that change and the passage to the next
instruction. -/
theorem State.issueOne_updQ (s : State) (st : Station) (q : Queue) (i : Instr) (f : State → State) (g : QState → QState)
    (h : s.CanIssue st q i) (hf : f ((s.noteIssue st q).draws q i) = ((s.noteIssue st q).draws q i).updQ st q g) :
    ∃ t, s.issueOne st q i f = .next t ∧ OwnQueueOnly s t st q (g (s.q st q)) := by
  refine ⟨_, by rw [State.issueOne, State.issueWith_eq s st q i _ h], ?_⟩
  rw [hf]
  have n := OwnQueueOnly.noteIssue s st q
  obtain ⟨d1, d2, d3⟩ := State.draws_frame (s.noteIssue st q) q i
  have e : ((s.noteIssue st q).draws q i).q st q = s.q st q := (d3 st q.task).trans (State.q_noteIssue ..)
  have b := OwnQueueOnly.updQ ((s.noteIssue st q).draws q i) st q g
  have a := State.advance_frame (((s.noteIssue st q).draws q i).updQ st q g) st q
  rw [State.q_updQ_self, e] at a
  exact ⟨((n.1.trans d1).trans b.1).trans a.1, ((n.2.1.trans d2).trans b.2.1).trans a.2.1,
    ((n.2.2.1.trans fun st' t' _ => d3 st' t').trans b.2.2.1).trans a.2.2.1, a.2.2.2⟩

end Sys2Proof.Machine
end

