-- ==== Sys2Proof/Tests/Slice0.lean ====
section
/-! SUPPORT. Tests: well-formed and ill-formed words, decoding, single commands on small states, and for every statement a state and
operands that meet its hypotheses. -/

namespace Sys2Proof.Tests

open Sys2Proof Sys2Proof.Machine

set_option Elab.async false

/-! ### Well-formed words: one accepted term for each check, and a term that breaks each of its parts -/

/-- Format O from its selectors and OPND. -/
def fo (src dst : BitVec 4) (opnd : BitVec 28) (rep : BitVec 12 := 0) (toff : BitVec 6 := 0) : FmtO := ⟨toff, src, dst, rep, opnd⟩
/-- Format M for region 0 from its DATA selector. -/
def fm (data : BitVec 4) (toff : BitVec 6 := 0) (arn : BitVec 4 := 0) (region : BitVec 6 := 0) (post : Bool := false)
    (offset : BitVec 21 := 0) : FmtM := ⟨toff, data, arn, 0, post, region, offset⟩
/-- The same with an even number of repeats, which a fabric region takes (R334). -/
def fm1 (data : BitVec 4) : FmtM := { fm data with repcnt := 1 }
/-- The check accepts the first word and refuses every other one. -/
def sieve {α : Type} (f : α → Bool) (good : List α) (bad : List α) : Bool := good.all f && bad.all fun w => !f w

theorem test_wf_nop : sieve wfNop [fo 0 0 0 7] [fo 1 0 0, fo 0 1 0, fo 0 0 1, fo 0 0 0 0 1] = true := by decide
theorem test_wf_end : sieve wfEnd [⟨0, 0, 0, 0, 0⟩]
    [⟨1, 0, 0, 0, 0⟩, ⟨0, 1, 0, 0, 0⟩, ⟨0, 0, 1, 0, 0⟩, ⟨0, 0, 0, 1, 0⟩, ⟨0, 0, 0, 0, 1⟩] = true := by decide
theorem test_wf_loop : sieve wfLoop [⟨3, 2, 5, 9, 1⟩] [⟨0, 3, 0, 0, 0⟩] = true := by decide
theorem test_wf_rep : sieve wfRep [⟨0, 2, 5, 0, 1⟩] [⟨0, 3, 0, 0, 0⟩, ⟨1, 0, 0, 0, 0⟩, ⟨0, 0, 0, 1, 0⟩] = true := by decide
theorem test_wf_bar : sieve (wfBar .pt) [⟨0, 0, 4, 0, 0⟩]
    [⟨0, 0, 0, 0, 0⟩, ⟨0, 0, 8, 0, 0⟩, ⟨0, 0, 4, 1, 0⟩, ⟨0, 0, 4, 0, 1⟩] = true := by decide
theorem test_wf_format_w : sieve wfArset [⟨15, 0, 0xFFFFFFFFFF, 0⟩] [⟨0, 1, 0, 0⟩, ⟨0, 0, 0, 1⟩] = true ∧
    sieve wfArsc [⟨15, 0, 63, 0⟩] [⟨0, 0, 64, 0⟩, ⟨0, 1, 0, 0⟩, ⟨0, 0, 0, 1⟩] = true ∧
    sieve wfLcset [⟨3, 0, 0xFFFFFFFF, 0⟩] [⟨4, 0, 0, 0⟩, ⟨0, 0, 0x100000000, 0⟩, ⟨0, 1, 0, 0⟩, ⟨0, 0, 0, 1⟩] = true := by decide

theorem test_wf_mxLw : sieve wfMxLw [fo 0 4 0x40, fo 8 4 0x0988, fo 0 4 0x140]
    [fo 4 4 0x40, fo 0 6 0x40, fo 0 4 0x40 1, fo 0 4 0x8E, fo 0 4 0, fo 0 4 0x48, fo 0 4 0x4040] = true := by decide
theorem test_wf_mxSwap : sieve wfMxSwap [fo 4 4 0, fo 4 4 0 0 1] [fo 0 4 0, fo 4 0 0, fo 4 4 0 1, fo 4 4 1] = true := by decide
theorem test_wf_mxMm : sieve wfMxMm [fo 0 4 0x4000, fo 0 4 0x4000 127, fo 0 4 0x407F, fo 9 4 0x58800, fo 0 4 0x14000]
    [fo 4 4 0x4000, fo 0 0 0x4000, fo 0 4 0x407F 1, fo 0 4 0x8E00, fo 0 4 0, fo 0 4 0x404000] = true := by decide
theorem test_wf_mxAnchor : sieve wfMxAnchor [fo 4 4 0x7F, fo 4 4 0x3F80, fo 4 4 0x4000]
    [fo 0 4 0, fo 4 0 0, fo 4 4 0 1, fo 4 4 0xFF, fo 4 4 0xC000, fo 4 4 0x404000] = true := by decide
theorem test_wf_mxAclr : sieve wfMxAclr [fo 4 4 0 127, fo 4 4 127]
    [fo 0 4 0, fo 4 0 0, fo 4 4 127 1, fo 4 4 0x80] = true := by decide
theorem test_wf_mxRdreg : sieve wfMxRdreg [fo 4 4 0x1FF]
    [fo 0 4 0, fo 4 0 0, fo 4 4 0 1, fo 4 4 0x200] = true := by decide

theorem test_wf_vxAccrd : sieve wfVxAccrd [fo 4 0 0x1000, fo 4 6 0x5000, fo 4 0 0x301000, fo 4 0 0x201000 0 1]
    [fo 0 0 0x1000, fo 4 4 0x1000, fo 4 0 0x1280, fo 4 0 0x4001000, fo 4 6 0x1080, fo 4 0 0x1200, fo 4 0 0x1C00, fo 4 0 0x5000] = true := by decide
theorem test_wf_vxOp : sieve wfVxOp [fo 0 0 0x2000, fo 6 6 0x82C06, fo 0 9 0x4]
    [fo 5 0 0x2000, fo 4 0 0x2000, fo 0 4 0x2000, fo 0 0 0x22000, fo 0 0 0x3800, fo 0 0 0x1002000, fo 0 0 0x42000, fo 0 0 0,
     fo 0 0 0x2004, fo 0 0 0x16000, fo 6 6 0x2406] = true := by decide
theorem test_wf_vxFma : sieve wfVxFma [fo 0 0 0, fo 6 6 0x401806]
    [fo 5 0 0, fo 0 4 0, fo 0 0 4, fo 0 0 0x1000, fo 0 0 0x300000, fo 0 0 0x400000, fo 6 6 0x101806] = true ∧
    sieve wfVxSel [fo 0 0 0, fo 6 6 0x401806]
    [fo 5 0 0, fo 0 4 0, fo 0 0 4, fo 0 0 0x1000, fo 0 0 0x300000, fo 0 0 0x400000, fo 6 6 0x101806] = true := by decide
theorem test_wf_vxFn : sieve wfVxFn [fo 0 0 0x2A, fo 6 6 0x80]
    [fo 4 0 0, fo 0 4 0, fo 0 0 0xB, fo 0 0 0x30, fo 0 0 0x2000, fo 0 0 0x80, fo 6 6 0x10] = true := by decide
theorem test_wf_vxCvt : sieve wfVxCvt [fo 0 0 0x80000, fo 6 6 0x280000, fo 0 0 0x10016B, fo 0 0 0x100100, fo 0 0 0, fo 0 0 0x80800]
    [fo 4 0 0x80000, fo 0 4 0x80000, fo 0 0 0x8000C, fo 0 0 0x800C0, fo 0 0 0x80600, fo 0 0 0x8080000, fo 0 0 0x8000B,
     fo 0 0 0x80106, fo 0 0 0x9F400, fo 0 0 0x280000, fo 6 0 0x80001, fo 0 6 0x80010,
     fo 6 0 0x80010] = true := by decide
theorem test_wf_vxDrop : sieve wfVxDrop [fo 0 0 0x1EA, fo 6 6 0x8000]
    [fo 4 0 0, fo 0 4 0, fo 0 0 3, fo 0 0 0x1F0, fo 0 0 0x200000, fo 0 0 0x8000, fo 6 6 1] = true := by decide
theorem test_wf_vxRope_vxRfld : sieve wfVxRope [fo 6 6 0xFFFFF] [fo 0 6 0, fo 6 0 0, fo 6 6 0x100000] = true ∧
    sieve wfVxRfld [fo 0 4 0xFF] [fo 4 4 0, fo 0 0 0, fo 0 4 0x100] = true := by decide
theorem test_wf_vxSumm : sieve wfVxSumm [fo 0 4 0, fo 4 4 0x30, fo 0 0 0x10, fo 6 4 0, fo 0 4 0x80]
    [fo 0 4 0x30, fo 4 4 0, fo 0 0 0, fo 0 4 0x4000000, fo 0 4 6, fo 6 4 0x80, fo 0 4 0x29, fo 0 4 0x18, fo 0 4 0x13,
     fo 6 4 1] = true := by decide
theorem test_wf_running_rows : sieve wfVxRclr [fo 4 4 0xFFF9, fo 4 4 0 1]
      [fo 0 4 0, fo 4 0 0, fo 4 4 0xC, fo 4 4 0x10000] = true ∧
    sieve wfVxRacc [fo 0 4 7, fo 6 4 3] [fo 4 4 0, fo 0 0 0, fo 0 4 8, fo 6 4 4] = true ∧
    sieve wfVxRrd [fo 4 0 0xF, fo 4 6 0x3FB] [fo 0 0 0, fo 4 4 0, fo 4 0 0x400, fo 4 0 0x10, fo 4 6 4] = true := by
  decide
theorem test_wf_vxF64s : sieve wfVxF64s [fo 0 0 0x28, fo 0 0 0x1FB6, fo 6 0 0x28]
    [fo 4 0 0x28, fo 0 6 0x28, fo 0 0 0x2F, fo 0 0 0x20, fo 0 0 0x2028] = true := by decide

theorem test_wf_pxTr_pxTld_pxTrd : sieve wfPxTr [fo 0 0 2 127] [fo 4 0 0 127, fo 0 4 0 127, fo 0 0 3 127, fo 0 0 0x10 127, fo 0 0 0] = true ∧
    sieve wfPxTld [fo 0 4 0x1FC, fo 0 4 2 127] [fo 4 4 0, fo 0 0 0, fo 0 4 3, fo 0 4 0x200, fo 0 4 0x1FC 1] = true ∧
    sieve wfPxTrd [fo 4 0 0x1FC] [fo 0 0 0, fo 4 4 0, fo 4 0 3, fo 4 0 0x200, fo 4 0 0x1FC 1] = true := by decide
theorem test_wf_pxGath_pxScat : sieve wfPxGath [fo 0 0 2] [fo 4 0 0, fo 0 4 0, fo 0 0 3, fo 0 0 4] = true ∧
    sieve wfPxScat [fo 0 4 0xFE2] [fo 4 4 0, fo 0 0 0, fo 0 4 3, fo 0 4 0x10, fo 0 4 0x1000] = true := by decide
theorem test_wf_pxCmpx : sieve wfPxCmpx [fo 0 0 0x10, fo 0 4 2 127, fo 0 0 0x8011, fo 0 4 0 128]
    [fo 4 0 0x10, fo 0 0 0x90, fo 0 0 0x200010, fo 0 4 0x10, fo 0 0 0, fo 0 4 3] = true := by
  decide
theorem test_wf_pxLperm_pxPk6 : sieve wfPxLperm [fo 0 0 0x3FB0] [fo 4 0 0, fo 0 4 0, fo 0 0 1, fo 0 0 0x40, fo 0 0 0x4000] = true ∧
    sieve wfPxPk6 [fo 0 0 0 3, fo 0 0 0] [fo 4 0 0 3, fo 0 4 0 3, fo 0 0 1 3] = true := by decide

theorem test_wf_local_store : sieve wfLsRd [fm 8] [fm 4, fm 5] = true ∧ sieve wfLsWr [fm 0 63] [fm 4] = true ∧
    sieve wfLsFill [fm 4, fm 5 63] [fm 0, fm 6] = true ∧ sieve wfLsCopy [fm 6 1] [fm 4 1, fm 6 16, fm 6 0] = true ∧
    sieve wfLsPgrp [fo 4 4 15] [fo 4 4 0 0 1, fo 0 4 0, fo 4 0 0, fo 4 4 0 1, fo 4 4 0x10] = true := by decide
theorem test_wf_port : sieve wfPtGet [fm 8] [fm 4, fm 7] = true ∧ sieve wfPtPut [fm 0 63] [fm 4] = true ∧
    sieve (wfPtNget ⟨0, 0⟩) [fm 0 0 0 0x20, fm 0 0 0 0x10] [fm 0 0 0 0, fm 0 0 0 0x30, fm 4 0 0 0x20] = true ∧
    sieve (wfPtNput ⟨63, 0⟩) [fm 0 9 0 0x30, fm 0 0 0 0] [fm 0 0 0 0x10, fm 0 0 0 0x20, fm 4 0 0 0x30] = true ∧
    sieve wfPtSend [fo 0 4 15] [fo 4 4 0, fo 0 0 0, fo 0 4 0x10] = true ∧
    sieve wfPtGmv [fm 0 5] [fm 4, fm 0 0 1, fm 0 0 0 1, fm 0 0 0 0 true, fm 0 0 0 0 false 1] = true ∧
    sieve wfPtFget [fm1 0] [fm 0, fm1 4, { fm1 0 with arn := 1 }, { fm1 0 with post := true }, { fm1 0 with offset := 1 }] = true ∧
    sieve wfPtFput [fm1 0] [fm 0, fm1 4] = true := by decide

theorem test_wf_scalar : sieve wfCcOp [fo 4 4 0x5BF000, fo 4 4 0x5C0FFF, fo 4 4 0xDC1000]
      [fo 0 4 0, fo 4 0 0, fo 4 4 0 1, fo 4 4 0 0 1, fo 4 4 0x1000000, fo 4 4 0x680000] = true ∧
    sieve wfCcLi [⟨0, 0, 0xFFFFFFFFFF, 0⟩] [⟨1, 0, 0, 0⟩, ⟨0, 1, 0, 0⟩, ⟨0, 0, 0, 1⟩] = true ∧
    sieve wfCcLih [⟨0, 0, 0xFCFFFFFFFF, 0⟩] [⟨1, 0, 0, 0⟩, ⟨0, 1, 0, 0⟩, ⟨0, 0, 0, 1⟩, ⟨0, 0, 0x100000000, 0⟩] = true ∧
    sieve wfCcSrrd [fo 4 4 0xFF] [fo 4 4 0x100, fo 4 4 0x400, fo 0 4 0] = true := by decide
theorem test_wf_branches : sieve wfCcBr [⟨0, 0, 0, 0, 0xFF⟩, ⟨0, 0, 63, 0, 0x3F9FF⟩, ⟨0, 0, 1, 0, 0x1100⟩]
      [⟨0, 1, 0, 0, 0⟩, ⟨1, 0, 0, 0, 0⟩, ⟨0, 0, 0, 1, 0⟩, ⟨0, 0, 0, 0, 0xA00⟩, ⟨0, 0, 0, 0, 0x40000⟩] = true ∧
    sieve wfCcBrResolve [⟨0, 1, 0, 0, 0⟩] [⟨0, 0, 0, 0, 0⟩, ⟨0, 2, 0, 0, 0⟩] = true ∧
    sieve wfCcPredict [⟨0, 0, 0, 0, 0xFF⟩] [⟨1, 0, 0, 0, 0⟩, ⟨0, 1, 0, 0, 0⟩, ⟨0, 0, 1, 0, 0⟩, ⟨0, 0, 0, 1, 0⟩, ⟨0, 0, 0, 0, 0x100⟩] = true := by
  decide
theorem test_wf_flags : sieve wfCcSet [⟨0, 0, 0, 0, 63⟩, ⟨1, 0, 0, 0, 127⟩, ⟨2, 0, 0, 0, 1023⟩]
      [⟨0, 0, 0, 0, 64⟩, ⟨1, 0, 0, 0, 128⟩, ⟨3, 0, 0, 0, 0⟩, ⟨0, 1, 0, 0, 0⟩, ⟨0, 0, 1, 0, 0⟩, ⟨0, 0, 0, 1, 0⟩, ⟨0, 0, 0, 0, 0x400⟩] = true ∧
    sieve wfCcWait [⟨0, 0, 0, 0, 63⟩, ⟨0, 0, 0, 0, 0x10000⟩, ⟨2, 0, 0, 0, 0x10400⟩]
      [⟨0, 0, 0, 0, 0x800⟩, ⟨0, 0, 0, 0, 0x10400⟩, ⟨2, 0, 0, 0, 0x400⟩, ⟨3, 0, 0, 0, 0⟩] = true ∧
    sieve wfCcWaitl [⟨0, 0, 0, 0, 0xFFFF043F⟩] [⟨0, 0, 0, 0, 0x800⟩, ⟨0, 0, 0, 0, 64⟩, ⟨0, 1, 0, 0, 0⟩] = true ∧
    sieve wfCcHarvest [⟨0, 0, 0, 0, 1⟩] [⟨0, 0, 0, 0, 2⟩, ⟨1, 0, 0, 0, 0⟩, ⟨0, 1, 0, 0, 0⟩, ⟨0, 0, 1, 0, 0⟩, ⟨0, 0, 0, 1, 0⟩] = true := by decide
theorem test_wf_words_and_table : sieve wfCcWsend [fo 4 4 0x3FF] [fo 4 4 0x400, fo 0 4 0] = true ∧
    sieve wfCcWrecv [fo 4 4 0x1FF] [fo 4 4 0x200, fo 4 0 0] = true ∧ sieve wfCcWarm [fo 4 4 15] [fo 4 4 16, fo 4 4 0 1] = true ∧
    sieve (wfCcElb 0) [fo 4 4 0xFFFC0] [fo 4 4 0x100000, fo 4 4 1, fo 4 4 0x400000, fo 0 4 0] = true ∧
    sieve (wfCcElb 1) [fo 4 4 0x1FF03F] [fo 4 4 0x200000, fo 4 4 0x100040] = true ∧
    sieve (wfCcElb 2) [fo 4 4 0x2FF03F] [fo 4 4 0x100000, fo 4 4 0x200040] = true := by decide
theorem test_ill_formed_word_is_a_fault :
    exec (.mxLw ⟨0, 0⟩ (fo 4 4 0x40)) State.reset = .fault .refusedAtLoad ∧
    exec (.ccOp ⟨0, 0⟩ (fo 4 4 0x680000)) State.reset = .fault .refusedAtLoad := ⟨rfl, rfl⟩

/-! ### Decoding: words written out from Table 3-3 and the opcode tables -/

theorem test_decode_common : ∀ q : Queue,
    decodeWord .pt q 0 = some (.nop .pt q ⟨0, 0, 0, 0, 0⟩) ∧
    decodeWord .cc q 0x8040000000000000 = some (.endQueue .cc q ⟨0, 0, 0, 0, 0⟩) := fun _ => ⟨rfl, rfl⟩
theorem test_decode_mx_ls_pt : ∀ q : Queue,
    decodeWord .mx q 0x04C044000485BF80 = some (.mxAnchor q ⟨0, 4, 4, 0, 0x485BF80⟩) ∧
    decodeWord .ls q 0x4400800000000000 = some (.lsRd q ⟨0, 8, 0, 0, false, 0, 0⟩) ∧
    decodeWord .pt q 0x4500030078A00100 = some (.ptNget q ⟨0, 0, 3, 7, true, 5, 0x100⟩) := fun _ => ⟨rfl, rfl, rfl⟩
theorem test_decode_same_opcode_by_station : ∀ q : Queue,
    decodeWord .vx q 0x0441060000000000 = some (.vxOp q ⟨1, 0, 6, 0, 0⟩) ∧
    decodeWord .px q 0x0441060000000000 = some (.pxTld q ⟨1, 0, 6, 0, 0⟩) ∧
    decodeWord .cc q 0xC454000000123400 = some (.ccLi q ⟨5, 0, 0x1234, 0⟩) ∧
    decodeWord .mx q 0xC454000000123400 = none := fun _ => ⟨rfl, rfl, rfl, rfl⟩
theorem test_round_trip : ∀ q : Queue,
    encodeWord (.mxAnchor q ⟨0, 4, 4, 0, 0x485BF80⟩) = some 0x04C044000485BF80 ∧
    encodeWord (.ptNget q ⟨0, 0, 3, 7, true, 5, 0x100⟩) = some 0x4500030078A00100 := fun _ => ⟨rfl, rfl⟩
theorem test_table_gives_no_bits (n w : Nat) : decodeTableWord n w = none ∧ State.reset.withFetchWord n w = State.reset :=
  ⟨rfl, rfl⟩

/-! ### States for the witnesses: one line whose stations issue for task 0 in every sc of a running job -/

/-- A queue that may issue. -/
def z0 : QState := { (default : QState) with enabled := true }
/-- Line 0: task 0 on every station, in a rotation of one entry. -/
def line0 : LineState :=
  { LineState.idle with
    hasLine := true, rotLen := 1, taskEn := 1, rot := [(0, 0x24924)]
    queues := [(0, z0), (1, z0), (2, z0), (3, z0), (4, z0), (5, z0)] }
/-- A running job in sc 0. -/
def sL (L : LineState) : State := { State.reset with time.running := true, lines := [(0, L)] }
def s0 : State := sL line0
def q0 : Queue := ⟨0, 0⟩
/-- Line 0 with one queue changed. -/
def lineQ (st : Station) (f : QState → QState) : LineState := line0.updQ st 0 f

theorem witness_stepRunsFrontCommand : step { State.reset with pending := [.vinGood false] } = exec (.vinGood false) State.reset := rfl
theorem witness_ccWithoutJob : State.reset.pending = [] ∧ State.reset.time.running = false ∧ State.reset.job.coordWait = none ∧
    State.reset.openBoundary = none ∧ State.reset.host.hall = [] ∧ State.reset.host.mem = [] ∧ State.reset.free = [] ∧
    State.reset.gr.cur = none ∧ State.reset.job.startAt = none ∧ State.reset.rcv.snap = none ∧ State.reset.rcv.sends = [] ∧ ∀ p, p < 12 → (State.reset.port p).delay = [] := by decide
theorem witness_decodeOfEncode : (Instr.mxAnchor q0 (fo 4 4 0x485BF80)).wf = true ∧
    (Instr.mxAnchor q0 (fo 4 4 0x485BF80)).home = some (.mx, q0) ∧
    encodeWord (.mxAnchor q0 (fo 4 4 0x485BF80)) = some 0x04C044000485BF80 := by decide
theorem witness_everyStepKeepsMemory : State.MemCanon { State.reset with mem := [(5, 7)], pending := [.slotScan] } := by
  unfold State.MemCanon; decide
theorem witness_registerInstructions :
    s0.CanIssue .ls q0 (.arset .ls q0 ⟨15, 0, 7, 0⟩) ∧ s0.CanIssue .ls q0 (.astset .ls q0 ⟨15, 0, 7, 0⟩) ∧
    s0.CanIssue .ls q0 (.aradd .ls q0 ⟨15, 0, 7, 0⟩) ∧ s0.CanIssue .ls q0 (.arsc .ls q0 ⟨15, 0, 63, 0⟩) ∧
    s0.CanIssue .ls q0 (.lcset .ls q0 ⟨3, 0, 0xFFFFFFFF, 0⟩) := by unfold State.CanIssue; decide
theorem witness_rep : s0.CanIssue .vx q0 (.rep .vx q0 ⟨0, 0, 0, 0, 5⟩) ∧ s0.CanIssue .vx q0 (.rep .vx q0 ⟨0, 1, 0, 0, 0⟩) ∧
    s0.CanIssue .vx q0 (.rep .vx q0 ⟨0, 2, 63, 0, 0⟩) := by unfold State.CanIssue; decide
/-- Past the last index, and at the first one. -/
theorem witness_programCounter :
    let s := sL (lineQ .mx fun z => { z with pc := 4095 })
    s.CanIssue .mx q0 (.lcset .mx q0 ⟨0, 0, 0, 0⟩) ∧ (s.q .mx q0).pc = 4095 ∧ s.job.faults.length ≤ 13 ∧
    (∀ e ∈ (s.q .mx q0).loops, e.2.target ≠ (s.q .mx q0).pc) ∧ s.time.running = true ∧ s.job.faultSc = none ∧
    s0.CanIssue .mx q0 (.lcset .mx q0 ⟨0, 0, 0, 0⟩) ∧ (s0.q .mx q0).pc < 4095 := by unfold State.CanIssue; decide
theorem witness_loop :
    s0.CanIssue .pt q0 (.loop .pt q0 ⟨0, 0, 0, 1, 3⟩) ∧ (s0.q .pt q0).pc < 1 ∧ (∀ e ∈ (s0.q .pt q0).loops, e.1 < 0) ∧
    s0.CanIssue .pt q0 (.loop .pt q0 ⟨0, 0, 0, 4094, 0⟩) ∧
    let n := sL (lineQ .pt fun z => { z with loops := [(3, ⟨0, 9, 2⟩)] })
    n.CanIssue .pt q0 (.loop .pt q0 ⟨3, 0, 0, 1, 3⟩) ∧ (∃ e ∈ (n.q .pt q0).loops, 3 ≤ e.1) ∧ n.job.faults.length ≤ 13 := by
  unfold State.CanIssue; decide
theorem witness_end : s0.CanIssue .cc q0 (.endQueue .cc q0 ⟨0, 0, 0, 0, 0⟩) ∧ s0.CanIssue .pt q0 (.endQueue .pt q0 ⟨0, 0, 0, 0, 0⟩) :=
  by unfold State.CanIssue; decide
/-- BID 1, MASK of PT and LS: the last participant, the first one, and one that finds another MASK. -/
theorem witness_bar :
    let w : FmtC := ⟨0, 1, 0x0C, 0, 0⟩
    let s := sL (lineQ .ls fun z => { z with barWait := some (1, 3) })
    let u := sL (lineQ .ls fun z => { z with barWait := some (1, 7) })
    w.bid = 1 ∧ w.mask = 3 ∧ s.CanIssue .pt q0 (.bar .pt q0 w) ∧ ((s.line 0).q .ls 0).barWait = some (w.bid, w.mask) ∧
    s0.CanIssue .pt q0 (.bar .pt q0 w) ∧ ((s0.line 0).q .ls 0).barWait = none ∧
    u.CanIssue .pt q0 (.bar .pt q0 w) ∧ ((u.line 0).q .ls 0).barWait = some (w.bid, 7) ∧ u.job.faults.length ≤ 12 := by
  unfold State.CanIssue; decide
theorem witness_nop : s0.CanIssue .vx q0 (.nop .vx q0 ⟨0, 0, 0, 0, 0⟩) ∧ s0.CanIssue .vx q0 (.nop .vx q0 ⟨0, 0, 0, 4095, 0⟩) ∧
    (s0.q .vx q0).repLatch = none := by unfold State.CanIssue; decide
/-- An outstanding NOP of which `d` of `n` repeats have issued. -/
def outNop (d n : Nat) : Outst := { (default : Outst) with instr := .nop .vx q0 ⟨0, 0, 0, 4, 0⟩, done := d, total := n }
theorem witness_repeatIssue :
    (sL (lineQ .vx fun z => { z with outst := some (outNop 1 5) })).mayIssue .vx q0 (outNop 1 5).instr 1 = true ∧
    (sL (lineQ .vx fun z => { z with outst := some (outNop 4 5) })).mayIssue .vx q0 (outNop 4 5).instr 4 = true := by decide

/-! #### Matrix station -/

/-- The same line with a loaded shadow buffer, and with a load whose 128 beats have come. -/
def lineLoaded : LineState := { line0 with mx := { (default : MxState) with buf1 := ⟨.loaded, 0, 0, [], []⟩ } }
def lwDone : LwProg := ⟨0, 0, 0, 0, 0, 0, 4, 0, List.replicate 128 0, [], none⟩
theorem witness_weightBuffers :
    s0.Repeats .mx q0 ∧ (sL lineLoaded).Repeats .mx q0 ∧ s0.CanIssue .mx q0 (.mxLw q0 (fo 0 4 0x40)) ∧ ((s0.lwComplete 0).line 0).mx.lw = none ∧
    (sL lineLoaded).CanIssue .mx q0 (.mxSwap q0 (fo 4 4 0)) ∧
    (((sL lineLoaded).lwComplete 0).line 0).mx.lw = none ∧ (((sL lineLoaded).lwComplete 0).line 0).mx.shadowBuf.st = .loaded ∧
    s0.CanIssue .mx q0 (.mxSwap q0 (fo 4 4 0)) ∧ ((s0.lwComplete 0).line 0).mx.shadowBuf.st ≠ .loaded ∧
    s0.job.faults.length ≤ 12 := by unfold State.CanIssue State.Repeats; decide
theorem witness_mxLwComplete :
    let s := { sL { line0 with mx := { (default : MxState) with lw := some lwDone } } with time.cnt.scc := 128 }
    s.live = true ∧ s.held = false ∧ (s.line 0).mx.lw = some lwDone ∧ lwDone.tile.length = 128 ∧ lwDone.c + 128 ≤ s.sc :=
  ⟨by decide, by decide, rfl, rfl, by decide⟩
/-- Each mode of MX.ANCHOR, the last row, and each register of MX.RDREG. -/
theorem witness_anchors :
    s0.Repeats .mx q0 ∧ s0.CanIssue .mx q0 (.mxAnchor q0 (fo 4 4 0xFFF007F)) ∧ s0.CanIssue .mx q0 (.mxAnchor q0 (fo 4 4 0x3F4000)) ∧
    s0.CanIssue .mx q0 (.mxAnchor q0 (fo 4 4 0xFFF8000)) ∧ s0.CanIssue .mx q0 (.mxRdreg q0 (fo 4 4 0x13F)) ∧
    s0.CanIssue .mx q0 (.mxRdreg q0 (fo 4 4 0x1FF)) := by unfold State.CanIssue State.Repeats; decide
theorem witness_products :
    let s := sL { line0 with mx := { (default : MxState) with buf0 := ⟨.loaded, 0, 0, [], []⟩ } }
    s.CanIssue .mx q0 (.mxMm q0 (fo 0 4 0x407F)) ∧ s.Repeats .mx q0 ∧ ((s.lwComplete 0).line 0).mx.activeBuf.st = .loaded ∧
    mxPair 0 ((s.lwComplete 0).line 0).mx.activeBuf.fmt.toNat = true ∧
    s0.CanIssue .mx q0 (.mxMm q0 (fo 0 4 0x407F)) ∧ ((s0.lwComplete 0).line 0).mx.activeBuf.st ≠ .loaded ∧
    s.CanIssue .mx q0 (.mxMm q0 (fo 0 4 0x4500)) ∧ mxPair 5 ((s.lwComplete 0).line 0).mx.activeBuf.fmt.toNat = false ∧
    s0.CanIssue .mx q0 (.mxAclr q0 (fo 4 4 127)) ∧ s0.Repeats .mx q0 := by unfold State.CanIssue State.Repeats; decide
theorem witness_commit :
    let c : MxCommit := { (default : MxCommit) with due := 0, row := 127 }
    let s := sL { line0 with mx := { (default : MxState) with commits := [c] } }
    s.live = true ∧ s.held = false ∧ (s.line 0).mx.commits = [c] ∧ c.due = s.sc ∧ c.oow = false ∧ c.unconf = none ∧ c.dead = false := by decide

/-! #### Vector station -/

theorem witness_elementwise :
    s0.Repeats .vx q0 ∧ s0.CanIssue .vx q0 (.vxOp q0 (fo 0 0 0x2000)) ∧ s0.CanIssue .vx q0 (.vxOp q0 (fo 6 6 0x2006)) ∧
    s0.CanIssue .vx q0 (.vxOp q0 (fo 6 6 4)) ∧ s0.CanIssue .vx q0 (.vxFma q0 (fo 0 0 0)) ∧
    s0.CanIssue .vx q0 (.vxSel q0 (fo 6 6 0x1806)) ∧ s0.CanIssue .vx q0 (.vxSel q0 (fo 0 0 0x200000)) ∧
    s0.CanIssue .vx q0 (.vxFn q0 (fo 0 0 0x2A)) ∧ s0.CanIssue .vx q0 (.vxDrop q0 (fo 0 0 0x1EA)) ∧
    s0.CanIssue .vx q0 (.vxRope q0 (fo 6 6 0xFFFFF)) := by unfold State.CanIssue State.Repeats; decide
/-- The last row and the first one past it. -/
theorem witness_accrd :
    let s := sL (lineQ .vx fun z => { z with ar := [(0, 1)] })
    s0.CanIssue .vx q0 (.vxAccrd q0 (fo 4 0 0x107F)) ∧ s0.CanIssue .vx q0 (.vxAccrd q0 (fo 4 0 0x1E1A00)) ∧
    s.CanIssue .vx q0 (.vxAccrd q0 (fo 4 0 0x10107F)) ∧ ((s.q .vx q0).ar.look 0 0).toNat % 128 = 1 ∧
    s.job.faults.length ≤ 12 := by unfold State.CanIssue; decide
theorem witness_rrd :
    let r : RunRow := RunRow.init .sheaf 0
    let s := sL { line0 with vx := { (default : VxState) with rr := [(0, r)] } }
    s.CanIssue .vx q0 (.vxRrd q0 (fo 4 0 4)) ∧ s.Repeats .vx q0 ∧
    rowUnfit (((s.line 0).settleRows s.sc).runRow 0) true = false ∧
    s.CanIssue .vx q0 (.vxRrd q0 (fo 4 6 0)) ∧ rowUnfit (((s.line 0).settleRows s.sc).runRow 0) false = false ∧
    s.CanIssue .vx q0 (.vxRacc q0 (fo 0 4 4)) ∧ s.CanIssue .vx q0 (.vxRacc q0 (fo 6 4 0)) := by
  unfold State.CanIssue State.Repeats; decide
/-- FP32 to BF16 waits for a second source beat; BF16 to BF16 fills a beat with each. -/
theorem witness_cvt :
    s0.CanIssue .vx q0 (.vxCvt q0 (fo 0 0 0x80010)) ∧ groupBeats 0 1 < cvtK (fo 0 0 0x80010) ∧
    s0.CanIssue .vx q0 (.vxCvt q0 (fo 0 0 0x80011)) ∧ groupBeats 0 1 = cvtK (fo 0 0 0x80011) ∧ vxBits 1 ≠ 4 := by
  unfold State.CanIssue; decide
theorem witness_f64s_rows_and_summaries :
    s0.CanIssue .vx q0 (.vxF64s q0 (fo 0 0 0x28)) ∧ (s0.q .vx q0).repLatch.getD 1 = 1 ∧
    s0.CanIssue .vx q0 (.vxF64s q0 (fo 0 0 0x28 7)) ∧ 1 < (s0.q .vx q0).repLatch.getD 8 ∧
    s0.Repeats .vx q0 ∧ s0.CanIssue .vx q0 (.vxRclr q0 (fo 4 4 0xFFF9)) ∧ s0.CanIssue .vx q0 (.vxRfld q0 (fo 0 4 0xFF)) ∧
    s0.CanIssue .vx q0 (.vxRfld q0 (fo 0 4 0xFF 7)) ∧
    s0.CanIssue .vx q0 (.vxSumm q0 (fo 0 4 0)) := by unfold State.CanIssue State.Repeats; decide

theorem witness_summ_sticky : s0.CanIssue .vx q0 (.vxSumm q0 (fo 4 4 0x30)) ∧ (s0.q .vx q0).repLatch.getD 1 = 1 ∧
    (fo 4 4 0x30).fld 3 3 = 6 := by unfold State.CanIssue; decide

/-! #### Permute station -/

/-- A line with one valid beat of `v` on stream S0 at position 0, for stations of position `p` in the current sc. -/
def lineBeat (v : BeatData) (tag : BitVec 6) : LineState :=
  { line0 with dq := [(0, { (default : DataQueue) with entries := List.replicate 3 { (default : DqEntry) with data := v, tag := tag } })] }
/-- The state of sc 2 in which data queue 0 holds three entries of `v`, so that two operands can be taken. -/
def sDq (v : BeatData) : State := { sL (lineBeat v 0) with time.cnt.scc := 2, time.cnt.cc := 2 }
def kPx : Ctx := (sDq 0).ctx .px q0 2 0
theorem witness_tileBuffer :
    s0.Repeats .px q0 ∧ s0.CanIssue .px q0 (.pxTr q0 (fo 0 0 2 127)) ∧ (s0.q .px q0).repLatch = none ∧
    s0.CanIssue .px q0 (.pxTld q0 (fo 0 4 0x1FC)) ∧ s0.CanIssue .px q0 (.pxTrd q0 (fo 4 0 0x1FC)) := by
  unfold State.CanIssue State.Repeats; decide
/-- The last repeat of a transposition. -/
theorem witness_lastOfTransposition :
    let o : Outst := { (default : Outst) with instr := .pxTr q0 (fo 0 0 2 127), done := 127, total := 128 }
    let s := { sL (lineQ .px fun z => { z with outst := some o }) with time.cnt.scc := 127 }
    (s.q .px q0).outst = some o ∧ o.done = 127 ∧ o.total = 128 ∧ s.mayIssue .px q0 o.instr o.done = true ∧
    127 ≤ s.sc + s.pxLat 0 0 ∧ s.Repeats .px q0 := by unfold State.Repeats; decide
/-- Row numbers 127, 128 and 0xFFFF. -/
theorem witness_gather_scatter :
    let w : FmtO := fo 8 0 0
    let x : FmtO := fo 8 4 0x20
    (sDq 127).CanIssue .px q0 (.pxGath q0 w) ∧ (laneOf 16 ((sDq 127).takeBeat kPx 8 0).2 0).toNat = 127 ∧
    (sDq 128).CanIssue .px q0 (.pxGath q0 w) ∧ (laneOf 16 ((sDq 128).takeBeat kPx 8 0).2 0).toNat = 128 ∧
    (sDq 0xFFFF).CanIssue .px q0 (.pxGath q0 w) ∧ (laneOf 16 ((sDq 0xFFFF).takeBeat kPx 8 0).2 0).toNat = 0xFFFF ∧
    (sDq 127).CanIssue .px q0 (.pxScat q0 x) ∧
    (laneOf 16 (((sDq 127).takeBeat kPx 8 0).1.takeBeat kPx 8 0).2 0).toNat = 127 ∧
    (laneOf 16 (((sDq 0xFFFF).takeBeat kPx 8 0).1.takeBeat kPx 8 0).2 0).toNat = 0xFFFF ∧
    (sDq 128).job.faults.length ≤ 11 ∧ (sDq 128).Repeats .px q0 := by unfold State.CanIssue State.Repeats; decide +kernel
theorem witness_compaction :
    let rowW : FmtO := fo 8 4 0x100 3
    s0.CanIssue .px q0 (.pxCmpx q0 (fo 0 0 0x10)) ∧ (fo 0 0 0x10).fld 4 1 = 1 ∧
    (sDq 1).CanIssue .px q0 (.pxCmpx q0 rowW) ∧ rowW.fld 4 1 = 0 ∧ 1 < ((sDq 1).q .px q0).repLatch.getD 4 ∧
    laneOf 8 (((sDq 1).takeBeat kPx 8 0).1.takeBeat kPx 8 0).2 0 ≠ 0 ∧
    laneOf 8 (((sDq 0).takeBeat kPx 8 0).1.takeBeat kPx 8 0).2 0 = 0 ∧
    s0.CanIssue .px q0 (.pxLperm q0 (fo 0 0 0)) := by unfold State.CanIssue; decide +kernel
theorem witness_packing :
    let o : Outst := { (default : Outst) with instr := .pxPk6 q0 (fo 0 0 0 3), done := 1, total := 4 }
    let s := sL (lineQ .px fun z => { z with outst := some o })
    s0.Repeats .px q0 ∧ 1 < (s0.q .px q0).repLatch.getD 4 ∧ s0.CanIssue .px q0 (.pxPk6 q0 (fo 0 0 0 3)) ∧ s0.CanIssue .px q0 (.pxUp6 q0 (fo 0 0 0 3)) ∧
    (s.q .px q0).outst = some o ∧ o.done % 4 ≠ 0 ∧ s.mayIssue .px q0 o.instr o.done = true := by
  unfold State.CanIssue State.Repeats; decide
/-- One result for each kind of place. -/
def resultAt (st : Station) (d : Dest) : PendOut := { (default : PendOut) with st := st, dest := d, valid := true }
theorem witness_results : ∀ o ∈ [resultAt .vx (.stream 1), resultAt .vx (.dq 2), resultAt .vx (.vreg 31), resultAt .px (.tbRow 2 127),
      resultAt .pt (.stream 0), resultAt .pt (.dq 7)],
    let s := sL { line0 with outs := [o] }
    s.live = true ∧ s.held = false ∧ (s.line 0).outs = [o] ∧ o.due = s.sc ∧ o.ev = 0 ∧ o.valid = true ∧ o.unconf = none ∧
    ((s.line 0).dq.look 2 default).entries.length < 32 := by decide

/-! #### Local store, bay buffer, near tier, gleaners -/

/-- The image of the witnesses: a local store region, a bay buffer region and a near-tier region, each 256 bytes from its base. -/
def rg (kind base : Nat) : Region := { (default : Region) with kind := kind, r := true, w := true, base := base, size := 256 }
def img0 : ImageInfo :=
  { (default : ImageInfo) with regions := [rg 1 0, rg 2 0x18000000000, rg 3 0x10000000000, rg 4 0x20000000000], hline := some 0, dyn := 15 }
def sI (L : LineState) : State := { sL L with job.img := some img0 }

theorem witness_localStore :
    let s := sI line0
    let g := s.region 0
    s.Repeats .ls q0 ∧ s.CanIssue .ls q0 (.lsRd q0 (fm 8)) ∧ s.firstOffset .ls q0 (fm 8) = 0 ∧ g.allows 1 false 0 = true ∧
    g.base = 0 ∧ s.CanIssue .ls q0 (.lsWr q0 (fm 8)) ∧ g.allows 1 true 0 = true ∧ s.CanIssue .ls q0 (.lsFill q0 (fm 4)) ∧
    s.CanIssue .ls q0 (.lsFill q0 (fm 5 63)) ∧ s.CanIssue .ls q0 (.lsCopy q0 (fm 6 1)) ∧
    ((s.q .ls q0).ar.look 1 0).toNat = 0 := by unfold State.CanIssue State.Repeats; decide
/-- The last row of the region, the first offset past it, and one that is no multiple of 128. -/
theorem witness_localStore_edges :
    let s := sI line0
    let g := s.region 0
    s.firstOffset .ls q0 (fm 8 0 0 0 false 128) = 128 ∧ g.allows 1 false 128 = true ∧
    s.firstOffset .ls q0 (fm 8 0 0 0 false 129) = 129 ∧ g.allows 1 false 129 = false ∧
    s.CanIssue .ls q0 (.lsRd q0 (fm 8 0 0 0 false 129)) ∧ g.allows 1 false 1 = true ∧ (g.base + 1) % 128 ≠ 0 ∧
    s.CanIssue .ls q0 (.lsRd q0 (fm 8 0 0 0 false 1)) ∧ s.job.faults.length ≤ 12 := by unfold State.CanIssue; decide
/-- A prediction of task 0 that began in sc 0. -/
def pred0 : Pred := default
theorem witness_powerGroups :
    let s := { sL { line0 with cc := { (default : CcState) with preds := [(0, pred0)] } } with time.cnt.scc := 1 }
    s0.Repeats .ls q0 ∧ s.Repeats .ls q0 ∧ s0.CanIssue .ls q0 (.lsPgrp q0 (fo 4 4 5)) ∧ (s0.line 0).cc.preds.find 0 = none ∧
    s.CanIssue .ls q0 (.lsPgrp q0 (fo 4 4 5)) ∧ (s.line 0).cc.preds.find 0 = some pred0 ∧ pred0.p < s.sc := by
  unfold State.CanIssue State.Repeats; decide
/-- A read, a write, and a write under a prediction. -/
theorem witness_nearTier :
    let s := sI line0
    let u := { sI { line0 with cc := { (default : CcState) with preds := [(0, pred0)] } } with time.cnt.scc := 1 }
    let w := fm 8 0 0 2
    s.Repeats .pt q0 ∧ s.firstOffset .pt q0 w = 0 ∧ ((s.region 2).base + 0) % 128 = 0 ∧ (s.region 2).allows 3 false 0 = true ∧
    s.CanIssue .pt q0 (.ptGet q0 w) ∧ (ntMap s.zone (s.region 2).base).1 / 32 = bayOf 0 ∧
    s.CanIssue .pt q0 (.ptPut q0 w) ∧ s.predicted (s.ctx .pt q0 s.sc 0) = false ∧ (s.region 2).allows 3 true 0 = true ∧
    u.CanIssue .pt q0 (.ptPut q0 w) ∧ u.predicted (u.ctx .pt q0 u.sc 0) = true ∧ u.job.faults.length ≤ 12 := by
  unfold State.CanIssue State.Repeats; decide
/-- A near-tier address whose slice lies in another bay. -/
theorem witness_nearTier_far :
    let s := { sL line0 with job.img := some { img0 with regions := [rg 3 0x10000020000] } }
    s.CanIssue .pt q0 (.ptGet q0 (fm 8)) ∧ (ntMap s.zone (s.region 0).base).1 / 32 ≠ bayOf 0 := by unfold State.CanIssue; decide
def bg0 (d : Nat) : Background := { (default : Background) with instr := .ptBget q0 (fm 8 0 0 1), total := 2, done := d }
theorem witness_background :
    let s := sI line0
    let b := fm 8 0 0 1
    let n := fm 8 0 0 0x20
    let u := sI { line0 with bg := some (bg0 1) }
    s.CanIssue .pt q0 (.ptBget q0 b) ∧ s.CanIssue .pt q0 (.ptBput q0 b) ∧ s.CanIssue .pt q0 (.ptNget q0 n) ∧
    s.CanIssue .pt q0 (.ptNput q0 n) ∧ s.firstOffset .pt q0 b = 0 ∧ (s.region 1).base % 128 = 0 ∧
    (s.region 1).allows 2 true 0 = true ∧ (s.region 1).allows 2 false 0 = true ∧ (s.region (0x20 % 16)).allows 1 true 0 = true ∧
    s.predicted (s.ctx .pt q0 s.sc 0) = false ∧ (s.q .pt q0).repLatch.getD 1 = 1 ∧ (s.line 0).bg = none ∧
    u.CanIssue .pt q0 (.ptBget q0 b) ∧ (u.line 0).bg ≠ none ∧ u.job.faults.length ≤ 12 ∧
    (bg0 1).done < (bg0 1).total ∧ { u with time.cnt.scc := 1 }.live = true ∧ (bg0 1).c + (bg0 1).done ≤ 1 := by
  unfold State.CanIssue; decide
def held0 : HeldRow := { (default : HeldRow) with addr := 0x5FF80, confirmed := true }
theorem witness_heldRow :
    let L := { line0 with ls := { (default : LsState) with pgOn := 15, held := [(0, held0)] } }
    let s := { sL L with time.cnt.scc := 1 }
    State.MemCanon s ∧ s.live = true ∧ s.held = false ∧ (s.line 0).ls.held = [(0, held0)] ∧ held0.confirmed = true ∧
    held0.since < s.sc ∧ held0.addr < 0x60000 ∧ L.ls.drainAt ≠ s.sc + 1 ∧ L.powered held0.addr = true ∧
    s.writesPair 0 (pairOf held0.addr) s.sc = false := by unfold State.MemCanon; decide
theorem witness_gleaners :
    s0.glnFree (.ls 0) (s0.glnNext (.ls 0)) false = true ∧ s0.glnFree (.bb 3) (s0.glnNext (.bb 3)) false = true ∧
    let s := { sL { line0 with ls := { (default : LsState) with pgOn := 15 } } with
      fixes := [lsPhys 0 0x5FF80, bbPhys 3 0x3FFFF80, ntPhys 255 0] }
    s.nextFix (.ls 0) = some (lsPhys 0 0x5FF80) ∧ s.glnFree (.ls 0) ((lsPhys 0 0x5FF80 - lsPhys 0 0) / 128) true = true ∧
    s.nextFix (.bb 3) = some (bbPhys 3 0x3FFFF80) ∧ s.glnFree (.bb 3) ((bbPhys 3 0x3FFFF80 - bbPhys 3 0) / 128) true = true ∧
    s.nextFix (.nt 31) = some (ntPhys 255 0) ∧ ntPhys 255 0 / 0x180000000 = 255 ∧ s.slotFree 255 0 = true ∧ s.free = [] := by
  decide
theorem witness_instructionStoreScan :
    let f : List ParityFinding := [⟨.cc, 4095⟩]
    let s := sL { line0 with ls := { (default : LsState) with glnIs := 383 } }
    (s.line 0).ls.glnIs = 383 ∧ ∀ x ∈ f, x.st.code * 64 + x.word.val / 64 = 383 := by decide
def ntUse (slice : Nat) : MemUse := { (default : MemUse) with owner := .nt slice, write := true }
theorem witness_nearTierSlots :
    let s := { s0 with uses := [ntUse 255] }
    s0.live = true ∧ s0.held = false ∧ s0.refLevel = 0 ∧ (∀ u ∈ s0.uses, u.owner ≠ .nt 255) ∧
    s.refLevel = 0 ∧ s.gShare = 0 ∧ s.uses = [ntUse 255] ∧ (ntUse 255).due = s.sc ∧ (ntUse 255).slotted = false ∧
    s0.slotFree 255 1 = true ∧ s0.slotFree 0 0 = true ∧ s0.free = [] := by decide
theorem witness_temperature : State.tempLimit { sL line0 with time.loaded := true, job.img := some { img0 with refresh := 1 } } = some 85 ∧
    State.tempLimit { sL line0 with time.loaded := true, job.img := some { img0 with refresh := 2 } } = some 95 := by decide
theorem witness_crossing :
    let c : Crossing := { (default : Crossing) with src := 7, dst := 6 }
    let s := { s0 with cross := [c] }
    s.live = true ∧ s.held = false ∧ s.cross = [c] ∧ c.src = 7 ∧ c.sc = s.sc := by decide

/-! #### Control core, flags, predictions, words -/

/-- A branch table whose entry 0 sends every station to index 5. -/
def allTo5 : BitVec 78 := 0x200b005802c01600b005
def ccLine (c : CcState) : LineState := { line0 with cc := { c with branch := [(0, allTo5)] } }
theorem witness_scalar :
    s0.CanIssue .cc q0 (.ccOp q0 (fo 4 4 0x5BF03F)) ∧ s0.CanIssue .cc q0 (.ccLi q0 ⟨0, 0, 0xFFFFFFFFFF, 0⟩) ∧
    s0.CanIssue .cc q0 (.ccLih q0 ⟨0, 0, 0xFCFFFFFFFF, 0⟩) ∧ s0.CanIssue .cc q0 (.ccSrrd q0 (fo 4 4 0x80)) ∧
    (∀ e ∈ (s0.line 0).cc.sreg.look (srKey 0 63) [], e.1 ≠ 2 * (s0.sc + 1) + 1) ∧
    (sI line0).CanIssue .cc q0 (.ccSrrd q0 (fo 4 4 0xC0)) ∧
    { sI line0 with time.loaded := true }.dynOn 3 = true := by unfold State.CanIssue; decide
/-- Taken without a condition, and not taken: scalar register 0 is not unequal to itself. -/
theorem witness_branch :
    let s := sL (ccLine default)
    s.CanIssue .cc q0 (.ccBr q0 ⟨0, 0, 0, 0, 0⟩) ∧ s.condOf (s.ctx .cc q0 s.sc 0) ⟨0, 0, 0, 0, 0⟩ = true ∧
    (s.line 0).target 0 .cc = some 5 ∧ ((s.line 0).q .vx 0).ended = false ∧
    s.CanIssue .cc q0 (.ccBr q0 ⟨0, 0, 0, 0, 0x200⟩) ∧ s.condOf (s.ctx .cc q0 s.sc 0) ⟨0, 0, 0, 0, 0x200⟩ = false ∧
    (s.line 0).target 1 .vx = none := by unfold State.CanIssue; decide
theorem witness_predict :
    let s := sL (ccLine default)
    s.CanIssue .cc q0 (.ccPredict q0 ⟨0, 0, 0, 0, 0⟩) ∧ (s.line 0).fullEntry 0 = true ∧ (s.line 0).cc.preds.find 0 = none := by
  unfold State.CanIssue; decide
def predZ : Pred := { pred0 with queues := [z0, z0, z0, z0, z0, z0] }
theorem witness_resolve :
    let s := { sL (ccLine { (default : CcState) with preds := [(0, predZ)] }) with time.cnt.scc := 1 }
    s.CanIssue .cc q0 (.ccBrResolve q0 ⟨0, 1, 0, 0, 0⟩) ∧ s.condOf (s.ctx .cc q0 s.sc 0) ⟨0, 1, 0, 0, 0⟩ = true ∧
    (s.line 0).fullEntry 0 = true ∧ (s.line 0).cc.preds.rising = true ∧ (s.line 0).cc.preds.find 0 = some predZ ∧
    predZ.flags = [] ∧ predZ.sregs.rising = true ∧ predZ.queues[4]? = some z0 ∧ z0.ended = false ∧
    s.CanIssue .cc q0 (.ccBrResolve q0 ⟨0, 1, 0, 0, 0x200⟩) ∧
    s.condOf (s.ctx .cc q0 s.sc 0) ⟨0, 1, 0, 0, 0x200⟩ = false := by unfold State.CanIssue; decide
/-- 257 sc after the prediction, and one sc before. -/
theorem witness_specDepth :
    let s := { sL (ccLine { (default : CcState) with preds := [(0, predZ)] }) with time.cnt.scc := 257 }
    s.live = true ∧ s.held = false ∧ s.job.faultSc = none ∧ s.job.faults = [] ∧ (s.line 0).cc.preds.find 0 = some predZ ∧
    predZ.p + 257 = s.sc ∧ predZ.p + 257 ≠ { s with time.cnt.scc := 256 }.sc := by decide
/-- Route 0 enabled to inbound queue 0 of line 0, with ON_NACK 1, and route 1 enabled alone. -/
def routes0 : Tbl W32 := [(0, 0x3000), (1, 0x1000)]
theorem witness_deferredWord :
    let d : DefWord := ⟨0, 0, 9, 0, 0⟩
    let s := sL (ccLine { (default : CcState) with sendQ := [d], routes := routes0 })
    s.live = true ∧ s.held = false ∧ (s.line 0).cc.sendQ = [d] ∧ d.from_ ≤ s.sc ∧
    routeOn ((s.line 0).cc.routes.look d.route 0) = true ∧ (s.line 0).cc.injected ≠ s.sc + 1 := by decide
/-- The last flag of each class; a change under a prediction. -/
theorem witness_flagChanges :
    let s := { sL (ccLine { (default : CcState) with preds := [(0, predZ)] }) with time.cnt.scc := 1 }
    let c : FlagChg := ⟨.line, 0, 63, true, .program, 0⟩
    let u := { s0 with flags.chgs := [c] }
    s0.CanIssue .cc q0 (.ccSet q0 ⟨0, 0, 0, 0, 63⟩) ∧ s0.CanIssue .cc q0 (.ccClr q0 ⟨1, 0, 0, 0, 127⟩) ∧
    s0.CanIssue .cc q0 (.ccSet q0 ⟨2, 0, 0, 0, 1023⟩) ∧ (s0.line 0).cc.preds.find 0 = none ∧
    s.CanIssue .cc q0 (.ccSet q0 ⟨0, 0, 0, 0, 63⟩) ∧ (s.line 0).cc.preds.find 0 = some predZ ∧ predZ.p < s.sc ∧
    predZ.flags.length < 16 ∧
    u.live = true ∧ u.held = false ∧ u.flags.chgs = [c] ∧ c.eff = u.sc := by unfold State.CanIssue; decide
/-- A wait without a deadline, a consuming one with the least deadline of its flag, and a long one. -/
theorem witness_waits :
    s0.CanIssue .cc q0 (.ccWait q0 ⟨0, 0, 0, 0, 63⟩) ∧ waitDl ⟨0, 0, 0, 0, 63⟩ = none ∧
    s0.CanIssue .cc q0 (.ccWaitc q0 ⟨2, 0, 0, 0, 0x40400⟩) ∧ waitDl ⟨2, 0, 0, 0, 0x40400⟩ = some 4 ∧
    dlOk q0 ⟨2, 0, 0, 0, 0x40400⟩ = true ∧ dlOk q0 ⟨2, 0, 0, 0, 0x30400⟩ = false ∧
    s0.CanIssue .cc q0 (.ccWaitl q0 ⟨0, 0, 0, 0, 0x10400⟩) ∧ s0.predicted (s0.ctx .cc q0 0 0) = false := by
  unfold State.CanIssue; decide
def wait0 : WaitSt := { (default : WaitSt) with idx := 63, consume := true }
/-- A wait on a clear flag, and on a set one. -/
theorem witness_probe :
    let s := sL { line0 with cc := { (default : CcState) with waits := [(0, wait0)] } }
    let u := sL { line0 with cc := { (default : CcState) with waits := [(0, wait0)], lfBase := 1#64 <<< 63 } }
    s.live = true ∧ s.held = false ∧ s.waitsOn .line 0 63 = [(0, 0, wait0)] ∧ wait0.deadline = none ∧ wait0.first ≤ s.sc ∧
    wait0.probed ≠ s.sc + 1 ∧ (s.flagBase .line 0).getLsbD 63 = false ∧
    u.waitsOn .line 0 63 = [(0, 0, wait0)] ∧ (u.flagBase .line 0).getLsbD 63 = true := by decide
theorem witness_deadline_and_longWait :
    let w : WaitSt := { wait0 with deadline := some 8 }
    let v : WaitSt := { wait0 with long := some 0, lending := true }
    let s := sL { line0 with cc := { (default : CcState) with waits := [(0, w)] } }
    let u := sL { line0 with cc := { (default : CcState) with waits := [(0, v)] } }
    (s.line 0).cc.waits.find 0 = some w ∧ w.deadline = some 8 ∧ s.eightBefore 8 = true ∧
    s.hasHold 5 (.wait 0 0) = false ∧ s.flags.chgs = [] ∧
    (u.line 0).cc.waits.find 0 = some v ∧ v.long = some 0 ∧ v.lending = true ∧ v.issue + 0 ≤ u.sc := by decide
theorem witness_words :
    let c : CcState := { (default : CcState) with routes := routes0, injected := 1 }
    let s := sL (ccLine { c with injected := 0 })
    let u := sL (ccLine c)
    s.CanIssue .cc q0 (.ccWsend q0 (fo 4 4 0)) ∧ routeOn ((s.line 0).cc.routes.look 0 0) = true ∧
    (s.line 0).cc.injected ≠ s.sc + 1 ∧ s.CanIssue .cc q0 (.ccWsend q0 (fo 4 4 15)) ∧
    routeOn ((s.line 0).cc.routes.look 15 0) = false ∧
    u.CanIssue .cc q0 (.ccWsend q0 (fo 4 4 0)) ∧ (u.line 0).cc.injected = u.sc + 1 ∧ u.job.faults.length ≤ 12 ∧
    s.CanIssue .pt q0 (.ptSend q0 (fo 0 4 0)) ∧ s.Repeats .pt q0 ∧ s.predicted (s.ctx .pt q0 s.sc 0) = false ∧
    (s.line 0).cc.preds.find 0 = none := by unfold State.CanIssue State.Repeats; decide
theorem witness_inboundQueues :
    let z : InQueue := ⟨true, 0, 0, [(7, 1)]⟩
    let s := { sL (ccLine { (default : CcState) with iw := [(0, z)] }) with time.cnt.scc := 2 }
    s.CanIssue .cc q0 (.ccWrecv q0 (fo 4 4 0x1F8)) ∧ (s.line 0).cc.iw.look 0 default = z ∧ z.armed = true ∧ z.since < s.sc ∧
    (1 : Nat) < s.sc ∧ (s.line 0).cc.preds.find 0 = none ∧ s.CanIssue .cc q0 (.ccWarm q0 (fo 4 4 0)) ∧
    s.CanIssue .cc q0 (.ccWarm q0 (fo 4 4 15)) ∧ ((s.line 0).cc.iw.look 7 default).armed = false := by
  unfold State.CanIssue; decide
/-- A word for an armed queue, one for a queue that is not armed, a NACK that counts and one that faults. -/
theorem witness_arrival :
    let w : WordFly := { (default : WordFly) with word := 5, due := 2 }
    let m : NackFly := { (default : NackFly) with reason := 1, due := 2 }
    let s := { sL (ccLine { (default : CcState) with routes := routes0, iw := [(0, ⟨true, 0, 0, []⟩)] }) with
      words := [w], time.cnt.scc := 2 }
    let u := { sL (ccLine { (default : CcState) with routes := routes0 }) with nacks := [m], time.cnt.scc := 2 }
    s.live = true ∧ s.held = false ∧ s.words = [w] ∧ w.due ≤ s.sc ∧ routeLine ((s.line w.src).cc.routes.look w.route 0) = 0 ∧
    (s.line 0).refusal 0 w.due (s.bay 0).inReset = none ∧ (u.line 0).refusal 0 w.due (u.bay 0).inReset = some 1 ∧
    (u.line 0).refusal 0 w.due true = some 2 ∧
    u.live = true ∧ u.held = false ∧ u.nacks = [m] ∧ m.due ≤ u.sc ∧ routeOnNack ((u.line 0).cc.routes.look 0 0) = true ∧
    routeOnNack ((u.line 0).cc.routes.look 1 0) = false ∧ u.job.faultSc = none ∧ u.job.faults = [] := by decide

/-! #### Granary, expert loads, holds, harvests, snapshots -/

/-- A descriptor of a move of 4,096 bytes from the granary region to the near-tier region, in every place of the beat. -/
def noDesc : Nat → Move × Bool := fun i => descriptor 0 i 16
theorem witness_moveDescriptors :
    let s := sI line0
    s.Repeats .pt q0 ∧ s.CanIssue .pt q0 (.ptGmv q0 (fm 8)) ∧ s.predicted (s.ctx .pt q0 0 0) = false ∧
    (∀ i, i < 4 → (noDesc i).1.flagEn = false ∧ (noDesc i).1.len = 0) ∧
    (descriptor (1#1024 <<< 128) 0 16).1.len = 1 ∧ s.descCode (descriptor (1#1024 <<< 128) 0 16).1 (descriptor (1#1024 <<< 128) 0 16).2 ≠ none ∧
    s.job.faults.length ≤ 8 := by unfold State.CanIssue State.Repeats; decide +kernel
def move0 (len moved : Nat) (ended : Bool) : Move := { (default : Move) with src := 0x10000000000, dst := 0x10000001000, len := len, moved := moved, ended := ended }
def fly0 : MoveFly := ⟨0, 0, 0, 0, 0, move0 4096 0 false⟩
theorem witness_moveEntry :
    let s := { s0 with gr.fly := [fly0] }
    let u := { s0 with gr.fly := [fly0], gr.queue := List.replicate 64 { move0 0 0 false with dl := 5 } }
    s.live = true ∧ s.held = false ∧ s.gr.fly = [fly0] ∧ fly0.due = s.sc ∧ (∀ m ∈ s.gr.queue, m.held s.sc = true) ∧
    s.gr.queue.length < 64 ∧ u.live = true ∧ u.gr.fly = [fly0] ∧ (∀ m ∈ u.gr.queue, m.held u.sc = true) ∧
    64 ≤ u.gr.queue.length ∧ u.job.faultSc = none ∧ u.job.faults = [] := by decide +kernel
theorem witness_granaryChunk :
    let n := move0 4097 4096 false
    let m := { move0 4096 0 false with src := 0x20000000000, dst := 0x20000001000 }
    let s := { s0 with gr.queue := [m], gr.pop := [0] }
    s0.gr.cur = none ∧ n.moved < n.len ∧ inGranary n.src = false ∧ inGranary n.dst = false ∧
    State.MemCanon s ∧ s.gr.cur = none ∧ s.gr.queue = [m] ∧ m.moved + 4096 ≤ m.len ∧ inGranary m.src = true ∧
    inGranary m.dst = true ∧ s.phys m.src = some m.src ∧ s.phys m.dst = some m.dst ∧
    s.phys (m.src + 4095) = some (m.src + 4095) ∧ s.phys (m.dst + 4095) = some (m.dst + 4095) := by
  unfold State.MemCanon; decide
theorem witness_moveComplete :
    let m := move0 4096 4096 false
    m.moved = m.len ∧ m.ended = false ∧ m.flagEn = false ∧ { m with flagEn := true }.flagEn = true ∧
    { s0 with gr.queue := [m] }.gr.queue = [m] ∧ s0.live = true ∧ State.reset.live = false := by decide
theorem witness_granaryScrub :
    let s := { s0 with gr.dimms := [(0, ⟨1, 0, true, true⟩)], gr.pop := [0] }
    s.gr.queue = [] ∧ s.gr.cur = none ∧ (s.gr.unmap 0 (s.gr.scrub.look 0 0)).isSome = true := by decide
theorem witness_expertLoads :
    let s := { sI line0 with time.loaded := true }
    let u := { sI { line0 with cc := { (default : CcState) with preds := [(0, pred0)] } } with
      time.loaded := true, time.cnt.scc := 1 }
    s.CanIssue .cc q0 (.ccElbAdd q0 (fo 4 4 0xFFFC0)) ∧ s.CanIssue .cc q0 (.ccElbRead q0 (fo 4 4 0x1FF03F)) ∧
    s.CanIssue .cc q0 (.ccElbReadv q0 (fo 4 4 0x2FF03F)) ∧ s.dynOn 1 = true ∧ s.predicted (s.ctx .cc q0 0 0) = false ∧
    u.CanIssue .cc q0 (.ccElbAdd q0 (fo 4 4 0xFFFC0)) ∧ u.dynOn 1 = true ∧ u.predicted (u.ctx .cc q0 1 0) = true ∧
    u.job.faults.length ≤ 12 := by unfold State.CanIssue; decide
theorem witness_expertReports :
    let i := { img0 with elbExp := true, elbLo := 0, elbHi := 63 }
    let s := { sL line0 with job.img := some i, fab.mcast := [(0, [5])] }
    s.live = true ∧ s.elb.sentAt ≠ some s.time.cnt.cc ∧ s.time.cnt.cc % 65536 = 0 ∧ s.job.img = some i ∧ i.dyn.getLsbD 1 = true ∧ i.elbExp = true ∧
    i.elbLo ≤ i.elbHi ∧ i.elbHi < i.elbLo + 64 ∧ s.fab.mcast.look i.elbGrp [] = [5] ∧ (5 : BitVec 15) ≠ s.coord ∧
    State.reset.time.running = false ∧ ([7, 8] : List W32).length ≤ 64 := by decide

theorem witness_holdTimeout :
    let s := { s0 with time.limHold := 0x8F0D1800, time.hist := List.replicate 8 4 }
    s.live = true ∧ s.held = true ∧ s.hasHold 9 .snapshot = false ∧ s.time.ctrlLoad.getLsbD 16 = true ∧
    s.time.limitLoad.toNat ≤ s.time.limHold ∧ s.job.faultSc = none ∧ s.job.faults = [] ∧
    s0.time.limHold < s0.time.limitLoad.toNat := by decide
/-- The unconditional form, the on-request form armed and not armed, and a line that is not the harvest line. -/
theorem witness_harvest :
    let s := sI line0
    let a := { sI line0 with hrv.armed := true, hrv.armedWas := true }
    let o := { sL line0 with job.img := some { img0 with hline := some 5 } }
    s.CanIssue .cc q0 (.ccHarvest q0 ⟨0, 0, 0, 0, 0⟩) ∧ s.predicted (s.ctx .cc q0 0 0) = false ∧ img0.hline = some 0 ∧
    a.CanIssue .cc q0 (.ccHarvest q0 ⟨0, 0, 0, 0, 1⟩) ∧ a.hrv.armedWas = true ∧ a.hrv.reqSc.toNat ≤ a.sc ∧
    s.CanIssue .cc q0 (.ccHarvest q0 ⟨0, 0, 0, 0, 1⟩) ∧ s.hrv.armedWas = false ∧
    o.CanIssue .cc q0 (.ccHarvest q0 ⟨0, 0, 0, 0, 0⟩) ∧ (FmtC.mk 0 0 0 0 1).fld 0 1 = 1 := by unfold State.CanIssue; decide
/-- Host 0, its link up, is the owner of a module whose management controller runs and whose bays answer. -/
def portOn : HostPort := { HostPort.reset with config := [(0x04, 6)] }
def hostUp : State :=
  { State.reset with
    mod := { (default : ModState) with mgmt := true, rails := true, standby := true, vin := true, bayReady := 0xFF }
    host := { HostState.reset with ports := [(0, { portOn with up := true, downAt := none }), (1, portOn)] } }
theorem witness_harvestRequest :
    let s := { hostUp with
      time.running := true, lines := [(0, line0)], job.img := some img0, hrv.armed := true, hrv.armedWas := true }
    s.OwnerReaches (.host 0) 0x10020 ∧ s.job.img = some img0 ∧ s.CanIssue .cc q0 (.ccHarvest q0 ⟨0, 0, 0, 0, 1⟩) ∧
    s.predicted (s.ctx .cc q0 0 0) = false ∧ s.hrv.armedWas = true ∧ s.hrv.reqSc.toNat ≤ s.sc := by
  unfold State.CanIssue State.OwnerReaches State.Reaches; decide
def bound0 : Boundary := ⟨0, 0, 0, false, false, false⟩
theorem witness_boundary :
    let s := { s0 with time.cnt.scc := 9, hrv.bounds := [bound0], hrv.unread := true }
    let r := { bound0 with raised := true, joined := 2 }
    let u := { s0 with time.cnt.scc := 9, hrv.bounds := [r] }
    s.dueBoundary = some bound0 ∧ s.hrv.unread = true ∧ s.live = true ∧ s.hrv.bounds = [bound0] ∧ bound0.h + 9 = s.sc ∧
    bound0.latched = false ∧ bound0.raised = false ∧ bound0.joined = 0 ∧
    u.live = true ∧ u.hrv.bounds = [r] ∧ r.h + 9 = u.sc ∧ r.raised = true ∧ State.reset.dueBoundary = none := by decide
def snap0 : SnapJob := { (default : SnapJob) with slot := 1 }
def heldBy (c : Nat) (z : HoldSrc) (s : State) : State := { s with time.reqs := ⟨c, z, none⟩ :: s.time.reqs }
theorem witness_boundaryActions :
    let b := { bound0 with raised := true, latched := true }
    let s := heldBy 8 .harvest { s0 with hrv.bounds := [b] }
    let d := { b with joined := 16 }
    let u := heldBy 8 .harvest { s0 with hrv.bounds := [d], rcv.snap := some snap0 }
    s.hrv.bounds = [b] ∧ b.latched = true ∧ s.hasHold 8 .harvest = true ∧ b.joined = 0 ∧
    u.hrv.bounds = [d] ∧ d.latched = true ∧ u.hasHold 8 .harvest = true ∧ d.joined = 16 ∧ u.rcv.snap = some snap0 ∧
    s.job.faultSc = none ∧ u.job.faultSc = none ∧ snap0.slot = 1 ∧ s0.hasHold 8 .harvest = false := by decide
theorem witness_snapshotPhases :
    { s0 with rcv.snap := some { snap0 with phase := 1 } }.movesDone = true ∧
    { s0 with rcv.snap := some { snap0 with phase := 1 } }.packetsHere = true ∧
    { s0 with fab.ports := [(3, { (default : FabPort) with replaying := true })] }.packetsHere = false ∧
    { s0 with rcv.snap := some { snap0 with phase := 1 }, gr.queue := [move0 1 0 false] }.movesDone = false ∧
    ({ snap0 with phase := 1 } : SnapJob).phase = 1 ∧ ({ snap0 with phase := 2 } : SnapJob).phase = 2 ∧
    ({ snap0 with phase := 3 } : SnapJob).phase = 3 ∧ snap0.phase = 0 ∧ s0.job.faultSc = none ∧ (∀ m ∈ s0.marks, m.2 = false) ∧
    { s0 with job.faultSc := some 0 }.job.faultSc.isSome = true := by decide
theorem witness_replication :
    State.reset.rcv.repl = none ∧ { s0 with rcv.repl := some 5 }.rcv.repl = some 5 ∧ State.reset.rcv.slotsz = 0 ∧
    { s0 with rcv.slotsz := 1 }.rcv.slotsz ≠ 0 ∧ s0.rcv.inRepl = none := by decide

/-! #### The fabric -/

/-- A circuit that ends here: from port 0, to the stream of line 0; and one that originates here, to port 3. -/
def circIn : BitVec 256 := 0x1000000000200FF0
def circOut : BitVec 256 := 0x200F3F
def strmPkt (u : Nat) : StreamPkt := ⟨1, u, 0, some (1023, true)⟩
def regionF (dyn : Bool) : Region := { rg 5 0 with circ := 1, dyn := dyn }
def sFab (dyn : Bool) (L : LineState) : State :=
  { sL L with job.img := some { img0 with regions := [regionF dyn] }, fab.circ := [(1, circIn), (2, circOut)], fab.strm := [(1, strmPkt 0)] }
theorem witness_fget :
    let s := sFab false line0
    let k := s.ctx .pt q0 0 0
    let e := { s with job.img := some { img0 with regions := [{ regionF false with r := false }] } }
    (s.region 0).allows 5 false (s.firstOffset .pt q0 (fm1 8)) = true ∧
    e.CanIssue .pt q0 (.ptFget q0 (fm1 8)) ∧ (e.region 0).allows 5 false (e.firstOffset .pt q0 (fm1 8)) = false ∧
    s.Repeats .pt q0 ∧ s.CanIssue .pt q0 (.ptFget q0 (fm1 8)) ∧ (s.port (cIn (s.circuit 1))).lead = [] ∧
    s.streamOf k 0 = some (strmPkt 0) ∧ (strmPkt 0).u = s.sc ∧
    { s with fab.strm := [(1, strmPkt 1)] }.streamOf k 0 = some (strmPkt 1) ∧ (strmPkt 1).u ≠ s.sc ∧ s.job.faults.length ≤ 12 := by
  unfold State.CanIssue State.Repeats; decide +kernel
def outF (i : Instr) : Outst := { (default : Outst) with instr := i, done := 1, total := 2, buf := [0], nums := [0] }
theorem witness_fgetSecondBeat :
    let s := { sFab false (lineQ .pt fun z => { z with outst := some (outF (.ptFget q0 (fm1 8))) }) with time.cnt.scc := 1 }
    s.mayIssue .pt q0 (.ptFget q0 (fm1 8)) 1 = true ∧ s.streamOf (s.ctx .pt q0 0 1) 0 = some (strmPkt 0) ∧
    (strmPkt 0).u + 1 = s.sc ∧ s.predicted (s.ctx .pt q0 0 1) = false ∧
    (s.region 0).allows 5 false (lsOffset (fm1 8) (s.ctx .pt q0 0 1) (outF (.ptFget q0 (fm1 8)))) = true := by decide +kernel
theorem witness_fput :
    let s := sFab false line0
    let u := { sFab false { line0 with cc := { (default : CcState) with preds := [(0, pred0)] } } with time.cnt.scc := 1 }
    s.CanIssue .pt q0 (.ptFput q0 ⟨0, 8, 0, 1, false, 0, 0⟩) ∧ s.predicted (s.ctx .pt q0 0 0) = false ∧
    (s.region 0).allows 5 true (s.firstOffset .pt q0 (fm 8)) = true ∧ 1 < (s.q .pt q0).repLatch.getD 2 ∧
    u.CanIssue .pt q0 (.ptFput q0 (fm1 8)) ∧ u.predicted (u.ctx .pt q0 1 0) = true := by unfold State.CanIssue; decide
theorem witness_fputSecondBeat : ∀ dyn ∈ [false, true],
    let o := outF (.ptFput q0 (fm1 8))
    let s := { sFab dyn (lineQ .pt fun z => { z with outst := some o }) with time.cnt.scc := 1 }
    s.mayIssue .pt q0 o.instr 1 = true ∧ o.buf = [0] ∧ o.nums = [0] ∧ s.predicted (s.ctx .pt q0 0 1) = false ∧
    (s.region 0).allows 5 true (lsOffset (fm 8) (s.ctx .pt q0 0 1) o) = true ∧ (s.region 0).dyn = dyn := by decide +kernel
def ready0 (c : Nat) : ReadyPkt := { (default : ReadyPkt) with circ := c }
theorem witness_packetReady :
    let s := { sFab false line0 with fab.ready := [ready0 2] }
    let u := { sFab false line0 with fab.ready := [ready0 1] }
    s.live = true ∧ s.held = false ∧ s.fab.ready = [ready0 2] ∧ (ready0 2).due ≤ s.sc ∧ cOuts (s.circuit 2) = [3] ∧
    s.fab.claims = [] ∧ u.fab.ready = [ready0 1] ∧ cOuts (u.circuit 1) = [] := by decide
def port0 : FabPort := { (default : FabPort) with st := 5 }
def tx0 (through : Bool) : TxCell := ⟨2, 0, through, 0, ⟨0, 0⟩⟩
/-- In the last scheduled position there is, before it opens, and in a dynamic one. -/
theorem witness_departure : ∀ th ∈ [false, true],
    let s := { sFab false line0 with fab.ports := [(3, { port0 with tx := [tx0 th] })] }
    (s.port 3).st = 5 ∧ s.position = some 0 ∧ 0 < s.splitS ∧ (s.port 3).resend = [] ∧ s.txReady (tx0 th) = true ∧
    s.hasCredit (tx0 th) = true ∧ cOwns (s.circuit 2) 0 = true ∧ { s with fab.htc := 1 }.position = none ∧
    { s with fab.htc := 2557 }.position = some 1023 ∧ s.splitS ≤ 1023 ∧ s.portUp 0 = false := by decide
/-- A scheduled packet of circuit 1 with SEQ 0. -/
def schedPkt : Packet := ⟨0x10001, 0⟩
theorem witness_arrivingPacket :
    let s := { sFab false line0 with fab.ports := [(0, port0)] }
    (s.port 0).st = 5 ∧ (s.port 0).expect < 2 ^ 31 ∧ (s.port 0).peer = none ∧ schedPkt.clean = true ∧ schedPkt.typ = 1 ∧
    s.time.running = true ∧ schedPkt.circ = 1 ∧ cValid (s.circuit 1) = true ∧ cIn (s.circuit 1) = 0 ∧ cEnd (s.circuit 1) = true ∧
    schedPkt.seq = (s.cs 1).expSeq % 2 ^ 32 ∧ (s.port 0).decl ≤ (s.port 0).lat ∧
    ({ s with fab.ports := [(0, { port0 with decl := 1 })] }.port 0).lat < ({ s with fab.ports := [(0, { port0 with decl := 1 })] }.port 0).decl := by
  decide +kernel
/-- A trailer whose CRC is the complement of that of its cell. -/
theorem witness_damagedCell (c : W32) :
    (((0 : BitVec 64) ++ ~~~c) ++ (0 : BitVec 32)).extractLsb' 32 32 ≠ c ∧
    (((0 : BitVec 64) ++ ~~~c) ++ (0 : BitVec 32)).extractLsb' 0 32 = 0 := by
  constructor
  · rw [BitVec.extractLsb'_append_eq_of_le (by decide), BitVec.extractLsb'_append_eq_right]
    intro e
    have := congrArg (·.getLsbD 0) e
    simp at this
  · rw [BitVec.extractLsb'_append_eq_right]
def lead0 (n addr : Nat) : LeadEnt := ⟨1, 0, n, ⟨BitVec.ofNat 256 (1 + 2 ^ 16 + addr * 2 ^ 128), 0⟩, 0⟩
theorem witness_packetUse :
    let s (e : LeadEnt) : State := { sFab false line0 with fab.ports := [(0, { port0 with lead := [e] })] }
    (s (lead0 0 0)).live = true ∧ cEnd circIn = true ∧ ((s (lead0 0 0)).port (cIn circIn)).lead = [lead0 0 0] ∧
    (lead0 0 0).circ = 1 ∧ nominal (s (lead0 0 0)).splitS (0 + cDelta circIn) = (s (lead0 0 0)).sc ∧
    nominal (s (lead0 1 0)).splitS (1 + cDelta circIn) ≠ (s (lead0 1 0)).sc ∧ cOp circIn = 0 ∧ cNext circIn = 0 ∧
    cDlv circIn = 2 ∧ cDlv (circIn - 0x800000000000000) = 1 ∧
    (sI line0).landRegion (lead0 0 0x10000000000).pkt.addr = true ∧ (sI line0).landRegion (lead0 0 0x10000000080).pkt.addr = false := by
  decide +kernel
theorem witness_lateAndLead :
    let s := { sFab false line0 with time.cnt.scc := 2 }
    let x : TxCell := ⟨2, 0, false, 10, ⟨0, 0⟩⟩
    let u := { s with fab.circ := [(2, circOut + 0x40000000000)], fab.ports := [(3, { port0 with tx := [x] })] }
    nominal s.splitS (4 + cDelta circIn) = 10 ∧ s.eightBefore 10 = true ∧ s.inLead 1 0 = false ∧
    s.hasHold 2 (.packet 1 0) = false ∧ s.hasHold 4 (.packet 1 0) = false ∧ s.eightBefore 12 = false ∧
    u.toSend 3 = [x] ∧ x.through = false ∧ u.eightBefore x.at_ = true ∧ { u with fab.ports := [(3, { port0 with tx := [x] })] }.hasCredit { x with q := 1 } = false ∧
    u.hasHold 3 (.packet 2 0) = false ∧ s.toSend 3 = [] := by decide +kernel
theorem witness_signal :
    let f : SignalFly := ⟨0, 511, 1023, true⟩
    let s := { s0 with fab.sigs := [f] }
    s.live = true ∧ s.held = false ∧ s.fab.sigs = [f] ∧ f.due ≤ s.sc := by decide

/-- A control cell of a kind with these bytes behind its head, sealed with its CRC. -/
def cell (kind body : Nat) : BitVec 256 :=
  BitVec.ofNat 256 (kind + 2 ^ 64 * body + 2 ^ 224 * (crc32c (leBytes 28 (kind + 2 ^ 64 * body))).toNat)
theorem witness_controlCells : kOk (cell 0 0) = true ∧ kOk (cell 1 0x10002) = true ∧ kOk (cell 2 99) = true ∧
    kOk (cell 3 (2 ^ 64 * 0x20000)) = true ∧ kOk (cell 3 0) = true :=
  ⟨kOk_seal _ (by decide), kOk_seal _ (by decide), kOk_seal _ (by decide), kOk_seal _ (by decide), kOk_seal _ (by decide)⟩
theorem witness_controlCells_ports :
    let s := { sFab false line0 with fab.ports := [(3, port0)], fab.clk := true }
    3 ≤ (s.port 3).st ∧ (s.port 3).st ≤ 5 ∧ cValid (s.circuit 2) = true ∧ 3 ∈ cOuts (s.circuit 2) ∧ cIn (s.circuit 2) = 15 ∧
    s.fab.htcValid = false ∧ s.fab.clk = true ∧ { s with coordOk := true, coord := 5 }.coord ≠ 0 ∧ (s.port 3).st = 5 ∧ (∀ o, o < 3 → s.portUp o = false) ∧ s.coordMode = false ∧ s.fab.taken = none ∧
    (s.port 0).st < 3 ∧ s.cellBody 3 0 < 2 ^ 160 ∧ (s.port 3).expect < 2 ^ 31 := by decide +kernel
/-- The first credit record names circuit 2 and no other follows; the hall time is 99; the peer is port 2, then port 0. -/
theorem witness_controlCells_fields :
    kf (cell 0 0) 0 8 = 0 ∧ kf (cell 1 0x10002) 0 8 = 1 ∧ kf (cell 1 0x10002) 8 32 = 0x10002 ∧ kf (cell 1 0x10002) 12 32 = 0 ∧
    kf (cell 2 99) 0 8 = 2 ∧ kf (cell 2 99) 8 64 = 99 ∧ (cell 0 0).getLsbD 63 = false ∧
    kf (cell 3 (2 ^ 64 * 0x20000)) 18 8 = partner 0 ∧ kf (cell 3 0) 18 8 ≠ partner 0 := by decide +kernel
theorem witness_ident : let s := { sFab false line0 with fab.ports := [(0, { port0 with st := 3 })] }
    (s.port 0).st = 3 ∧ (0 : Nat) = s.fab.shape.toNat := by decide
theorem witness_replay :
    (port0.asked ≠ (5, 7)) ∧ port0.asked.2 < 8 ∧ { port0 with asked := (5, 7) }.asked = (5, 7) := by decide
/-- A dynamic packet for coordinate 0. -/
def dynPkt : Packet := ⟨2, 0⟩
theorem witness_dynamicArrival :
    let s := { State.reset with coordOk := true, fab.ports := [(0, port0)] }
    (s.port 0).st = 5 ∧ dynPkt.clean = true ∧ dynPkt.typ = 2 ∧ s.coordOk = true ∧ dynPkt.dst = s.coord ∧
    s.fab.recvBuf.length < 64 ∧ (s.port 0).expect < 2 ^ 31 ∧ (s.port 0).decl ≤ (s.port 0).lat := by decide +kernel
theorem witness_dynamicForward :
    let d : DynEnt := ⟨.cell dynPkt, 0, none⟩
    let s := { State.reset with fab.htc := 2557, fab.ports := [(0, { port0 with vc := [(0, [d])], credit := [(0, 1)] })] }
    s.fab.outq = [] ∧ (s.port 0).st = 5 ∧ s.position = some 1023 ∧ s.splitS ≤ 1023 ∧ (s.port 0).resend = [] ∧
    (s.port 0).pickVc = some 0 ∧ (s.port 0).vc.look 0 [] = [d] ∧ d.src = none ∧
    { s with fab.htc := 0 }.position = some 0 ∧ 0 < s.splitS ∧ port0.pickVc = none := by decide +kernel
def kept0 : Retained := ⟨7, 3, dynPkt⟩
theorem witness_notices :
    let s := { State.reset with coord := 1, fab.retain := [kept0], fab.resends := [(0, kept0)] }
    kept0.named 3 7 0 = true ∧ s.fab.retain = [kept0] ∧ s.fab.resends = [(0, kept0)] ∧ kept0.pkt.dst ≠ s.coord ∧
    (0 : Nat) ≤ s.time.now ∧ s.time.now < 1 ∧ State.reset.fab.retain = [] ∧
    s.time.running = false ∧ { s with fab.xfers := [⟨7, true, some 1023⟩] }.fab.xfers = [⟨7, true, some 1023⟩] ∧ s.fab.outq = [] ∧
    kept0.pkt.addr < 2 ^ 42 := by decide +kernel
theorem witness_flagOfAnotherModule : State.reset.time.running = false ∧ { s0 with time.cnt.ndc := 1 }.live = true ∧
    { s0 with time.cnt.ndc := 1 }.time.cnt.ndc ≠ 0 := by decide
theorem witness_abort : s0.fab.abort = none ∧ s0.time.running = true ∧ s0.job.faultSc = none ∧ s0.job.faults = [] ∧
    { s0 with fab.abort := some 1 }.fab.abort.isSome = true ∧ { s0 with fab.ports := [(11, port0)] }.portUp 11 = true := by decide
theorem witness_linkStates : ∀ st ∈ [0, 1, 2, 4, 5, 6],
    let s := { State.reset with fab.clk := true, sec.booted := true, fab.ports := [(11, { port0 with st := st })], fab.shape := 0x7FFF }
    (s.port 11).st = st ∧ s.fab.clk = true ∧ s.sec.booted = true ∧ State.reset.fab.clk = false ∧ s.cabled 11 = true := by decide
theorem witness_linkFailure :
    let s := { s0 with fab.ports := [(3, port0)], fab.circ := [(2, circOut)] }
    (s.port 3).st = 5 ∧ s.fab.circ = [(2, circOut)] ∧ cValid circOut = true ∧ 3 ∈ cPorts circOut ∧ s.time.running = true ∧
    s.job.faultSc = none ∧ s.job.faults = [] := by decide
theorem witness_retrain :
    let s := { hostUp with fab.ports := [(11, { port0 with st := 6 })] }
    s.OwnerReaches (.host 0) 0x1401B24 ∧ s.time.loaded = false ∧ (s.port 11).st = 6 ∧
    s.Reaches (.host 1) 0x1401B24 ∧ s.isOwner (.host 1) = false := by unfold State.OwnerReaches State.Reaches; decide
theorem witness_clock :
    let s := { s0 with fab.clk := true, fab.ref := 3 }
    hostUp.mod.rails = true ∧ hostUp.fab.clk = false ∧ State.reset.mod.rails = false ∧ s.fab.ref = 3 ∧ s.fab.clk = true ∧
    s.time.running = true ∧ s.job.faultSc = none ∧ s.job.faults = [] ∧
    { State.reset with coordOk := true }.coord = 0 := by decide
theorem witness_coordinatedRelease :
    let s := { State.reset with job.coordWait := some 2561, fab.htc := 101, fab.start := 100 }
    s.job.coordWait = some 2561 ∧ s.fab.htc = s.fab.start.toNat + 2561 % 2560 ∧
    { s with fab.htc := 100 }.fab.htc ≠ s.fab.start.toNat + 2561 % 2560 := by decide

/-! #### A firmware package that passes its checks, where its signature verifies -/

def fwKey : List Byte := List.replicate 1952 0
def fwDigest : List Byte := leBytes 64 (shake512 [0]).toNat
def fwHead : List Byte := ascii "AWFWPKG0" ++ [1, 0, 0, 0, 0, 0, 0, 0, 0, 0, 0, 0, 1, 0, 0, 0, 1, 0, 0, 0, 0, 0, 0, 0]
def pkg0 : List Byte := fwHead ++ (fwDigest ++ (fwDigest ++ List.replicate 12129 0))
/-- The slot of the first key holds its digest. -/
def hostFw : State := { hostUp with sec.vkd := [(0, shake512 fwKey)] }
theorem package_sub (o n : Nat) (h : 160 ≤ o) : sub pkg0 o n = sub (List.replicate 12129 0) (o - 160) n := by
  have h1 : fwHead.length = 32 := by decide +kernel
  have h2 : fwDigest.length = 64 := by simp [fwDigest]
  rw [pkg0, sub_right _ _ _ _ (by omega), sub_right _ _ _ _ (by omega), sub_right _ _ _ _ (by omega), h1, h2,
    Nat.sub_sub, Nat.sub_sub]
theorem package_good (s : State) (hs : s.sec.vkd = hostFw.sec.vkd) (hr : s.sec.revoked = 0) (hf : s.sec.floor = 0)
    (hv : ∀ m g, Config.verify fwKey (ascii "AW8-FW") m g = true) : s.pkgCode pkg0 = none := by
  have h1 : fwHead.length = 32 := by decide +kernel
  have h2 : fwDigest.length = 64 := by simp [fwDigest]
  have f : recField pkg0 10 1 = 0 ∧ recField pkg0 12 4 = 0 ∧ recField pkg0 20 4 = 1 ∧ recField pkg0 24 4 = 1 ∧
      pkgMalformed pkg0 = false ∧ pkgBay pkg0 = 12288 := by decide +kernel
  obtain ⟨f1, f2, f3, f4, f5, f6⟩ := f
  have k : sub pkg0 160 1952 = fwKey := by rw [package_sub _ _ (by omega), sub_replicate _ _ _ _ (by omega), fwKey]
  have c : sub pkg0 8192 1 = [0] ∧ sub pkg0 12288 1 = [0] := by
    constructor <;> rw [package_sub _ _ (by omega), sub_replicate _ _ _ _ (by omega)] <;> rfl
  have d1 : recField pkg0 32 64 = (shake512 [0]).toNat := recField_digest _ _ _ _ h1
  have d2 : recField pkg0 96 64 = (shake512 [0]).toNat := by
    rw [pkg0, ← List.append_assoc]
    exact recField_digest _ _ _ _ (by rw [List.length_append, h1, h2])
  have v : (s.sec.vkd.look 0 0 : BitVec 512) = shake512 fwKey := by rw [hs]; rfl
  unfold State.pkgCode
  simp only [f1, f2, f3, f4, f5, f6, k, c.1, c.2, d1, d2, v, hr, hf, hv]
  simp
/-- A slot written whole holds its header's digest. -/
theorem written_state (st seq : Nat) (b : List Byte) : (FlashSlot.written st seq b).state = st := by simp [FlashSlot.state, FlashSlot.written]
/-- A slot that says EMPTY is EMPTY whatever its digest. -/
theorem empty_state (f : FlashSlot) (h : f.st = 0) : f.state = 0 := by simp [FlashSlot.state, h]
theorem package_length : pkg0.length = 12289 := by
  have h1 : fwHead.length = 32 := by decide +kernel
  have h2 : fwDigest.length = 64 := length_leBytes 64 _
  rw [pkg0, List.length_append, List.length_append, List.length_append, List.length_replicate, h1, h2]

/-! #### Power, bring-up, firmware, resets -/

/-- Readings beyond the class limit, warm inlet, low flow. -/
def win0 : PowerWindow := { (default : PowerWindow) with pin := 40000, inlet := 46, flow := 199 }
theorem witness_power :
    let s := { s0 with time.cnt.cc := 65528, pwr.over_ := true }
    hostUp.mod.rails = true ∧ State.reset.mod.rails = false ∧ { hostUp with time.running := true }.time.running = true ∧
    classLimit hostUp.pwr.clsWin < win0.pin ∧ 45 < win0.inlet ∧ win0.flow < 200 ∧ State.reset.time.running = false ∧
    s.time.running = true ∧ s.time.cnt.cc % 65536 = 65528 ∧ s.pwr.dutyAt ≠ s.time.cnt.cc ∧ s.pwr.over_ = true ∧
    { s with mod.mgmt := true }.mod.mgmt = true ∧ { s with mod.mgmt := false }.mod.mgmt = false ∧
    { s with pwr.dutyAt := 65528 }.pwr.dutyAt = 65528 ∧ s.hasHold 6 .power = false ∧
    min 8 (s.pwr.duty + 1) ≠ 0 ∧ s0.time.cnt.cc % 65536 ≠ 65528 ∧ s0.pwr.over_ = false ∧ s0.pwr.near = false ∧ s0.pwr.calm ≠ 3 ∧
    { s0 with pwr.calm := 3 }.pwr.calm = 3 ∧ s0.live = true ∧
    (List.range 8).map (fun b => (([6600] : List Nat).getD b 0 - 6000 - s0.sb b + 74) / 75) = [8, 0, 0, 0, 0, 0, 0, 0] ∧
    (List.range 8).map (fun b => (([6601] : List Nat).getD b 0 - 6000 - s0.sb b + 74) / 75) = [9, 0, 0, 0, 0, 0, 0, 0] ∧
    ({ s0 with time.curHold := 9, pwr.keepHold := 9 }).pwr.keepHold ≤ 9 ∧
    { s0 with time.hist := [0, 0, 0, 0, 0, 0, 0, 1] }.held = true ∧ s0.held = false := by decide
theorem witness_powerRegisters :
    hostUp.OwnerReaches (.host 0) 0x40000 ∧ hostUp.OwnerReaches (.host 0) 0x40010 ∧ hostUp.OwnerReaches (.host 0) 0x40020 ∧
    ((0 : W32).extractLsb' 0 3).toNat ≤ hostUp.mod.straps.pwrclass.toNat ∧
    { hostUp with mod.straps.pwrclass := 2 }.mod.straps.pwrclass.toNat < ((5 : W32).extractLsb' 0 3).toNat ∧
    5 < ((6 : W32).extractLsb' 0 3).toNat ∧ (0x4801 : W32).getLsbD 0 = true ∧ (0x4800 : W32).getLsbD 0 = false ∧
    hostUp.Reaches (.host 1) 0x40000 ∧ hostUp.Reaches (.host 1) 0x40010 ∧ hostUp.Reaches (.host 1) 0x40020 ∧
    hostUp.isOwner (.host 1) = false := by unfold State.OwnerReaches State.Reaches; decide
def dimm0 : DimmFound := { (default : DimmFound) with typ := 1 }
theorem witness_bringUp :
    let s := { State.reset with mod.standby := true, mod.vin := true }
    let u := { hostUp with mod.bayReady := 0, fab.clk := true }
    let v := { hostUp with fab.clk := true }
    s.mod.standby = true ∧ State.reset.mod.standby = false ∧ s.mod.vin = true ∧ s.mod.rstLow = false ∧ s.mod.shut = false ∧
    s.mod.sampled = false ∧ { s with mod.sampled := true }.mod.sampled = true ∧ State.MemCanon u ∧ u.upAndManaged = true ∧
    u.rcv.disBay.getLsbD 0 = false ∧ u.mod.bayReady.getLsbD 0 = false ∧ hostUp.mod.bayReady.getLsbD 7 = true ∧
    v.upAndManaged = true ∧ v.rcv.disCh = 0 ∧ v.rcv.disBay = 0 ∧ dimm0.typ ≠ 0 ∧ v.part.order ≠ 1 ∧
    v.part.order = 2 ∧ { v with part.order := 1 }.part.order = 1 ∧ { v with part.order := 3 }.part.order = 3 ∧ State.reset.upAndManaged = false ∧
    { s with mod.cold := true }.mod.cold = true := by unfold State.MemCanon; decide
/-- The good package stands in slot A. -/
theorem witness_boot (hv : ∀ m g, Config.verify fwKey (ascii "AW8-FW") m g = true) :
    let s := { hostFw with sec.flashA := FlashSlot.written 3 0 pkg0 }
    (s.mod.rails = true ∧ s.sec.booted = false ∧ s.mod.bootWait = false ∧ s.mod.bootFail = false ∧ s.mod.straps.bootsrc ≠ 2 ∧
    (s.sec.slot s.newest).state = 3) ∧ s.pkgCode (s.sec.slot s.newest).pkg = none := by
  intro s
  have a : s.sec.flashA.state = 3 := written_state _ _ _
  have b : s.sec.flashB.state = 0 := empty_state _ rfl
  have n : s.newest = 0 := by simp [State.newest, a, b]
  rw [n]
  exact ⟨⟨rfl, rfl, rfl, rfl, by decide, a⟩, package_good _ rfl rfl rfl hv⟩
/-- The boot ROM waits, and the host has posted the good package. -/
theorem witness_bootFromHost (hv : ∀ m g, Config.verify fwKey (ascii "AW8-FW") m g = true) :
    let s : State := { hostFw with
      mod.bootWait := true, host.boxes := [(boxKey (.open_ 0), { (default : Mailbox) with st := 2, db := 1, msg := [(0, 0xB0), (3, 12289)] })] }
    (s.mod.bootWait = true ∧ s.posted s.bootBox s.mod.straps.hostrole.toNat 0xB0 = true ∧ s.mod.tries = []) ∧
    s.postedLen s.bootBox = pkg0.length ∧ s.pkgCode pkg0 = none := by
  refine ⟨by decide, ?_, package_good _ rfl rfl rfl hv⟩
  rw [package_length]; decide
theorem witness_bootOthers :
    State.reset.mod.rails = false ∧ { hostUp with mod.straps.bootsrc := 2 }.mod.straps.bootsrc = 2 ∧ hostUp.mod.mgmt = true ∧
    hostUp.rcv.standby = false ∧ { hostUp with rcv.standby := true, sec.booted := true }.rcv.standby = true ∧
    State.reset.mod.mgmt = false ∧ hostUp.sec.booted = false := by decide
theorem witness_resets :
    hostUp.OwnerReaches (.host 0) (dieReg 0 0x840) ∧ hostUp.gr.queue = [] ∧ hostUp.rcv.snap = none ∧
    hostUp.rcv.pullAct = false ∧ (hostUp.hp 0).sqs = [] ∧ (hostUp.hp 1).sqs = [] ∧ State.MemCanon hostUp ∧
    (109 : BitVec 8).toNat < (if (0 : Fin 36).val < 32 then 110 else 105) ∧
    (if (35 : Fin 36).val < 32 then 110 else 105) ≤ (105 : BitVec 8).toNat ∧
    hostUp.Reaches (.host 1) (dieReg 0 0x840) ∧ hostUp.isOwner (.host 1) = false ∧
    { hostUp with sec.unlocked := true }.Reaches .debug (dieReg 0 0x840) ∧
    { hostUp with time.loaded := true }.Reaches (.host 0) (dieReg 0 0x840) ∧ hostUp.time.loaded = false := by
  unfold State.OwnerReaches State.Reaches State.MemCanon; decide

/-! #### Rings, ports, records -/

/-- Ring 0 of port 0, enabled, with 64 entries. -/
def ring0 : SubRing := { (default : SubRing) with en := true, k := 6, tail := 1 }
def cring0 : ComRing := { (default : ComRing) with en := true, k := 6, phase := true }
def hostRing (z : SubRing) (c : ComRing) : State :=
  { hostUp with host.ports := [(0, { portOn with up := true, downAt := none, sqs := [(0, z)], cqs := [(0, c)] }), (1, portOn)] }
theorem witness_doorbells :
    let s := hostRing ring0 cring0
    (s.sq 0 0).en = true ∧ ((63 : W32).extractLsb' 0 16).toNat < 2 ^ (s.sq 0 0).k ∧ 2 ^ (s.sq 0 0).k ≤ ((64 : W32).extractLsb' 0 16).toNat ∧
    (s.cq 0 0).en = true ∧ ((127 : W32).extractLsb' 0 17).toNat < 2 ^ ((s.cq 0 0).k + 1) ∧
    2 ^ ((s.cq 0 0).k + 1) ≤ ((128 : W32).extractLsb' 0 17).toNat ∧ (s.sq 0 1).en = false ∧ (s.cq 0 1).en = false := by decide
theorem witness_ringConfig : ∀ k ∈ [6, 16],
    let s := hostUp
    let v : W32 := BitVec.ofNat 32 (32 + k)
    s.Reaches (.host 0) 0x80108 ∧ s.Reaches (.host 0) 0x80308 ∧ s.Reaches (.host 1) 0x80108 ∧ 6 ≤ (v.extractLsb' 0 5).toNat ∧
    (v.extractLsb' 0 5).toNat ≤ 16 ∧ v.getLsbD 5 = true ∧ (s.sq 0 0).en = false ∧ (s.cq 0 0).en = false ∧
    (BitVec.extractLsb' 0 5 (37 : W32)).toNat < 6 ∧ 16 < (BitVec.extractLsb' 0 5 (49 : W32)).toNat := by unfold State.Reaches; decide
/-- A record of a type with UNITS, OPT and the bytes from 8 on; the units behind the first are zero. -/
def fr (typ units opt body : Nat) : FetchedRec :=
  ⟨5, BitVec.ofNat 512 (typ + 2 ^ 8 * units + 2 ^ 16 * opt + 2 ^ 32 * 7 + 2 ^ 64 * body) :: List.replicate (units - 1) 0, false⟩
/-- The record at the front of ring 0, and begun in it. -/
def front (r : FetchedRec) : State := hostRing { ring0 with queue := [r] } cring0
def begun (r : FetchedRec) : State := hostRing { ring0 with cur := some ⟨r, none⟩ } cring0
def done0 : Completion := { (default : Completion) with typ := 1 }
theorem witness_rings :
    let s := hostRing ring0 cring0
    let u : BitVec 512 := 0x101
    s.mod.mgmt = true ∧ (s.sq 0 0).en = true ∧ (s.sq 0 0).stopped = false ∧ (s.sq 0 0).queue = [] ∧ (s.sq 0 0).part = [] ∧
    (s.sq 0 0).cur = none ∧ (s.sq 0 0).head + 1 = (s.sq 0 0).tail ∧ (s.sq 0 0).tail < 2 ^ (s.sq 0 0).k ∧
    (u.extractLsb' 0 8).toNat ≤ 11 ∧ (u.extractLsb' 0 8).toNat ≠ 0 ∧ (u.extractLsb' 8 5).toNat = 1 ∧
    (front (fr 0 1 0 0)).Front 0 0 (fr 0 1 0 0) ∧ (fr 0 1 0 0).typ = 0 ∧
    (front (fr 1 1 0 0)).Accepts 0 0 1 (fr 1 1 0 0) ∧ (fr 1 1 0 0).quiet = false ∧
    (front (fr 9 1 0 64)).Accepts 0 0 9 (fr 9 1 0 64) ∧ (fr 9 1 0 64).quiet = false ∧
    (front (fr 1 2 0 0)).Front 0 0 (fr 1 2 0 0) ∧ (fr 1 2 0 0).typ = 1 ∧ (front (fr 1 2 0 0)).formatErr (fr 1 2 0 0) = some 1 := by
  unfold State.Accepts State.Front; decide +kernel
theorem witness_completionPost :
    let s := hostRing ring0 { cring0 with wait := [(none, done0)] }
    let u := hostRing ring0 { cring0 with wait := [(some 0, done0)] }
    let v := hostRing ring0 { cring0 with wait := [(none, done0)], head := 1 }
    (s.cq 0 0).wait = [(none, done0)] ∧ (s.cq 0 0).en = true ∧ (s.cq 0 0).full = false ∧ (u.cq 0 0).wait = [(some (0 : RingId).val, done0)] ∧
    (u.sq 0 0).queue = [] ∧ (v.cq 0 0).full = true ∧ (hostUp.cq 0 0).wait = [] := by decide
theorem witness_cqInterrupt :
    let s := hostRing ring0 { cring0 with since := 1, vec := 63 }
    (s.cq 0 0).due s.time.now = true ∧ (s.cq 0 0).vec < 64 ∧ ((s.hp 0).msix.look 63 0).getLsbD 96 = true ∧
    (hostUp.cq 0 0).due hostUp.time.now = false ∧
    ({ s with host.ports := s.host.ports.upd 0 default fun h => { h with msix := [(63, 0)] } }.hp 0).msix.look 63 0 = (0 : BitVec 128) := by
  decide
def hostDown : State :=
  { hostUp with
    time.now := 16000001
    host.tkovr := 2, host.ports := [(0, { portOn with downAt := some 0 }), (1, { portOn with up := true, downAt := none })] }
theorem witness_ports :
    (hostUp.hp 0).up = true ∧ (hostUp.hp 0).sqs.all (fun e => e.2.cur.isNone) = true ∧ (hostUp.hp 1).up = false ∧
    ({ hostUp with host.ports := [(0, { HostPort.reset with perst := false })] }.hp 0).perst = false ∧
    hostUp.portDown hostUp.host.owner = false ∧ hostDown.portDown hostDown.host.owner = true ∧
    hostDown.portDown (1 - hostDown.host.owner) = false ∧ hostDown.host.tkovr ≠ 0 ∧
    (hostDown.hp hostDown.host.owner).downAt = some 0 ∧ 0 + 8000000 * hostDown.host.tkovr < hostDown.time.now ∧
    { hostDown with time.now := 16000000 }.time.now ≤ 0 + 8000000 * hostDown.host.tkovr := by decide
def bothUp (s : State) : State := { s with host.ports := s.host.ports.upd 1 default fun h => { h with up := true, perst := false, downAt := none } }
theorem witness_release :
    let r := fr 8 1 0 0
    (front r).Accepts 0 0 8 r ∧ (front r).host.jc = none ∧ (front r).portDown (1 - (0 : HostId).val) = true ∧
    (bothUp (front r)).Accepts 0 0 8 r ∧ (bothUp (front r)).portDown (1 - (0 : HostId).val) = false := by
  unfold State.Accepts State.Front; decide +kernel
/-- A COPY of 128 bytes between host address 64 and the local address; OPT 0 reads the host. -/
def copyRec (opt a : Nat) : FetchedRec := fr 2 1 opt (64 + 2 ^ 64 * a + 2 ^ 128 * 128)
/-- The near tier is ready. -/
theorem witness_copies :
    let r := copyRec 0 0
    let w := copyRec 1 0
    let x := copyRec 0 0x18020000000
    r.f 16 6 = 0 ∧ r.f 24 5 = 128 ∧ (front r).Accepts 0 0 2 r ∧ (front r).copying 0 < 8 ∧
    (front r).against (front r).windowsClosed 0 128 = none ∧ (front x).Accepts 0 0 2 x ∧
    (front x).against (front x).windowsClosed 0x18020000000 128 ≠ none ∧
    (begun r).sq 0 0 = { ring0 with cur := some ⟨r, none⟩ } ∧ r.typ = 2 ∧ r.quiet = false ∧ r.opt % 2 = 0 ∧
    (begun r).against (begun r).windowsClosed 0 128 = none ∧ State.MemCanon (begun r) ∧ w.opt % 2 = 1 ∧
    (begun w).against (begun w).windowsClosed 0 128 = none ∧ (begun w).marks = [] ∧ w.typ = 2 ∧ w.quiet = false ∧
    (begun x).against (begun x).windowsClosed 0x18020000000 128 ≠ none ∧ (hostUp.sq 0 0).cur = none ∧
    (begun r).areaOf 0 128 = some .near ∧ (begun r).host.mem = [] := by
  unfold State.Accepts State.Front State.MemCanon; decide +kernel
/-- The same at the window of local store 0, and with an access of the ring still on its way. -/
theorem witness_copiesOfWindows :
    let r := copyRec 0 0x18100000000
    let w := copyRec 1 0x18100000000
    let u := { begun w with host.mem := [⟨.host 0, some 0, 0, 128, false, [], none, 0, 0⟩] }
    (begun r).against (begun r).windowsClosed 0x18100000000 128 = none ∧ (begun r).areaOf 0x18100000000 128 = some (.ls 0) ∧
    ((begun r).line 0).ls.held = [] ∧ State.MemCanon (begun r) ∧ r.opt % 2 = 0 ∧ (begun w).areaOf 0x18100000000 128 = some (.ls 0) ∧
    (begun w).against (begun w).windowsClosed 0x18100000000 128 = none ∧ w.opt % 2 = 1 ∧ (begun w).marks = [] ∧
    (∃ x ∈ u.host.mem, x.ring = some (0 : RingId).val ∧ x.who = .host 0) ∧ Area.near.slotted = true ∧ (Area.ls 0).slotted = false := by
  unfold State.MemCanon; decide +kernel

/-! #### An image that the loader accepts: one part for a torus of one module, no line, no region -/

def imgHdr : List Byte :=
  ascii "FELLETIM" ++ [2, 0, 2, 0, 0, 0, 8, 1] ++ List.replicate 12 0 ++ [1, 0, 0, 0, 0, 16] ++ List.replicate 4062 0
def partHead : List Byte := ascii "FELLETPT" ++ [0, 0, 1, 0]
def partTail : List Byte :=
  List.replicate 236 0 ++ [1, 0, 0, 0, 0, 0, 0, 0] ++ leBytes 8 280 ++ leBytes 8 2048 ++ List.replicate 2048 0
/-- The part's digest: that of the part with its own eight bytes zero. -/
def partD : List Byte := leBytes 64 (shake512 (partHead ++ (List.replicate 8 0 ++ partTail))).toNat
def imgTable : List Byte := (List.replicate 16 0 ++ leBytes 8 2328) ++ partD.take 56
def imgPart : List Byte := partHead ++ (partD.drop 56 ++ partTail)
def image : List Byte := imgHdr ++ (imgTable ++ (List.replicate 48 0 ++ imgPart))
/-- The LOAD record that names the header at 0 and the part at 4,224. -/
def load0 : FetchedRec := fr 3 3 0 (2 ^ 64 * 4224)
def sHost : State := { hostUp with coordOk := true, host.loadRec := some (0, 0), host.loadFr := some load0 }
/-- The same module without a coordinate. -/
def sLost : State := { sHost with coordOk := false }
/-- The image stands at local address 0. -/
def sImg : State := sHost.writeLocal 0 image
def withMem (s : State) (m : List Host.Cell) (u : List UndefRange) (k : List (Nat × Bool)) (x : List Nat) : State :=
  { s with mem := m, undef := u, marks := k, fixes := x }
/-- What the loader reads. -/
def part0 : Part :=
  { hdr := imgHdr, table := imgTable, sig := [], entry := imgTable, bytes := imgPart, sects := [⟨0, 1, 0, true, 280, 2048⟩], inMem := true }

theorem image_digest : leBytes 64 part0.partDigest.toNat = sub part0.entry 24 56 ++ sub part0.bytes 12 8 := by
  have hd : partD.length = 64 := by simp [partD]
  have hh : partHead.length = 12 := by decide +kernel
  have h1 : patch part0.bytes 12 (List.replicate 8 0) = partHead ++ (List.replicate 8 0 ++ partTail) := by
    simp only [part0, patch, imgPart, List.length_replicate]
    rw [List.take_append_of_le_length (by omega), List.take_of_length_le (by omega), List.drop_append,
      List.drop_eq_nil_of_le (by omega), List.nil_append, hh, List.drop_append, List.drop_eq_nil_of_le (by simp [hd])]
    simp [hd]
  have h2 : sub part0.entry 24 56 = partD.take 56 := by
    simp only [part0, imgTable]
    rw [sub_right _ _ _ _ (by simp)]
    simp [sub, hd]
  have h3 : sub part0.bytes 12 8 = partD.drop 56 := by
    simp only [part0, imgPart]
    rw [sub_right _ _ _ _ (by omega), hh, Nat.sub_self, sub_all _ _ _ (by simp [hd])]
  rw [Part.partDigest, h1, h2, h3, List.take_append_drop]
  rfl
theorem image_length : image.length = 6552 ∧ imgHdr.length = 4096 ∧ imgTable.length = 80 ∧ imgPart.length = 2328 := by decide +kernel
theorem image_take (a n : Nat) (h : a + n ≤ 6552) : sImg.take a n = sub image a n := by
  have hl := image_length.1
  have := State.readLocal_writeLocal sHost image 0 a n (by decide) (by omega) (by omega)
  rw [Nat.zero_add] at this
  unfold State.take
  rw [if_pos (by simp [State.holds]; omega)]
  exact this
theorem image_read : sImg.readImage 0 4224 = part0 := by
  obtain ⟨hl, h1, h2, h3⟩ := image_length
  have a1 : sImg.take 0 4096 = imgHdr := by
    rw [image_take _ _ (by omega), image, sub_all _ _ _ h1]
  have a2 : sImg.take 4096 80 = imgTable := by
    rw [image_take _ _ (by omega), image, sub_right _ _ _ _ (by omega), h1, sub_all _ _ _ h2]
  have a3 : sImg.take 4224 2328 = imgPart := by
    rw [image_take _ _ (by omega), image, sub_right _ _ _ _ (by omega), sub_right _ _ _ _ (by omega),
      sub_right _ _ _ _ (by rw [List.length_replicate, h1, h2]), h1, h2, List.length_replicate, sub, List.drop_zero,
      List.take_of_length_le (by omega)]
  have a4 : sImg.takeUpTo 4232 2 = [0, 0] := by
    have : sImg.takeUpTo 4232 2 = sImg.take 4232 2 := by simp [State.takeUpTo, State.take, State.holds]
    rw [this, image_take _ _ (by omega)]; decide +kernel
  have r1 : recField imgHdr 12 2 = 0 := by decide +kernel
  have r2 : recField imgHdr 32 8 = 4096 := by decide +kernel
  have r3 : recField imgHdr 4032 8 = 0 := by decide +kernel
  have e1 : (((List.range 1).map fun i => sub imgTable (80 * i) 80).find? fun e => decide (recField e 0 2 = recField [0, 0] 0 2)).getD [] =
      imgTable := by
    have : sub imgTable 0 80 = imgTable := by rw [sub, List.drop_zero, List.take_of_length_le (by omega)]
    have z : recField imgTable 0 2 = recField [0, 0] 0 2 := by decide +kernel
    simp [this, z]
  have r4 : recField imgTable 16 8 = 2328 := by decide +kernel
  have r5 : (List.range (recField imgPart 10 2)).map (sectOf imgPart) = [⟨0, 1, 0, true, 280, 2048⟩] := by decide +kernel
  have h6 : (decide (2328 < 256) || !sImg.holds 4224 2328) = false := by simp [State.holds]
  simp only [State.readImage, a1, r1, r2, r3, show shapeParts 0 = 1 from rfl, Nat.zero_add, Nat.mul_one, a2, a4, e1, r4, a3, h6,
    Bool.false_eq_true, if_false, r5]
  simp [part0, State.holds]
/-- A state with another memory passes the same checks. -/
theorem stages_memory (s : State) (m : List Host.Cell) (u : List UndefRange) (k : List (Nat × Bool)) (x : List Nat) (p : Part) (n : Nat) (l : List (BitVec 128)) :
    let t := withMem s m u k x
    t.stage1 p = s.stage1 p ∧ t.stage3 p = s.stage3 p ∧ t.stage4 p = s.stage4 p ∧ t.stage5 p n = s.stage5 p n ∧
    t.stage6 p = s.stage6 p ∧ t.relocBad p l = s.relocBad p l := ⟨rfl, rfl, rfl, rfl, rfl, rfl⟩
theorem image_frame : ∃ m u k x, sImg = withMem sHost m u k x := State.writeLocal_eq _ _ _
theorem image_accepted : sImg.checkLoad (sImg.readImage 0 4224) 0 [] = .ok (part0, part0.regions) := by
  rw [image_read]
  obtain ⟨m, u, k, x, e⟩ := image_frame
  obtain ⟨e1, e3, e4, e5, e6, e8⟩ := stages_memory sHost m u k x part0 0 []
  rw [← e] at e1 e3 e4 e5 e6 e8
  have c1 : sHost.stage1 part0 = none := by decide +kernel
  have c2 : part0.stage2 = none := by
    have b1 : refuse (part0.headerBad || part0.tableBad || !part0.inMem || part0.partBad) 2 0x10 = none := by decide +kernel
    have b2 : (part0.sects.map fun x => refuse (part0.sectBad x) 2 0x12 (det x 0)) = [none] := by decide +kernel
    have b3 : refuse ((part0.sect 1 0).isNone || part0.bytes.length < 256 + 24 * part0.sects.length) 2 0x12 = none := by decide +kernel
    rw [Part.stage2, b1, b2, b3, image_digest]
    simp [firstOf, refuse]
  have c3 : sHost.stage3 part0 = none := by decide +kernel
  have c4 : sHost.stage4 part0 = none := by decide +kernel
  have c5 : sHost.stage5 part0 0 = none := by decide +kernel
  have c6 : sHost.stage6 part0 = none := by decide +kernel
  have c7 : part0.stage7 = none := by decide +kernel
  have c8 : sHost.relocBad part0 [] = none := by decide +kernel
  have c9 : part0.stage8 part0.regions = .ok part0 := by
    have : part0.sect 0x0B 0 = none := by decide +kernel
    rw [Part.stage8, this]
  have rr : relocated part0.regions ([].filterMap relocEntry) = part0.regions := by decide +kernel
  rw [State.checkLoad, e1, e3, e4, e5, e6, e8, c1, c2, c3, c4, c5, c6, c7, c8]
  simp only [firstOf, List.findSome?, id, rr, c9]
theorem withMem_fields (s : State) (m : List Host.Cell) (u : List UndefRange) (k : List (Nat × Bool)) (x : List Nat) :
    (withMem s m u k x).host = s.host ∧ (withMem s m u k x).mod = s.mod ∧ (withMem s m u k x).filling = s.filling := ⟨rfl, rfl, rfl⟩
/-- The image is accepted; before anything is written there, the same LOAD is refused at stage 1. -/
theorem witness_loadProceed :
    (sImg.host.loadRec = some ((0 : HostId).val, (0 : RingId).val) ∧ sImg.host.loadFr = some load0 ∧ sImg.filling = false ∧
      sImg.mod.mgmt = true ∧ load0.f 32 2 ≤ ([] : List (BitVec 128)).length ∧ load0.opt % 2 = 0 ∧
      sImg.checkLoad (sImg.readImage (load0.f 8 8) (load0.f 16 8)) (load0.f 34 1) (List.take (load0.f 32 2) []) = .ok (part0, part0.regions)) ∧
    (sLost.host.loadRec = some (0, 0) ∧ sLost.host.loadFr = some load0 ∧ sLost.filling = false ∧ sLost.mod.mgmt = true ∧
      sLost.checkLoad (sLost.readImage (load0.f 8 8) (load0.f 16 8)) (load0.f 34 1) (List.take (load0.f 32 2) []) = .error ⟨1, 0x01, 0, 0⟩) := by
  have f : load0.f 8 8 = 0 ∧ load0.f 16 8 = 4224 ∧ load0.f 34 1 = 0 ∧ load0.f 32 2 = 0 ∧ load0.opt % 2 = 0 := by decide +kernel
  obtain ⟨f1, f2, f3, f4, f5⟩ := f
  have h : sHost.host.loadRec = some (0, 0) ∧ sHost.filling = false ∧ sHost.mod.mgmt = true := by decide
  refine ⟨?_, h.1, rfl, h.2.1, h.2.2, ?_⟩
  · obtain ⟨m, u, k, x, e⟩ := image_frame
    obtain ⟨a, b, c⟩ := withMem_fields sHost m u k x
    rw [← e] at a b c
    rw [f1, f2, f3, f4, List.take_nil, a, b, c]
    exact ⟨h.1, rfl, h.2.1, h.2.2, Nat.zero_le _, f5, image_accepted⟩
  · have s1 : ∀ p, sLost.stage1 p = some ⟨1, 0x01, 0, 0⟩ := fun _ => rfl
    unfold State.checkLoad
    rw [s1]
    simp [firstOf]

/-- A job is loaded; the same with a hall time for the coordinated form. -/
def loaded0 (r : FetchedRec) : State := { front r with time.loaded := true }
theorem witness_load :
    (front load0).Accepts 0 0 3 load0 ∧ (front load0).host.jc = none ∧ (front load0).time.loaded = false ∧
    (loaded0 load0).Accepts 0 0 3 load0 ∧ (loaded0 load0).time.loaded = true := by
  unfold State.Accepts State.Front; decide +kernel
theorem witness_start :
    let a := fr 4 1 0 0
    (loaded0 a).Accepts 0 0 4 a ∧ (loaded0 a).time.running = false ∧ (loaded0 a).host.jc = none ∧
    (loaded0 a).job.faultSc = none ∧ (loaded0 a).job.coordWait = none ∧ (loaded0 a).job.resume = none ∧ a.opt % 2 = 0 ∧
    (front a).Accepts 0 0 4 a ∧ (front a).time.loaded = false := by
  unfold State.Accepts State.Front; decide +kernel
/-- The start time passed, and still to come. -/
theorem witness_startTogether : ∀ h ∈ [2559, 2560],
    let c := fr 4 1 1 0
    let s := { loaded0 c with fab := { (loaded0 c).fab with htcValid := true, start := 2560, htc := h } }
    s.Accepts 0 0 4 c ∧ s.time.loaded = true ∧ s.time.running = false ∧ s.job.coordWait = none ∧ s.job.faultSc = none ∧ c.opt % 2 = 1 ∧ s.fab.start.toNat % 2560 = 0 ∧
    s.fab.htcValid = true ∧ (s.fab.htc < s.fab.start.toNat ↔ h = 2559) := by
  unfold State.Accepts State.Front; decide +kernel
theorem witness_kill :
    let k := fr 5 1 0 0
    (front k).Accepts 0 0 5 k ∧ (front k).rcv.disBay.getLsbD 7 = false ∧
    (front k).time.loaded = false ∧ (loaded0 k).Accepts 0 0 5 k ∧ (loaded0 k).time.loaded = true ∧ (fr 5 1 1 0).opt % 2 = 1 := by unfold State.Accepts State.Front; decide +kernel
/-- Bay 7 is being cleared. -/
def clearing : State := { hostUp with bays := [(7, { (default : BayState) with lineActive := true, bbActive := true, ntActive := true })] }
theorem witness_fills :
    let k := fr 5 1 0 0
    let s := { begun k with host.killRec := [(0, 0)], bays := clearing.bays }
    State.MemCanon s ∧ s.host.killRec = [((0 : HostId).val, (0 : RingId).val)] ∧ (s.sq 0 0).cur = some ⟨k, none⟩ ∧ k.quiet = false ∧
    (s.bay 7).bbActive = true ∧ (s.bay 7).clrSlices.contains (bbSlice 0x3FFFFFF) = false ∧ State.MemCanon clearing ∧
    (clearing.bay 7).clrSlices.contains (63 : Fin 64).val = false ∧ clearing.mod.mgmt = true ∧ clearing.lineFilling ((7 : BayId) * 64 + (63 : Fin 64)) = true ∧
    clearing.lineFilling ((0 : BayId) * 64 + (0 : Fin 64)) = false ∧ (clearing.bay 0).bbActive = false ∧
    (clearing.bay ((255 : Fin 256) / 32)).ntActive = true ∧ (clearing.bay ((255 : Fin 256) / 32)).ntDone.contains 255 = false ∧
    (clearing.bay ((0 : Fin 256) / 32)).ntActive = false := by unfold State.MemCanon; decide +kernel
/-- Four commit slots of 2 GiB in a granary of one DIMM. -/
def slots0 (s : State) : State :=
  { s with
    gr := { s.gr with dimms := [(0, ⟨1, 0, true, true⟩)], pop := [0] }
    rcv := { s.rcv with slotsz := 2048, slotA := 0x20000000000, slotB := 0x20080000000, bslot0 := 0x20100000000, bslot1 := 0x20180000000 } }
theorem witness_snapshotRecord : ∀ n ∈ [fr 7 1 0 0, fr 7 1 8 (2 ^ 64 * 9)],
    let s := slots0 { front n with time.running := true }
    s.Accepts 0 0 7 n ∧ s.host.jc = none ∧ n.quiet = false ∧ s.time.running = true ∧ s.rcv.snap = none ∧ s.areasBad = false ∧
    { front n with time.running := true }.areasBad = true := by
  unfold State.Accepts State.Front; decide +kernel
theorem witness_jobRecords :
    let h := fr 6 1 0 9
    let n := fr 7 1 8 (2 ^ 64 * 9)
    let a := { front h with time.running := true }
    a.Accepts 0 0 6 h ∧ a.host.jc = none ∧ a.time.running = true ∧ (front h).time.running = false ∧ h.quiet = false ∧
    (front h).Accepts 0 0 6 h ∧ (front n).Accepts 0 0 7 n ∧ (front n).time.running = false ∧ n.opt / 8 % 2 = 1 ∧
    (fr 7 1 0 0).opt / 8 % 2 = 0 ∧ n.quiet = false := by unfold State.Accepts State.Front; decide +kernel
theorem witness_jobEnd :
    let s := { s0 with lines := [(0, lineQ .vx fun z => { z with ended := true })] }
    let e := { LineState.idle with hasLine := true, queues := [(0, { z0 with ended := true })] }
    (sL e).partDone = true ∧ (sL e).job.faultSc = none ∧ s.partDone = false ∧ s0.partDone = false ∧
    { hostUp with job.faultSc := some 5 }.job.faultSc = some 5 ∧ hostUp.time.running = false ∧ hostUp.job.endPosted = false ∧
    hostUp.mod.mgmt = true ∧ hostUp.job.faultSc = none ∧ State.reset.mod.mgmt = false := by decide
theorem witness_attest :
    let r := fr 10 1 0 (64 + 2 ^ 64 * 9229)
    let s := { begun r with host.attest := [((0, 0), 64, [0])] }
    let c := { hostUp with host.attest := [((1, 16), 64, [0])] }
    (front r).Accepts 0 0 10 r ∧ (s.sq 0 0).cur = some ⟨r, none⟩ ∧ r.typ = 10 ∧ r.quiet = false ∧ (s.sq 0 0).queue = [] ∧
    s.host.attest = [(((0 : HostId).val, (0 : RingId).val), 64, [0])] ∧
    c.host.attest = [(((1 : HostId).val, 16), 64, [0])] ∧ c.portDown (1 : HostId) = true ∧ hostUp.host.attest = [] := by
  unfold State.Accepts State.Front; decide +kernel
/-- A package of no bytes is not well formed; the good one is as long as the record says. -/
theorem witness_fwupd (hv : ∀ m g, Config.verify fwKey (ascii "AW8-FW") m g = true) :
    let r := fr 11 1 0 (64 + 2 ^ 64 * 12289)
    let s := { front r with sec.vkd := hostFw.sec.vkd }
    let e := fr 11 1 0 64
    let c := fr 11 1 1 0
    let o := { begun r with sec.vkd := hostFw.sec.vkd, host.fwRec := some ((0, 0), r), host.jc := some (0, 0) }
    (s.Accepts 0 0 11 r ∧ s.host.jc = none ∧ r.quiet = false ∧ r.opt % 2 = 0 ∧ r.f 16 8 = 12289 ∧
      (front e).Accepts 0 0 11 e ∧ e.f 16 8 = 0 ∧ (front e).pkgCode [] = some 1 ∧ (front c).Accepts 0 0 11 c ∧ c.opt % 2 = 1 ∧
      c.quiet = false ∧ ([] : List Byte).length < r.f 16 8 ∧
      o.host.fwRec = some (((0 : HostId).val, (0 : RingId).val), r) ∧ o.host.jc = some (0, 0) ∧ (o.sq 0 0).cur = some ⟨r, none⟩) ∧
    (front c).sec.flashA.state ≠ 2 ∧ (front c).sec.flashB.state ≠ 2 ∧
    { front c with sec.flashB := FlashSlot.written 2 0 [] }.sec.flashB.state = 2 ∧
    pkg0.length = 12289 ∧ s.pkgCode pkg0 = none ∧ o.pkgCode pkg0 = none := by
  refine ⟨?_, ?_, ?_, written_state _ _ _, package_length, package_good _ rfl rfl rfl hv, package_good _ rfl rfl rfl hv⟩
  · unfold State.Accepts State.Front; decide +kernel
  · rw [empty_state _ rfl]; decide
  · rw [empty_state _ rfl]; decide

/-! #### Mailboxes, owner commands, registers -/

def boxed (b : MailboxId) (m : Mailbox) : State := { hostUp with host.boxes := [(boxKey b, m)] }
def box0 : Mailbox := { (default : Mailbox) with allow := 0xF }
theorem witness_mailboxes :
    let b : MailboxId := .open_ 0
    let idle := boxed b box0
    let claimed := boxed b { box0 with st := 1, src := 0 }
    let full := boxed b { box0 with st := 2, src := 0, db := 3 }
    endOf b (.host 1) = none ∧ endOf b (.host 0) = some false ∧ endOf b .mgmt = some true ∧ endOf (.internal 3) (.firmware 7) = some false ∧
    idle.endDead b (!false) = false ∧ idle.srcId (.host 0) = 0 ∧ (idle.box b).allow.getLsbD 0 = true ∧ (idle.box b).st = 0 ∧
    (boxed b default).box b = default ∧ (default : Mailbox).allow.getLsbD 0 = false ∧ (full.box b).st = 2 ∧ (claimed.box b).st = 1 ∧
    (full.box b).src = full.srcId (.host 0) ∧ (idle.box b).cutOff = none ∧
    ((boxed b { box0 with cutOff := some 0 }).box b).cutOff = some (idle.srcId (.host 0)) ∧ (1 : W32) ≠ 0 ∧
    { claimed with mod.mgmt := false }.endDead b (!false) = true ∧
    (claimed.box b).src = claimed.srcId (.host 0) ∧ claimed.endDead b (!true) = false ∧
    { claimed with host.ports := [] }.endDead b (!true) = true ∧ idIsMgmt (full.box b).src = !true ∧
    (full.box b).db &&& ~~~(1 : W32) ≠ 0 ∧ (full.box b).db &&& ~~~(3 : W32) = 0 ∧
    { idle with mod.mgmt := false }.endDead b (!false) = true ∧ (idle.box b).deadMode = false := by decide

/-- A command block with a code, a slot and a signer, and `n` zero bytes behind its head. -/
def block (code slot signer : Byte) (n : Nat) : List Byte :=
  ascii "AWOWNCMD" ++ [code, slot, signer, 0] ++ List.replicate (52 + n) 0
/-- It is posted on the owner's secure mailbox; the keys are those given. -/
def posted (keys : Tbl (List Byte)) (code n : Nat) : State :=
  { boxed (.secure 0) { box0 with st := 2, src := 0, db := 1, msg := [(0, BitVec.ofNat 32 code), (3, BitVec.ofNat 32 (64 + n))] } with
    sec.keys := keys }
theorem witness_blocksPosted : ∀ e ∈ [(1, 1952), (1, 5261), (2, 3309), (3, 3309), (4, 3309), (5, 0)],
    let s := posted [] e.1 e.2
    let b := block (BitVec.ofNat 8 e.1) 0 0 e.2
    s.mod.mgmt = true ∧ s.host.owner = (0 : HostId).val ∧ s.postedLen (.secure 0) = b.length ∧ s.endDead (.secure 0) false = false ∧
    s.posted (.secure 0) (0 : HostId).val e.1 = true ∧ hostUp.mod.mgmt = true ∧ (hostUp.box (.secure 0)).st ≠ 2 := by decide +kernel
theorem witness_unsigned :
    let s := posted [] 1 1952
    s.blockStatus (block 1 0 0xFF 1952) 1 1952 (if s.sec.keys ≠ [] then 2 else if s.time.loaded then 4 else 0)
      (if (s.sec.keys.find (recField (block 1 0 0xFF 1952) 9 1)).isSome then 4 else 0) = 0 ∧
    s.blockStatus (block 5 0 0xFF 0) 5 0 0 0 = 0 ∧ s.blockStatus (block 2 0 0xFF 0) 2 0 2 0 = 2 := by decide +kernel
/-- Signed with the key in slot 0, where the signature verifies. -/
theorem witness_signed (hv : ∀ m g, Config.verify fwKey (ascii "AW8-OWNER") m g = true) :
    let s := posted [(0, fwKey)] 1 0
    (∀ c ∈ [2, 3, 4], s.blockStatus (block (BitVec.ofNat 8 c) 0 0 3309) c 0 2 0 = 0) ∧
    s.blockStatus (block 1 1 0 5261) 1 1952 2 0 = 0 ∧ s.blockSigned (block 1 1 0 5261) 1952 = true := by
  have v : ∀ (b : List Byte) (n : Nat), recField b 10 1 = 0 → (posted [(0, fwKey)] 1 0).blockSigned b n = true := by
    intro b n h
    unfold State.blockSigned
    rw [h, show (posted [(0, fwKey)] 1 0).sec.keys.find 0 = some fwKey from rfl]
    simp [hv]
  have st : ∀ (c n k : Nat) (b : List Byte), c ≠ 5 → blockMalformed b c n = false → recField b 16 8 = 0 → recField b 10 1 = 0 →
      recField b 12 4 = 0 → (posted [(0, fwKey)] 1 0).blockStatus b c n k 0 = 0 := by
    intro c n k b h5 h1 h2 h3 h4
    unfold State.blockStatus
    rw [v b n h3]
    have a : (posted [(0, fwKey)] 1 0).part.serial.toNat = 0 ∧ (posted [(0, fwKey)] 1 0).sec.ownCtr = 0 := by decide
    simp [h1, h2, h3, h4, a.1, a.2, h5]
  have w : ∀ c ∈ [2, 3, 4], c ≠ 5 ∧ blockMalformed (block (BitVec.ofNat 8 c) 0 0 3309) c 0 = false ∧
      recField (block (BitVec.ofNat 8 c) 0 0 3309) 16 8 = 0 ∧ recField (block (BitVec.ofNat 8 c) 0 0 3309) 10 1 = 0 ∧
      recField (block (BitVec.ofNat 8 c) 0 0 3309) 12 4 = 0 := by decide +kernel
  have x : blockMalformed (block 1 1 0 5261) 1 1952 = false ∧ recField (block 1 1 0 5261) 16 8 = 0 ∧
      recField (block 1 1 0 5261) 10 1 = 0 ∧ recField (block 1 1 0 5261) 12 4 = 0 := by decide +kernel
  exact ⟨fun c hc => have ⟨a, b, d, e, f⟩ := w c hc; st c 0 2 _ a b d e f, st 1 1952 2 _ (by decide) x.1 x.2.1 x.2.2.1 x.2.2.2, v _ _ x.2.2.1⟩

theorem witness_reaches : hostUp.isOwner (.host 0) = true ∧ ∀ o ∈ [0x1700600, 0x10020, 0x1000C, 0x20010, 0x20028, dieReg 7 0x4C, dieReg 7 0x5C,
    dieReg 0 0x208, 0x1400008, 0x1400020, dieReg 0 0x804, dieReg 0 0x808, dieReg 0 0x840], hostUp.Reaches (.host 0) o := by
  unfold State.Reaches; decide
theorem witness_registers :
    let o := { hostUp with sec.unlocked := true }
    o.Reaches .debug 0x1700600 ∧ hostUp.isOwner (.host 1) = false ∧ (0 : W32).toNat = hostUp.hrv.seq ∧ (1 : W32).toNat ≠ hostUp.hrv.seq ∧
    onBus .bmc = false ∧ { s0 with dbg := ⟨false, some 8⟩ }.eightBefore 8 = true ∧ { s0 with dbg := ⟨false, some 8⟩ }.dbg.stepTo = some 8 ∧
    hostUp.dbg.stepTo = none ∧ s0.eightBefore 9 = false ∧ hostUp.live = false ∧ { hostUp with time.running := true }.live = true := by
  unfold State.Reaches; decide

/-! #### Disables, pulls, windows -/

theorem witness_disables :
    let q := { hostUp with rcv.disreq := 0x101, fab.disreq := 1 }
    let g := { (sI line0) with time.loaded := true, host := hostUp.host, mod := hostUp.mod }
    q.disWaits (.bay 0) = true ∧ q.disWaits (.channel 0) = true ∧ q.disWaits (.port 0) = true ∧ q.time.running = false ∧
    q.idleFunc (.bay 0) = true ∧ q.idleFunc (.channel 0) = true ∧ q.idleFunc (.port 0) = true ∧ hostUp.disWaits (.bay 0) = false ∧
    (0x8000000 : W32) = (1 : W32) <<< funcIx (.port 11) ∧ hostUp.isDisabled (.port 11) = false ∧
    { hostUp with fab.disabled := 0x800 }.isDisabled (.port 11) = true ∧ g.jobUses (.bay 0) = true ∧ g.job.faultSc = none ∧
    g.job.faults = [] ∧ g.OwnerReaches (.host 0) (dieReg 0 0x808) ∧ (1 : W32) = (1 : W32) <<< funcIx (.bay 0) := by
  unfold State.OwnerReaches State.Reaches; decide
/-- The commit record of a replica of one byte for coordinate 0, COMMITTED. -/
def replBody : List Byte :=
  (List.replicate 10 0 ++ [2] ++ List.replicate 85 0 ++ leBytes 8 1 ++ List.replicate 8 0) ++ (leBytes 64 (shake512 [0]).toNat ++ List.replicate 3856 0)
def replica : List Byte := sealRecord replBody
theorem witness_pull :
    let s := hostUp
    s.isOwner (.host 0) = true ∧ s.slotsBusy = false ∧ recState replica = 2 ∧ recField replica 12 2 = s.coord.toNat ∧
    recField replica 96 8 = ([0] : List Byte).length ∧ recField replica 112 64 = (shake512 [0]).toNat ∧ recState [] ≠ 2 ∧
    { s with rcv.pullAct := true }.rcv.pullAct = true ∧ s.rcv.pullAct = false ∧ s.isOwner (.host 1) = false := by
  have hl : replBody.length = 4032 := by decide +kernel
  have f : (replBody.getD 10 0).toNat = 2 ∧ recField replBody 12 2 = 0 ∧ recField replBody 96 8 = 1 := by decide +kernel
  have s1 : ∀ o n, o + n ≤ 4032 → recField replica o n = recField replBody o n := fun o n h => by
    rw [recField_eq_sub, recField_eq_sub, replica, sealRecord, sub_left _ _ _ _ (by omega)]
  have s2 : recField replica 4032 64 = (shake512 replBody).toNat := by
    have := recField_digest (shake512 replBody) replBody [] 4032 hl
    rwa [List.append_nil] at this
  have s3 : recState replica = 2 := by
    have g : (replica.getD 10 0).toNat = 2 := by
      rw [replica, sealRecord, List.getD_append _ _ _ _ (by omega)]; exact f.1
    have t : replica.take 4032 = replBody := by
      rw [replica, sealRecord, List.take_append_of_le_length (by omega), List.take_of_length_le (by omega)]
    unfold recField at s2
    unfold recState
    rw [g, t, s2]
    simp
  have s4 : recField replBody 112 64 = (shake512 [0]).toNat := recField_digest _ _ _ _ (by decide +kernel)
  refine ⟨by decide, by decide, s3, ?_, ?_, ?_, by decide +kernel, rfl, by decide, by decide⟩
  · rw [s1 _ _ (by omega), f.2.1]; decide
  · rw [s1 _ _ (by omega), f.2.2]; rfl
  · rw [s1 _ _ (by omega), s4]
theorem witness_access :
    let n : State := { State.reset with sec.unlocked := false }
    hostUp.tapOpen (.host 0) = true ∧ hostUp.readStopped (.host 0) 0x18 = false ∧ hostUp.pair64 0x18 = some 0 ∧
    onBus (.host 0) = true ∧ (0x18 : BitVec 25).toNat % 4 = 0 ∧ (0x20 : BitVec 25).toNat % 4 = 0 ∧ hostUp.host.hiBuf = [] ∧
    hostUp.readStopped (.host 0) 0x20 = false ∧ hostUp.pair64 0x20 = none ∧ hostUp.readStopped (.host 0) 0x1C = false ∧
    hostUp.pair64 0x1C = none ∧ { hostUp with host.hiBuf := [(.host 0, 0x1C, 5)] }.host.hiBuf = (.host 0, 0x1C, 5) :: [] ∧
    ({ hostUp with time.running := true, sec.unlocked := true }).readStopped .debug 0x18 = true ∧
    n.tapOpen .debug = false ∧ (0x18100000000 : BitVec 42).toNat < 0x18300000000 ∧
    hostUp.against (hostUp.closedFor (.host 0) false) 0x18100000000 64 = none ∧ hostUp.marks = [] ∧
    hostUp.against (hostUp.closedFor (.host 0) true) 0x1810005FFC0 64 = none ∧
    hostUp.areaOf 0x1810005FFC0 64 = some (.ls 0) ∧ (Area.ls 0).slotted = false ∧
    hostUp.areaOf 0 64 = some .near ∧ hostUp.against (hostUp.closedFor (.host 0) true) 0 64 = none ∧
    (0x17FFFFFFFFF : BitVec 42).toNat < 0x18100000000 ∧ hostUp.tapOpen .mgmt = true ∧
    { hostUp with sec.unlocked := true }.tapOpen .debug = true ∧ (0x18 : BitVec 25).toNat % 8 = 0 ∧ endOf (.open_ 0) (.host 0) = some false ∧
    (hostUp.box (.secure 0)).allow.getLsbD 0 = false ∧ (hostUp.line 0).ls.held = [] ∧ State.MemCanon hostUp ∧
    hostUp.against (hostUp.closedFor (.host 0) true) 0x1810005FFC0 65 ≠ none ∧
    hostUp.against (hostUp.closedFor (.host 0) false) 0x182FFFFFFFF 1 ≠ none := by unfold State.MemCanon; decide
theorem witness_bar4 :
    let s := { hostUp with coordOk := true }
    let r := { hostUp with host.ports := hostUp.host.ports.upd 0 default fun h => { h with b4Base := 0x400000000000000 } }
    let w := { s with host.ports := hostUp.host.ports.upd 0 default fun h => { h with b4Base := 0x18100000000 } }
    hostUp.coordOk = false ∧ s.areaOf (0 % 2 ^ 42) 64 = some .near ∧ s.against (s.closedFor (.host 0) true) (0 % 2 ^ 42) 64 = none ∧
    w.mod.mgmt = true ∧ w.against (w.closedFor (.host 0) false) ((w.hp 0).b4Base.toNat % 2 ^ 42) 64 = none ∧
    w.areaOf ((w.hp 0).b4Base.toNat % 2 ^ 42) 64 = some (.ls 0) ∧ w.coordOk = true ∧ w.marks = [] ∧
    (w.hp 0).b4Base.toNat / w.bar4Size * w.bar4Size + 0 = 0x18100000000 ∧ 0x18100000000 / 2 ^ 42 = w.coord.toNat ∧
    s.mod.mgmt = true ∧ (0 : BitVec 36).toNat + 64 ≤ s.bar4Size ∧ (s.hp 0).b4Base.toNat / s.bar4Size * s.bar4Size + 0 < 2 ^ 57 ∧
    0 / 2 ^ 42 = s.coord.toNat ∧ s.against (s.closedFor (.host 0) false) (0 % 2 ^ 42) 64 = none ∧ s.marks = [] ∧
    2 ^ 58 ≤ (r.hp 0).b4Base.toNat / r.bar4Size * r.bar4Size + 0 ∧ State.reset.mod.mgmt = false ∧
    ((3 : Fin 9) ≠ 4 ∧ (3 : Fin 9) ≠ 8) ∧ RegTarget.off (.bar0 2) % 4 ≠ 0 ∧ RegTarget.off (.bar0 4) % 8 ≠ 0 := by decide
/-- The worked fault record of R368: its first seven words. -/
theorem test_fault_record_words :
    let u : UnitRef := { (default : UnitRef) with line := 234, station := 3, task := 0, pc := 6, valid := true }
    let r : FaultRec := { (default : FaultRec) with kind := 1, unit := u, sc := 315, cc := 315, expected := 0x37, observed := 0x36, coord := 0x8000 }
    (List.range 7).map (fun w => leNat (((r.body 0).drop (4 * w)).take 4)) =
      [0x00000101, 0x000646EA, 0x13B, 0, 0x13B, 0, 0x80003637] := by decide
/-- A read of SCH_HOLD_LEAD from reset answers 8, of MOD_ID 0x41570008 (Tables 1-11, 2-8). -/
theorem test_reset_registers :
    State.reset.readReg (.host 0) 0x2002C = 8 ∧ State.reset.readReg (.host 0) 0 = 0x41570008 := by decide

/-! #### Further clauses: the cc of a job, yield, tags, ports, slots, boundaries, links, rings, plain registers -/

/-- A step's next state, or the state itself where it stops. -/
def next (s : State) : State := match step s with | .next t => t | _ => s
/-- An unheld cc with a request of an expert's stack, and a held cc that begins a hold. -/
theorem witness_ccOfJob :
    let s := { s0 with time.reqs := [⟨1, .stack 0, some 9⟩] }
    let u := { s0 with time.hist := [0, 0, 0, 0, 0, 0, 0, 2] }
    s.pending = [] ∧ s.live = true ∧ s.dueBoundary = none ∧ s.job.coordWait = none ∧ s.job.startAt = none ∧ s.time.hist.getD 7 0 = 0 ∧
    (1 ∉ endCauses ∧ (⟨1, .stack 0, some 9⟩ : HoldReq).active s.time.now = true) ∧ (next s).time.running = true ∧
    (∀ r ∈ s.time.reqs, r.cause = 2 → r.active s.time.now = false) ∧
    (next s).time.cnt.hcEv.look 2 0 = s.time.cnt.hcEv.look 2 0 ∧ s.time.cnt.hcEv.look 2 0 < 0xFFFFFFFF ∧
    u.live = true ∧ u.dueBoundary = none ∧ u.time.hist.getD 7 0 ≠ 0 ∧ u.time.curHold = 0 ∧ (next u).time.running = true := by decide +kernel
/-- Task 0 waits for an entry of data queue 0, which is empty, and task 1 may issue, in a job in yield mode. -/
theorem witness_yield :
    let o : Outst := { (default : Outst) with instr := .vxDrop q0 (fo 8 0 0), done := 0, total := 1 }
    let s := { sL ((lineQ .vx fun z => { z with outst := some o }).updQ .vx 1 fun _ => z0) with time.yield := true }
    let q1 : Queue := ⟨0, 1⟩
    (s.line 0).rotTask .vx s.sc = some 0 ∧ s.dqFree .vx 0 0 o.instr 0 = false ∧ s.dqNext .vx 0 0 = some false ∧
    0 ≠ q1.task.val ∧ s.mayIssue .vx q1 (.lcset .vx q1 ⟨0, 0, 0, 0⟩) 0 = true ∧ s.CanIssue .vx q1 (.lcset .vx q1 ⟨0, 0, 0, 0⟩) ∧
    s0.CanIssue .vx q0 (.lcset .vx q0 ⟨0, 0, 0, 0⟩) ∧ (s0.line 0).rotTask .vx s0.sc = some q0.task.val := by
  unfold State.CanIssue; decide +kernel
/-- No beat in sc 0, a beat of another tag on stream 0, an entry of another tag, and an empty queue. -/
theorem witness_tags :
    let w := fo 0 4 0
    let b : Beat := { (default : Beat) with tag := 9, valid := true }
    let s := { sL { line0 with beats := [b] } with time.cnt.scc := 2 }
    s0.CanIssue .px q0 (.pxTld q0 w) ∧ (s0.line 0).beatAt 0 2 s0.sc = none ∧ s0.Repeats .px q0 ∧ s0.job.faults.length ≤ 11 ∧
    s.CanIssue .px q0 (.pxTld q0 w) ∧ (s.line 0).beatAt 0 2 s.sc = some b ∧ b.tag ≠ BitVec.ofNat 6 s.sc - 0 ∧ b.unconf = none ∧
    b.valid = true ∧
    (sDq 0).CanIssue .px q0 (.pxTld q0 (fo 8 4 0)) ∧ (sDq 0).time.yield = false ∧
    (((sDq 0).line 0).dq.look 0 default).ready (sDq 0).sc = some (default : DqEntry) ∧ (default : DqEntry).unconf = none ∧
    (default : DqEntry).tag ≠ BitVec.ofNat 6 (sDq 0).sc - 0 ∧
    s0.CanIssue .px q0 (.pxTld q0 (fo 8 4 0)) ∧ ((s0.line 0).dq.look 0 default).entries = [] := by
  unfold State.CanIssue State.Repeats; decide +kernel
/-- Data queue 0 of line 0 with one entry more than `n`. -/
def lineDq (n : Nat) : LineState := { line0 with dq := [(0, { (default : DataQueue) with entries := List.replicate n default ++ [default] })] }
theorem witness_dqFull :
    (((sL (lineDq 32)).line 0).dq.look 0 default).entries = List.replicate 32 default ++ [default] ∧
    (((sL (lineDq 31)).line 0).dq.look 0 default).entries = List.replicate 31 default ++ [default] ∧
    (List.replicate 32 (default : DqEntry)).length = 32 ∧ (List.replicate 31 (default : DqEntry)).length < 32 ∧
    (sL (lineDq 32)).time.yield = false ∧ (sL (lineDq 32)).time.running = true ∧ { s0 with time.yield := true }.time.yield = true ∧
    (sL (lineDq 32)).job.faultSc = none ∧ (sL (lineDq 32)).job.faults = [] := by decide +kernel
/-- A row of a held entry, unpowered rows aside: nothing of the job has failed. -/
theorem witness_drainFinding : s0.job.faultSc = none ∧ s0.job.faults = [] := ⟨rfl, rfl⟩
/-- The gleaner of local store 0 at a row that no entry holds, and a stack without a write-back. -/
theorem witness_gleanerOfLocalStore :
    let s := sL { line0 with ls := { (default : LsState) with pgOn := 15 } }
    s.glnFree (.ls 0) (s.glnNext (.ls 0)) false = true ∧ (∀ e ∈ (s.line 0).ls.held, e.2.addr ≠ 128 * (s.line 0).ls.glnRow) ∧
    (s.line 0).powered (128 * (s.line 0).ls.glnRow) = true ∧ (∀ w ∈ s.marks, w.2 = false) ∧ s0.nextFix (.nt 3) = none ∧
    (∀ c ∈ s.free, ¬(c.fix = true ∧ c.slice = 255)) := by decide
def lsUse (w : Bool) (a : Nat) : MemUse := { (default : MemUse) with owner := .ls 0, write := w, addr := a }
def bbUse (w : Bool) (a : Nat) : MemUse := { (default : MemUse) with owner := .bb 0, write := w, addr := a }
/-- Two reads of one port, a read beside a write, and reads of two bank pairs; the same at a slice of a bay buffer. -/
theorem witness_portCollisions : (∀ f ∈ [lsUse, bbUse], ∀ e ∈ [(false, 0), (true, 0), (false, 0x80)],
    let s := { s0 with uses := [f false 0, f e.1 e.2] }
    s.time.running = true ∧ s.uses = [f false 0, f e.1 e.2] ∧ (f e.1 e.2).due = s.sc ∧ (f e.1 e.2).slotted = false ∧
    (f e.1 e.2).owner = (f false 0).owner ∧ s.gShare ≤ s.sc % 16 ∧ s.job.faultSc = none ∧ s.job.faults = []) ∧
    (lsUse false 0).owner = .ls (0 : LineId).val ∧ (bbUse false 0).owner = .bb (0 : BayId).val ∧ pairOf 0 ≠ pairOf 0x80 ∧ bbSlice 0 ≠ bbSlice 0x80 := by
  decide
/-- A write past the region, one at a misaligned address; a copy with a destination past the region and a misaligned one. -/
theorem witness_localStore_faults : (∀ x ∈ [(129, false), (1, true)],
    (sI line0).CanIssue .ls q0 (.lsWr q0 (fm 8 0 0 0 false (BitVec.ofNat 21 x.1))) ∧
    (sI line0).CanIssue .ls q0 (.lsFill q0 (fm 4 0 0 0 false (BitVec.ofNat 21 x.1))) ∧
    (sI line0).CanIssue .ls q0 (.lsCopy q0 (fm 6 1 0 0 false (BitVec.ofNat 21 x.1))) ∧
    (sI line0).firstOffset .ls q0 (fm 8 0 0 0 false (BitVec.ofNat 21 x.1)) = x.1 ∧
    ((sI line0).region 0).allows 1 true x.1 = x.2 ∧ ((sI line0).region 0).allows 1 false x.1 = x.2) ∧
    (((sI line0).region 0).base + 1) % 128 ≠ 0 ∧ (sI line0).job.faults.length ≤ 11 := by
  unfold State.CanIssue; decide
def sCopy (n : Nat) : State := sI (lineQ .ls fun z => { z with ar := [(1, BitVec.ofNat 40 n)] })
theorem witness_localStore_copyFaults : ∀ x ∈ [(256, false), (1, true)],
    (sCopy x.1).CanIssue .ls q0 (.lsCopy q0 (fm 6 1)) ∧ (sCopy x.1).firstOffset .ls q0 (fm 6 1) = 0 ∧
    (((sCopy x.1).q .ls q0).ar.look 1 0).toNat = x.1 ∧ ((sCopy x.1).region 0).allows 1 true x.1 = x.2 ∧
    ((sCopy x.1).region 0).allows 1 false 0 = true := by
  unfold State.CanIssue; decide
/-- A running job of this refresh level and granary share. -/
def sNt (r g : Nat) : State := { sL line0 with time.loaded := true, job.img := some { img0 with refresh := r, gshare := g } }
/-- An access of line `l` to slice 0. -/
def ntAt (l : Nat) (w : Bool) : MemUse := { (default : MemUse) with owner := .nt 0, write := w, addr := 0x10000000000, unit := { (default : UnitRef) with line := l, valid := true } }
/-- A read and a write in a free slot, the slot reserved for refresh (line 1) and the one of the granary engines (line 0), two writes. -/
theorem witness_nearTierSlotAccess : (∀ r ∈ [1, 2], (sNt r 0).live = true ∧ (sNt r 0).held = false ∧ (sNt r 0).refLevel = r ∧
      (sNt r 0).gr.cur = none ∧ (∀ u ∈ (sNt r 0).uses, u.owner ≠ .nt 0)) ∧
    (let s := { sNt 1 0 with uses := [ntAt 0 false] }
     s.uses = [ntAt 0 false] ∧ (ntAt 0 false).due = s.sc ∧ (ntAt 0 false).slotted = false ∧ s.refreshSlot 0 0 s.sc = false ∧
     s.granarySlot 0 s.sc = false ∧ s.marks = [] ∧ s.place (ntAt 0 false) = some 0x100000000 ∧ s.job.faultSc = none ∧ s.job.faults = []) ∧
    (sNt 1 0).refreshSlot 0 1 (sNt 1 0).sc = true ∧ (sNt 1 1).granarySlot 0 (sNt 1 1).sc = true ∧ (ntAt 1 true).unit.line % 2 = 1 ∧
    (sNt 1 1).refLevel = 1 ∧ (sNt 1 1).live = true ∧
    (let s := { sNt 1 0 with uses := [ntAt 0 true, ntAt 2 true] }
     s.uses = [ntAt 0 true, ntAt 2 true] ∧ (ntAt 0 true).unit.line % 2 = (ntAt 2 true).unit.line % 2) ∧
    (sNt 1 0).tempLimit = some 85 ∧ (sNt 2 0).tempLimit = some 95 := by decide
/-- Three moves that want chunks: the one of the lowest DL, the earlier of equal ones. -/
theorem witness_chunkOrder :
    let y := { move0 4096 0 false with dl := 9 }
    let m := { move0 4097 4096 false with dl := 5 }
    let s := { s0 with gr.queue := [y, m, m] }
    s.gr.cur = none ∧ s.gr.abandoned = false ∧ s.gr.queue = [y] ++ m :: [m] ∧ m.moved < m.len ∧ m.dl < y.dl ∧ inGranary m.src = false := by decide
/-- A timeout that has been recorded. -/
theorem witness_holdTimeout_once : ∃ r ∈ ({ s0 with job.faults := [{ (default : FaultRec) with kind := 8 }] } : State).job.faults, r.kind = 8 :=
  ⟨_, List.mem_singleton.mpr rfl, rfl⟩
/-- A boundary 8 cc ahead that must be raised, with and without a snapshot; one with nothing to do; another cause active. -/
theorem witness_raise :
    let b := { bound0 with joined := 16 }
    let s := { s0 with time.cnt.scc := 1, hrv.bounds := [b] }
    let c := { bound0 with latched := true }
    let u := { s0 with time.cnt.scc := 1, hrv.bounds := [c] }
    s.hrv.bounds = [b] ∧ b.raised = false ∧ s.causes = 0 ∧ s.live = true ∧ s.scIn 8 = b.h + 9 ∧ s.needsHold b = true ∧ b.joined.getLsbD 4 = true ∧
    u.hrv.bounds = [c] ∧ u.causes = 0 ∧ u.scIn 8 = c.h + 9 ∧ c.latched = true ∧ c.joined.getLsbD 4 = false ∧
    { u with hrv.bounds := [bound0] }.needsHold bound0 = false ∧ (heldBy 2 .harvest u).causes ≠ 0 ∧ s0.scIn 8 ≠ b.h + 9 := by decide
/-- A due boundary on a line with counters: not raised, and raised; the event of its end. -/
def hostEvt : HostState :=
  { HostState.reset with ports := [(0, { HostPort.reset with up := true, evtCfg := 0x13, cqs := [(3, { (default : ComRing) with en := true, k := 6 })] })] }
theorem witness_boundaryEvent :
    let s := { sL { line0 with cnt := [(0, 5), (7, 2)] } with time.cnt.scc := 9, hrv.bounds := [bound0], host := hostEvt, hrv.ctrl := 1 }
    (bound0.raised || s.needsHold bound0) = false ∧ (s.line 0).cnt.rising = true ∧ s.hrv.ctrl.getLsbD 0 = true ∧ s.host.owner = (0 : HostId).val ∧
    (s.hp (0 : HostId)).evtCfg.getLsbD 4 = true ∧ ((s.hp (0 : HostId)).evtCfg.extractLsb' 0 4).toNat = 3 ∧ (s.cq 0 3).en = true ∧
    { s with hrv.ctrl := 0 }.hrv.ctrl.getLsbD 0 = false := by decide
/-- Everything joined but a snapshot: a code, the disable of port 3, a map-out and a power group of line 0. -/
def boundAll : Boundary := { bound0 with raised := true, latched := true, joined := 15, h := 4, at_ := 4 }
def lineAll : LineState :=
  { line0 with ls := { (default : LsState) with mapQueue := [(2, 5, 1)], pgReq := 5, pgReqValid := true, pgReqSc := 3, pgOn := 1 }, isBad := [2 * 4096 + 5 * 64 + 1, 3 * 4096] }
def sAll (ports : BitVec 12) : State :=
  heldBy 8 .harvest { sL lineAll with
    hrv.bounds := [boundAll], hrv.pend := 15, hrv.ctrl := 1, fab.disreq := ports, mod.mgmt := true, host := hostEvt
    pwr.bays := [(1, { (default : BayPower) with code := 72, next := 80, pend := true, since := 3, seen := true, margin := 3, peak := 700 })] }
theorem witness_boundaryActions_joined :
    let s := sAll 8
    let f : Func := .port 3
    s.hrv.bounds = [boundAll] ∧ boundAll.latched = true ∧ s.hasHold 8 .harvest = true ∧ s.job.faultSc = none ∧ State.MemCanon s ∧
    boundAll.joined.getLsbD 1 = true ∧ s.disablesAt boundAll.at_ = [f] ∧ s.idleFunc f = true ∧ (sAll 0).disablesAt boundAll.at_ = [] ∧
    (∃ g ∈ { sAll 8 with fab.ports := [(3, { (default : FabPort) with st := 5, resend := [default] })] }.disablesAt boundAll.at_,
      { sAll 8 with fab.ports := [(3, { (default : FabPort) with st := 5, resend := [default] })] }.idleFunc g = false) ∧
    boundAll.joined.getLsbD 2 = true ∧ s.lines = [(0, lineAll)] ∧ lineAll.ls.mapQueue = [(2, 5, 1)] ∧ 1 < boundAll.at_ ∧
    freeSpare (lineAll.ls.isMap.look 2 0) = some 0 ∧ boundAll.joined.getLsbD 3 = true ∧ lineAll.ls.pgReqValid = true ∧
    lineAll.ls.pgReqSc < boundAll.h ∧ lineAll.ls.pgOn.getLsbD 2 ≠ lineAll.ls.pgReq.getLsbD 2 ∧
    (s.bayPwr 1).pend = true ∧ (s.bayPwr 1).since < boundAll.at_ ∧ (s.bayPwr 1).seen = true ∧ (s.bayPwr 1).margin < 20 ∧ (s.bayPwr 1).code = 72 ∧
    ((List.range 8).map fun i => (s.bayPwr i).peak).sum = 700 ∧ boundAll.joined.getLsbD 4 = false ∧ s.hrv.ctrl.getLsbD 0 = true ∧
    (s.hp 0).evtCfg.getLsbD 4 = true ∧ (s.cq 0 3).en = true ∧
    { s with job.img := some { img0 with regions := [{ rg 4 0x20000000000 with kind := 6, size := 0x30000 }] } }.job.faultSc = none := by
  unfold State.MemCanon; decide
/-- A capture in progress whose moves are done, without and with a packet that stays away; a write and a commit. -/
theorem witness_snapshotCapture :
    let s := { s0 with rcv.snap := some { snap0 with phase := 1 } }
    s.rcv.snap = some { snap0 with phase := 1 } ∧ s.movesDone = true ∧ s.packetsHere = true ∧ s.marks = [] ∧ s.job.faultSc = none := by decide
/-- A buddy's slots: committed replicas stand in both; the second one elsewhere, where nothing is mapped. -/
def repBase (b : BitVec 42) : State := { hostUp with rcv := { hostUp.rcv with slotsz := 1, bslot1 := b } }
def sRep (b : BitVec 42) : State := (repBase b).writeLocal 0 replica
theorem replica_length : replica.length = 4096 := by
  have : replBody.length = 4032 := by decide +kernel
  rw [replica, sealRecord, List.length_append, this, length_leBytes]
theorem sRep_frame (b : BitVec 42) : ∃ m u k x, sRep b = withMem (repBase b) m u k x := State.writeLocal_eq _ _ _
theorem sRep_slot (b : BitVec 42) : (sRep b).slotRecord 2 = replica := by
  obtain ⟨m, u, k, x, e⟩ := sRep_frame b
  have hb : (sRep b).rcv.base 2 = 0 ∧ (sRep b).rcv.slotsz = 1 := by rw [e]; exact ⟨rfl, rfl⟩
  have hl := replica_length
  have r := State.readLocal_writeLocal (repBase b) replica 0 0 4096 (by rfl) (by omega) (by omega)
  rw [sub, List.drop_zero, List.take_of_length_le (by omega)] at r
  rw [State.slotRecord, hb.1, hb.2, if_neg (by decide)]
  exact r
theorem witness_buddySlots :
    recState ((sRep 0).slotRecord 2) = 2 ∧ recState ((sRep 0x30000000000).slotRecord 2) = 2 ∧
    recState ((sRep 0x30000000000).slotRecord 3) ≠ 2 ∧ recState (hostUp.slotRecord 2) ≠ 2 ∧ (sRep 0).rcv.slotsz ≠ 0 ∧
    hostUp.scanReady = false ∧ { hostUp with gr.dimms := [(0, ⟨1, 0, true, true⟩)], gr.pop := [0], mod.chReady := 1 }.scanReady = true := by
  refine ⟨by rw [sRep_slot]; exact witness_pull.2.2.1, by rw [sRep_slot]; exact witness_pull.2.2.1, ?_, by decide, ?_, by decide, by decide⟩
  · obtain ⟨m, u, k, x, e⟩ := sRep_frame 0x30000000000
    have p : (withMem (repBase 0x30000000000) m u k x).phys (0x30000000000 + 10) = none := rfl
    have z : ((sRep 0x30000000000).slotRecord 3).getD 10 0 = 0 := by
      rw [e, State.slotRecord, if_neg (by exact Nat.one_ne_zero), show (withMem (repBase 0x30000000000) m u k x).rcv.base 3 = 0x30000000000 from rfl,
        State.readLocal, List.getD_eq_getElem?_getD, List.getElem?_map, List.getElem?_range (by omega), Option.map_some, p]
      rfl
    rw [recState, z]
    decide
  · obtain ⟨m, u, k, x, e⟩ := sRep_frame 0
    rw [e]
    exact Nat.one_ne_zero
/-- A slot of a granary that lies within its capacity; the place that a buddy names for the one replica on its way. -/
theorem witness_replicationMessages :
    let s : State := { hostUp with gr.dimms := [(0, ⟨1, 0, true, true⟩)], gr.pop := [0]
                                   rcv := { hostUp.rcv with slotsz := 1, bslot0 := 0x20000000000, repl := some 5, sends := [⟨5, 0, none, 0, 0⟩] } }
    s.rcv.base s.buddySlot = 0x20000000000 ∧ State.MemCanon s ∧ replica.length = 4096 ∧
    0x20000000000 + 4096 ≤ 0x20000000000 + s.gr.capacity ∧ s.gr.pop.Nodup ∧ s.rcv.repl = some 5 ∧ s.rcv.sends = [⟨5, 0, none, 0, 0⟩] ∧
    hostUp.rcv.repl ≠ some 5 ∧ hostUp.rcv.inRepl = none := by
  refine ⟨by decide +kernel, by unfold State.MemCanon; decide, replica_length, by decide, by decide, rfl, rfl, by decide, rfl⟩
/-- A dynamic region that names a module outside the torus, one within it, and a region of a circuit. -/
theorem witness_offTorus :
    let s := { sFab true line0 with job.img := some { img0 with regions := [{ regionF true with circ := 0, dest := 1 }] } }
    let u := { sFab true line0 with job.img := some { img0 with regions := [{ regionF true with circ := 0 }] } }
    let w : FmtM := ⟨0, 8, 0, 1, false, 0, 0⟩
    s.CanIssue .pt q0 (.ptFput q0 w) ∧ s.Repeats .pt q0 ∧ s.predicted (s.ctx .pt q0 0 0) = false ∧ (s.region 0).offTorus s = true ∧
    (s.region 0).allows 5 true (s.firstOffset .pt q0 w) = true ∧ s.job.faults.length ≤ 11 ∧ (u.region 0).offTorus u = false ∧
    ((sFab true line0).region 0).offTorus (sFab true line0) = false := by unfold State.CanIssue State.Repeats; decide
/-- A port whose position of this cc holds a cell already; one that holds none. -/
theorem witness_positions :
    let s := { sFab false line0 with fab.ports := [(3, { port0 with posAt := 1, ctlAt := 1 })] }
    s.fab.htc = 0 ∧ s.positionFree 3 = false ∧ s.positionFree 4 = true ∧ s.position = some 0 ∧ (s.port 3).ctlAt = s.fab.htc / 10 + 1 ∧
    port0.ctlAt ≠ s.fab.htc / 10 + 1 ∧ (s.port 3).st = 5 ∧ { State.reset with fab.htc := 2557, fab.ports := [(0, port0)] }.positionFree 0 = true := by
  decide
/-- A credit cell at the command of another kind; identities with a coordinate, in discovery and after it. -/
theorem witness_controlCells_kinds :
    kf (cell 1 0x10002) 0 8 ≠ 0 ∧ kf (cell 0 0) 0 8 ≠ 1 ∧ kf (cell 0 0) 0 8 ≠ 2 ∧ kf (cell 0 0) 0 8 ≠ 3 ∧
    (let c := cell 3 (2 ^ 79)
     let s := { sFab false line0 with fab.ports := [(3, port0)], mod.sampled := true, mod.straps.coordMode := 1 }
     kf c 0 8 = 3 ∧ c.getLsbD 143 = true ∧ c.getLsbD 63 = false ∧ s.coordMode = true ∧ s.fab.taken = none ∧ s.fab.discDone = false ∧
     (∀ o, o < 12 → o ≠ 3 → s.portUp o = false) ∧ (s.port 3).st = 5 ∧ s.beside (BitVec.ofNat 15 (kf c 16 15)) 3 true ≠ 9) ∧
    kOk (cell 3 (2 ^ 79)) = true ∧ { State.reset with fab.taken := some 9 }.fab.taken = some 9 := by
  refine ⟨by decide +kernel, by decide +kernel, by decide +kernel, by decide +kernel, by decide +kernel, kOk_seal _ (by decide), rfl⟩
/-- A packet in transit to coordinate 1 of a torus of four modules in a ring, and a full buffer that answers coordinate 1. -/
theorem witness_transit :
    let s := { State.reset with coordOk := true, fab.shape := 3, fab.ports := [(4, port0)] }
    let k : Packet := ⟨mkHeader 2 1 0 none false 0 0 1 0 0 0, 0⟩
    let m : Packet := ⟨mkHeader 2 1 0 none false 0 1 0 0 0 0, 0⟩
    let u := { s with fab.recvBuf := List.replicate 64 m }
    (s.port 4).st = 5 ∧ (s.port 4).expect < 2 ^ 31 ∧ k.clean = true ∧ k.typ = 2 ∧ k.dst ≠ s.coord ∧ (s.port 4).decl ≤ (s.port 4).lat ∧
    (s.route k.src k.dst false (some (4, k.vc))).isSome = true ∧ m.clean = true ∧ m.typ = 2 ∧ m.dst = u.coord ∧ 64 ≤ u.fab.recvBuf.length ∧
    m.src ≠ u.coord ∧ (u.route u.coord m.src true none).isSome = true := by decide +kernel
/-- Lines of bay 0 whose matrix stations issue MX.MM in every sc. -/
def busy (n : Nat) : State :=
  let o : Outst := { (default : Outst) with instr := .mxMm q0 (fo 0 4 0x407F), done := 1, total := 4096 }
  { s0 with lines := (List.range n).map fun l => (l, lineQ .mx fun z => { z with outst := some o }) }
theorem witness_ramp : (busy 3).live = true ∧ (busy 3).causes = 0 ∧
    8 < ((List.range 8).map fun b => ((busy 3).demandAhead b - 6000 - (busy 3).sb b + 74) / 75).foldl max 0 := by decide +kernel
theorem witness_windowOfJob :
    let s := { hostUp with time.running := true }
    s.mod.rails = true ∧ s.time.running = true ∧ hostUp.time.running = false ∧
    ((List.range 8).map fun b => (s0.demandAhead b - 6000 - s0.sb b + 74) / 75).foldl max 0 ≤ 8 := by decide
theorem witness_vstby :
    State.reset.mod.standby = false ∧ { State.reset with mod.standby := true }.mod.vin = false ∧
    { State.reset with mod.standby := true, mod.vin := true }.mod.vin = true ∧ { hostUp with mod.bayReady := 0, fab.clk := true }.upAndManaged = true ∧
    (hostUp.bay 0).ntActive = false := by decide
/-- A boot ROM whose wait ends: with a package posted, with none, and with a mailbox that is not IDLE. -/
theorem witness_hostBootTimeout :
    let w : State := { hostFw with mod.bootWait := true }
    let m : Mailbox := { (default : Mailbox) with st := 2, db := 1, msg := [(0, 0xB0), (3, 12289)] }
    let s : State := { w with host.boxes := [(boxKey (.open_ 0), m)] }
    let u : State := { w with host.boxes := [(boxKey (.open_ 0), { (default : Mailbox) with st := 1 })] }
    s.mod.bootWait = true ∧ s.posted s.bootBox s.mod.straps.hostrole.toNat 0xB0 = true ∧ w.mod.tries = [] ∧
    w.posted w.bootBox w.mod.straps.hostrole.toNat 0xB0 = false ∧ u.posted u.bootBox u.mod.straps.hostrole.toNat 0xB0 = false ∧
    (u.box u.bootBox).st ≠ 0 ∧ u.mod.tries = [] := by decide
/-- A bay that is not ready: the management controller may reset it; it may not when the bay has been reset twice. -/
theorem witness_retrainBay :
    let s := { hostUp with mod.bayReady := 0xFE, fab.clk := true }
    let u := { s with mod.trains := [(0, 2)] }
    s.Reaches .mgmt (dieReg 0 0x840) ∧ s.upAndManaged = true ∧ s.mod.bayReady.getLsbD 0 = false ∧ s.rcv.disBay.getLsbD 0 = false ∧
    s.mod.trains.look 0 0 < 2 ∧ u.mayRetrain .mgmt 0 = false ∧ u.isOwner .mgmt = false ∧ hostUp.mayRetrain (.host 1) 0 = false := by
  unfold State.Reaches; decide
/-- Two units that are two records, or one; the port's MSI-X capability enabled, and held. -/
theorem witness_fetchTwo :
    let s := hostRing { ring0 with tail := 2 } cring0
    s.mod.mgmt = true ∧ (s.sq 0 0).en = true ∧ (s.sq 0 0).stopped = false ∧ (s.sq 0 0).queue = [] ∧ (s.sq 0 0).part = [] ∧ (s.sq 0 0).cur = none ∧
    (s.sq 0 0).head + 2 = (s.sq 0 0).tail ∧ (s.sq 0 0).tail < 2 ^ (s.sq 0 0).k ∧
    ((0x101 : BitVec 512).extractLsb' 0 8).toNat = 1 ∧ ((0x101 : BitVec 512).extractLsb' 8 5).toNat = 1 ∧
    ((0x201 : BitVec 512).extractLsb' 8 5).toNat = 2 ∧ ((0x201 : BitVec 512).extractLsb' 0 8).toNat = 1 ∧ s.ringTurn 0 0 = true := by decide +kernel
def msixPort (s : State) (v : W32) : State := { s with host.ports := s.host.ports.upd 0 default fun h => { h with config := [(0x04, 6), (0x50, v)], msix := [(0, 0)] } }
theorem witness_msix :
    let s := hostRing ring0 { cring0 with since := 1, wait := [(none, done0)] }
    ((msixPort s 0x80000000).hp 0).msixOn = true ∧ ((msixPort s 0x80000000).hp 0).msixHeld = false ∧
    (((msixPort s 0x80000000).hp 0).msix.look ((msixPort s 0x80000000).cq 0 0).vec 0).getLsbD 96 = false ∧
    max 1 ((msixPort s 0x80000000).cq 0 0).cnt ≤ ((msixPort s 0x80000000).cq 0 0).since + 1 ∧ (s.cq 0 0).wait = [(none, done0)] ∧
    ((msixPort s 0xC0000000).hp 0).msixHeld = true ∧ ((msixPort s 0xC0000000).hp 0).msixOn = true ∧ (s.hp 0).msixOn = false ∧
    (s.cq 0 0).due s.time.now = true ∧ ((msixPort s 0x80000000).cq 0 0).due s.time.now = true := by decide +kernel
/-- A copy from the host of which 64 bytes had come, to the near tier and to local store 0. -/
theorem witness_copyCut :
    let r := copyRec 0 0
    let l := copyRec 0 0x18100000000
    let d := List.replicate 64 (0 : Byte)
    (begun r).areaOf 0 128 = some .near ∧ Area.near.slotted = true ∧ min d.length 128 / 64 * 64 ≠ 0 ∧ r.opt % 2 = 0 ∧
    (begun l).areaOf 0x18100000000 128 = some (.ls 0) ∧ ((begun l).line 0).ls.held = [] ∧ State.MemCanon (begun l) := by
  unfold State.MemCanon; decide +kernel
/-- A START that has been accepted waits for its cc; a second one finds it. -/
theorem witness_startWaits :
    let a := fr 4 1 0 0
    let s := { begun a with time.loaded := true, job.startAt := some (1, 0), host.startRec := some (0, 0) }
    s.pending = [] ∧ s.time.running = false ∧ s.job.coordWait = none ∧ s.openBoundary = none ∧ s.host.hall = [] ∧ s.host.mem = [] ∧ s.free = [] ∧
    s.gr.cur = none ∧ (∀ p, p < 12 → (s.port p).delay = []) ∧ s.rcv.snap = none ∧ s.rcv.sends = [] ∧ s.job.startAt = some (s.time.now + 1, 0) ∧
    s.host.startRec = some ((0 : HostId).val, (0 : RingId).val) ∧ (s.sq 0 0).cur = some ⟨a, none⟩ ∧ a.quiet = false ∧
    { loaded0 a with job.startAt := some (1, 0) }.Accepts 0 0 4 a ∧ { loaded0 a with job.startAt := some (1, 0) }.job.startAt.isSome = true ∧
    (loaded0 a).job.startAt = none := by
  unfold State.Accepts State.Front; decide +kernel
/-- A LOAD with one relocation, and a slice whose clear has gone half the way. -/
theorem witness_loadReloc :
    let r := fr 3 3 0 (2 ^ 64 * 4224 + 2 ^ (8 * 24))
    (front r).Accepts 0 0 3 r ∧ r.f 32 2 = 1 ∧ (front load0).Accepts 0 0 3 load0 ∧ load0.f 32 2 = 0 := by
  unfold State.Accepts State.Front; decide +kernel
/-- Doorbell bits of a sender that a reset has cut off, whose receiver is dead; bits of another sender. -/
theorem witness_cutOff :
    let b : MailboxId := .open_ 0
    let s := { boxed b { box0 with cutOff := some 0 } with mod.mgmt := false }
    endOf b (.host 0) = some false ∧ (s.box b).st = 0 ∧ (s.box b).cutOff = some (s.srcId (.host 0)) ∧ s.endDead b (!false) = true ∧
    { boxed b { box0 with cutOff := some 1 } with mod.mgmt := true }.endDead b (!false) = false ∧
    ((boxed b { box0 with cutOff := some 1 }).box b).cutOff ≠ some ((boxed b { box0 with cutOff := some 1 }).srcId (.host 0)) := by decide
theorem witness_ownerBox : ((posted [] 1 1952).box (.secure 0)).allow.getLsbD ((posted [] 1 1952).srcId .mgmt) = true ∧ (posted [] 1 1952).sec.unlocked = false := by decide
/-- A holder that this module reaches along a ring of four. -/
theorem witness_pullAsks :
    let s := { hostUp with coordOk := true, fab.shape := 3, fab.ports := [(0, port0)], rcv.pull := 1 }
    s.Reaches (.host 0) (dieReg 0 0x840) ∧ s.isOwner (.host 0) = true ∧ s.slotsBusy = false ∧ s.rcv.pull.extractLsb' 0 15 ≠ s.coord ∧
    (s.route s.coord (s.rcv.pull.extractLsb' 0 15) true none).isSome = true ∧ { s with rcv.inRepl := some (5, 2) }.slotsBusy = true := by
  unfold State.Reaches; decide
/-- Plain registers of each kind, a read-only one, and an offset that a module without its firmware does not answer. -/
theorem witness_plainRegisters :
    (∀ o ∈ [0x1400000, 0x10018, 0x1001C, 0x10000, 0x4001C, 0x500800, 0x20000, 0], hostUp.Reaches (.host 0) o ∧ hostUp.Reaches (.host 1) o) ∧
    hostUp.isOwner (.host 0) = true ∧ hostUp.isOwner (.host 1) = false ∧ hostUp.time.loaded = false ∧ { hostUp with time.loaded := true }.time.loaded = true ∧
    onBus (.host 0) = true ∧ hostUp.tapOpen (.host 0) = true ∧ State.reset.answers (.host 0) 0x500000 = false ∧ State.reset.tapOpen (.host 0) = true ∧
    (0x10018 : BitVec 25).toNat % 8 = 0 ∧ (∃ a, exec (.registerWrite (.host 0) (.bar0 0x10018) 4 7) hostUp = .next a) := by
  unfold State.Reaches
  refine ⟨by decide, by decide, by decide, by decide, by decide, by decide, by decide, by decide, by decide, by decide, _, rfl⟩

/-! #### Further clauses -/

/-- A commit with a term out of its window, and two commits of one row in one sc. -/
theorem witness_commits :
    let c : MxCommit := { (default : MxCommit) with due := 0, row := 127, oow := true }
    let d : MxCommit := { (default : MxCommit) with due := 0, row := 127 }
    let s := sL { line0 with mx := { (default : MxState) with commits := [c], cfg := 1 } }
    let u := sL { line0 with mx := { (default : MxState) with commits := [d, d] } }
    s.live = true ∧ s.held = false ∧ (s.line 0).mx.commits = [c] ∧ c.due = s.sc ∧ c.oow = true ∧ c.unconf = none ∧ c.dead = false ∧
    (s.line 0).mx.cfg.getLsbD 0 = true ∧ ({ (s.line 0).mx with cfg := 0 } : MxState).cfg.getLsbD 0 = false ∧ s.job.faultSc = none ∧
    s.job.faults = [] ∧ u.live = true ∧ u.held = false ∧ (u.line 0).mx.commits = [d, d] ∧
    (∀ x ∈ (u.line 0).mx.commits, x.due = u.sc ∧ x.oow = false ∧ x.unconf = none ∧ x.dead = false) := by decide
/-- A near-tier access past its region, and one at an address that is no multiple of 128. -/
theorem witness_nearTier_refused :
    let s := sI line0
    let w := fm 8 0 0 2 false 129
    let v := fm 8 0 0 2 false 1
    s.CanIssue .pt q0 (.ptGet q0 w) ∧ s.CanIssue .pt q0 (.ptPut q0 w) ∧ s.Repeats .pt q0 ∧ s.firstOffset .pt q0 w = 129 ∧
    (s.region 2).allows 3 false 129 = false ∧ (s.region 2).allows 3 true 129 = false ∧ s.CanIssue .pt q0 (.ptGet q0 v) ∧
    s.CanIssue .pt q0 (.ptPut q0 v) ∧ (s.region 2).allows 3 true 1 = true ∧ ((s.region 2).base + 1) % 128 ≠ 0 ∧
    s.predicted (s.ctx .pt q0 s.sc 0) = false ∧ s.job.faults.length ≤ 11 := by unfold State.CanIssue State.Repeats; decide
/-- An LS.COPY both of whose accesses lie at addresses that are no multiples of 128. -/
theorem witness_copyMisaligned :
    let s := { sL line0 with job.img := some { img0 with regions := [rg 1 1] } }
    s.CanIssue .ls q0 (.lsCopy q0 (fm 6 1)) ∧ (s.region 0).allows 1 false 0 = true ∧ (s.region 0).allows 1 true 0 = true ∧
    ((s.region 0).base + 0) % 128 ≠ 0 ∧ s.firstOffset .ls q0 (fm 6 1) = 0 ∧ ((s.q .ls q0).ar.look 1 0).toNat = 0 := by unfold State.CanIssue; decide
/-- A line whose PT has the second beat of a transfer before it, as a read or a write, of a buffer or of a neighbour; `m` marks the beat on its
stream. -/
def bgAt (i : Instr) (line : Nat) (m : Option Nat) : State :=
  { sI line0 with
    time.cnt.scc := 2
    lines := [(line, { line0 with
      bg := some { (default : Background) with instr := i, total := 2, done := 1 }
      dq := [(0, { (default : DataQueue) with entries := [{ (default : DqEntry) with unconf := m }] })] })] }
theorem witness_backgroundBeats :
    let r := fm 8 0 0 1
    let n := fm 8 0 0 0x10
    let k : Ctx := { st := .pt, l := 0, t := 0, x := 2, c0 := 0, j := 1, pc := 0 }
    let s := bgAt (.ptBget q0 r) 0 none
    let w := bgAt (.ptBput q0 r) 0 (some 0)
    s.live = true ∧ s.held = false ∧ repOffset 0 0 r.offset 1 = 0 ∧ (s.region r.region.toNat).base % 128 = 0 ∧ s.sc = 2 ∧
    (s.region r.region.toNat).allows 2 false 0 = true ∧ (w.region r.region.toNat).allows 2 true 0 = true ∧ w.job.faults.length ≤ 12 ∧
    w.job.faultSc = none ∧ w.bgPath k (.ptBput q0 r) = true ∧ (bgAt (.ptBput q0 r) 0 none).bgPath k (.ptBput q0 r) = false ∧
    (0x18000000000 - 0x18000000000) / 0x4000000 = bayOf 0 ∧ (0x18000000000 - 0x18000000000) / 0x4000000 ≠ bayOf 64 ∧
    (s.region (n.region.toNat % 16)).allows 1 true 0 = true ∧ (nbrOf 0 (n.region.toNat / 16)).isSome = true := by decide
/-- A background write under a prediction, and one of a beat that is unconfirmed. -/
theorem witness_backgroundPath :
    let s := { sI { line0 with cc := { (default : CcState) with preds := [(0, pred0)] } } with time.cnt.scc := 1 }
    let u := { bgAt (.ptBput q0 (fm 8 0 0 1)) 0 (some 0) with lines := [(0, { line0 with dq := [(0, { (default : DataQueue) with entries := [{ (default : DqEntry) with unconf := some 0 }] })] })] }
    let b := fm 8 0 0 1
    s.CanIssue .pt q0 (.ptBput q0 b) ∧ s.predicted (s.ctx .pt q0 s.sc 0) = true ∧ s.job.faults.length ≤ 12 ∧ (s.line 0).bg = none ∧
    u.CanIssue .pt q0 (.ptBput q0 b) ∧ (u.line 0).bg = none ∧ u.predicted (u.ctx .pt q0 u.sc 0) = false ∧
    u.bgPath (u.ctx .pt q0 u.sc 0) (.ptBput q0 b) = true ∧ (u.region 1).allows 2 true 0 = true := by unfold State.CanIssue; decide
/-- A prediction that has written vector register 3, taken word 7 of inbound queue 1, and caught a queue between repeats. -/
def predDeep : Pred :=
  { predZ with taken := [(1, 7)], queues := [z0, z0, z0, z0, { z0 with outst := some { (default : Outst) with instr := .nop .vx q0 ⟨0, 0, 0, 4, 0⟩, done := 1, total := 2 } }, z0] }
theorem witness_refutation :
    let c : CcState := { (default : CcState) with preds := [(0, predDeep)], iw := [(1, default)] }
    let s := { sL { (ccLine c) with vx := { (line0.vx) with copies := [(3, (0, 0))] } } with time.cnt.scc := 1 }
    s.CanIssue .cc q0 (.ccBrResolve q0 ⟨0, 1, 0, 0, 0x200⟩) ∧ s.condOf (s.ctx .cc q0 s.sc 0) ⟨0, 1, 0, 0, 0x200⟩ = false ∧
    (s.line 0).fullEntry 0 = true ∧ (s.line 0).cc.preds.rising = true ∧ (s.line 0).cc.preds.find 0 = some predDeep ∧
    (s.line 0).cc.iw.find 1 = some default ∧ (s.line 0).vx.copies.rising = true ∧ (s.line 0).vx.copies.find 3 = some (0, 0) ∧
    predDeep.vx.summ.rising = true ∧ predDeep.sregs.rising = true ∧ (∃ z, predDeep.queues[(4 : Nat)]? = some z ∧ z.ended = false) ∧
    predDeep.deep = false ∧ { predDeep with deep := true }.deep = true := by
  unfold State.CanIssue; decide +kernel
/-- A deadline wait at its deadline, on a clear flag and on one that a change of this sc sets. -/
theorem witness_deadlineProbe :
    let w : WaitSt := { wait0 with deadline := some 8 }
    let s := { sL { line0 with cc := { (default : CcState) with waits := [(0, w)] } } with time.cnt.scc := 8 }
    let u := { s with flags.chgs := [⟨.line, 0, 63, true, .program, 8⟩] }
    let v (s : State) : Bool := (applyChanges (s.flagBase .line 0) (s.flags.dueAt .line 0 s.sc)).getLsbD 63
    s.live = true ∧ s.held = false ∧ s.waitsOn .line 0 63 = [(0, 0, w)] ∧ w.deadline = some s.sc ∧ w.first ≤ s.sc ∧ w.probed ≠ s.sc + 1 ∧
    v s = false ∧ v u = true ∧ u.waitsOn .line 0 63 = [(0, 0, w)] ∧ s.job.faultSc = none ∧ s.job.faults = [] := by decide
/-- A snapshot that is committed with another one waiting; a hold timeout that has been taken; a request that comes during a capture. -/
theorem witness_snapshotsInTurn :
    let j : SnapJob := { snap0 with phase := 3 }
    let s := { s0 with rcv.snap := some j, rcv.snapNext := some snap0 }
    s.rcv.snap = some j ∧ j.phase = 3 ∧ s.rcv.snapNext = some snap0 ∧ { s0 with job.holdOut := true }.job.holdOut = true ∧ s0.job.holdOut = false ∧
    s.snapPending = true ∧ { s0 with rcv.snap := some j }.snapPending = false ∧ { s0 with rcv.snap := some j }.rcv.snap.isSome = true := by decide
/-- An uncorrectable byte makes no clean module; a replica of coordinate 0 is not that of coordinate 5. -/
theorem witness_marks : (∀ m ∈ [((0 : Nat), false)], m.2 = false) ∧ (5 : BitVec 15).toNat ≠ 0 := by decide
/-- A dynamic region of the own module whose access lies past the fitted granary, and one within it. -/
theorem witness_pastOwn :
    let g : Region := { regionF true with circ := 0, base := 0x20000000000 }
    let s := { sFab true line0 with job.img := some { img0 with regions := [g] } }
    let u := { s with gr.pop := [0], gr.dimms := [(0, ⟨1, 0, true, true⟩)] }
    let w : FmtM := ⟨0, 8, 0, 1, false, 0, 0⟩
    s.CanIssue .pt q0 (.ptFput q0 w) ∧ (s.region 0).allows 5 true (s.firstOffset .pt q0 w) = true ∧ (s.region 0).offTorus s = false ∧
    (s.region 0).pastOwn s ((s.region 0).base + s.firstOffset .pt q0 w) = true ∧
    (u.region 0).pastOwn u ((u.region 0).base + u.firstOffset .pt q0 w) = false ∧ s.predicted (s.ctx .pt q0 0 0) = false ∧
    s.job.faults.length ≤ 11 := by unfold State.CanIssue; decide
/-- A scheduled packet of circuit 1 from coordinate 0 in the index that the circuit owns, at the neighbour of its origin. -/
theorem witness_arrivalFromOrigin :
    let s := { sFab false line0 with fab.ports := [(0, { port0 with peer := some (0, 3) })] }
    let n := indexFrom s.splitS (s.fullSc schedPkt.sendSc)
    (s.port 0).peer = some (schedPkt.src, 3) ∧ schedPkt.clean = true ∧ schedPkt.typ = 1 ∧ s.time.running = true ∧ n = 0 ∧
    nominal s.splitS n = s.fullSc schedPkt.sendSc ∧ cOwns (s.circuit schedPkt.circ) n = true ∧ (s.cs schedPkt.circ).afterIx ≤ n ∧
    cValid (s.circuit schedPkt.circ) = true ∧ (s.port 0).st = 5 := by decide +kernel
/-- A port in CALIB that has launched a TIME cell at hall time 99, before its 64th; one in ALIGN. -/
theorem witness_calibration :
    let c := cell 2 (99 + 2 ^ 64 * 99 + 2 ^ 128 * 7)
    let P : FabPort := { port0 with st := 4, timeTx := [99] }
    let s := { sFab false line0 with fab.ports := [(3, P), (4, { port0 with st := 2 })], fab.clk := true, fab.htc := 5000 }
    (s.port 3).st = 4 ∧ kf c 0 8 = 2 ∧ (s.port 3).timeTx.contains (kf c 16 64) = true ∧ kf c 24 32 = 7 ∧ (s.port 3).timeTx.length < 64 ∧
    2 ≤ (s.port 4).st ∧ (s.port 4).st < 3 ∧ (s.port 4).ctlAt ≠ s.fab.htc / 10 + 1 ∧ (s.port 3).ctlAt ≠ s.fab.htc / 10 + 1 ∧
    (s.port 3).trip = none ∧ { P with trip := some (20, 4) }.trip.getD (0, 0) = (20, 4) := by decide +kernel
/-- DIMMs of a type and of a capacity that R300 does not list, in a module that the customer fits. -/
theorem witness_unlistedDimm : 3 ≤ (⟨3, 0⟩ : DimmFound).typ ∧ 5 ≤ (⟨1, 5⟩ : DimmFound).cap ∧ { State.reset with part := { State.reset.part with order := 0 } }.part.order ≠ 1 ∧
    { State.reset with part := { State.reset.part with order := 0 } }.part.order ≠ 2 ∧ (⟨2, 4⟩ : DimmFound).typ < 3 ∧ (⟨2, 4⟩ : DimmFound).cap < 5 := by decide
/-- A function that claims nothing and makes no requests, right after reset; one that does both. -/
theorem witness_commandRegister :
    (State.reset.hp 0).memOn = false ∧ (State.reset.hp 0).masters = false ∧ (hostUp.hp 0).memOn = true ∧ (hostUp.hp 0).masters = true ∧
    ((hostRing ring0 cring0).hp 0).masters = true ∧ ((front (copyRec 0 0)).hp 0).masters = true ∧ ((begun (copyRec 0 0)).hp 0).masters = true ∧
    ((hostRing ring0 cring0).sq 0 0).base.toNat % 64 = 0 ∧ State.reset.claims (.host 0) = false ∧ hostUp.claims (.host 1) = true ∧
    State.reset.claims .mgmt = true := by decide
/-- A port that goes down with a COPY of which one row has been written, and with records of job control. -/
theorem witness_portStops :
    let x : MemAccess := ⟨.host 0, some 0, 0, 256, true, List.replicate 256 1, none, 128, 0⟩
    let s := { begun (copyRec 0 0) with host.mem := [x], host.jc := some (0, 0), host.startRec := some (0, 0), host.killRec := [(0, 1)],
                                        host.attest := [((0, 2), 64, [0])] }
    let k := { hostUp with host.killRec := [((0 : HostId).val, 16)] }
    (s.hp 0).up = true ∧ s.host.mem = [x] ∧ x.ring.isSome = true ∧ x.who = .host 0 ∧ x.write = true ∧ x.done ≠ 0 ∧
    x.addr % 4096 + x.done ≤ 4096 ∧ s.phys x.addr = some 0 ∧ s.host.jc = some ((0 : HostId).val, 0) ∧
    s.host.startRec = some ((0 : HostId).val, 0) ∧ ((0 : HostId).val, 1) ∈ s.host.killRec ∧
    (((0 : HostId).val, 2), 64, [0]) ∈ s.host.attest ∧ hostUp.host.mem = [] ∧
    { s with host.loadRec := some (0, 0) }.host.loadRec = some ((0 : HostId).val, 0) ∧
    { s with host.snapRec := some (0, 0) }.host.snapRec = some ((0 : HostId).val, 0) ∧
    k.host.killRec = [((0 : HostId).val, 16)] ∧ (k.sq (0 : HostId) 16).cur = none := by decide +kernel
/-- A device-to-host copy of which 128 bytes have been read when a request fails; one of which nothing has come. -/
theorem witness_copyReadCut :
    let w := copyRec 1 0
    let x : MemAccess := ⟨.host 0, some 0, 0, 256, false, List.replicate 128 1, none, 128, 0⟩
    let s := { begun w with host.mem := [x] }
    (s.host.mem.find? fun m => m.ring == some (0 : RingId).val && m.who == .host 0).map (·.data) = some (List.replicate 128 1) ∧
    w.opt % 2 = 1 ∧ (∀ x ∈ (begun w).host.mem, ¬(x.ring = some (0 : RingId).val ∧ x.who = .host 0)) ∧
    min ([] : List Byte).length 128 / 64 * 64 = 0 := by decide +kernel
/-- Mailbox writes of an end whose turn it is not, and an emptying write that meets a reset. -/
theorem witness_droppedWrites :
    let b : MailboxId := .open_ 0
    let full := boxed b { box0 with st := 2, src := 0, db := 3 }
    let claimed := boxed b { box0 with st := 1, src := 0 }
    let met := boxed b { box0 with met := 3, cutOff := some 0 }
    (full.box b).st ≠ 0 ∧ (full.box b).src ≠ full.srcId .mgmt ∧ (claimed.box b).st ≠ 0 ∧ (claimed.box b).src ≠ claimed.srcId .mgmt ∧
    full.claims .mgmt = true ∧ (full.box b).st = 2 ∧ idIsMgmt (full.box b).src = false ∧ endOf b (.host 0) = some false ∧
    (claimed.box b).st ≠ 2 ∧ (claimed.box b).taken true = false ∧ (met.box b).met ≠ 0 ∧ (met.box b).cutOff = some 0 ∧
    (met.box b).st = 0 ∧ idIsMgmt 0 = !true ∧ (boxed b box0).cutOff b (.host 0) = false ∧
    (boxed b { box0 with cutOff := some 2 }).cutOff b .mgmt = true ∧ idIsMgmt 2 = true ∧ 3 ≤ ({ box0 with st := 3 } : Mailbox).st ∧
    (hostUp.hp 0).up = true ∧ ((boxed b { box0 with drained := some (2, false) }).box b).drained.isSome = true ∧ (full.box b).drained = none := by decide
/-- A port that has launched cells which its peer has acknowledged; a disable by force under a job and after its fault. -/
theorem witness_disablesMore :
    let p := { hostUp with fab.disreq := 8, fab.ports := [(3, { port0 with seq := 7, acked := 7, sent := [⟨6, .cell dynPkt⟩] })] }
    let g := { (sI line0) with time.loaded := true, host := hostUp.host, mod := hostUp.mod }
    let f := { g with time.running := false, job.faultSc := some 0 }
    p.disWaits (.port 3) = true ∧ p.time.running = false ∧ p.txCells 3 = 0 ∧ (p.port 3).resend = [] ∧ (p.port 3).acked = (p.port 3).seq ∧
    (∀ e ∈ (p.port 3).vc, e.2 = []) ∧ (p.port 3).sent ≠ [] ∧ g.jobUses (.bay 0) = true ∧ f.job.faultSc.isSome = true ∧ f.partUses (.bay 0) = true ∧
    f.isDisabled (.bay 0) = false ∧ f.OwnerReaches (.host 0) (dieReg 0 0x808) := by unfold State.OwnerReaches State.Reaches; decide
theorem witness_pullAccepted :
    let s := { hostUp with coordOk := true, fab.shape := 3, fab.ports := [(0, port0)], rcv.pull := 1 }
    recState replica = 2 ∧ recField replica 12 2 = s.coord.toNat ∧ (s.route s.coord (s.rcv.pull.extractLsb' 0 15) true none).isSome = true ∧
    s.rcv.pull.extractLsb' 0 15 ≠ s.coord := by
  refine ⟨witness_pull.2.2.1, ?_, by decide, by decide⟩
  have := witness_pull.2.2.2.1
  exact this
/-- BAR4 accesses of another module: outside the torus, a read, a write that a port carries and one that none carries; the own module by LOCAL. -/
theorem witness_bar4Remote :
    let s := { hostUp with
      coordOk := true, fab.shape := 3, fab.ports := [(1, port0)]
      host.ports := hostUp.host.ports.upd 0 default fun h => { h with b4Base := 0x10020000000000 } }
    let u := { s with fab.ports := [] }
    let l := { hostUp with host.ports := hostUp.host.ports.upd 0 default fun h => { h with b4Base := 0x200000000000000 } }
    let g := (s.hp 0).b4Base.toNat / s.bar4Size * s.bar4Size + 0
    (s.hp 0).memOn = true ∧ g = 0x10020000000000 ∧ g < 2 ^ 57 ∧ g / 2 ^ 42 = (1024 : BitVec 15).toNat ∧ (1024 : BitVec 15) ≠ s.coord ∧ s.inTorus 1024 = true ∧
    inGranary (g % 2 ^ 42) = true ∧ s.canReach 1024 = true ∧ u.canReach 1024 = false ∧ ([0] : List Byte) ≠ [] ∧ g % 128 + ([0] : List Byte).length ≤ 256 ∧
    s.fab.outq = [] ∧ s.fab.retain.length < 64 ∧ { s with fab.shape := 0 }.inTorus 1024 = false ∧
    2 ^ 57 ≤ (l.hp 0).b4Base.toNat / l.bar4Size * l.bar4Size + 0 ∧ (l.hp 0).b4Base.toNat / l.bar4Size * l.bar4Size + 0 < 2 ^ 57 + 2 ^ 42 ∧
    l.against (l.closedFor (.host 0) false) (0x200000000000000 % 2 ^ 42) 64 = none ∧ l.areaOf (0x200000000000000 % 2 ^ 42) 64 = some .near := by
  decide

end Sys2Proof.Tests
end

section
/-! SUPPORT. Memory under every step. Two layers, each in the order of the model's definitions: the frame layer says of every
operation that does not write memory that it leaves the memory list as it was; the second says of those that do that they
keep its canonical form. They all go through the byte writes and the deletions whose laws stand in Laws/Memory, so a step
keeps the form whatever its command and its state. -/

namespace Sys2Proof.Machine

/-! ### The frame: what leaves memory as it was -/

/-- A command's outcome leaves the memory list as it was. -/
def KeepsMem (s : State) (o : Host.Outcome State Fault Refusal) : Prop := ∀ t, o = .next t → t.mem = s.mem

@[simp] theorem keepsMem_next (s t : State) : KeepsMem s (.next t) ↔ t.mem = s.mem := by simp [KeepsMem]
@[simp] theorem keepsMem_fault (s : State) (f : Fault) : KeepsMem s (.fault f) := by simp [KeepsMem]
@[simp] theorem keepsMem_ite (s : State) (c : Prop) [Decidable c] (a b : Host.Outcome State Fault Refusal) :
    KeepsMem s (if c then a else b) ↔ if c then KeepsMem s a else KeepsMem s b := by split <;> rfl
@[simp] theorem mem_ite (c : Prop) [Decidable c] (a b : State) : (if c then a else b).mem = if c then a.mem else b.mem :=
  apply_ite State.mem c a b
@[simp] theorem fst_mem_ite {α : Type} (c : Prop) [Decidable c] (a b : State × α) :
    (if c then a else b).1.mem = if c then a.1.mem else b.1.mem := by split <;> rfl
/-- The second state holds the same memory list. -/
def SameMem (s t : State) : Prop := t.mem = s.mem
@[simp] theorem sameMem_iff (s t : State) : SameMem s t ↔ t.mem = s.mem := ⟨id, id⟩
@[simp] theorem foldl_mem {α : Type} (f : State → α → State) (h : ∀ s a, SameMem s (f s a)) (l : List α) (s : State) :
    (l.foldl f s).mem = s.mem := by
  induction l generalizing s with
  | nil => rfl
  | cons a l ih => exact (ih _).trans (h s a)
@[simp] theorem foldl_fst_mem {α β : Type} (f : State × β → α → State × β) (h : ∀ e a, SameMem e.1 (f e a).1) (l : List α)
    (e : State × β) : (l.foldl f e).1.mem = e.1.mem := by
  induction l generalizing e with
  | nil => rfl
  | cons a l ih => exact (ih _).trans (h e a)
@[simp] theorem KeepsMem.stuck (s : State) : KeepsMem s stuck := keepsMem_fault s _

/-! #### The frame of Machine/Ops -/

@[simp] theorem State.undefine_mem (s : State) (a n : Nat) : (s.undefine a n).mem = s.mem := by simp [State.undefine]
@[simp] theorem State.undefineLocal_mem (s : State) (a n : Nat) : (s.undefineLocal a n).mem = s.mem := by
  simp only [State.undefineLocal]
  refine foldl_mem _ (fun s a => ?_) _ _
  split <;> simp
@[simp] theorem State.freeBeat_mem (s : State) : s.freeBeat.1.mem = s.mem := rfl
@[simp] theorem State.setLine_mem (s : State) (l : Nat) (L : LineState) : (s.setLine l L).mem = s.mem := rfl
@[simp] theorem State.countLine_mem (s : State) (l : Nat) (c : LineCnt) (n : Nat) : (s.countLine l c n).mem = s.mem := rfl
@[simp] theorem State.countBay_mem (s : State) (b : Nat) (c : BayCnt) (n : Nat) : (s.countBay b c n).mem = s.mem := rfl
@[simp] theorem State.raiseHold_mem (s : State) (c : Nat) (src : HoldSrc) (len : Option Nat) :
    (s.raiseHold c src len).mem = s.mem := by simp [State.raiseHold]
@[simp] theorem State.faultAt_mem (s : State) (f : Nat) (k : FaultKind) (detail : Nat) (u u2 : UnitRef)
    (addr aux expected observed : Nat) (resolve : Bool) :
    (s.faultAt f k detail u u2 addr aux expected observed resolve).mem = s.mem := by
  simp [State.faultAt]
@[simp] theorem State.faultQ_mem (s : State) (st : Station) (l t : Nat) (k : FaultKind) (detail addr aux expected observed : Nat) :
    (s.faultQ st l t k detail addr aux expected observed).mem = s.mem := by simp [State.faultQ]
@[simp] theorem State.countNdc_mem (s : State) (f : Feature) (u : UnitRef) : (s.countNdc f u).mem = s.mem := by
  unfold State.countNdc
  split <;> simp
@[simp] theorem State.powerAlert_mem (s : State) (m : BitVec 6) : (s.powerAlert m).mem = s.mem := rfl
@[simp] theorem State.pendDisable_mem (s : State) : s.pendDisable.mem = s.mem := rfl
@[simp] theorem State.touchCopy_mem (s : State) (a n : Nat) : (s.touchCopy a n).mem = s.mem := by
  unfold State.touchCopy
  split <;> simp

/-! #### The frame of Machine/Operands -/

@[simp] theorem State.faultK_mem (s : State) (k : Ctx) (f : FaultKind) (detail addr aux expected observed : Nat) :
    (s.faultK k f detail addr aux expected observed).mem = s.mem := by simp [State.faultK]
@[simp] theorem State.checkBeat_mem (s : State) (k : Ctx) (sel : Nat) (exp : BitVec 6) (tagged : Bool) (b : Option Beat) :
    (s.checkBeat k sel exp tagged b).mem = s.mem := by
  unfold State.checkBeat
  split <;> simp
@[simp] theorem State.dequeue_mem (s : State) (k : Ctx) (n : Nat) (exp : BitVec 6) : (s.dequeue k n exp).1.mem = s.mem := by
  simp only [State.dequeue]
  split <;> simp
@[simp] theorem State.takeBeat_mem (s : State) (k : Ctx) (sel : Nat) (toff : BitVec 6) : (s.takeBeat k sel toff).1.mem = s.mem := by
  simp [State.takeBeat]
@[simp] theorem State.emit_mem (s : State) (k : Ctx) (due : Nat) (dest : Dest) (data : VecReg) (ev : BitVec 3) :
    (s.emit k due dest data ev).mem = s.mem := rfl
@[simp] theorem State.enqueue_mem (s : State) (l : Nat) (o : PendOut) (n : Nat) : (s.enqueue l o n).mem = s.mem := rfl
@[simp] theorem State.dqFull_mem (s : State) (l n : Nat) : (s.dqFull l n).mem = s.mem := by simp [State.dqFull]
@[simp] theorem State.land_mem (s : State) (l : Nat) (o : PendOut) : (s.land l o).mem = s.mem := by
  unfold State.land
  split <;> simp
@[simp] theorem State.locate_mem (s : State) (k : Ctx) (r kind : Nat) (write : Bool) (x : Nat) :
    (s.locate k r kind write x).1.mem = s.mem := by simp [State.locate]

/-! #### The frame of Machine/Common -/

@[simp] theorem State.exhaust_mem (s : State) (l : Nat) : (s.exhaust l).mem = s.mem := by simp [State.exhaust]
@[simp] theorem State.queueMapout_mem (s : State) (l st row : Nat) : (s.queueMapout l st row).mem = s.mem := by
  simp only [State.queueMapout]
  (repeat' split) <;> simp
@[simp] theorem State.noteIssue_mem (s : State) (st : Station) (q : Queue) : (s.noteIssue st q).mem = s.mem := by
  simp [State.noteIssue]
@[simp] theorem State.badFetch_mem (s : State) (st : Station) (q : Queue) : (s.badFetch st q).mem = s.mem := by simp [State.badFetch]
@[simp] theorem State.draws_mem (s : State) (q : Queue) (i : Instr) : (s.draws q i).mem = s.mem := rfl
@[simp] theorem State.issueWith_keeps (s : State) (st : Station) (q : Queue) (i : Instr) (f : State → State)
    (hf : ∀ u, SameMem u (f u)) :
    KeepsMem s (s.issueWith st q i f) := by
  simp only [sameMem_iff] at *
  unfold State.issueWith
  split <;> simp [*]
@[simp] theorem State.advance_mem (s : State) (st : Station) (q : Queue) : (s.advance st q).mem = s.mem := by simp [State.advance]
@[simp] theorem State.issueOne_keeps (s : State) (st : Station) (q : Queue) (i : Instr) (f : State → State)
    (hf : ∀ u, SameMem u (f u)) :
    KeepsMem s (s.issueOne st q i f) := by
  simp only [sameMem_iff] at *
  unfold State.issueOne
  simp [*]
@[simp] theorem State.endRepeat_mem (s : State) (st : Station) (q : Queue) (o : Outst) : (s.endRepeat st q o).mem = s.mem := by
  simp [State.endRepeat]
@[simp] theorem State.issueRep_keeps (s : State) (st : Station) (q : Queue) (i : Instr)
    (step begin_ : State → Ctx → Outst → State × Outst) (hstep : ∀ u c o, SameMem u (step u c o).1)
    (hbegin : ∀ u c o, SameMem u (begin_ u c o).1) :
    KeepsMem s (s.issueRep st q i step begin_) := by
  simp only [sameMem_iff] at hstep hbegin
  refine State.issueWith_keeps _ _ _ _ _ fun u => ?_
  simp [hstep, hbegin]
@[simp] theorem State.nextRep_mem (s : State) (st : Station) (q : Queue) (o : Outst) (step : State → Ctx → Outst → State × Outst)
    (hstep : ∀ u c o, SameMem u (step u c o).1) :
    (s.nextRep st q o step).mem = s.mem := by
  simp only [sameMem_iff] at *
  unfold State.nextRep
  simp [*]
@[simp] theorem execNop_keeps (st : Station) (q : Queue) (w : FmtO) (s : State) : KeepsMem s (execNop st q w s) := by simp [execNop]
@[simp] theorem execEndQueue_keeps (st : Station) (q : Queue) (w : FmtC) (s : State) : KeepsMem s (execEndQueue st q w s) := by
  simp [execEndQueue]
@[simp] theorem State.openLoop_mem (s : State) (st : Station) (q : Queue) (w : FmtC) : (s.openLoop st q w).mem = s.mem := by
  simp [State.openLoop]
@[simp] theorem execLoop_keeps (st : Station) (q : Queue) (w : FmtC) (s : State) : KeepsMem s (execLoop st q w s) := by simp [execLoop]
@[simp] theorem execRep_keeps (st : Station) (q : Queue) (w : FmtC) (s : State) : KeepsMem s (execRep st q w s) := by simp [execRep]
@[simp] theorem State.barrier_mem (s : State) (st : Station) (q : Queue) (w : FmtC) : (s.barrier st q w).mem = s.mem := by
  simp [State.barrier]
@[simp] theorem execBar_keeps (st : Station) (q : Queue) (w : FmtC) (s : State) : KeepsMem s (execBar st q w s) := by simp [execBar]
@[simp] theorem execArset_keeps (st : Station) (q : Queue) (w : FmtW) (s : State) : KeepsMem s (execArset st q w s) := by
  simp [execArset]
@[simp] theorem execAstset_keeps (st : Station) (q : Queue) (w : FmtW) (s : State) : KeepsMem s (execAstset st q w s) := by
  simp [execAstset]
@[simp] theorem execAradd_keeps (st : Station) (q : Queue) (w : FmtW) (s : State) : KeepsMem s (execAradd st q w s) := by
  simp [execAradd]
@[simp] theorem execArsc_keeps (st : Station) (q : Queue) (w : FmtW) (s : State) : KeepsMem s (execArsc st q w s) := by simp [execArsc]
@[simp] theorem execLcset_keeps (st : Station) (q : Queue) (w : FmtW) (s : State) : KeepsMem s (execLcset st q w s) := by
  simp [execLcset]

/-! #### The frame of Machine/Access -/

@[simp] theorem State.mark_mem (s : State) (p : Nat) (bad : Bool) : (s.mark p bad).mem = s.mem := rfl
@[simp] theorem State.queueFix_mem (s : State) (p : Nat) : (s.queueFix p).mem = s.mem := by simp [State.queueFix]
@[simp] theorem State.lsErrors_mem (s : State) (l a src : Nat) : (s.lsErrors l a src).mem = s.mem := by simp [State.lsErrors]
@[simp] theorem State.bbErrors_mem (s : State) (b o src : Nat) : (s.bbErrors b o src).mem = s.mem := by simp [State.bbErrors]
@[simp] theorem State.foreignWrite_mem (s : State) (l a x : Nat) (writer : UnitRef) (t : Option Nat) :
    (s.foreignWrite l a x writer t).mem = s.mem := by
  unfold State.foreignWrite
  split <;> simp
@[simp] theorem State.deliver_mem (s : State) (u : MemUse) (d : BeatData) : (s.deliver u d).mem = s.mem := by
  unfold State.deliver
  (repeat' split) <;> simp
theorem SameMem.matchOwner {s : State} {o : Owner} {F G H : Nat → State} (hF : ∀ n, SameMem s (F n)) (hG : ∀ n, SameMem s (G n))
    (hH : ∀ n, SameMem s (H n)) :
    SameMem s (match o with | .ls n => F n | .bb n => G n | .nt n => H n) := by
  cases o with
  | ls n => exact hF n
  | bb n => exact hG n
  | nt n => exact hH n
@[simp] theorem State.readErrors_mem (s : State) (u : MemUse) : (s.readErrors u).mem = s.mem := by
  show SameMem s _
  unfold State.readErrors
  refine .matchOwner (fun l => ?_) (fun b => ?_) fun _ => rfl
  · dsimp only; split <;> simp
  · dsimp only; split <;> simp
@[simp] theorem State.meetOne_mem (s : State) (u : MemUse) : (s.meetOne u).mem = s.mem := by
  unfold State.meetOne
  split <;> simp
@[simp] theorem State.meetSome_mem (s : State) (x : Nat) (sel : MemUse → Bool) : (s.meetSome x sel).mem = s.mem := by
  simp [State.meetSome]
@[simp] theorem State.meetReads_mem (s : State) (x : Nat) : (s.meetReads x).mem = s.mem := by simp [State.meetReads]
@[simp] theorem State.collide_mem (s : State) (x : Nat) (a b : MemUse) : (s.collide x a b).mem = s.mem := by
  simp only [State.collide]
  split <;> simp
@[simp] theorem State.countUse_mem (s : State) (u : MemUse) : (s.countUse u).mem = s.mem := by
  unfold State.countUse
  (repeat' split) <;> simp
@[simp] theorem State.ntUncorrectable_mem (s : State) (slice addr src : Nat) : (s.ntUncorrectable slice addr src).mem = s.mem := rfl
@[simp] theorem State.ntCorrected_mem (s : State) (slice : Nat) : (s.ntCorrected slice).mem = s.mem := rfl
@[simp] theorem State.ntRow_mem (s : State) (slice a p src : Nat) (bad : State → Nat → State) (hbad : ∀ u x1, SameMem u (bad u x1)) :
    (s.ntRow slice a p src bad).mem = s.mem := by
  simp only [sameMem_iff] at *
  unfold State.ntRow
  simp [*]
@[simp] theorem State.ntReadErrors_mem (s : State) (u : MemUse) : (s.ntReadErrors u).mem = s.mem := by
  unfold State.ntReadErrors
  split <;> simp
@[simp] theorem State.occupy_mem (s : State) (x : Nat) (u : MemUse) (same : Option MemUse) : (s.occupy x u same).mem = s.mem := by
  unfold State.occupy
  (repeat' split) <;> simp
@[simp] theorem State.ports_mem (s : State) (x : Nat) (sel : MemUse → Bool) : (s.ports x sel).mem = s.mem := by simp [State.ports]
@[simp] theorem State.crossAt_mem (s : State) (x src dst : Nat) (u : UnitRef) (port : Nat) :
    (s.crossAt x src dst u port).mem = s.mem := rfl
@[simp] theorem State.crossings_mem (s : State) (b x : Nat) : (s.crossings b x).mem = s.mem := by
  simp only [State.crossings]
  refine foldl_fst_mem _ (fun s a => ?_) _ _
  simp only
  split <;> simp

/-! #### The frame of Machine/LocalStore -/

@[simp] theorem State.lsAddr_mem (s : State) (k : Ctx) (r : Nat) (write : Bool) (x : Nat) : (s.lsAddr k r write x).1.mem = s.mem := by
  have h := s.locate_mem k r 1 write x
  unfold State.lsAddr
  generalize s.locate k r 1 write x = p at *
  obtain ⟨t, _ | a⟩ := p
  · exact h
  · simpa using h
@[simp] theorem State.access_mem (s : State) (u : MemUse) : (s.access u).mem = s.mem := rfl
@[simp] theorem State.lsUse_mem (s : State) (k : Ctx) (write : Bool) (a due : Nat) (d : BeatData) (ret : Option Ret) (kind : UseKind) :
    (s.lsUse k write a due d ret kind).mem = s.mem := rfl
@[simp] theorem State.lsRdRep_mem (w : FmtM) (s : State) (k : Ctx) (o : Outst) : (State.lsRdRep w s k o).1.mem = s.mem := by
  have h := s.lsAddr_mem k w.region.toNat false (lsOffset w k o)
  unfold State.lsRdRep
  generalize s.lsAddr k w.region.toNat false (lsOffset w k o) = p at *
  obtain ⟨t, _ | a⟩ := p
  · exact h
  · simpa using h
@[simp] theorem execLsRd_keeps (q : Queue) (w : FmtM) (s : State) : KeepsMem s (execLsRd q w s) := by simp [execLsRd]
@[simp] theorem State.lsWrRep_mem (w : FmtM) (s : State) (k : Ctx) (o : Outst) : (State.lsWrRep w s k o).1.mem = s.mem := by
  have hd := s.takeBeat_mem k w.data.toNat w.toff
  unfold State.lsWrRep
  generalize s.takeBeat k w.data.toNat w.toff = p at *
  obtain ⟨u, d⟩ := p
  have h := u.lsAddr_mem k w.region.toNat true (lsOffset w k o)
  dsimp only
  generalize u.lsAddr k w.region.toNat true (lsOffset w k o) = p at *
  obtain ⟨t, _ | a⟩ := p <;> simp_all
@[simp] theorem execLsWr_keeps (q : Queue) (w : FmtM) (s : State) : KeepsMem s (execLsWr q w s) := by simp [execLsWr]
@[simp] theorem State.lsFillRep_mem (w : FmtM) (s : State) (k : Ctx) (o : Outst) : (State.lsFillRep w s k o).1.mem = s.mem := by
  have h := s.lsAddr_mem k w.region.toNat true (lsOffset w k o)
  unfold State.lsFillRep
  generalize s.lsAddr k w.region.toNat true (lsOffset w k o) = p at *
  obtain ⟨t, _ | a⟩ := p
  · exact h
  · simpa using h
@[simp] theorem execLsFill_keeps (q : Queue) (w : FmtM) (s : State) : KeepsMem s (execLsFill q w s) := by simp [execLsFill]
@[simp] theorem State.lsCopyRep_mem (w : FmtM) (s : State) (k : Ctx) (o : Outst) : (State.lsCopyRep w s k o).1.mem = s.mem := by
  simp only [State.lsCopyRep]
  split <;> simp
@[simp] theorem execLsCopy_keeps (q : Queue) (w : FmtM) (s : State) : KeepsMem s (execLsCopy q w s) := by simp [execLsCopy]
@[simp] theorem State.requestGroups_mem (s : State) (l : Nat) (on : BitVec 4) (x : Nat) : (s.requestGroups l on x).mem = s.mem := rfl
@[simp] theorem State.pgrpRep_mem (w : FmtO) (s : State) (k : Ctx) (o : Outst) : (State.pgrpRep w s k o).1.mem = s.mem := by
  simp only [State.pgrpRep]
  split <;> simp
@[simp] theorem execLsPgrp_keeps (q : Queue) (w : FmtO) (s : State) : KeepsMem s (execLsPgrp q w s) := by simp [execLsPgrp]
@[simp] theorem State.lay_mem (s : State) (p : Nat) (f : EccFinding) : (s.lay p f).mem = s.mem := by
  unfold State.lay
  split <;> simp
@[simp] theorem State.alertRow_mem (s : State) (p : Nat) : (s.alertRow p).mem = s.mem := by simp [State.alertRow]
@[simp] theorem State.glean_mem (s : State) (m : GleanMem) (f : EccFinding) : (s.glean m f).mem = s.mem := by
  simp only [State.glean]
  split <;> simp
@[simp] theorem execGleanerRead_keeps (m : GleanMem) (found : EccFinding) (s : State) : KeepsMem s (execGleanerRead m found s) := by
  simp [execGleanerRead]
@[simp] theorem State.fixRow_mem (s : State) (p : Nat) : (s.fixRow p).mem = s.mem := rfl
@[simp] theorem State.writeBack_mem (s : State) (m : GleanMem) : (s.writeBack m).mem = s.mem := by
  unfold State.writeBack
  split <;> simp
@[simp] theorem State.scanRow_mem (s : State) (l : Nat) (found : List ParityFinding) : (s.scanRow l found).mem = s.mem := by
  simp [State.scanRow]
@[simp] theorem execInstructionStoreScan_keeps (l : LineId) (found : List ParityFinding) (s : State) :
    KeepsMem s (execInstructionStoreScan l found s) := by simp [execInstructionStoreScan]

/-! #### The frame of Machine/NearTier -/

@[simp] theorem State.slotAccess_mem (s : State) (slice : Nat) (f : EccFinding) : (s.slotAccess slice f).mem = s.mem := by
  refine (State.ports_mem ..).trans (foldl_mem _ (fun t u => ?_) _ _)
  split <;> simp
@[simp] theorem State.refreshDemand_mem (s : State) (stack n : Nat) : (s.refreshDemand stack n).mem = s.mem := by
  simp [State.refreshDemand]
@[simp] theorem State.tempInterval_mem (s : State) (k degrees : Nat) : (s.tempInterval k degrees).mem = s.mem := by
  simp [State.tempInterval]
@[simp] theorem execHbmTempInterval_keeps (stack : Fin 32) (degrees rfm : Nat) (s : State) :
    KeepsMem s (execHbmTempInterval stack degrees rfm s) := by simp [execHbmTempInterval]
@[simp] theorem State.commitSlot_mem (s : State) (slice slot : Nat) (user : FreeUser) (found : EccFinding) (fix : Bool) :
    (s.commitSlot slice slot user found fix).mem = s.mem := by simp [State.commitSlot]
theorem State.ntGlean_mem (s : State) (slice : Nat) (f : EccFinding) : ∀ t, s.ntGlean slice f = some t → t.mem = s.mem := by
  simp [State.ntGlean]
@[simp] theorem execFreeSlotAccess_keeps (slice : Fin 256) (slot : Fin 2) (user : FreeUser) (found : EccFinding) (s : State) :
    KeepsMem s (execFreeSlotAccess slice slot user found s) := by simp [execFreeSlotAccess]
@[simp] theorem State.commitFix_mem (s : State) (p : Nat) : (s.commitFix p).mem = s.mem := by
  simp only [State.commitFix]
  split <;> simp
@[simp] theorem execGleanerWriteBack_keeps (m : GleanMem) (s : State) : KeepsMem s (execGleanerWriteBack m s) := by
  unfold execGleanerWriteBack
  split <;> simp
theorem State.gleanerSlot_mem (s t : State) (f : FreeCommit) (h : s.gleanerSlot f = some t) : t.mem = s.mem := by
  unfold State.gleanerSlot at h
  split at h
  · split at h
    · split at h
      · cases h; simp
      · cases h
    · cases h
  · exact s.ntGlean_mem _ _ _ h
@[simp] theorem execPnCrossing_keeps (bay : BayId) (s : State) : KeepsMem s (execPnCrossing bay s) := by simp [execPnCrossing]

/-! #### The frame of Machine/Matrix -/

@[simp] theorem State.lwBeat_mem (s : State) (l : Nat) : (s.lwBeat l).mem = s.mem := by
  unfold State.lwBeat
  split <;> simp
@[simp] theorem State.lwComplete_mem (s : State) (l : Nat) : (s.lwComplete l).mem = s.mem := by
  unfold State.lwComplete
  split <;> simp
@[simp] theorem State.lwRep_mem (w : FmtO) (s : State) (k : Ctx) (o : Outst) : (State.lwRep w s k o).1.mem = s.mem := by
  simp [State.lwRep]
@[simp] theorem execMxLw_keeps (q : Queue) (w : FmtO) (s : State) : KeepsMem s (execMxLw q w s) := by simp [execMxLw]
@[simp] theorem execMxLwComplete_keeps (l : LineId) (s : State) : KeepsMem s (execMxLwComplete l s) := by simp [execMxLwComplete]
@[simp] theorem State.swapRep_mem (s : State) (k : Ctx) (o : Outst) : (s.swapRep k o).1.mem = s.mem := by simp [State.swapRep]
@[simp] theorem execMxSwap_keeps (q : Queue) (w : FmtO) (s : State) : KeepsMem s (execMxSwap q w s) := by simp [execMxSwap]
@[simp] theorem State.mmRepeat_mem (w : FmtO) (s : State) (k : Ctx) (o : Outst) : (State.mmRepeat w s k o).1.mem = s.mem := by
  simp [State.mmRepeat]
@[simp] theorem State.rowCheck_mem (w : FmtO) (s : State) (k : Ctx) (o : Outst) : (State.rowCheck w s k o).1.mem = s.mem := by
  simp [State.rowCheck]
@[simp] theorem execMxMm_keeps (q : Queue) (w : FmtO) (s : State) : KeepsMem s (execMxMm q w s) := by simp [execMxMm]
@[simp] theorem State.aclrRepeat_mem (w : FmtO) (s : State) (k : Ctx) (o : Outst) : (State.aclrRepeat w s k o).1.mem = s.mem := by
  simp [State.aclrRepeat]
@[simp] theorem execMxAclr_keeps (q : Queue) (w : FmtO) (s : State) : KeepsMem s (execMxAclr q w s) := by simp [execMxAclr]
@[simp] theorem State.oowReport_mem (s : State) (l row issue f task pc : Nat) (resolve : Bool) :
    (s.oowReport l row issue f task pc resolve).mem = s.mem := by simp [State.oowReport]
@[simp] theorem State.commitRow_mem (s : State) (l : Nat) (c : MxCommit) : (s.commitRow l c).mem = s.mem := by
  unfold State.commitRow
  (repeat' split) <;> simp
@[simp] theorem State.mxCommits_mem (s : State) (l x : Nat) : (s.mxCommits l x).mem = s.mem := by simp [State.mxCommits]
@[simp] theorem execMxMmCommit_keeps (l : LineId) (s : State) : KeepsMem s (execMxMmCommit l s) := by simp [execMxMmCommit]
@[simp] theorem State.anchorRep_mem (w : FmtO) (s : State) (k : Ctx) (o : Outst) : (State.anchorRep w s k o).1.mem = s.mem := by
  simp [State.anchorRep]
@[simp] theorem execMxAnchor_keeps (q : Queue) (w : FmtO) (s : State) : KeepsMem s (execMxAnchor q w s) := by simp [execMxAnchor]
@[simp] theorem State.rdregRep_mem (w : FmtO) (s : State) (k : Ctx) (o : Outst) : (State.rdregRep w s k o).1.mem = s.mem := by
  simp [State.rdregRep]
@[simp] theorem execMxRdreg_keeps (q : Queue) (w : FmtO) (s : State) : KeepsMem s (execMxRdreg q w s) := by simp [execMxRdreg]

/-! #### The frame of Machine/Vector -/

@[simp] theorem State.vxOperand_mem (s : State) (k : Ctx) (row : Bool) (w sel fld : Nat) :
    (s.vxOperand k row w sel fld).1.mem = s.mem := by simp [State.vxOperand]
@[simp] theorem State.vxEmit_mem (s : State) (k : Ctx) (entry : Nat) (dest : Dest) (v : VecReg) (ev : BitVec 3) :
    (s.vxEmit k entry dest v ev).mem = s.mem := rfl
@[simp] theorem State.vxReport_mem (s : State) (l task pc : Nat) (ev : BitVec 3) (f outSc : Nat) (resolve : Bool) :
    (s.vxReport l task pc ev f outSc resolve).mem = s.mem := by simp [State.vxReport]
@[simp] theorem State.vxEvent_mem (s : State) (l : Nat) (o : PendOut) : (s.vxEvent l o).mem = s.mem := by
  unfold State.vxEvent
  (repeat' split) <;> simp
@[simp] theorem State.vxOutputs_mem (s : State) (l x : Nat) : (s.vxOutputs l x).mem = s.mem := by
  simp only [State.vxOutputs]
  split <;> simp
@[simp] theorem execVxOutput_keeps (l : LineId) (s : State) : KeepsMem s (execVxOutput l s) := by simp [execVxOutput]
@[simp] theorem State.vxCount_mem (s : State) (k : Ctx) : (s.vxCount k).mem = s.mem := rfl
@[simp] theorem State.vxOpRep_mem (w : FmtO) (s : State) (k : Ctx) (o : Outst) : (State.vxOpRep w s k o).1.mem = s.mem := by
  simp [State.vxOpRep]
@[simp] theorem execVxOp_keeps (q : Queue) (w : FmtO) (s : State) : KeepsMem s (execVxOp q w s) := by simp [execVxOp]
@[simp] theorem State.vx3Rep_mem (w : FmtO) (wd entry : Nat) (f : Nat → Nat → Nat → Nat) (s : State) (k : Ctx) (o : Outst) :
    (State.vx3Rep w wd entry f s k o).1.mem = s.mem := by simp [State.vx3Rep]
@[simp] theorem State.fmaRep_mem (w : FmtO) (s : State) (c : Ctx) (o : Outst) : (State.fmaRep w s c o).1.mem = s.mem := by
  simp [State.fmaRep]
@[simp] theorem execVxFma_keeps (q : Queue) (w : FmtO) (s : State) : KeepsMem s (execVxFma q w s) := by simp [execVxFma]
@[simp] theorem State.selRep_mem (w : FmtO) (s : State) (c : Ctx) (o : Outst) : (State.selRep w s c o).1.mem = s.mem := by
  simp [State.selRep]
@[simp] theorem execVxSel_keeps (q : Queue) (w : FmtO) (s : State) : KeepsMem s (execVxSel q w s) := by simp [execVxSel]
@[simp] theorem State.vxFnRep_mem (w : FmtO) (s : State) (k : Ctx) (o : Outst) : (State.vxFnRep w s k o).1.mem = s.mem := by
  simp [State.vxFnRep]
@[simp] theorem execVxFn_keeps (q : Queue) (w : FmtO) (s : State) : KeepsMem s (execVxFn q w s) := by simp [execVxFn]
@[simp] theorem State.accrdBegin_mem (w : FmtO) (s : State) (k : Ctx) (o : Outst) : (State.accrdBegin w s k o).1.mem = s.mem := rfl
@[simp] theorem State.accrdRep_mem (w : FmtO) (s : State) (k : Ctx) (o : Outst) : (State.accrdRep w s k o).1.mem = s.mem := by
  simp [State.accrdRep]
@[simp] theorem execVxAccrd_keeps (q : Queue) (w : FmtO) (s : State) : KeepsMem s (execVxAccrd q w s) := by simp [execVxAccrd]
@[simp] theorem State.cvtStep_mem (w : FmtO) (s : State) (k : Ctx) (o : Outst) : (State.cvtStep w s k o).1.mem = s.mem := by
  simp [State.cvtStep]
@[simp] theorem cvtBegin_mem (w : FmtO) (s : State) (_k : Ctx) (o : Outst) : (cvtBegin w s _k o).1.mem = s.mem := rfl
@[simp] theorem execVxCvt_keeps (q : Queue) (w : FmtO) (s : State) : KeepsMem s (execVxCvt q w s) := by simp [execVxCvt]
@[simp] theorem State.dropRep_mem (w : FmtO) (s : State) (k : Ctx) (o : Outst) : (State.dropRep w s k o).1.mem = s.mem := by
  simp [State.dropRep]
@[simp] theorem execVxDrop_keeps (q : Queue) (w : FmtO) (s : State) : KeepsMem s (execVxDrop q w s) := by simp [execVxDrop]
@[simp] theorem State.ropeRep_mem (w : FmtO) (s : State) (k : Ctx) (o : Outst) : (State.ropeRep w s k o).1.mem = s.mem := rfl
@[simp] theorem execVxRope_keeps (q : Queue) (w : FmtO) (s : State) : KeepsMem s (execVxRope q w s) := by simp [execVxRope]
@[simp] theorem State.rclrRep_mem (w : FmtO) (s : State) (k : Ctx) (o : Outst) : (State.rclrRep w s k o).1.mem = s.mem := rfl
@[simp] theorem execVxRclr_keeps (q : Queue) (w : FmtO) (s : State) : KeepsMem s (execVxRclr q w s) := by simp [execVxRclr]
@[simp] theorem State.raccRep_mem (w : FmtO) (s : State) (k : Ctx) (o : Outst) : (State.raccRep w s k o).1.mem = s.mem := by
  simp [State.raccRep]
@[simp] theorem execVxRacc_keeps (q : Queue) (w : FmtO) (s : State) : KeepsMem s (execVxRacc q w s) := by simp [execVxRacc]
@[simp] theorem State.rrdBegin_mem (w : FmtO) (s : State) (k : Ctx) (o : Outst) : (State.rrdBegin w s k o).1.mem = s.mem := by
  simp [State.rrdBegin]
@[simp] theorem State.rrdRep_mem (w : FmtO) (s : State) (k : Ctx) (o : Outst) : (State.rrdRep w s k o).1.mem = s.mem := by
  unfold State.rrdRep
  split <;> simp
@[simp] theorem execVxRrd_keeps (q : Queue) (w : FmtO) (s : State) : KeepsMem s (execVxRrd q w s) := by simp [execVxRrd]
@[simp] theorem State.rfldRep_mem (w : FmtO) (s : State) (k : Ctx) (o : Outst) : (State.rfldRep w s k o).1.mem = s.mem := by
  simp [State.rfldRep]
@[simp] theorem execVxRfld_keeps (q : Queue) (w : FmtO) (s : State) : KeepsMem s (execVxRfld q w s) := by simp [execVxRfld]
@[simp] theorem State.summBegin_mem (w : FmtO) (s : State) (k : Ctx) (o : Outst) : (State.summBegin w s k o).1.mem = s.mem := rfl
@[simp] theorem State.summRep_mem (w : FmtO) (s : State) (k : Ctx) (o : Outst) : (State.summRep w s k o).1.mem = s.mem := by
  simp [State.summRep]
@[simp] theorem execVxSumm_keeps (q : Queue) (w : FmtO) (s : State) : KeepsMem s (execVxSumm q w s) := by simp [execVxSumm]
@[simp] theorem State.f64sRep_mem (w : FmtO) (s : State) (k : Ctx) (o : Outst) : (State.f64sRep w s k o).1.mem = s.mem := by
  simp [State.f64sRep]
@[simp] theorem execVxF64s_keeps (q : Queue) (w : FmtO) (s : State) : KeepsMem s (execVxF64s q w s) := by simp [execVxF64s]

/-! #### The frame of Machine/Words -/

@[simp] theorem State.flagChange_mem (s : State) (cls : FlagClass) (home ix : Nat) (set : Bool) (src : ChgSrc) (eff : Nat) :
    (s.flagChange cls home ix set src eff).mem = s.mem := rfl
@[simp] theorem State.setFlagWord_mem (s : State) (cls : FlagClass) (home : Nat) (v : BitVec 128) :
    (s.setFlagWord cls home v).mem = s.mem := by
  unfold State.setFlagWord
  split <;> simp
@[simp] theorem State.settleFlags_mem (s : State) (cls : FlagClass) (home : Nat) : (s.settleFlags cls home).mem = s.mem := by
  simp [State.settleFlags]
@[simp] theorem State.sendWord_mem (s : State) (k : Ctx) (n : Nat) (v : W64) : (s.sendWord k n v).mem = s.mem := by
  simp [State.sendWord]
@[simp] theorem State.arrive_mem (s : State) (w : WordFly) : (s.arrive w).mem = s.mem := by
  simp only [State.arrive]
  (repeat' split) <;> simp
@[simp] theorem State.arrivals_mem (s : State) (l x : Nat) : (s.arrivals l x).mem = s.mem := by simp [State.arrivals]
@[simp] theorem execWordArrival_keeps (l : LineId) (s : State) : KeepsMem s (execWordArrival l s) := by simp [execWordArrival]
@[simp] theorem State.nackOne_mem (s : State) (n : NackFly) : (s.nackOne n).mem = s.mem := by simp [State.nackOne]
@[simp] theorem State.nacksAt_mem (s : State) (l x : Nat) : (s.nacksAt l x).mem = s.mem := by simp [State.nacksAt]
@[simp] theorem execWordNack_keeps (l : LineId) (s : State) : KeepsMem s (execWordNack l s) := by simp [execWordNack]

/-! #### The frame of Machine/Control -/

@[simp] theorem State.issueCc_keeps (s : State) (q : Queue) (i : Instr) (f : State → Ctx → State) (hf : ∀ u c, SameMem u (f u c)) :
    KeepsMem s (s.issueCc q i f) := by
  simp only [sameMem_iff] at *
  unfold State.issueCc
  simp [*]
@[simp] theorem State.issueCcBranch_keeps (s : State) (q : Queue) (i : Instr) (f : State → Ctx → State)
    (hf : ∀ u c, SameMem u (f u c)) :
    KeepsMem s (s.issueCcBranch q i f) := by
  simp only [sameMem_iff] at *
  unfold State.issueCcBranch
  simp [*]
@[simp] theorem State.setScalar_mem (s : State) (k : Ctx) (r lat : Nat) (v : W64) : (s.setScalar k r lat v).mem = s.mem := rfl
@[simp] theorem execCcOp_keeps (q : Queue) (w : FmtO) (s : State) : KeepsMem s (execCcOp q w s) := by simp [execCcOp]
@[simp] theorem execCcLi_keeps (q : Queue) (w : FmtW) (s : State) : KeepsMem s (execCcLi q w s) := by simp [execCcLi]
@[simp] theorem execCcLih_keeps (q : Queue) (w : FmtW) (s : State) : KeepsMem s (execCcLih q w s) := by simp [execCcLih]
@[simp] theorem execCcSrrd_keeps (q : Queue) (w : FmtO) (s : State) : KeepsMem s (execCcSrrd q w s) := by simp [execCcSrrd]
@[simp] theorem State.branchTo_mem (s : State) (q : Queue) (e : Nat) : (s.branchTo q e).mem = s.mem := by simp [State.branchTo]
@[simp] theorem execCcBr_keeps (q : Queue) (w : FmtC) (s : State) : KeepsMem s (execCcBr q w s) := by simp [execCcBr]
@[simp] theorem State.setReaches_mem (s : State) (cls : FlagClass) (home ix : Nat) : (s.setReaches cls home ix).mem = s.mem := by
  simp only [State.setReaches]
  refine foldl_mem _ (fun s a => ?_) _ _
  simp
@[simp] theorem State.outsideChange_mem (s : State) (home ix : Nat) (set : Bool) : (s.outsideChange home ix set).mem = s.mem := by
  simp [State.outsideChange]
@[simp] theorem State.progFlag_mem (s : State) (k : Ctx) (w : FmtC) (set : Bool) : (s.progFlag k w set).mem = s.mem := by
  simp only [State.progFlag]
  split <;> simp
@[simp] theorem execCcSet_keeps (q : Queue) (w : FmtC) (s : State) : KeepsMem s (execCcSet q w s) := by simp [execCcSet]
@[simp] theorem execCcClr_keeps (q : Queue) (w : FmtC) (s : State) : KeepsMem s (execCcClr q w s) := by simp [execCcClr]
@[simp] theorem State.changesReach_mem (s : State) (cls : FlagClass) (home : Nat) : (s.changesReach cls home).mem = s.mem := by
  simp [State.changesReach]
@[simp] theorem execFlagChangeEffect_keeps (cls : FlagClass) (home : Nat) (s : State) :
    KeepsMem s (execFlagChangeEffect cls home s) := by simp [execFlagChangeEffect]
@[simp] theorem State.startWait_mem (s : State) (k : Ctx) (w : FmtC) (consume : Bool) (dl long : Option Nat) :
    (s.startWait k w consume dl long).mem = s.mem := by simp [State.startWait]
@[simp] theorem execCcWait_keeps (q : Queue) (w : FmtC) (s : State) : KeepsMem s (execCcWait q w s) := by simp [execCcWait]
@[simp] theorem execCcWaitc_keeps (q : Queue) (w : FmtC) (s : State) : KeepsMem s (execCcWaitc q w s) := by simp [execCcWaitc]
@[simp] theorem execCcWaitl_keeps (q : Queue) (w : FmtC) (s : State) : KeepsMem s (execCcWaitl q w s) := by simp [execCcWaitl]
@[simp] theorem State.release_mem (s : State) (x : Nat) (w : Nat × Nat × WaitSt) : (s.release x w).mem = s.mem := rfl
@[simp] theorem State.countMrel_mem (s : State) (cls : FlagClass) (home : Nat) : (s.countMrel cls home).mem = s.mem := by
  unfold State.countMrel
  split <;> simp
@[simp] theorem State.countCont_mem (s : State) (cls : FlagClass) (home n : Nat) : (s.countCont cls home n).mem = s.mem := by
  unfold State.countCont
  split <;> simp
@[simp] theorem State.probeFlag_mem (s : State) (cls : FlagClass) (home ix : Nat) : (s.probeFlag cls home ix).mem = s.mem := by
  simp [State.probeFlag]
@[simp] theorem execFlagProbe_keeps (cls : FlagClass) (home ix : Nat) (s : State) : KeepsMem s (execFlagProbe cls home ix s) := by
  simp [execFlagProbe]
@[simp] theorem State.checkDeadline_mem (s : State) (w : Nat × Nat × WaitSt) : (s.checkDeadline w).mem = s.mem := by
  unfold State.checkDeadline
  split <;> simp
@[simp] theorem execDeadlineCheck_keeps (q : Queue) (s : State) : KeepsMem s (execDeadlineCheck q s) := by
  unfold execDeadlineCheck
  split <;> simp
@[simp] theorem State.endLending_mem (s : State) (l t : Nat) : (s.endLending l t).mem = s.mem := by
  unfold State.endLending
  (repeat' split) <;> simp
@[simp] theorem execWaitlExpectedEnd_keeps (q : Queue) (s : State) : KeepsMem s (execWaitlExpectedEnd q s) := by
  simp [execWaitlExpectedEnd]
@[simp] theorem State.harvestAt_mem (s : State) (h : Nat) (onReq : Bool) : (s.harvestAt h onReq).mem = s.mem := rfl
@[simp] theorem execCcHarvest_keeps (q : Queue) (w : FmtC) (s : State) : KeepsMem s (execCcHarvest q w s) := by simp [execCcHarvest]
@[simp] theorem execCcWsend_keeps (q : Queue) (w : FmtO) (s : State) : KeepsMem s (execCcWsend q w s) := by
  refine State.issueCc_keeps _ _ _ _ fun u k => ?_
  dsimp only
  split <;> simp
@[simp] theorem execCcWrecv_keeps (q : Queue) (w : FmtO) (s : State) : KeepsMem s (execCcWrecv q w s) := by
  refine State.issueCc_keeps _ _ _ _ fun u k => ?_
  dsimp only
  split <;> simp
@[simp] theorem execCcWarm_keeps (q : Queue) (w : FmtO) (s : State) : KeepsMem s (execCcWarm q w s) := by simp [execCcWarm]
@[simp] theorem State.issueElb_keeps (s : State) (q : Queue) (i : Instr) (w : FmtO) (op : Nat) : KeepsMem s (s.issueElb q i w op) := by
  simp [State.issueElb]
@[simp] theorem execCcElbAdd_keeps (q : Queue) (w : FmtO) (s : State) : KeepsMem s (execCcElbAdd q w s) := by simp [execCcElbAdd]
@[simp] theorem execCcElbRead_keeps (q : Queue) (w : FmtO) (s : State) : KeepsMem s (execCcElbRead q w s) := by simp [execCcElbRead]
@[simp] theorem execCcElbReadv_keeps (q : Queue) (w : FmtO) (s : State) : KeepsMem s (execCcElbReadv q w s) := by simp [execCcElbReadv]
@[simp] theorem State.elbAt_mem (s : State) (x : Nat) : (s.elbAt x).mem = s.mem := by
  simp only [State.elbAt]
  refine foldl_mem _ (fun s a => ?_) _ _
  simp
@[simp] theorem State.viewReport_mem (s : State) (coord : BitVec 15) (first : Nat) (entries : List W32) :
    (s.viewReport coord first entries).mem = s.mem := rfl
@[simp] theorem execExpertLoadReport_keeps (coord : BitVec 15) (first : Fin 256) (entries : List W32) (s : State) :
    KeepsMem s (execExpertLoadReport coord first entries s) := by simp [execExpertLoadReport]

/-! #### The frame of Machine/Power -/

@[simp] theorem State.updPwr_mem (s : State) (b : Nat) (f : BayPower → BayPower) : (s.updPwr b f).mem = s.mem := rfl
@[simp] theorem State.windowEnd_mem (s : State) (w : PowerWindow) : (s.windowEnd w).mem = s.mem := by
  simp only [State.windowEnd]
  refine foldl_mem _ (fun s a => ?_) _ _
  simp
@[simp] theorem execPowerWindowEnd_keeps (w : PowerWindow) (s : State) : KeepsMem s (execPowerWindowEnd w s) := by
  simp [execPowerWindowEnd]
@[simp] theorem State.dutyPeriod_mem (s : State) : s.dutyPeriod.mem = s.mem := by simp [State.dutyPeriod]
@[simp] theorem execDutyPeriodEnd_keeps (s : State) : KeepsMem s (execDutyPeriodEnd s) := by simp [execDutyPeriodEnd]
@[simp] theorem State.lowMargin_mem (s : State) : s.lowMargin.mem = s.mem := by simp [State.lowMargin]
@[simp] theorem State.enterCodes_mem (s : State) (codes : List Nat) : (s.enterCodes codes).mem = s.mem := by simp [State.enterCodes]
@[simp] theorem State.applyCodes_mem (s : State) (c : Nat) : (s.applyCodes c).mem = s.mem := by simp [State.applyCodes]
@[simp] theorem State.setShares_mem (s : State) : s.setShares.mem = s.mem := by simp [State.setShares]
@[simp] theorem State.powerStart_mem (s : State) : s.powerStart.mem = s.mem := by
  simp only [State.powerStart]
  refine foldl_mem _ (fun s a => ?_) _ _
  simp
@[simp] theorem State.rampRaise_mem (s : State) (demand : List Nat) : (s.rampRaise demand).mem = s.mem := by simp [State.rampRaise]
@[simp] theorem State.keepExpire_mem (s : State) : s.keepExpire.mem = s.mem := by simp [State.keepExpire]
@[simp] theorem execBallastKeepExpire_keeps (s : State) : KeepsMem s (execBallastKeepExpire s) := by simp [execBallastKeepExpire]
@[simp] theorem State.ballastCc_mem (s : State) : s.ballastCc.mem = s.mem := by simp [State.ballastCc]

/-! #### The frame of Machine/Audit -/

@[simp] theorem State.rampLook_mem (s : State) : s.rampLook.mem = s.mem := by simp [State.rampLook]
@[simp] theorem execRampRaise_keeps (_look : Unit) (s : State) : KeepsMem s (execRampRaise _look s) := by simp [execRampRaise]

/-! #### The frame of Machine/Cells -/

@[simp] theorem State.updCs_mem (s : State) (c : Nat) (f : CircState → CircState) : (s.updCs c f).mem = s.mem := rfl
@[simp] theorem State.updPort_mem (s : State) (p : Nat) (f : FabPort → FabPort) : (s.updPort p f).mem = s.mem := rfl
@[simp] theorem State.faultFab_mem (s : State) (x : Nat) (k : FaultKind) (detail circ port : Nat) :
    (s.faultFab x k detail circ port).mem = s.mem := by simp [State.faultFab]

/-! #### The frame of Machine/Port -/

@[simp] theorem State.ptAddr_mem (s : State) (k : Ctx) (r kind : Nat) (write : Bool) (x : Nat) :
    (s.ptAddr k r kind write x).1.mem = s.mem := by
  have h := s.locate_mem k r kind write x
  unfold State.ptAddr
  generalize s.locate k r kind write x = p at *
  obtain ⟨t, _ | a⟩ := p
  · exact h
  · simpa using h
@[simp] theorem State.usesPort_mem (s : State) (k : Ctx) (port : Nat) : (s.usesPort k port).mem = s.mem := rfl
@[simp] theorem State.ntRead_mem (s : State) (k : Ctx) (a : Nat) (dst : BitVec 4) : (s.ntRead k a dst).mem = s.mem := by
  simp [State.ntRead]
@[simp] theorem State.ntWrite_mem (s : State) (k : Ctx) (a : Nat) (d : BeatData) : (s.ntWrite k a d).mem = s.mem := by
  simp [State.ntWrite]
@[simp] theorem State.ptGetRep_mem (w : FmtM) (s : State) (k : Ctx) (o : Outst) : (State.ptGetRep w s k o).1.mem = s.mem := by
  have h := s.ptAddr_mem k w.region.toNat 3 false (lsOffset w k o)
  unfold State.ptGetRep
  generalize s.ptAddr k w.region.toNat 3 false (lsOffset w k o) = p at *
  obtain ⟨t, _ | a⟩ := p
  · exact h
  · simpa using h
@[simp] theorem execPtGet_keeps (q : Queue) (w : FmtM) (s : State) : KeepsMem s (execPtGet q w s) := by simp [execPtGet]
@[simp] theorem State.ptPutRep_mem (w : FmtM) (s : State) (k : Ctx) (o : Outst) : (State.ptPutRep w s k o).1.mem = s.mem := by
  unfold State.ptPutRep
  split
  · simp
  have hd := s.takeBeat_mem k w.data.toNat w.toff
  generalize s.takeBeat k w.data.toNat w.toff = p at *
  obtain ⟨u, d⟩ := p
  have h := u.ptAddr_mem k w.region.toNat 3 true (lsOffset w k o)
  dsimp only
  generalize u.ptAddr k w.region.toNat 3 true (lsOffset w k o) = p at *
  obtain ⟨t, _ | a⟩ := p <;> simp_all
@[simp] theorem execPtPut_keeps (q : Queue) (w : FmtM) (s : State) : KeepsMem s (execPtPut q w s) := by simp [execPtPut]
@[simp] theorem State.bbBeat_mem (s : State) (k : Ctx) (w : FmtM) (write valid : Bool) (u : Option Nat) (x : Nat) :
    (s.bbBeat k w write valid u x).mem = s.mem := by
  show SameMem s _
  unfold State.bbBeat
  split
  rename_i t d e
  have ht : SameMem s (t, d).1 := by rw [← e]; simp
  have h : SameMem t _ := t.ptAddr_mem k w.region.toNat 2 write x
  split <;> rename_i e <;> rw [e] at h <;> simp_all
@[simp] theorem State.nbrBeat_mem (s : State) (k : Ctx) (w : FmtM) (write valid : Bool) (u : Option Nat) (x : Nat) :
    (s.nbrBeat k w write valid u x).mem = s.mem := by
  show SameMem s _
  unfold State.nbrBeat
  split
  rename_i t d e
  have ht : SameMem s (t, d).1 := by rw [← e]; simp
  have h : SameMem t _ := t.ptAddr_mem k (w.region.toNat % 16) 1 write x
  split
  · exact ht
  · split <;> rename_i e <;> rw [e] at h <;> simp_all
@[simp] theorem State.bgBeat_mem (s : State) (l : Nat) (b : Background) : (s.bgBeat l b).mem = s.mem := by
  show SameMem s _
  simp only [State.bgBeat]
  split <;>
  · split
    · simp
    · split <;> simp
@[simp] theorem State.bgStep_mem (s : State) (l : Nat) : (s.bgStep l).mem = s.mem := by
  unfold State.bgStep
  split <;> simp
@[simp] theorem State.bgEnd_mem (s : State) (l : Nat) : (s.bgEnd l).mem = s.mem := by
  unfold State.bgEnd
  (repeat' split) <;> simp
@[simp] theorem State.issueBg_keeps (s : State) (q : Queue) (i : Instr) (writes : Bool) : KeepsMem s (s.issueBg q i writes) := by
  refine State.issueWith_keeps _ _ _ _ _ fun u => ?_
  simp only [sameMem_iff, State.advance_mem, mem_ite, State.faultK_mem, State.bgBeat_mem, State.updQ_mem, ite_self]
@[simp] theorem execPtBget_keeps (q : Queue) (w : FmtM) (s : State) : KeepsMem s (execPtBget q w s) := by simp [execPtBget]
@[simp] theorem execPtBput_keeps (q : Queue) (w : FmtM) (s : State) : KeepsMem s (execPtBput q w s) := by simp [execPtBput]
@[simp] theorem execPtNget_keeps (q : Queue) (w : FmtM) (s : State) : KeepsMem s (execPtNget q w s) := by simp [execPtNget]
@[simp] theorem execPtNput_keeps (q : Queue) (w : FmtM) (s : State) : KeepsMem s (execPtNput q w s) := by simp [execPtNput]
@[simp] theorem execBackgroundBeat_keeps (l : LineId) (s : State) : KeepsMem s (execBackgroundBeat l s) := by simp [execBackgroundBeat]
@[simp] theorem State.ptSendRep_mem (w : FmtO) (s : State) (k : Ctx) (o : Outst) : (State.ptSendRep w s k o).1.mem = s.mem := by
  simp [State.ptSendRep]
@[simp] theorem execPtSend_keeps (q : Queue) (w : FmtO) (s : State) : KeepsMem s (execPtSend q w s) := by simp [execPtSend]
@[simp] theorem State.takeDescriptor_mem (s : State) (k : Ctx) (b : BeatData) (i : Nat) : (s.takeDescriptor k b i).mem = s.mem := by
  unfold State.takeDescriptor
  (repeat' split) <;> simp
@[simp] theorem State.ptGmvRep_mem (w : FmtM) (s : State) (k : Ctx) (o : Outst) : (State.ptGmvRep w s k o).1.mem = s.mem := by
  simp [State.ptGmvRep]
@[simp] theorem execPtGmv_keeps (q : Queue) (w : FmtM) (s : State) : KeepsMem s (execPtGmv q w s) := by simp [execPtGmv]
@[simp] theorem State.readReturns_mem (s : State) (st : Station) (l x : Nat) : (s.readReturns st l x).mem = s.mem := by
  simp [State.readReturns]
@[simp] theorem execPtReadReturn_keeps (l : LineId) (s : State) : KeepsMem s (execPtReadReturn l s) := by simp [execPtReadReturn]

/-! #### The frame of Machine/Fabric -/

@[simp] theorem State.launch_mem (s : State) (p : Nat) (i : DynItem) : (s.launch p i).mem = s.mem := rfl
@[simp] theorem State.launchAgain_mem (s : State) (p : Nat) : (s.launchAgain p).mem = s.mem := by
  unfold State.launchAgain
  split <;> simp
@[simp] theorem State.portLost_mem (s : State) (p : Nat) : (s.portLost p).mem = s.mem := by simp [State.portLost]
@[simp] theorem State.portFail_mem (s : State) (p code : Nat) : (s.portFail p code).mem = s.mem := by simp [State.portFail]
@[simp] theorem State.replayFrom_mem (s : State) (p num : Nat) : (s.replayFrom p num).mem = s.mem := by simp [State.replayFrom]
@[simp] theorem execReplayRequest_keeps (port : PortId) (seq : BitVec 31) (s : State) : KeepsMem s (execReplayRequest port seq s) := by
  simp [execReplayRequest]
@[simp] theorem State.receive_mem (s : State) (p : Nat) (c : LinkCell) : (s.receive p c).1.mem = s.mem := by simp [State.receive]
@[simp] theorem State.claim_mem (s : State) (c q n : Nat) (pkt : Packet) : (s.claim c q n pkt).mem = s.mem := by
  simp only [State.claim]
  refine foldl_mem _ (fun s a => ?_) _ _
  split <;> simp
@[simp] theorem State.makeReady_mem (s : State) (r : ReadyPkt) : (s.makeReady r).mem = s.mem := by simp [State.makeReady]
@[simp] theorem State.packetsReady_mem (s : State) (c : Nat) : (s.packetsReady c).mem = s.mem := by simp [State.packetsReady]
@[simp] theorem execScheduledPacketReady_keeps (circ : Fin 4096) (s : State) : KeepsMem s (execScheduledPacketReady circ s) := by
  simp [execScheduledPacketReady]
@[simp] theorem State.departure_mem (s : State) (p : Nat) : (s.departure p).mem = s.mem := by
  unfold State.departure
  (repeat' split) <;> simp
@[simp] theorem execScheduledPacketDeparture_keeps (port : PortId) (s : State) : KeepsMem s (execScheduledPacketDeparture port s) := by
  simp [execScheduledPacketDeparture]
@[simp] theorem State.leadCheck_mem (s : State) (p : Nat) : (s.leadCheck p).mem = s.mem := by simp [State.leadCheck]
@[simp] theorem execFabLeadCheck_keeps (port : PortId) (s : State) : KeepsMem s (execFabLeadCheck port s) := by simp [execFabLeadCheck]
@[simp] theorem State.leadFreed_mem (s : State) : s.leadFreed.mem = s.mem := rfl
@[simp] theorem State.scheduledArrival_mem (s : State) (p : Nat) (k : Packet) : (s.scheduledArrival p k).mem = s.mem := by
  simp [State.scheduledArrival]
@[simp] theorem State.lateCheck_mem (s : State) (c q n : Nat) : (s.lateCheck c q n).mem = s.mem := by simp [State.lateCheck]
@[simp] theorem execFabLateCheck_keeps (circ : Fin 4096) (seq index : Nat) (s : State) :
    KeepsMem s (execFabLateCheck circ seq index s) := by simp [execFabLateCheck]
@[simp] theorem State.deliverBeat_mem (s : State) (land aux a x : Nat) (d : BeatData) :
    (s.deliverBeat land aux a x d).mem = s.mem := by simp [State.deliverBeat]
@[simp] theorem State.deliverMem_mem (s : State) (land aux u : Nat) (k : Packet) (data : BitVec 2048) :
    (s.deliverMem land aux u k data).mem = s.mem := by
  unfold State.deliverMem
  (repeat' split) <;> simp
@[simp] theorem State.sendNext_mem (s : State) (next m q : Nat) (k : Packet) (data : BitVec 2048) :
    (s.sendNext next m q k data).mem = s.mem := by simp [State.sendNext]
@[simp] theorem State.takeLocal_mem (s : State) (c q : Nat) : (s.takeLocal c q).mem = s.mem := rfl
@[simp] theorem State.endFunctions_mem (s : State) (e : LeadEnt) (data : BitVec 2048) : (s.endFunctions e data).mem = s.mem := by
  simp only [State.endFunctions]
  (repeat' split) <;> simp
@[simp] theorem State.usePacket_mem (s : State) (e : LeadEnt) : (s.usePacket e).mem = s.mem := by
  simp only [State.usePacket]
  (repeat' split) <;> simp
@[simp] theorem State.useCircuit_mem (s : State) (c : Nat) : (s.useCircuit c).mem = s.mem := by simp [State.useCircuit]
@[simp] theorem execScheduledPacketUse_keeps (circ : Fin 4096) (s : State) : KeepsMem s (execScheduledPacketUse circ s) := by
  simp [execScheduledPacketUse]
@[simp] theorem State.signals_mem (s : State) (l : Nat) : (s.signals l).mem = s.mem := by
  simp only [State.signals]
  refine foldl_mem _ (fun s a => ?_) _ _
  simp
@[simp] theorem execSignalApply_keeps (l : LineId) (s : State) : KeepsMem s (execSignalApply l s) := by simp [execSignalApply]
@[simp] theorem State.landCheck_mem (s : State) (x : Nat) : (s.landCheck x).mem = s.mem := by simp [State.landCheck]
@[simp] theorem State.ptFgetRep_mem (w : FmtM) (s : State) (k : Ctx) (o : Outst) : (State.ptFgetRep w s k o).1.mem = s.mem := by
  unfold State.ptFgetRep
  dsimp only
  generalize hu : State.useCircuit _ _ = u
  have hm : u.mem = s.mem := by rw [← hu]; simp
  have h := u.locate_mem k w.region.toNat 5 false (lsOffset w k o)
  generalize u.locate k w.region.toNat 5 false (lsOffset w k o) = p at *
  obtain ⟨t, _ | a⟩ := p
  · simp_all
  dsimp only at h ⊢
  show SameMem s _
  split
  · simp_all
  · split
    · simp_all
    · dsimp only
      split <;> simp_all
  · simp_all
@[simp] theorem execPtFget_keeps (q : Queue) (w : FmtM) (s : State) : KeepsMem s (execPtFget q w s) := by simp [execPtFget]
@[simp] theorem State.dynPacket_mem (s : State) (k : Ctx) (g : Region) (tag addr : Nat) (payload : BitVec 2048) (last : Bool) :
    (s.dynPacket k g tag addr payload last).mem = s.mem := rfl
@[simp] theorem State.fput_mem (s : State) (k : Ctx) (g : Region) (o : Outst) (addr : Nat) (payload : BitVec 2048) :
    (s.fput k g o addr payload).1.mem = s.mem := by simp [State.fput]
@[simp] theorem State.ptFputRep_mem (w : FmtM) (s : State) (k : Ctx) (o : Outst) : (State.ptFputRep w s k o).1.mem = s.mem := by
  unfold State.ptFputRep
  dsimp only
  split
  · simp
  have hd := (s.usesPort k 0).takeBeat_mem k w.data.toNat w.toff
  generalize (s.usesPort k 0).takeBeat k w.data.toNat w.toff = p at *
  obtain ⟨u, d⟩ := p
  have h := u.locate_mem k w.region.toNat 5 true (lsOffset w k o)
  dsimp only
  generalize u.locate k w.region.toNat 5 true (lsOffset w k o) = p at *
  obtain ⟨t, _ | a⟩ := p <;> simp_all
@[simp] theorem execPtFput_keeps (q : Queue) (w : FmtM) (s : State) : KeepsMem s (execPtFput q w s) := by simp [execPtFput]
@[simp] theorem State.freeEntry_mem (s : State) (src : Option (Nat × Nat)) : (s.freeEntry src).mem = s.mem := by
  unfold State.freeEntry
  split <;> simp
@[simp] theorem State.queueItem_mem (s : State) (i : DynItem) (src : Option (Nat × Nat)) : (s.queueItem i src).mem = s.mem := by
  unfold State.queueItem
  split <;> simp
@[simp] theorem State.dynConsumed_mem (s : State) : s.dynConsumed.mem = s.mem := by simp [State.dynConsumed]
@[simp] theorem State.busyFrom_mem (s : State) (dst : BitVec 15) (tag addr : Nat) : (s.busyFrom dst tag addr).mem = s.mem := rfl
@[simp] theorem State.transferDone_mem (s : State) (x : Transfer) : (s.transferDone x).mem = s.mem := by
  unfold State.transferDone
  split <;> simp
@[simp] theorem State.doneFrom_mem (s : State) (dst : BitVec 15) (tag addr : Nat) : (s.doneFrom dst tag addr).mem = s.mem := by
  simp [State.doneFrom]
@[simp] theorem State.ownMessage_mem (s : State) (m : Message) : (s.ownMessage m).mem = s.mem := by
  unfold State.ownMessage
  split <;> simp
@[simp] theorem State.message_mem (s : State) (dst : BitVec 15) (m : Message) : (s.message dst m).mem = s.mem := by
  simp [State.message]
@[simp] theorem State.dynReceive_mem (s : State) (k : Packet) : (s.dynReceive k).mem = s.mem := by simp [State.dynReceive]
@[simp] theorem State.dynForMe_mem (s : State) (k : Packet) : (s.dynForMe k).mem = s.mem := by simp [State.dynForMe]
@[simp] theorem State.inject_mem (s : State) (k : Packet) : (s.inject k).mem = s.mem := by simp [State.inject]
@[simp] theorem State.injectOne_mem (s : State) (d : DynOut) : (s.injectOne d).mem = s.mem := by simp [State.injectOne]
@[simp] theorem State.injectDue_mem (s : State) : s.injectDue.mem = s.mem := by simp [State.injectDue]
@[simp] theorem State.dynArrival_mem (s : State) (p : Nat) (k : Packet) : (s.dynArrival p k).mem = s.mem := by simp [State.dynArrival]
@[simp] theorem State.accept_mem (s : State) (p : Nat) (k : Packet) : (s.accept p k).mem = s.mem := by simp [State.accept]
@[simp] theorem State.hold_mem (s : State) (p : Nat) (k : Packet) : (s.hold p k).mem = s.mem := by simp [State.hold]
@[simp] theorem State.portHolds_mem (s : State) (p : Nat) : (s.portHolds p).mem = s.mem := by simp [State.portHolds]
@[simp] theorem State.delayed_mem (s : State) : s.delayed.mem = s.mem := by simp [State.delayed]
@[simp] theorem execScheduledPacketArrival_keeps (port : PortId) (cell : LinkCell) (s : State) :
    KeepsMem s (execScheduledPacketArrival port cell s) := by
  have h := s.receive_mem port cell
  unfold execScheduledPacketArrival
  generalize s.receive port cell = p at *
  obtain ⟨t, _ | k⟩ := p <;> simp_all
@[simp] theorem execDynamicDataArrival_keeps (port : PortId) (cell : LinkCell) (s : State) :
    KeepsMem s (execDynamicDataArrival port cell s) := by
  have h := s.receive_mem port cell
  unfold execDynamicDataArrival
  generalize s.receive port cell = p at *
  obtain ⟨t, _ | k⟩ := p <;> simp_all
@[simp] theorem State.sendVc_mem (s : State) (p v : Nat) : (s.sendVc p v).mem = s.mem := by
  unfold State.sendVc
  split <;> simp
@[simp] theorem State.dynForward_mem (s : State) (p : Nat) : (s.dynForward p).mem = s.mem := by
  simp only [State.dynForward]
  (repeat' split) <;> simp
@[simp] theorem execDynamicForward_keeps (port : PortId) (s : State) : KeepsMem s (execDynamicForward port s) := by
  simp [execDynamicForward]
@[simp] theorem execDynamicFlagChange_keeps (flag : Fin 1024) (set : Bool) (s : State) :
    KeepsMem s (execDynamicFlagChange flag set s) := by simp [execDynamicFlagChange]
@[simp] theorem execBusyNotice_keeps (dst : BitVec 15) (tag : W32) (addr : BitVec 42) (s : State) :
    KeepsMem s (execBusyNotice dst tag addr s) := by simp [execBusyNotice]
@[simp] theorem execBusyResend_keeps (dst : BitVec 15) (tag : W32) (addr : BitVec 42) (s : State) :
    KeepsMem s (execBusyResend dst tag addr s) := by simp [execBusyResend]
@[simp] theorem execDoneNotice_keeps (dst : BitVec 15) (tag : W32) (addr : BitVec 42) (s : State) :
    KeepsMem s (execDoneNotice dst tag addr s) := by simp [execDoneNotice]
@[simp] theorem State.abortFrom_mem (s : State) (origin : BitVec 15) : (s.abortFrom origin).mem = s.mem := by simp [State.abortFrom]
@[simp] theorem execAbortNotice_keeps (origin : BitVec 15) (s : State) : KeepsMem s (execAbortNotice origin s) := by
  simp [execAbortNotice]
@[simp] theorem State.reportTo_mem (s : State) (group : List (BitVec 15)) (first : Nat) (es : List W32) :
    (s.reportTo group first es).mem = s.mem := by simp [State.reportTo]
@[simp] theorem State.sendReports_mem (s : State) : s.sendReports.mem = s.mem := by
  unfold State.sendReports
  split <;> simp
@[simp] theorem execExpertLoadReportSend_keeps (s : State) : KeepsMem s (execExpertLoadReportSend s) := by
  simp [execExpertLoadReportSend]

/-! #### The frame of Machine/Granary -/

@[simp] theorem State.freeMoves_mem (s : State) : s.freeMoves.mem = s.mem := rfl
@[simp] theorem State.enterMove_mem (s : State) (f : MoveFly) : (s.enterMove f).mem = s.mem := by simp [State.enterMove]
@[simp] theorem State.enterMoves_mem (s : State) : s.enterMoves.mem = s.mem := by simp [State.enterMoves]
@[simp] theorem execMoveDescriptorEntry_keeps (s : State) : KeepsMem s (execMoveDescriptorEntry s) := by simp [execMoveDescriptorEntry]
@[simp] theorem execMoveEntryFree_keeps (s : State) : KeepsMem s (execMoveEntryFree s) := by simp [execMoveEntryFree]
@[simp] theorem State.updPair_mem (s : State) (u : Nat) (f : GrPair → GrPair) : (s.updPair u f).mem = s.mem := rfl
@[simp] theorem State.countBytes_mem (s : State) (a n : Nat) : (s.countBytes a n).mem = s.mem := by simp [State.countBytes]
@[simp] theorem State.burstMark_mem (s : State) (a : Nat) : (s.burstMark a).mem = s.mem := by
  unfold State.burstMark
  split <;> simp
@[simp] theorem State.burstFound_mem (s : State) (a : Nat) (bad : Bool) (src : Nat) : (s.burstFound a bad src).mem = s.mem := by
  unfold State.burstFound
  split <;> simp
@[simp] theorem State.readBursts_mem (s : State) (a n : Nat) (found : BurstFinding) : (s.readBursts a n found).mem = s.mem := by
  unfold State.readBursts
  split <;> simp
@[simp] theorem State.grRead_mem (s : State) (a n : Nat) : (s.grRead a n).mem = s.mem := by simp [State.grRead]
@[simp] theorem State.countBuffer_mem (s : State) (a : Nat) (write : Bool) : (s.countBuffer a write).mem = s.mem := by
  simp [State.countBuffer]
@[simp] theorem State.engineRow_mem (s : State) (r dst : Nat) : (s.engineRow r dst).mem = s.mem := by
  show SameMem s _
  unfold State.engineRow
  split
  · simp
  split
  · refine (foldl_mem _ (fun t m => ?_) _ _).trans ?_
    · split <;> simp
    · simp
  · refine State.ntRow_mem _ _ _ _ _ _ fun t a => ?_
    dsimp only
    split <;> simp
@[simp] theorem State.chunkFinding_mem (s : State) (c : Chunk) : (s.chunkFinding c).mem = s.mem := by
  unfold State.chunkFinding
  refine (foldl_mem _ (fun t a => ?_) _ _).trans ?_
  · dsimp only
    split <;> simp
  · simp
@[simp] theorem State.wholeChunk_mem (s : State) (a n : Nat) : (s.wholeChunk a n).mem = s.mem := rfl
@[simp] theorem State.endChunk_mem (s : State) (c : Chunk) : (s.endChunk c).mem = s.mem := by simp [State.endChunk]
@[simp] theorem State.pullProgress_mem (s : State) (a : Nat) : (s.pullProgress a).mem = s.mem := by simp [State.pullProgress]
@[simp] theorem State.completeMove_mem (s : State) : s.completeMove.mem = s.mem := by
  unfold State.completeMove
  split <;> simp
@[simp] theorem execMoveComplete_keeps (s : State) : KeepsMem s (execMoveComplete s) := by simp [execMoveComplete]
@[simp] theorem State.scrub_mem (s : State) (c : Nat) (found : BurstFinding) : (s.scrub c found).mem = s.mem := by
  simp only [State.scrub]
  (repeat' split) <;> simp
@[simp] theorem execGranaryScrub_keeps (channel : Fin 8) (found : BurstFinding) (s : State) :
    KeepsMem s (execGranaryScrub channel found s) := by simp [execGranaryScrub]

/-! #### The frame of Machine/Mailbox -/

@[simp] theorem State.updHp_mem (s : State) (p : Nat) (f : HostPort → HostPort) : (s.updHp p f).mem = s.mem := rfl
@[simp] theorem State.hostErr_mem (s : State) (p n : Nat) : (s.hostErr p n).mem = s.mem := rfl
@[simp] theorem State.logAer_mem (s : State) (p : Nat) (m : W32) : (s.logAer p m).mem = s.mem := rfl
@[simp] theorem State.unclaimed_mem (s : State) (w : Requester) : (s.unclaimed w).mem = s.mem := by
  unfold State.unclaimed
  split <;> simp
@[simp] theorem State.readHost_mem (s : State) (p a n : Nat) : (s.readHost p a n).mem = s.mem := by simp [State.readHost]
@[simp] theorem State.msix_mem (s : State) (p v : Nat) : (s.msix p v).mem = s.mem := by simp [State.msix]
@[simp] theorem State.msixPending_mem (s : State) (p v : Nat) : (s.msixPending p v).mem = s.mem := by simp [State.msixPending]
@[simp] theorem State.updBox_mem (s : State) (b : MailboxId) (f : Mailbox → Mailbox) : (s.updBox b f).mem = s.mem := rfl
@[simp] theorem State.interrupt_mem (s : State) (b : MailboxId) (mgmt : Bool) : (s.interrupt b mgmt).mem = s.mem := by
  unfold State.interrupt
  (repeat' split) <;> simp
@[simp] theorem State.boxDrop_mem (s : State) (b : MailboxId) : (s.boxDrop b).mem = s.mem := rfl
@[simp] theorem State.busError_mem (s : State) (w : Requester) (write : Bool) : (s.busError w write).mem = s.mem := by
  unfold State.busError
  split <;> simp
@[simp] theorem State.noEnd_mem (s : State) (w : Requester) : (s.noEnd w).mem = s.mem := by simp [State.noEnd]
@[simp] theorem State.boxAccess_mem (s : State) (b : MailboxId) (w : Requester) (write : Bool) (f : State → Bool → State)
    (hf : ∀ u x1, SameMem u (f u x1)) :
    (s.boxAccess b w write f).mem = s.mem := by
  simp only [sameMem_iff] at *
  unfold State.boxAccess
  split <;> simp [*]
@[simp] theorem State.claimBox_mem (s : State) (box : MailboxId) (who : Requester) : (s.claimBox box who).mem = s.mem := by
  simp [State.claimBox]
@[simp] theorem execMbClaim_keeps (box : MailboxId) (who : Requester) (s : State) : KeepsMem s (execMbClaim box who s) := by
  simp [execMbClaim]
@[simp] theorem State.msgWrite_mem (s : State) (box : MailboxId) (who : Requester) (w : Nat) (value : W32) :
    (s.msgWrite box who w value).mem = s.mem := by simp [State.msgWrite]
@[simp] theorem execMbMsgWrite_keeps (box : MailboxId) (who : Requester) (w : Fin 16) (value : W32) (s : State) :
    KeepsMem s (execMbMsgWrite box who w value s) := by simp [execMbMsgWrite]
@[simp] theorem State.ring_mem (s : State) (b : MailboxId) (sender : Bool) (v : W32) : (s.ring b sender v).mem = s.mem := by
  simp [State.ring]
@[simp] theorem State.dbset_mem (s : State) (box : MailboxId) (who : Requester) (value : W32) :
    (s.dbset box who value).mem = s.mem := by simp [State.dbset]
@[simp] theorem execMbDbset_keeps (box : MailboxId) (who : Requester) (value : W32) (s : State) :
    KeepsMem s (execMbDbset box who value s) := by simp [execMbDbset]
@[simp] theorem State.drainBox_mem (s : State) (b : MailboxId) (me : Bool) : (s.drainBox b me).mem = s.mem := by simp [State.drainBox]
@[simp] theorem State.dbclr_mem (s : State) (box : MailboxId) (who : Requester) (value : W32) :
    (s.dbclr box who value).mem = s.mem := by
  unfold State.dbclr
  split <;> simp
@[simp] theorem execMbDbclr_keeps (box : MailboxId) (who : Requester) (value : W32) (s : State) :
    KeepsMem s (execMbDbclr box who value s) := by simp [execMbDbclr]
@[simp] theorem State.postBox_mem (s : State) (b : MailboxId) (m0 m1 : Nat) : (s.postBox b m0 m1).mem = s.mem := by
  simp [State.postBox]
@[simp] theorem execMbUnclaim_keeps (box : MailboxId) (who : Requester) (s : State) : KeepsMem s (execMbUnclaim box who s) := by
  simp [execMbUnclaim]
@[simp] theorem execMbAck_keeps (box : MailboxId) (who : Requester) (s : State) : KeepsMem s (execMbAck box who s) := by
  simp [execMbAck]
@[simp] theorem State.boxReset_mem (s : State) (b : MailboxId) (mgmt : Bool) : (s.boxReset b mgmt).mem = s.mem := by
  simp [State.boxReset]
@[simp] theorem State.allowOwner_mem (s : State) : s.allowOwner.mem = s.mem := rfl

/-! #### The frame of Machine/Rings -/

@[simp] theorem State.updSq_mem (s : State) (p q : Nat) (f : SubRing → SubRing) : (s.updSq p q f).mem = s.mem := rfl
@[simp] theorem State.updCq_mem (s : State) (p q : Nat) (f : ComRing → ComRing) : (s.updCq p q f).mem = s.mem := rfl
@[simp] theorem execSqDb_keeps (port : HostId) (ring : RingId) (value : W32) (s : State) :
    KeepsMem s (execSqDb port ring value s) := by simp [execSqDb]
@[simp] theorem execCqDb_keeps (port : HostId) (ring : RingId) (value : W32) (s : State) :
    KeepsMem s (execCqDb port ring value s) := by simp [execCqDb]
@[simp] theorem State.cqInterrupt_mem (s : State) (p q : Nat) : (s.cqInterrupt p q).mem = s.mem := by simp [State.cqInterrupt]
@[simp] theorem State.postFirst_mem (s : State) (p q : Nat) : (s.postFirst p q).mem = s.mem := by
  simp only [State.postFirst]
  (repeat' split) <;> simp
@[simp] theorem State.cqTimes_mem (s : State) : s.cqTimes.mem = s.mem := by simp [State.cqTimes]
@[simp] theorem execCqInterrupt_keeps (port : HostId) (cq : RingId) (s : State) : KeepsMem s (execCqInterrupt port cq s) := by
  simp [execCqInterrupt]
@[simp] theorem State.event_mem (s : State) (p : Nat) (c : Completion) : (s.event p c).mem = s.mem := by simp [State.event]
@[simp] theorem State.finish_mem (s : State) (p q status detail value : Nat) : (s.finish p q status detail value).mem = s.mem := by
  simp only [State.finish]
  split <;> simp
@[simp] theorem State.skim_mem (s : State) (p q : Nat) : (s.skim p q).mem = s.mem := by
  simp only [State.skim]
  split <;> simp
@[simp] theorem State.complete_mem (s : State) (p q status detail value : Nat) : (s.complete p q status detail value).mem = s.mem := by
  unfold State.complete
  split <;> simp
theorem State.beginRec_mem (s t : State) (p q : Nat) (typ : Nat → Bool) (r : FetchedRec) (h : s.beginRec p q typ = some (t, r)) :
    t.mem = s.mem := by
  unfold State.beginRec at h
  dsimp only at h
  split at h
  · split at h
    · cases h
      simp
    · cases h
  · cases h
@[simp] theorem execCompletionPost_keeps (port : HostId) (cq : RingId) (s : State) : KeepsMem s (execCompletionPost port cq s) := by
  unfold execCompletionPost
  split <;> simp
@[simp] theorem State.record_mem (s : State) (p q : Nat) (typ : Nat → Bool) (f : State → FetchedRec → State)
    (hf : ∀ u r, SameMem u (f u r)) :
    (s.record p q typ f).mem = s.mem := by
  simp only [sameMem_iff] at hf
  show SameMem s _
  unfold State.record
  split
  · simp
  · rename_i t r e
    have ht := s.beginRec_mem _ p q typ _ e
    split <;> simp [hf, ht]
@[simp] theorem State.jobRecord_mem (s : State) (p q : Nat) (typ : Nat → Bool) (f : State → FetchedRec → State)
    (hf : ∀ u r, SameMem u (f u r)) :
    (s.jobRecord p q typ f).mem = s.mem := by
  simp only [sameMem_iff] at hf
  simp [State.jobRecord, hf]
@[simp] theorem State.holdJc_mem (s : State) (p q : Nat) : (s.holdJc p q).mem = s.mem := rfl
@[simp] theorem State.freeJc_mem (s : State) (p q : Nat) : (s.freeJc p q).mem = s.mem := by simp [State.freeJc]
@[simp] theorem State.fetch_mem (s : State) (p q : Nat) (units : List (BitVec 512)) : (s.fetch p q units).mem = s.mem := by
  simp [State.fetch]
@[simp] theorem execBaleFetch_keeps (port : HostId) (ring : RingId) (units : List (BitVec 512)) (s : State) :
    KeepsMem s (execBaleFetch port ring units s) := by simp [execBaleFetch]
@[simp] theorem execPadRec_keeps (port : HostId) (ring : RingId) (s : State) : KeepsMem s (execPadRec port ring s) := by
  simp only [execPadRec, keepsMem_next]
  show SameMem s _
  split
  · rename_i e
    simp [s.beginRec_mem _ _ _ _ _ e]
  · simp
@[simp] theorem execNopRec_keeps (port : HostId) (ring : RingId) (s : State) : KeepsMem s (execNopRec port ring s) := by
  simp [execNopRec]
@[simp] theorem State.lockTap_mem (s : State) : s.lockTap.mem = s.mem := rfl
@[simp] theorem State.changeOwner_mem (s : State) (how : Nat) : (s.changeOwner how).mem = s.mem := by simp [State.changeOwner]
@[simp] theorem execReleaseRec_keeps (port : HostId) (ring : RingId) (s : State) : KeepsMem s (execReleaseRec port ring s) := by
  simp [execReleaseRec]
@[simp] theorem State.takeover_mem (s : State) (by_ : Nat) : (s.takeover by_).mem = s.mem := by simp [State.takeover]
@[simp] theorem execOwnerTakeover_keeps (s : State) : KeepsMem s (execOwnerTakeover s) := by simp [execOwnerTakeover]
@[simp] theorem State.cutCopies_mem (s : State) (p : Nat) : (s.cutCopies p).mem = s.mem := by simp [State.cutCopies]
@[simp] theorem State.portReset_mem (s : State) (p : HostId) : (s.portReset p).mem = s.mem := by simp [State.portReset]
@[simp] theorem State.goDown_mem (s : State) (p : HostId) : (s.goDown p).mem = s.mem := rfl
@[simp] theorem execPerst_keeps (port : HostId) (asserted : Bool) (s : State) : KeepsMem s (execPerst port asserted s) := by
  simp [execPerst]
@[simp] theorem execLinkLeavesL0_keeps (port : HostId) (s : State) : KeepsMem s (execLinkLeavesL0 port s) := by simp [execLinkLeavesL0]
@[simp] theorem execPcieLinkUp_keeps (port : HostId) (rate width : Nat) (s : State) :
    KeepsMem s (execPcieLinkUp port rate width s) := by simp [execPcieLinkUp]
@[simp] theorem execD3hot_keeps (port : HostId) (entered : Bool) (s : State) : KeepsMem s (execD3hot port entered s) := by
  simp [execD3hot]

/-! #### The frame of Machine/Link -/

@[simp] theorem State.cellHead_mem (s : State) (p : Nat) (c : BitVec 256) : (s.cellHead p c).mem = s.mem := by simp [State.cellHead]
@[simp] theorem State.cell_mem (s : State) (p : Nat) (c : BitVec 256) (kind : Nat) (f : State → State) (hf : ∀ u, SameMem u (f u)) :
    (s.cell p c kind f).mem = s.mem := by
  simp only [sameMem_iff] at *
  unfold State.cell
  split <;> simp [*]
@[simp] theorem execControlCellNone_keeps (port : PortId) (cell : BitVec 256) (s : State) :
    KeepsMem s (execControlCellNone port cell s) := by simp [execControlCellNone]
@[simp] theorem State.creditRecord_mem (s : State) (p r : Nat) : (s.creditRecord p r).mem = s.mem := by simp [State.creditRecord]
@[simp] theorem execControlCellCredit_keeps (port : PortId) (cell : BitVec 256) (s : State) :
    KeepsMem s (execControlCellCredit port cell s) := by simp [execControlCellCredit]
@[simp] theorem State.timeCell_mem (s : State) (p : Nat) (c : BitVec 256) (valid : Bool) : (s.timeCell p c valid).mem = s.mem := by
  simp [State.timeCell]
@[simp] theorem execControlCellTime_keeps (port : PortId) (cell : BitVec 256) (peerValid : Bool) (s : State) :
    KeepsMem s (execControlCellTime port cell peerValid s) := by simp [execControlCellTime]
@[simp] theorem State.discover_mem (s : State) : s.discover.mem = s.mem := by
  unfold State.discover
  split <;> simp
@[simp] theorem State.identCell_mem (s : State) (p : Nat) (c : BitVec 256) : (s.identCell p c).mem = s.mem := by simp [State.identCell]
@[simp] theorem execControlCellIdent_keeps (port : PortId) (cell : BitVec 256) (s : State) :
    KeepsMem s (execControlCellIdent port cell s) := by simp [execControlCellIdent]
@[simp] theorem State.launchControl_mem (s : State) (p kind : Nat) : (s.launchControl p kind).mem = s.mem := by
  simp [State.launchControl]
@[simp] theorem execControlCellLaunch_keeps (port : PortId) (kind : Fin 4) (s : State) :
    KeepsMem s (execControlCellLaunch port kind s) := by simp [execControlCellLaunch]
@[simp] theorem State.portStep_mem (s : State) (p from_ to_ : Nat) (f : FabPort → FabPort) :
    (s.portStep p from_ to_ f).mem = s.mem := by simp [State.portStep]
@[simp] theorem execCagePresent_keeps (port : PortId) (s : State) : KeepsMem s (execCagePresent port s) := by simp [execCagePresent]
@[simp] theorem execCableRemoved_keeps (port : PortId) (s : State) : KeepsMem s (execCableRemoved port s) := by simp [execCableRemoved]
@[simp] theorem execEqualiserTrainingDone_keeps (port : PortId) (s : State) : KeepsMem s (execEqualiserTrainingDone port s) := by
  simp [execEqualiserTrainingDone]
@[simp] theorem execFrameLock_keeps (port : PortId) (s : State) : KeepsMem s (execFrameLock port s) := by simp [execFrameLock]
@[simp] theorem State.calibrate_mem (s : State) (p rt0 ta0 : Nat) : (s.calibrate p rt0 ta0).mem = s.mem := by simp [State.calibrate]
@[simp] theorem execCalibrationDone_keeps (port : PortId) (roundTrip turnaround : Nat) (s : State) :
    KeepsMem s (execCalibrationDone port roundTrip turnaround s) := by simp [execCalibrationDone]
@[simp] theorem execFecLockLoss_keeps (port : PortId) (s : State) : KeepsMem s (execFecLockLoss port s) := by simp [execFecLockLoss]
@[simp] theorem execControlCellTimeout_keeps (port : PortId) (s : State) : KeepsMem s (execControlCellTimeout port s) := by
  simp [execControlCellTimeout]
@[simp] theorem execPhaseWanderOverflow_keeps (port : PortId) (s : State) : KeepsMem s (execPhaseWanderOverflow port s) := by
  simp [execPhaseWanderOverflow]
@[simp] theorem execReferenceInvalid_keeps (ref : RefInput) (s : State) : KeepsMem s (execReferenceInvalid ref s) := by
  unfold execReferenceInvalid
  split <;> simp
@[simp] theorem State.lockClock_mem (s : State) (a b : Bool) : (s.lockClock a b).mem = s.mem := by simp [State.lockClock]
@[simp] theorem execClockLock_keeps (aValid bValid : Bool) (s : State) : KeepsMem s (execClockLock aValid bValid s) := by
  simp [execClockLock]
@[simp] theorem State.holdoverEnd_mem (s : State) : s.holdoverEnd.mem = s.mem := by simp [State.holdoverEnd]
@[simp] theorem execHoldoverExpire_keeps (s : State) : KeepsMem s (execHoldoverExpire s) := by simp [execHoldoverExpire]
@[simp] theorem State.releaseJob_mem (s : State) (sc0 at_ htc : Nat) : (s.releaseJob sc0 at_ htc).mem = s.mem := by
  simp only [State.releaseJob]
  split <;> simp
@[simp] theorem State.coordRelease_mem (s : State) : s.coordRelease.mem = s.mem := by
  unfold State.coordRelease
  split <;> simp
@[simp] theorem State.plainRelease_mem (s : State) : s.plainRelease.mem = s.mem := by
  unfold State.plainRelease
  split <;> simp
@[simp] theorem execCoordinatedRelease_keeps (s : State) : KeepsMem s (execCoordinatedRelease s) := by simp [execCoordinatedRelease]

/-! #### The frame of Machine/Harvest -/

@[simp] theorem State.expireHolds_mem (s : State) : s.expireHolds.mem = s.mem := rfl
@[simp] theorem execHoldRequestExpire_keeps (s : State) : KeepsMem s (execHoldRequestExpire s) := by simp [execHoldRequestExpire]
@[simp] theorem State.holdTimeout_mem (s : State) : s.holdTimeout.mem = s.mem := by simp [State.holdTimeout]
@[simp] theorem execHoldTimeout_keeps (s : State) : KeepsMem s (execHoldTimeout s) := by simp [execHoldTimeout]
@[simp] theorem State.repopulate_mem (s : State) : s.repopulate.mem = s.mem := rfl
@[simp] theorem State.disable_mem (s : State) (f : Func) : (s.disable f).mem = s.mem := by
  unfold State.disable
  split <;> simp
@[simp] theorem State.disableNow_mem (s : State) (f : Func) : (s.disableNow f).mem = s.mem := by simp [State.disableNow]
@[simp] theorem execDisableTakeEffect_keeps (f : Func) (s : State) : KeepsMem s (execDisableTakeEffect f s) := by
  simp [execDisableTakeEffect]
@[simp] theorem State.mapOut_mem (s : State) (l st row : Nat) : (s.mapOut l st row).mem = s.mem := by
  simp only [State.mapOut]
  split <;> simp
@[simp] theorem State.mapOuts_mem (s : State) (c : Nat) : (s.mapOuts c).mem = s.mem := by simp [State.mapOuts]
@[simp] theorem State.gleanerReport_mem (s : State) : s.gleanerReport.mem = s.mem := rfl
@[simp] theorem State.latchUnits_mem (s : State) : s.latchUnits.mem = s.mem := rfl
@[simp] theorem State.latchBoundary_mem (s : State) (h : Nat) : (s.latchBoundary h).mem = s.mem := rfl
@[simp] theorem State.raiseBoundary_mem (s : State) (b : Boundary) : (s.raiseBoundary b).mem = s.mem := by simp [State.raiseBoundary]
@[simp] theorem State.raiseBoundaries_mem (s : State) : s.raiseBoundaries.mem = s.mem := by simp [State.raiseBoundaries]
@[simp] theorem State.harvestEvent_mem (s : State) : s.harvestEvent.mem = s.mem := by simp [State.harvestEvent]
@[simp] theorem State.closeBoundary_mem (s : State) (b : Boundary) : (s.closeBoundary b).mem = s.mem := by simp [State.closeBoundary]
@[simp] theorem State.beginSnapshot_mem (s : State) (b : Boundary) : (s.beginSnapshot b).mem = s.mem := by
  unfold State.beginSnapshot
  split <;> simp
@[simp] theorem State.cutBoundary_mem (s : State) : s.cutBoundary.mem = s.mem := by simp [State.cutBoundary]

/-! #### The frame of Machine/Permute -/

@[simp] theorem State.namesTb_mem (s : State) (k : Ctx) (tb : Nat) (reads : Bool) : (s.namesTb k tb reads).mem = s.mem := by
  simp [State.namesTb]
@[simp] theorem State.tbWrite_mem (s : State) (k : Ctx) (tb row due : Nat) (b : BeatData) :
    (s.tbWrite k tb row due b).mem = s.mem := by
  simp only [State.tbWrite]
  (repeat' split) <;> simp
@[simp] theorem State.tbValid_mem (s : State) (k : Ctx) (tb : Nat) : (s.tbValid k tb).mem = s.mem := rfl
@[simp] theorem State.pxEmit_mem (s : State) (k : Ctx) (e : Nat) (dst : BitVec 4) (b : BeatData) :
    (s.pxEmit k e dst b).mem = s.mem := rfl
@[simp] theorem State.pxCount_mem (s : State) (k : Ctx) : (s.pxCount k).mem = s.mem := rfl
@[simp] theorem State.trBegin_mem (w : FmtO) (s : State) (k : Ctx) (o : Outst) : (State.trBegin w s k o).1.mem = s.mem := by
  simp [State.trBegin]
@[simp] theorem State.trRep_mem (w : FmtO) (s : State) (k : Ctx) (o : Outst) : (State.trRep w s k o).1.mem = s.mem := by
  have h := (s.pxCount k).takeBeat_mem k w.src.toNat w.toff
  unfold State.trRep
  dsimp only
  generalize (s.pxCount k).takeBeat k w.src.toNat w.toff = p at *
  obtain ⟨t, b⟩ := p
  dsimp only
  split
  · refine (State.tbValid_mem ..).trans ((foldl_mem _ (fun t i => ?_) _ _).trans ?_)
    · simp
    · simpa using h
  · simpa using h
@[simp] theorem execPxTr_keeps (q : Queue) (w : FmtO) (s : State) : KeepsMem s (execPxTr q w s) := by simp [execPxTr]
@[simp] theorem State.tldRep_mem (w : FmtO) (s : State) (k : Ctx) (o : Outst) : (State.tldRep w s k o).1.mem = s.mem := by
  simp [State.tldRep]
@[simp] theorem execPxTld_keeps (q : Queue) (w : FmtO) (s : State) : KeepsMem s (execPxTld q w s) := by simp [execPxTld]
@[simp] theorem State.trdRep_mem (w : FmtO) (s : State) (k : Ctx) (o : Outst) : (State.trdRep w s k o).1.mem = s.mem := by
  simp [State.trdRep]
@[simp] theorem execPxTrd_keeps (q : Queue) (w : FmtO) (s : State) : KeepsMem s (execPxTrd q w s) := by simp [execPxTrd]
@[simp] theorem State.gathRep_mem (w : FmtO) (s : State) (k : Ctx) (o : Outst) : (State.gathRep w s k o).1.mem = s.mem := by
  simp [State.gathRep]
@[simp] theorem execPxGath_keeps (q : Queue) (w : FmtO) (s : State) : KeepsMem s (execPxGath q w s) := by simp [execPxGath]
@[simp] theorem State.scatRep_mem (w : FmtO) (s : State) (k : Ctx) (o : Outst) : (State.scatRep w s k o).1.mem = s.mem := by
  simp [State.scatRep]
@[simp] theorem execPxScat_keeps (q : Queue) (w : FmtO) (s : State) : KeepsMem s (execPxScat q w s) := by simp [execPxScat]
@[simp] theorem State.cmpxRep_mem (w : FmtO) (s : State) (k : Ctx) (o : Outst) : (State.cmpxRep w s k o).1.mem = s.mem := by
  simp [State.cmpxRep]
@[simp] theorem execPxCmpx_keeps (q : Queue) (w : FmtO) (s : State) : KeepsMem s (execPxCmpx q w s) := by simp [execPxCmpx]
@[simp] theorem State.lpermRep_mem (w : FmtO) (s : State) (k : Ctx) (o : Outst) : (State.lpermRep w s k o).1.mem = s.mem := by
  simp [State.lpermRep]
@[simp] theorem execPxLperm_keeps (q : Queue) (w : FmtO) (s : State) : KeepsMem s (execPxLperm q w s) := by simp [execPxLperm]
@[simp] theorem State.pk6Rep_mem (w : FmtO) (s : State) (k : Ctx) (o : Outst) : (State.pk6Rep w s k o).1.mem = s.mem := by
  simp [State.pk6Rep]
@[simp] theorem State.up6Rep_mem (w : FmtO) (s : State) (k : Ctx) (o : Outst) : (State.up6Rep w s k o).1.mem = s.mem := by
  simp [State.up6Rep]
@[simp] theorem execPxPk6_keeps (q : Queue) (w : FmtO) (s : State) : KeepsMem s (execPxPk6 q w s) := by simp [execPxPk6]
@[simp] theorem execPxUp6_keeps (q : Queue) (w : FmtO) (s : State) : KeepsMem s (execPxUp6 q w s) := by simp [execPxUp6]
@[simp] theorem State.pxOutputs_mem (s : State) (l x : Nat) : (s.pxOutputs l x).mem = s.mem := by simp [State.pxOutputs]
@[simp] theorem execPxOutput_keeps (l : LineId) (s : State) : KeepsMem s (execPxOutput l s) := by simp [execPxOutput]

/-! #### The frame of Machine/Repeat -/

@[simp] theorem repStep_mem (i : Instr) (s : State) (c : Ctx) (o : Outst) : (repStep i s c o).1.mem = s.mem := by
  show SameMem s _
  unfold repStep
  split <;> simp
@[simp] theorem execRepeatIssue_keeps (st : Station) (q : Queue) (s : State) : KeepsMem s (execRepeatIssue st q s) := by
  unfold execRepeatIssue
  split <;> simp

/-! #### The frame of Machine/Snapshot -/

@[simp] theorem State.slotScan_mem (s : State) : s.slotScan.mem = s.mem := by simp [State.slotScan]
@[simp] theorem execSlotScan_keeps (s : State) : KeepsMem s (execSlotScan s) := by simp [execSlotScan]
@[simp] theorem State.undefineGranary_mem (s : State) (a n : Nat) : (s.undefineGranary a n).mem = s.mem := by
  simp [State.undefineGranary]
@[simp] theorem State.undefineCapture_mem (s : State) (pos : Nat) : (s.undefineCapture pos).mem = s.mem := by
  simp [State.undefineCapture]
@[simp] theorem State.cutSlot_mem (s : State) (k : Nat) : (s.cutSlot k).mem = s.mem := by simp [State.cutSlot]
@[simp] theorem State.cutSnapshot_mem (s : State) : s.cutSnapshot.mem = s.mem := by
  unfold State.cutSnapshot
  split <;> simp
@[simp] theorem State.keepCapture_mem (s : State) (bytes : List Byte) (c : Captured) : (s.keepCapture bytes c).mem = s.mem := rfl
@[simp] theorem State.captureReads_mem (s : State) : s.captureReads.mem = s.mem := by
  simp only [State.captureReads]
  refine foldl_mem _ (fun s a => ?_) _ _
  split <;> simp
@[simp] theorem State.copyReads_mem (s : State) (a n : Nat) : (s.copyReads a n).mem = s.mem := by
  unfold State.copyReads
  split
  · exact foldl_mem _ (fun t r => by simp) _ _
  split
  · refine foldl_mem _ (fun t r => ?_) _ _
    dsimp only
    split <;> simp
  · rfl
@[simp] theorem State.countNear_mem (s : State) (a n : Nat) : (s.countNear a n).mem = s.mem := by simp [State.countNear]
@[simp] theorem State.countBuffers_mem (s : State) (a n : Nat) : (s.countBuffers a n).mem = s.mem := by simp [State.countBuffers]
@[simp] theorem State.slotBad_mem (s : State) (base a : Nat) : (s.slotBad base a).mem = s.mem := by
  unfold State.slotBad
  split <;> simp
@[simp] theorem State.slotBurst_mem (s : State) (base : Nat) (f : BitVec 42 × Bool) : (s.slotBurst base f).mem = s.mem := by
  simp [State.slotBurst]
@[simp] theorem State.replicate_mem (s : State) (b : BitVec 15) (slot : Nat) : (s.replicate b slot).mem = s.mem := rfl
@[simp] theorem State.sendSlot_mem (s : State) (z : SlotSend) : (s.sendSlot z).mem = s.mem := by
  unfold State.sendSlot
  split <;> simp
@[simp] theorem State.sendSlots_mem (s : State) : s.sendSlots.mem = s.mem := by simp [State.sendSlots]
@[simp] theorem State.replicationEnds_mem (s : State) (ok : Bool) : (s.replicationEnds ok).mem = s.mem := by
  simp [State.replicationEnds]
@[simp] theorem State.replicationDone_mem (s : State) : s.replicationDone.mem = s.mem := by simp [State.replicationDone]
@[simp] theorem execReplicationDone_keeps (s : State) : KeepsMem s (execReplicationDone s) := by simp [execReplicationDone]
@[simp] theorem State.replicationFails_mem (s : State) : s.replicationFails.mem = s.mem := by simp [State.replicationFails]
@[simp] theorem execReplicationTimeout_keeps (s : State) : KeepsMem s (execReplicationTimeout s) := by simp [execReplicationTimeout]
@[simp] theorem State.replPlace_mem (s : State) (src : BitVec 15) (base : Nat) : (s.replPlace src base).mem = s.mem := by
  simp [State.replPlace]
@[simp] theorem State.serveSlot_mem (s : State) (src : BitVec 15) (k base : Nat) : (s.serveSlot src k base).mem = s.mem := by
  simp [State.serveSlot]

/-! #### The frame of Machine/Job -/

@[simp] theorem State.abortRec_mem (s : State) (r : Option RecRef) : (s.abortRec r).mem = s.mem := by
  unfold State.abortRec
  split <;> simp
@[simp] theorem State.stopJob_mem (s : State) : s.stopJob.mem = s.mem := by simp [State.stopJob]
@[simp] theorem State.endNormal_mem (s : State) : s.endNormal.mem = s.mem := by simp [State.endNormal]
@[simp] theorem State.jobEnd_mem (s : State) : s.jobEnd.mem = s.mem := by simp [State.jobEnd]
@[simp] theorem execJobEnd_keeps (s : State) : KeepsMem s (execJobEnd s) := by simp [execJobEnd]
@[simp] theorem State.faultReport_mem (s : State) : s.faultReport.mem = s.mem := by
  unfold State.faultReport
  split <;> simp
@[simp] theorem execFaultReporting_keeps (s : State) : KeepsMem s (execFaultReporting s) := by simp [execFaultReporting]
@[simp] theorem State.startFills_mem (s : State) (nt : Bool) : (s.startFills nt).mem = s.mem := by
  simp only [State.startFills]
  refine foldl_mem _ (fun s a => ?_) _ _
  simp
@[simp] theorem State.clearAll_mem (s : State) (nt : Bool) : (s.clearAll nt).mem = s.mem := by simp [State.clearAll]
@[simp] theorem State.stopCopies_mem (s : State) : s.stopCopies.mem = s.mem := by
  refine foldl_mem _ (fun u h => foldl_mem _ (fun v q => ?_) _ _) _ _
  split
  · simp
  · simp
@[simp] theorem State.interruptMoves_mem (s : State) : s.interruptMoves.mem = s.mem := by simp [State.interruptMoves]
@[simp] theorem State.jobReset_mem (s : State) (nt : Bool) : (s.jobReset nt).mem = s.mem := by
  simp only [State.jobReset, State.startFills_mem, State.abortRec_mem, State.interruptMoves_mem, State.stopCopies_mem,
    State.stopJob_mem, State.faultReport_mem]
@[simp] theorem State.startReset_mem (s : State) : s.startReset.mem = s.mem := rfl
@[simp] theorem State.start_mem (s : State) (p q : Nat) (r : FetchedRec) : (s.start p q r).mem = s.mem := by simp [State.start]
@[simp] theorem execStartJob_keeps (port : HostId) (ring : RingId) (s : State) : KeepsMem s (execStartJob port ring s) := by
  simp [execStartJob]
@[simp] theorem State.killLoad_mem (s : State) : s.killLoad.mem = s.mem := by
  unfold State.killLoad
  split <;> simp
@[simp] theorem State.kill_mem (s : State) (p q : Nat) (r : FetchedRec) : (s.kill p q r).mem = s.mem := by simp [State.kill]
@[simp] theorem execKillRec_keeps (port : HostId) (ring : RingId) (s : State) : KeepsMem s (execKillRec port ring s) := by
  simp [execKillRec]
@[simp] theorem State.setArmed_mem (s : State) : s.setArmed.mem = s.mem := rfl
@[simp] theorem State.arm_mem (s : State) (target : BitVec 64) : (s.arm target).mem = s.mem := rfl
@[simp] theorem execHarvestRec_keeps (port : HostId) (ring : RingId) (s : State) : KeepsMem s (execHarvestRec port ring s) := by
  simp [execHarvestRec]
@[simp] theorem State.snapshot_mem (s : State) (p q : Nat) (r : FetchedRec) : (s.snapshot p q r).mem = s.mem := by
  simp [State.snapshot]
@[simp] theorem execSnapshotRec_keeps (port : HostId) (ring : RingId) (s : State) : KeepsMem s (execSnapshotRec port ring s) := by
  simp [execSnapshotRec]

/-! #### The frame of Machine/LoadCheck -/

@[simp] theorem State.withPart_mem (s : State) (p : Part) : (s.withPart p).mem = s.mem := rfl

/-! #### The frame of Machine/Loader -/

@[simp] theorem State.fillUnclear_mem (s : State) : s.fillUnclear.mem = s.mem := by simp [State.fillUnclear]
@[simp] theorem State.readList_mem (s : State) (p : Nat) (r : FetchedRec) : (s.readList p r).mem = s.mem := by simp [State.readList]
@[simp] theorem State.loadBegin_mem (s : State) (p q : Nat) (r : FetchedRec) : (s.loadBegin p q r).mem = s.mem := by
  simp [State.loadBegin]
@[simp] theorem execLoadRec_keeps (port : HostId) (ring : RingId) (s : State) : KeepsMem s (execLoadRec port ring s) := by
  simp [execLoadRec]
@[simp] theorem State.setLoaded_mem (s : State) (p : Part) (r : FetchedRec) : (s.setLoaded p r).mem = s.mem := rfl
@[simp] theorem State.loadRefused_mem (s : State) (p q : Nat) (r : LoadRefusal) : (s.loadRefused p q r).mem = s.mem := by
  simp [State.loadRefused]
@[simp] theorem State.undoLoad_mem (s : State) (was : FabState) : (s.undoLoad was).mem = s.mem := by simp [State.undoLoad]
@[simp] theorem State.loadDone_mem (s : State) (p q : Nat) : (s.loadDone p q).mem = s.mem := by simp [State.loadDone]
@[simp] theorem State.slotReads_mem (s : State) (k : Nat) (found : List (BitVec 42 × Bool)) : (s.slotReads k found).1.mem = s.mem := by
  simp [State.slotReads]

/-! #### The frame of Machine/Registers -/

@[simp] theorem execStatusRec_keeps (port : HostId) (ring : RingId) (s : State) : KeepsMem s (execStatusRec port ring s) := by
  simp [execStatusRec]
@[simp] theorem State.functionReset_mem (s : State) (p : HostId) : (s.functionReset p).mem = s.mem := by simp [State.functionReset]
@[simp] theorem State.configWrite_mem (s : State) (p : HostId) (o : Nat) (v : W32) : (s.configWrite p o v).mem = s.mem := by
  simp [State.configWrite]

/-! #### The frame of Machine/Window -/

@[simp] theorem State.layHost_mem (s : State) (a : Nat) (bad : Option Nat) : (s.layHost a bad).mem = s.mem := by
  unfold State.layHost
  (repeat' split) <;> simp
@[simp] theorem State.hostRowErrors_mem (s : State) (ar : Area) (r : Nat) : (s.hostRowErrors ar r).mem = s.mem := by
  unfold State.hostRowErrors
  (repeat' split) <;> simp
@[simp] theorem State.hostRead_mem (s : State) (ar : Area) (a n : Nat) (bad : Option Nat) : (s.hostRead ar a n bad).1.mem = s.mem := by
  unfold State.hostRead
  split <;> simp
@[simp] theorem State.accSet_mem (s : State) (a : Nat) (b : Byte) : (s.accSet a b).mem = s.mem := by simp [State.accSet]
theorem State.accBytes_cons (s : State) (a : Nat) (b : Byte) (r : List Byte) :
    s.accBytes a (b :: r) = (s.accSet a b).accBytes (a + 1) r := by
  delta State.accBytes
  rfl
@[simp] theorem State.accBytes_mem (s : State) (a : Nat) (bs : List Byte) : (s.accBytes a bs).mem = s.mem := by
  induction bs generalizing s a with
  | nil => rfl
  | cons b r ih => rw [State.accBytes_cons, ih, State.accSet_mem]
@[simp] theorem State.putAccess_mem (s : State) (m : MemAccess) : (s.putAccess m).mem = s.mem := rfl
@[simp] theorem State.endAccess_mem (s : State) (m : MemAccess) (e : AccessEnd) : (s.endAccess m e).mem = s.mem := by
  unfold State.endAccess
  (repeat' split) <;> simp
@[simp] theorem State.dropAccess_mem (s : State) (p q : Nat) : (s.dropAccess p q).mem = s.mem := rfl
@[simp] theorem State.copyBegin_mem (s : State) (p q : Nat) (r : FetchedRec) : (s.copyBegin p q r).mem = s.mem := by
  unfold State.copyBegin
  split <;> simp
@[simp] theorem execCopyRec_keeps (port : HostId) (ring : RingId) (s : State) : KeepsMem s (execCopyRec port ring s) := by
  simp [execCopyRec]
@[simp] theorem State.endRead_mem (s : State) (p q : Nat) : (s.endRead p q).mem = s.mem := by simp [State.endRead]
@[simp] theorem State.b4Error_mem (s : State) (p : HostId) (write : Bool) : (s.b4Error p write).mem = s.mem := by simp [State.b4Error]
@[simp] theorem State.remoteWrite_mem (s : State) (dst : BitVec 15) (a : Nat) (data : List Byte) :
    (s.remoteWrite dst a data).mem = s.mem := by simp [State.remoteWrite]

/-! #### The frame of Machine/Recover -/

@[simp] theorem State.undefineMoves_mem (s : State) : s.undefineMoves.mem = s.mem := by simp [State.undefineMoves]
@[simp] theorem State.cutWork_mem (s : State) : s.cutWork.mem = s.mem := by simp [State.cutWork]
@[simp] theorem State.strap_mem (s : State) (z : Straps) : (s.strap z).mem = s.mem := by simp [State.strap]
@[simp] theorem execStrapSampling_keeps (pins : StrapPins) (s : State) : KeepsMem s (execStrapSampling pins s) := by
  simp [execStrapSampling]
@[simp] theorem execRailsUp_keeps (s : State) : KeepsMem s (execRailsUp s) := by simp [execRailsUp]
@[simp] theorem State.populate_mem (s : State) (fitted : List DimmFound) : (s.populate fitted).mem = s.mem := by simp [State.populate]
@[simp] theorem State.channelUp_mem (s : State) (n : Nat) (fitted : List DimmFound) : (s.channelUp n fitted).mem = s.mem := by
  simp [State.channelUp]
@[simp] theorem execGranaryChannelReady_keeps (channel : Fin 8) (fitted : List DimmFound) (s : State) :
    KeepsMem s (execGranaryChannelReady channel fitted s) := by simp [execGranaryChannelReady]
@[simp] theorem State.stopJc_mem (s : State) : s.stopJc.mem = s.mem := by
  unfold State.stopJc
  split <;> simp
@[simp] theorem State.failover_mem (s : State) : s.failover.mem = s.mem := by simp [State.failover]
@[simp] theorem execManagementFailover_keeps (s : State) : KeepsMem s (execManagementFailover s) := by simp [execManagementFailover]
@[simp] theorem execStandbyReady_keeps (s : State) : KeepsMem s (execStandbyReady s) := by simp [execStandbyReady]
@[simp] theorem State.regWrite_mem (s : State) (who : Requester) (o : Nat) (f : State → State) (hf : ∀ u, SameMem u (f u)) :
    (s.regWrite who o f).mem = s.mem := by
  simp only [sameMem_iff] at *
  unfold State.regWrite
  split <;> simp [*]
@[simp] theorem State.bayReset_mem (s : State) (b : Nat) : (s.bayReset b).mem = s.mem := by
  unfold State.bayReset
  split <;> simp
@[simp] theorem execBayrst_keeps (who : Requester) (bay : BayId) (s : State) : KeepsMem s (execBayrst who bay s) := by
  simp [execBayrst]
@[simp] theorem execLinerst_keeps (who : Requester) (line : LineId) (s : State) : KeepsMem s (execLinerst who line s) := by
  simp [execLinerst]
@[simp] theorem execRcvDisreqWrite_keeps (who : Requester) (value : W32) (s : State) :
    KeepsMem s (execRcvDisreqWrite who value s) := by simp [execRcvDisreqWrite]
@[simp] theorem execFabDisreqWrite_keeps (who : Requester) (value : W32) (s : State) :
    KeepsMem s (execFabDisreqWrite who value s) := by simp [execFabDisreqWrite]
@[simp] theorem State.abandon_mem (s : State) (f : Func) : (s.abandon f).mem = s.mem := by
  unfold State.abandon
  split <;> simp
@[simp] theorem State.forceDisable_mem (s : State) (f : Func) : (s.forceDisable f).mem = s.mem := by
  unfold State.forceDisable
  (repeat' split) <;> simp
@[simp] theorem execRcvDisforceWrite_keeps (who : Requester) (value : W32) (s : State) :
    KeepsMem s (execRcvDisforceWrite who value s) := by simp [execRcvDisforceWrite]
@[simp] theorem execRetrainPort_keeps (who : Requester) (port : PortId) (s : State) : KeepsMem s (execRetrainPort who port s) := by
  simp [execRetrainPort]

/-! #### The frame of Machine/Security -/

@[simp] theorem State.repairRows_mem (s : State) : s.repairRows.mem = s.mem := by
  simp only [State.repairRows]
  refine foldl_mem _ (fun s a => ?_) _ _
  simp
@[simp] theorem State.startFirmware_mem (s : State) (src : Nat) (pkg : List Byte) : (s.startFirmware src pkg).mem = s.mem := by
  simp [State.startFirmware]
@[simp] theorem State.reject_mem (s : State) (src code : Nat) : (s.reject src code).mem = s.mem := rfl
@[simp] theorem State.bootNotice_mem (s : State) : s.bootNotice.mem = s.mem := by
  unfold State.bootNotice
  split <;> simp
@[simp] theorem State.bootFailed_mem (s : State) : s.bootFailed.mem = s.mem := by simp [State.bootFailed]
@[simp] theorem State.tryBoot_mem (s : State) (order : List Nat) : (s.tryBoot order).mem = s.mem := by
  induction order generalizing s with
  | nil => simp [State.tryBoot]
  | cons k r ih =>
    unfold State.tryBoot
    split
    · rfl
    · split <;> simp [ih]
@[simp] theorem execManagementBoot_keeps (s : State) : KeepsMem s (execManagementBoot s) := by simp [execManagementBoot]
@[simp] theorem State.emptyBox_mem (s : State) (b : MailboxId) : (s.emptyBox b).mem = s.mem := by simp [State.emptyBox]
@[simp] theorem State.readPosted_mem (s : State) (b : MailboxId) (p : Nat) : (s.readPosted b p).mem = s.mem := by
  simp [State.readPosted]
@[simp] theorem State.hostPackage_mem (s : State) (pkg : List Byte) : (s.hostPackage pkg).mem = s.mem := by
  show SameMem s _
  simp only [State.hostPackage]
  split
  · simp
  · split <;> simp
@[simp] theorem execHostBootPackage_keeps (pkg : List Byte) (s : State) : KeepsMem s (execHostBootPackage pkg s) := by
  simp [execHostBootPackage]
@[simp] theorem execHostBootTimeout_keeps (s : State) : KeepsMem s (execHostBootTimeout s) := by simp [execHostBootTimeout]
@[simp] theorem State.fwRefused_mem (s : State) (p q code : Nat) : (s.fwRefused p q code).mem = s.mem := by simp [State.fwRefused]
@[simp] theorem State.openStage_mem (s : State) : s.openStage.mem = s.mem := rfl
@[simp] theorem State.stagePkg_mem (s : State) (p q : Nat) (pkg : List Byte) (flashOk : Bool) :
    (s.stagePkg p q pkg flashOk).mem = s.mem := by
  unfold State.stagePkg
  split <;> simp
@[simp] theorem State.fwStage_mem (s : State) (p q : Nat) (pkg : List Byte) (flashOk : Bool) :
    (s.fwStage p q pkg flashOk).mem = s.mem := by
  show SameMem s _
  unfold State.fwStage
  split
  · simp
  · split
    · refine State.jobRecord_mem _ _ _ _ _ fun u r => ?_
      simp
    · simp
@[simp] theorem execFwupdStage_keeps (port : HostId) (ring : RingId) (pkg : List Byte) (flashOk : Bool) (s : State) :
    KeepsMem s (execFwupdStage port ring pkg flashOk s) := by simp [execFwupdStage]
@[simp] theorem State.commitPkg_mem (s : State) (p q : Nat) (flashOk : Bool) : (s.commitPkg p q flashOk).mem = s.mem := by
  unfold State.commitPkg
  split <;> simp
@[simp] theorem execFwupdCommit_keeps (port : HostId) (ring : RingId) (flashOk : Bool) (s : State) :
    KeepsMem s (execFwupdCommit port ring flashOk s) := by simp [execFwupdCommit]
@[simp] theorem State.ownerCmd_mem (s : State) (p : HostId) (code payload : Nat) (block : List Byte)
    (unsigned ok : State → List Byte → Nat) (f : State → List Byte → State) (hf : ∀ u x1, SameMem u (f u x1)) :
    (s.ownerCmd p code payload block unsigned ok f).mem = s.mem := by
  simp only [sameMem_iff] at *
  simp only [State.ownerCmd]
  split <;> simp [*]
@[simp] theorem State.ownerUnknown_mem (s : State) : s.ownerUnknown.mem = s.mem := by simp [State.ownerUnknown]
@[simp] theorem execKeyAdd_keeps (port : HostId) (block : List Byte) (s : State) : KeepsMem s (execKeyAdd port block s) := by
  simp [execKeyAdd]
@[simp] theorem execKeyRemove_keeps (port : HostId) (block : List Byte) (s : State) : KeepsMem s (execKeyRemove port block s) := by
  simp [execKeyRemove]
@[simp] theorem execOwnerPolicy_keeps (port : HostId) (block : List Byte) (s : State) : KeepsMem s (execOwnerPolicy port block s) := by
  simp [execOwnerPolicy]
@[simp] theorem execTapUnlock_keeps (port : HostId) (block : List Byte) (s : State) : KeepsMem s (execTapUnlock port block s) := by
  simp [execTapUnlock]
@[simp] theorem execTapLock_keeps (port : HostId) (block : List Byte) (s : State) : KeepsMem s (execTapLock port block s) := by
  simp [execTapLock]
@[simp] theorem execAttestRec_keeps (port : HostId) (ring : RingId) (s : State) : KeepsMem s (execAttestRec port ring s) := by
  simp [execAttestRec]
@[simp] theorem State.attestWritten_mem (s : State) (p q : Nat) : (s.attestWritten p q).mem = s.mem := by
  unfold State.attestWritten
  split <;> simp
@[simp] theorem execAttestReportWritten_keeps (port : HostId) (ring : RingId) (s : State) :
    KeepsMem s (execAttestReportWritten port ring s) := by simp [execAttestReportWritten]

/-! #### The frame of Machine/Reads -/

@[simp] theorem State.loRead_mem (s : State) (who : Requester) (o : Nat) : (s.loRead who o).mem = s.mem := by
  unfold State.loRead
  (repeat' split) <;> simp
@[simp] theorem State.boxRead_mem (s : State) (who : Requester) (b : MailboxId) (x : Nat) : (s.boxRead who b x).mem = s.mem := by
  unfold State.boxRead
  (repeat' split) <;> simp
@[simp] theorem State.bar2Read_mem (s : State) (who : Requester) (x : Nat) : (s.bar2Read who x).mem = s.mem := by
  unfold State.bar2Read
  split <;> simp
@[simp] theorem State.wordRead_mem (s : State) (who : Requester) (t : RegTarget) (add : Nat) : (s.wordRead who t add).mem = s.mem := by
  unfold State.wordRead
  (repeat' split) <;> simp
@[simp] theorem execLoRead_keeps (who : Requester) (what : RegRead) (s : State) : KeepsMem s (execLoRead who what s) := by
  unfold execLoRead
  (repeat' split) <;> simp

/-! #### The frame of Machine/Speculation -/

@[simp] theorem execCcPredict_keeps (q : Queue) (w : FmtC) (s : State) : KeepsMem s (execCcPredict q w s) := by simp [execCcPredict]
@[simp] theorem State.confirm_mem (s : State) (l t r : Nat) (p : Pred) : (s.confirm l t r p).mem = s.mem := by
  unfold State.confirm
  split <;> simp
@[simp] theorem State.refute_mem (s : State) (l t r e : Nat) (p : Pred) : (s.refute l t r e p).mem = s.mem := rfl
@[simp] theorem State.specDepth_mem (s : State) (l t : Nat) : (s.specDepth l t).mem = s.mem := by
  unfold State.specDepth
  split <;> simp
@[simp] theorem execCcBrResolve_keeps (q : Queue) (w : FmtC) (s : State) : KeepsMem s (execCcBrResolve q w s) := by
  unfold execCcBrResolve
  split
  · simp
  · refine State.issueCcBranch_keeps _ _ _ _ fun u k => ?_
    split <;> simp
@[simp] theorem State.specHarvest_mem (s : State) (l t : Nat) : (s.specHarvest l t).mem = s.mem := by simp [State.specHarvest]
@[simp] theorem execSpecDepthExpire_keeps (q : Queue) (s : State) : KeepsMem s (execSpecDepthExpire q s) := by
  simp [execSpecDepthExpire]
@[simp] theorem State.deferredSends_mem (s : State) (l : Nat) : (s.deferredSends l).mem = s.mem := by simp [State.deferredSends]
@[simp] theorem execDeferredWordSend_keeps (q : Queue) (s : State) : KeepsMem s (execDeferredWordSend q s) := by
  simp [execDeferredWordSend]

/-! #### The frame of Machine/Tick -/

@[simp] theorem State.eachLine_mem (s : State) (f : State → Nat → State) (hf : ∀ u x1, SameMem u (f u x1)) :
    (s.eachLine f).mem = s.mem := by
  simp only [sameMem_iff] at *
  unfold State.eachLine
  simp [*]
@[simp] theorem State.eachBay_mem (s : State) (f : State → Nat → State) (hf : ∀ u x1, SameMem u (f u x1)) :
    (s.eachBay f).mem = s.mem := by
  simp only [sameMem_iff] at *
  unfold State.eachBay
  simp [*]
@[simp] theorem State.scStations_mem (s : State) : s.scStations.mem = s.mem := by simp [State.scStations]
@[simp] theorem State.scFabric_mem (s : State) : s.scFabric.mem = s.mem := by simp [State.scFabric]
@[simp] theorem State.scResults_mem (s : State) (x : Nat) : (s.scResults x).mem = s.mem := by simp [State.scResults]
@[simp] theorem State.scWords_mem (s : State) (x : Nat) : (s.scWords x).mem = s.mem := by simp [State.scWords]
@[simp] theorem State.scFlags_mem (s : State) : s.scFlags.mem = s.mem := by simp [State.scFlags]
@[simp] theorem State.srPorts_mem (s : State) (l x : Nat) : (s.srPorts l x).mem = s.mem := by simp [State.srPorts]
@[simp] theorem State.dqChecks_mem (s : State) (l : Nat) : (s.dqChecks l).mem = s.mem := by simp [State.dqChecks]
@[simp] theorem State.scChecks_mem (s : State) (x : Nat) : (s.scChecks x).mem = s.mem := by simp [State.scChecks]
@[simp] theorem State.stepExpire_mem (s : State) : s.stepExpire.mem = s.mem := by
  unfold State.stepExpire
  split <;> simp
@[simp] theorem State.lookAhead_mem (s : State) : s.lookAhead.mem = s.mem := by simp [State.lookAhead]
@[simp] theorem State.countCc_mem (s : State) : s.countCc.mem = s.mem := by simp [State.countCc]
@[simp] theorem State.countWaits_mem (s : State) : s.countWaits.mem = s.mem := by simp [State.countWaits]
@[simp] theorem State.frameStart_mem (s : State) : s.frameStart.mem = s.mem := by simp [State.frameStart]
@[simp] theorem State.countIdle_mem (s : State) (p : Nat) : (s.countIdle p).mem = s.mem := by simp [State.countIdle]
@[simp] theorem State.linkCc_mem (s : State) (p : Nat) : (s.linkCc p).mem = s.mem := by simp [State.linkCc]
@[simp] theorem State.linksCc_mem (s : State) : s.linksCc.mem = s.mem := by simp [State.linksCc]
@[simp] theorem State.endCc_mem (s : State) : s.endCc.mem = s.mem := by simp [State.endCc]

/-! #### The frame of Machine/Writes -/

@[simp] theorem State.haltWrite_mem (s : State) (who : Requester) (f : State → State) (hf : ∀ u, SameMem u (f u)) :
    (s.haltWrite who f).mem = s.mem := by
  simp only [sameMem_iff] at *
  unfold State.haltWrite
  split <;> simp [*]
@[simp] theorem State.halt_mem (s : State) : s.halt.mem = s.mem := by simp [State.halt]
@[simp] theorem State.resume_mem (s : State) : s.resume.mem = s.mem := rfl
@[simp] theorem State.stepBy_mem (s : State) (n : Nat) : (s.stepBy n).mem = s.mem := by simp [State.stepBy]
@[simp] theorem execDbgHalt_keeps (who : Requester) (s : State) : KeepsMem s (execDbgHalt who s) := by simp [execDbgHalt]
@[simp] theorem execDbgResume_keeps (who : Requester) (s : State) : KeepsMem s (execDbgResume who s) := by simp [execDbgResume]
@[simp] theorem execStepCount_keeps (who : Requester) (n : BitVec 24) (s : State) : KeepsMem s (execStepCount who n s) := by
  simp [execStepCount]
@[simp] theorem execStepCountExpire_keeps (s : State) : KeepsMem s (execStepCountExpire s) := by simp [execStepCountExpire]
@[simp] theorem State.haltWord_keeps (who : Requester) (value : W32) (s : State) : KeepsMem s (State.haltWord who value s) := by
  unfold State.haltWord
  split <;> simp
@[simp] theorem execHrvArm_keeps (who : Requester) (s : State) : KeepsMem s (execHrvArm who s) := by simp [execHrvArm]
@[simp] theorem execHrvDisarm_keeps (who : Requester) (s : State) : KeepsMem s (execHrvDisarm who s) := by simp [execHrvDisarm]
@[simp] theorem execHrvAck_keeps (who : Requester) (value : W32) (s : State) : KeepsMem s (execHrvAck who value s) := by
  simp [execHrvAck]
@[simp] theorem execSchCtrlWrite_keeps (who : Requester) (value : W32) (s : State) : KeepsMem s (execSchCtrlWrite who value s) := by
  simp [execSchCtrlWrite]
@[simp] theorem execSchHoldLimitWrite_keeps (who : Requester) (value : W32) (s : State) :
    KeepsMem s (execSchHoldLimitWrite who value s) := by simp [execSchHoldLimitWrite]
@[simp] theorem State.flagsWrite_mem (s : State) (who : Requester) (bay k : Nat) (value : W32) (set : Bool) :
    (s.flagsWrite who bay k value set).mem = s.mem := by simp [State.flagsWrite]
@[simp] theorem execFlgMfSet_keeps (who : Requester) (bay : BayId) (k : Fin 4) (value : W32) (s : State) :
    KeepsMem s (execFlgMfSet who bay k value s) := by simp [execFlgMfSet]
@[simp] theorem execFlgMfClr_keeps (who : Requester) (bay : BayId) (k : Fin 4) (value : W32) (s : State) :
    KeepsMem s (execFlgMfClr who bay k value s) := by simp [execFlgMfClr]
@[simp] theorem State.idleWrite_mem (s : State) (who : Requester) (o : Nat) (f : State → State) (hf : ∀ u, SameMem u (f u)) :
    (s.idleWrite who o f).mem = s.mem := by
  simp only [sameMem_iff] at *
  unfold State.idleWrite
  simp [*]
@[simp] theorem execNtZoneWrite_keeps (who : Requester) (value : W32) (s : State) : KeepsMem s (execNtZoneWrite who value s) := by
  simp [execNtZoneWrite]
@[simp] theorem execFabShapeWrite_keeps (who : Requester) (value : W32) (s : State) : KeepsMem s (execFabShapeWrite who value s) := by
  simp [execFabShapeWrite]
@[simp] theorem State.pwrWrite_mem (s : State) (who : Requester) (x : Nat) (f : State → State) (hf : ∀ u, SameMem u (f u)) :
    (s.pwrWrite who x f).mem = s.mem := by
  simp only [sameMem_iff] at *
  unfold State.pwrWrite
  simp [*]
@[simp] theorem execPwrClassWrite_keeps (who : Requester) (value : W32) (s : State) : KeepsMem s (execPwrClassWrite who value s) := by
  simp [execPwrClassWrite]
@[simp] theorem execPwrVctrlWrite_keeps (who : Requester) (value : W32) (s : State) : KeepsMem s (execPwrVctrlWrite who value s) := by
  simp [execPwrVctrlWrite]
@[simp] theorem execPwrKeepWrite_keeps (who : Requester) (value : W32) (s : State) : KeepsMem s (execPwrKeepWrite who value s) := by
  simp [execPwrKeepWrite]
@[simp] theorem execRingCfgWrite_keeps (who : Requester) (port : HostId) (completion : Bool) (ring : RingId) (value : W32)
    (s : State) :
    KeepsMem s (execRingCfgWrite who port completion ring value s) := by
  simp [execRingCfgWrite]
@[simp] theorem execRescanSlots_keeps (who : Requester) (s : State) : KeepsMem s (execRescanSlots who s) := by simp [execRescanSlots]
@[simp] theorem State.msixWrite_mem (s : State) (p v w : Nat) (x : W32) : (s.msixWrite p v w x).mem = s.mem := by
  simp [State.msixWrite]
@[simp] theorem State.hstWrite_mem (s : State) (who : Requester) (p : HostId) (x : Nat) (v : W32) :
    (s.hstWrite who p x v).mem = s.mem := by simp [State.hstWrite]
@[simp] theorem State.rcvWrite_mem (s : State) (who : Requester) (x : Nat) (v : W32) : (s.rcvWrite who x v).mem = s.mem := by
  simp [State.rcvWrite]
@[simp] theorem State.fabWrite_mem (s : State) (who : Requester) (x : Nat) (v : W32) : (s.fabWrite who x v).mem = s.mem := by
  unfold State.fabWrite
  split <;> simp
@[simp] theorem State.hrvWrite_mem (s : State) (who : Requester) (x : Nat) (v : W32) : (s.hrvWrite who x v).mem = s.mem := by
  simp [State.hrvWrite]
@[simp] theorem State.hrvReqWrite_keeps (who : Requester) (v : W32) (s : State) : KeepsMem s (State.hrvReqWrite who v s) := by
  unfold State.hrvReqWrite
  split <;> simp
@[simp] theorem fabReg_keeps (who : Requester) (x : Nat) (v : W32) (s : State) : KeepsMem s (fabReg who x v s) := by simp [fabReg]
@[simp] theorem pwrReg_keeps (who : Requester) (x : Nat) (v : W32) (s : State) : KeepsMem s (pwrReg who x v s) := by
  unfold pwrReg
  split <;> simp
@[simp] theorem hstReg_keeps (who : Requester) (p : HostId) (x : Nat) (v : W32) (s : State) : KeepsMem s (hstReg who p x v s) := by
  simp [hstReg]
@[simp] theorem boxWrite_keeps (who : Requester) (b : MailboxId) (x : Nat) (v : W32) (s : State) :
    KeepsMem s (boxWrite who b x v s) := by
  unfold boxWrite
  dsimp only
  split
  · exact execMbMsgWrite_keeps _ _ _ _ _
  split
  · exact execMbDbset_keeps _ _ _ _
  · exact execMbDbclr_keeps _ _ _ _
  · rw [keepsMem_next]
    show SameMem s _
    split <;> simp
  · have hu : KeepsMem s (if v.getLsbD 0 then execMbUnclaim b who s else .next s) := by simp
    split
    · rename_i t e
      have ht := hu t e
      split
      · intro u eu
        exact (execMbAck_keeps _ _ _ u eu).trans ht
      · simpa using ht
    · exact hu
  · simp
  · simp
  · simp
@[simp] theorem bar2Write_keeps (who : Requester) (x : Nat) (v : W32) (s : State) : KeepsMem s (bar2Write who x v s) := by
  unfold bar2Write
  split
  · simp
  · simp

/-! ### What writes memory: the canonical form -/

@[simp] theorem wf_ite (c : Prop) [Decidable c] (a b : List Host.Cell) :
    Memory.wf (if c then a else b) = if c then Memory.wf a else Memory.wf b := apply_ite Memory.wf c a b
theorem foldl_wf {α : Type} (f : State → α → State) (hf : ∀ s a, Memory.wf s.mem = true → Memory.wf (f s a).mem = true) (l : List α)
    {s : State} (h : Memory.wf s.mem = true) : Memory.wf (l.foldl f s).mem = true := by
  induction l generalizing s with
  | nil => exact h
  | cons a l ih => exact ih (hf s a h)
/-- An outcome whose next state, if it has one, holds a canonical memory list. -/
def CanonNext (o : Host.Outcome State Fault Refusal) : Prop := ∀ t, o = .next t → Memory.wf t.mem = true
@[simp] theorem canonNext_next (t : State) : CanonNext (.next t) ↔ Memory.wf t.mem = true := by simp [CanonNext]
@[simp] theorem canonNext_fault (f : Fault) : CanonNext (.fault f) := by simp [CanonNext]
theorem KeepsMem.canonNext {s : State} {o : Host.Outcome State Fault Refusal} (k : KeepsMem s o) (h : Memory.wf s.mem = true) :
    CanonNext o :=
  fun t e => by rw [k t e]; exact h
@[simp] theorem canonNext_ite (c : Prop) [Decidable c] (a b : Host.Outcome State Fault Refusal) :
    CanonNext (if c then a else b) ↔ if c then CanonNext a else CanonNext b := by split <;> rfl
@[simp] theorem State.memCanon_iff (s : State) : s.MemCanon ↔ Memory.wf s.mem = true := ⟨id, id⟩
theorem Memory.wf_foldl_set (l : List Host.Cell) (m : List Host.Cell) (h : Memory.wf m = true) :
    Memory.wf (l.foldl (fun m e => Memory.set m e.1 e.2) m) = true := by
  induction l generalizing m with
  | nil => exact h
  | cons e l ih => exact ih _ (Memory.wf_set m e.1 e.2 h)
theorem CanonNext.ite {c : Prop} [Decidable c] {a b : Host.Outcome State Fault Refusal} (ha : CanonNext a) (hb : CanonNext b) :
    CanonNext (if c then a else b) := by
  split <;> assumption
theorem State.regWrite_wf (s : State) (who : Requester) (o : Nat) (f : State → State)
    (hf : ∀ u, Memory.wf u.mem = true → Memory.wf (f u).mem = true) (h : Memory.wf s.mem = true) :
    Memory.wf (s.regWrite who o f).mem = true := by
  unfold State.regWrite
  split
  · exact h
  · split
    · simp [h]
    · split
      · simp [h]
      · exact hf s h
theorem State.eachLine_wf (s : State) (f : State → Nat → State) (hf : ∀ s l, Memory.wf s.mem = true → Memory.wf (f s l).mem = true)
    (h : Memory.wf s.mem = true) : Memory.wf (s.eachLine f).mem = true :=
  foldl_wf (fun (t : State) (e : Nat × LineState) => f t e.1) (fun t e => hf t e.1) _ h

/-! #### The canonical form under Machine/Ops -/

@[simp] theorem State.setBytes_wf (s : State) (a : Nat) (bs : List Byte) (h : Memory.wf s.mem = true) :
    Memory.wf (s.setBytes a bs).mem = true := Memory.wf_setBytes bs s.mem a h
@[simp] theorem State.zeroBytes_wf (s : State) (a n : Nat) (h : Memory.wf s.mem = true) :
    Memory.wf (s.zeroBytes a n).mem = true := Memory.wf_zero s.mem a n h
@[simp] theorem State.setRow_wf (s : State) (a : Nat) (d : BeatData) (h : Memory.wf s.mem = true) :
    Memory.wf (s.setRow a d).mem = true := by
  simp [State.setRow, h]
@[simp] theorem State.writeLocal_wf (s : State) (a : Nat) (bs : List Byte) (h : Memory.wf s.mem = true) :
    Memory.wf (s.writeLocal a bs).mem = true := by
  induction bs generalizing s a with
  | nil => exact h
  | cons b r ih =>
    unfold State.writeLocal
    refine ih _ _ ?_
    show State.MemCanon _
    split <;> simp [h]

/-! #### The canonical form under Machine/Access -/

@[simp] theorem State.lsBank_wf (s : State) (l a : Nat) (d : BeatData) (h : Memory.wf s.mem = true) :
    Memory.wf (s.lsBank l a d).mem = true := by
  simp [State.lsBank, h]
@[simp] theorem State.lsWrite_wf (s : State) (u : MemUse) (l x : Nat) (h : Memory.wf s.mem = true) :
    Memory.wf (s.lsWrite u l x).mem = true := by
  simp only [State.lsWrite]
  (repeat' split) <;> simp [h]
@[simp] theorem State.drainPair_wf (s : State) (l x p : Nat) (h : Memory.wf s.mem = true) :
    Memory.wf (s.drainPair l x p).mem = true := by
  unfold State.drainPair
  split <;> simp [h]
@[simp] theorem State.drains_wf (s : State) (l x : Nat) (h : Memory.wf s.mem = true) : Memory.wf (s.drains l x).mem = true := by
  unfold State.drains
  exact foldl_wf _ (fun t a ht => by simp [ht]) _ h
@[simp] theorem State.landWrite_wf (s : State) (x : Nat) (u : MemUse) (h : Memory.wf s.mem = true) :
    Memory.wf (s.landWrite x u).mem = true := by
  unfold State.landWrite
  (repeat' split) <;> simp [h]
@[simp] theorem State.landWrites_wf (s : State) (x : Nat) (h : Memory.wf s.mem = true) : Memory.wf (s.landWrites x).mem = true := by
  unfold State.landWrites
  exact foldl_wf _ (fun t a ht => by simp [ht]) _ h

/-! #### The canonical form under Machine/LocalStore -/

@[simp] theorem State.drainsFound_wf (s : State) (l x : Nat) (found : EccFinding) (h : Memory.wf s.mem = true) :
    Memory.wf (s.drainsFound l x found).mem = true := by
  unfold State.drainsFound
  split <;> simp [h]
@[simp] theorem execHeldRowDrain_canon (l : LineId) (s : State) (found : EccFinding) (h : Memory.wf s.mem = true) :
    CanonNext (execHeldRowDrain l s found) := by
  simp [execHeldRowDrain, h]

/-! #### The canonical form under Machine/Granary -/

@[simp] theorem State.chunkRow_wf (s : State) (found : EccFinding) (h : Memory.wf s.mem = true) :
    Memory.wf (s.chunkRow found).mem = true := by
  show State.MemCanon _
  simp only [State.chunkRow]
  split
  · exact h
  · rename_i c _
    generalize hu : (if inGranary (c.src + c.done) then s else
      match s.phys (c.src + c.done) with | some p => s.lay p found | none => s) = u
    have h : Memory.wf u.mem = true := by
      rw [← hu]
      show State.MemCanon _
      split
      · exact h
      · split <;> simp [h]
    simp [h]
@[simp] theorem State.beginChunk_wf (s : State) (m : Move) (found : BurstFinding) (h : Memory.wf s.mem = true) :
    Memory.wf (s.beginChunk m found).mem = true := by
  simp [State.beginChunk, h]
@[simp] theorem State.ownSlot_wf (s : State) (sl : Nat) (found : EccFinding) (h : Memory.wf s.mem = true) :
    Memory.wf (s.ownSlot sl found).mem = true := by
  simp [State.ownSlot, h]
@[simp] theorem State.engineRows_wf (s : State) (h : Memory.wf s.mem = true) : Memory.wf s.engineRows.mem = true := by
  unfold State.engineRows
  split <;> simp [h]
theorem State.engineSlot_wf (s : State) (f : FreeCommit) (h : Memory.wf s.mem = true) :
    ∀ t, s.engineSlot f = some t → Memory.wf t.mem = true := by
  unfold State.engineSlot
  split <;> simp [h]
@[simp] theorem State.writeDynamic_wf (s : State) (h : Memory.wf s.mem = true) : Memory.wf s.writeDynamic.mem = true := by
  unfold State.writeDynamic
  (repeat' split) <;> simp [h]

/-! #### The canonical form under Machine/Harvest -/

@[simp] theorem State.changeGroups_wf (s : State) (l h : Nat) (hs : Memory.wf s.mem = true) :
    Memory.wf (s.changeGroups l h).mem = true := by
  simp only [State.changeGroups]
  split
  · exact hs
  · rw [State.updLine_mem]
    refine foldl_wf _ (fun t g ht => ?_) _ hs
    split <;> simp [ht]
@[simp] theorem State.groupChanges_wf (s : State) (h : Nat) (hs : Memory.wf s.mem = true) :
    Memory.wf (s.groupChanges h).mem = true := by
  have hf := foldl_wf (fun (s : State) (e : Nat × LineState) => s.changeGroups e.1 h) (fun t e ht => by simp [ht]) s.lines hs
  simp only [State.groupChanges]
  split <;> exact hf
@[simp] theorem State.boundarySteps_wf (s : State) (b : Boundary) (hs : Memory.wf s.mem = true) :
    Memory.wf (s.boundarySteps b).mem = true := by
  simp only [State.boundarySteps, State.setShares_mem, State.enterCodes_mem, State.gleanerReport_mem, mem_ite, State.applyCodes_mem, ite_self, State.lowMargin_mem]
  simp [hs]
@[simp] theorem State.harvestBoundary_wf (s : State) (hs : Memory.wf s.mem = true) : Memory.wf s.harvestBoundary.mem = true := by
  show State.MemCanon _
  simp only [State.harvestBoundary]
  split <;> simp [hs]
@[simp] theorem execHarvestBoundary_canon (s : State) (h : Memory.wf s.mem = true) : CanonNext (execHarvestBoundary s) := by
  simp [execHarvestBoundary, h]
@[simp] theorem State.actionsComplete_wf (s : State) (h : Memory.wf s.mem = true) : Memory.wf s.actionsComplete.mem = true := by
  unfold State.actionsComplete
  split <;> simp [h]
@[simp] theorem execHarvestActionsComplete_canon (s : State) (h : Memory.wf s.mem = true) :
    CanonNext (execHarvestActionsComplete s) := by
  simp [execHarvestActionsComplete, h]

/-! #### The canonical form under Machine/Snapshot -/

@[simp] theorem State.grWrite_wf (s : State) (a : Nat) (bs : List Byte) (h : Memory.wf s.mem = true) :
    Memory.wf (s.grWrite a bs).mem = true := by
  simp [State.grWrite, h]
@[simp] theorem State.snapRow_wf (s : State) (h : Memory.wf s.mem = true) : Memory.wf s.snapRow.mem = true := by
  show State.MemCanon _
  simp only [State.snapRow]
  split
  · split
    · simp [h]
    · rw [State.memCanon_iff, foldl_mem _ (by simp)]
      refine State.grWrite_wf _ _ _ ?_
      show State.MemCanon _
      split <;> simp [h]
  · simp [h]
theorem State.snapSlotRow_wf (s : State) (sl : Nat) (found : EccFinding) (h : Memory.wf s.mem = true) :
    ∀ t, s.snapSlotRow sl found = some t → Memory.wf t.mem = true := by
  unfold State.snapSlotRow
  (repeat' split) <;> simp [h]
@[simp] theorem State.snapCc_wf (s : State) (h : Memory.wf s.mem = true) : Memory.wf s.snapCc.mem = true := by
  simp [State.snapCc, h]
@[simp] theorem State.captureDone_wf (s : State) (here : Bool) (h : Memory.wf s.mem = true) :
    Memory.wf (s.captureDone here).mem = true := by
  unfold State.captureDone
  split <;> simp [h]
@[simp] theorem execSnapshotCaptureDone_canon (s : State) (here : Bool) (h : Memory.wf s.mem = true) :
    CanonNext (execSnapshotCaptureDone s here) := by
  simp [execSnapshotCaptureDone, h]
@[simp] theorem State.writeDone_wf (s : State) (found : List (BitVec 42 × Bool)) (h : Memory.wf s.mem = true) :
    Memory.wf (s.writeDone found).mem = true := by
  unfold State.writeDone
  split <;> simp [h]
@[simp] theorem execSnapshotWriteDone_canon (s : State) (found : List (BitVec 42 × Bool)) (h : Memory.wf s.mem = true) :
    CanonNext (execSnapshotWriteDone s found) := by
  simp [execSnapshotWriteDone, h]
@[simp] theorem State.commitDone_wf (s : State) (h : Memory.wf s.mem = true) : Memory.wf s.commitDone.mem = true := by
  simp only [State.commitDone]
  (repeat' split) <;> simp [h]
@[simp] theorem execSnapshotCommitDone_canon (s : State) (h : Memory.wf s.mem = true) : CanonNext (execSnapshotCommitDone s) := by
  simp [execSnapshotCommitDone, h]
@[simp] theorem State.replBegin_wf (s : State) (src : BitVec 15) (r : List Byte) (h : Memory.wf s.mem = true) :
    Memory.wf (s.replBegin src r).mem = true := by
  simp [State.replBegin, h]
@[simp] theorem State.replEnd_wf (s : State) (src : BitVec 15) (r : List Byte) (h : Memory.wf s.mem = true) :
    Memory.wf (s.replEnd src r).mem = true := by
  unfold State.replEnd
  split <;> simp [h]
@[simp] theorem State.manage_wf (s : State) (src : BitVec 15) (m : ReplMsg) (h : Memory.wf s.mem = true) :
    Memory.wf (s.manage src m).mem = true := by
  unfold State.manage
  split <;> simp [h]
@[simp] theorem execManagementMessage_canon (src : BitVec 15) (m : ReplMsg) (s : State) (h : Memory.wf s.mem = true) :
    CanonNext (execManagementMessage src m s) := by
  simp [execManagementMessage, h]
@[simp] theorem State.pull_wf (s : State) (r : List Byte) (h : Memory.wf s.mem = true) : Memory.wf (s.pull r).mem = true := by
  simp [State.pull, h]
@[simp] theorem State.pullComplete_wf (s : State) (r content : List Byte) (h : Memory.wf s.mem = true) :
    Memory.wf (s.pullComplete r content).mem = true := by
  simp [State.pullComplete, h]
@[simp] theorem execPullComplete_canon (record content : List Byte) (s : State) (h : Memory.wf s.mem = true) :
    CanonNext (execPullComplete record content s) := by
  simp [execPullComplete, h]

/-! #### The canonical form under Machine/Job -/

@[simp] theorem State.flush_wf (s : State) (h : Memory.wf s.mem = true) : Memory.wf s.flush.mem = true := by
  simp only [State.flush]
  rw [foldl_mem _ (by simp)]
  refine foldl_wf _ (fun t i ht => by simp [ht]) _ ?_
  simp [h]
@[simp] theorem State.endFault_wf (s : State) (h : Memory.wf s.mem = true) : Memory.wf s.endFault.mem = true := by
  simp [State.endFault, h]
@[simp] theorem State.lineDone_wf (s : State) (l : Nat) (h : Memory.wf s.mem = true) : Memory.wf (s.lineDone l).mem = true := by
  simp [State.lineDone, h]
@[simp] theorem State.zeroSlice_wf (s : State) (b slice : Nat) (h : Memory.wf s.mem = true) :
    Memory.wf (s.zeroSlice b slice).mem = true := Memory.wf_filter s.mem _ h
@[simp] theorem State.sliceDone_wf (s : State) (b slice : Nat) (h : Memory.wf s.mem = true) :
    Memory.wf (s.sliceDone b slice).mem = true := by
  simp [State.sliceDone, h]
@[simp] theorem State.fillRest_wf (s : State) (sl : Nat) (h : Memory.wf s.mem = true) : Memory.wf (s.fillRest sl).mem = true := by
  simp [State.fillRest, h]
@[simp] theorem State.ntSliceDone_wf (s : State) (sl : Nat) (h : Memory.wf s.mem = true) :
    Memory.wf (s.ntSliceDone sl).mem = true := by
  simp [State.ntSliceDone, h]
theorem State.fillRow_wf (s : State) (sl : Nat) (h : Memory.wf s.mem = true) :
    ∀ t, s.fillRow sl = some t → Memory.wf t.mem = true := by
  simp only [State.fillRow]
  split <;> simp [h]
@[simp] theorem execClearUnitDone_canon (bay : BayId) (line : Bool) (unit : Fin 64) (s : State) (h : Memory.wf s.mem = true) :
    CanonNext (execClearUnitDone bay line unit s) := by
  simp [execClearUnitDone, h]
@[simp] theorem execNtSliceClearDone_canon (slice : Fin 256) (s : State) (h : Memory.wf s.mem = true) :
    CanonNext (execNtSliceClearDone slice s) := by
  simp [execNtSliceClearDone, h]
@[simp] theorem State.finishChip_wf (s : State) (b : Nat) (h : Memory.wf s.mem = true) : Memory.wf (s.finishChip b).mem = true := by
  have hl : Memory.wf (((List.range 64).foldl (fun (s : State) l =>
      if s.lineFilling (b * 64 + l) then s.lineDone (b * 64 + l) else s) s)).mem = true :=
    foldl_wf _ (fun t l ht => by simp [ht]) _ h
  simp only [State.finishChip]
  have hu : Memory.wf (if (s.bay b).lineActive then
      ((List.range 64).foldl (fun (s : State) l => if s.lineFilling (b * 64 + l) then s.lineDone (b * 64 + l) else s) s).updBay b
        fun z => { z with lineActive := false, clear := !z.bbActive }
    else s).mem = true := by simp [hl, h]
  generalize (if (s.bay b).lineActive then _ else s) = u at *
  split
  · rw [State.updBay_mem]
    exact foldl_wf _ (fun t i ht => by simp [ht]) _ hu
  · exact hu
@[simp] theorem State.finishBay_wf (s : State) (b : Nat) (h : Memory.wf s.mem = true) : Memory.wf (s.finishBay b).mem = true := by
  have hc := s.finishChip_wf b h
  simp only [State.finishBay]
  split
  · rw [State.updBay_mem]
    exact foldl_wf _ (fun t i ht => State.fillRest_wf _ _ ht) _ hc
  · exact hc
@[simp] theorem State.fillComplete_wf (s : State) (h : Memory.wf s.mem = true) : Memory.wf s.fillComplete.mem = true := by
  have hb := foldl_wf State.finishBay (fun t b ht => t.finishBay_wf b ht) (List.range 8) h
  simp only [State.fillComplete]
  rw [foldl_mem _ (by simp)]
  exact hb
@[simp] theorem execFillComplete_canon (s : State) (h : Memory.wf s.mem = true) : CanonNext (execFillComplete s) := by
  simp [execFillComplete, h]

/-! #### The canonical form under Machine/Loader -/

@[simp] theorem State.initSection_wf (s : State) (p : Part) (regions : List Region) (x : Sect) (h : Memory.wf s.mem = true) :
    Memory.wf (s.initSection p regions x).mem = true := by
  refine foldl_wf _ (fun t r ht => ?_) _ h
  split
  · exact foldl_wf _ (fun u l hu => State.setBytes_wf _ _ _ hu) _ ht
  · exact State.writeLocal_wf _ _ _ ht
@[simp] theorem State.writeCopy_wf (s : State) (p : Part) (regions : List Region) (h : Memory.wf s.mem = true) :
    Memory.wf (s.writeCopy p regions).mem = true := by
  unfold State.writeCopy
  split
  · exact h
  · exact foldl_wf _ (fun t e ht => foldl_wf _ (fun u st hu => State.writeLocal_wf _ _ _ hu) _ ht) _ h
@[simp] theorem State.fillImage_wf (s : State) (p : Part) (img : ImageInfo) (h : Memory.wf s.mem = true) :
    Memory.wf (s.fillImage p img).mem = true := by
  simp only [State.fillImage]
  rw [foldl_mem _ (by simp), State.mapOuts_mem]
  refine State.writeCopy_wf _ _ _ (foldl_wf _ (fun t x ht => State.initSection_wf _ _ _ _ ht) _ ?_)
  rw [foldl_mem _ (by simp)]
  exact h
@[simp] theorem State.restore_wf (s : State) (c : Captured) (h : Memory.wf s.mem = true) :
    Memory.wf (s.restore c).mem = true := Memory.wf_foldl_set _ _ (State.zeroBytes_wf _ _ _ h)
@[simp] theorem State.restoreFrom_wf (s : State) (k : Nat) (h : Memory.wf s.mem = true) :
    Memory.wf (s.restoreFrom k).mem = true := State.restore_wf _ _ (foldl_wf _ (fun _ _ ht => State.grWrite_wf _ _ _ ht) _ h)
@[simp] theorem State.finishLoad_wf (s : State) (p q : Nat) (x : Part) (regions : List Region) (r : FetchedRec)
    (l : List (BitVec 128)) (fillError : Bool) (found : List (BitVec 42 × Bool)) (h : Memory.wf s.mem = true) :
    Memory.wf (s.finishLoad p q x regions r l fillError found).mem = true := by
  show State.MemCanon _
  simp only [State.finishLoad]
  split
  · simp [h]
  · split
    · simp [h]
    · split <;> simp [h]
@[simp] theorem State.loadProceed_wf (s : State) (reloc : List (BitVec 128)) (fillError : Bool) (found : List (BitVec 42 × Bool))
    (h : Memory.wf s.mem = true) :
    Memory.wf (s.loadProceed reloc fillError found).mem = true := by
  show State.MemCanon _
  simp only [State.loadProceed]
  split
  · split
    · simp [h]
    · split <;> simp [h]
  · simp [h]
@[simp] theorem execLoadProceed_canon (reloc : List (BitVec 128)) (fillError : Bool) (found : List (BitVec 42 × Bool)) (s : State)
    (h : Memory.wf s.mem = true) :
    CanonNext (execLoadProceed reloc fillError found s) := by
  simp [execLoadProceed, h]

/-! #### The canonical form under Machine/Window -/

@[simp] theorem State.settleRow_wf (s : State) (l r : Nat) (h : Memory.wf s.mem = true) : Memory.wf (s.settleRow l r).mem = true := by
  unfold State.settleRow
  split <;> simp [h]
@[simp] theorem State.hostWrite_wf (s : State) (ar : Area) (a : Nat) (bs : List Byte) (h : Memory.wf s.mem = true) :
    Memory.wf (s.hostWrite ar a bs).mem = true := by
  simp only [State.hostWrite]
  generalize hu : List.foldl _ s _ = u
  have h : Memory.wf u.mem = true := by
    rw [← hu, foldl_mem _ (by simp)]
    exact h
  cases ar with
  | acc => rw [State.accBytes_mem]; exact h
  | ls l =>
    refine State.setBytes_wf _ _ _ ?_
    exact foldl_wf _ (fun t r ht => by simp [ht]) _ h
  | _ => simp [h]
@[simp] theorem State.stepAccess_wf (s : State) (m : MemAccess) (n : Nat) (bad : Option Nat) (h : Memory.wf s.mem = true) :
    Memory.wf (s.stepAccess m n bad).mem = true := by
  show State.MemCanon _
  simp only [State.stepAccess]
  split
  · rename_i ar _ _
    have hw : Memory.wf (if m.write then s.hostWrite ar m.next ((m.data.drop m.done).take n) else s).mem = true := by simp [h]
    generalize (if m.write then s.hostWrite ar m.next ((m.data.drop m.done).take n) else s) = u at *
    have hr : Memory.wf (if m.write then (u, none) else u.hostRead ar m.next n bad).1.mem = true := by simp [hw]
    generalize (if m.write then (u, none) else u.hostRead ar m.next n bad) = p at *
    obtain ⟨t, b⟩ := p
    cases b with
    | some x => simpa using hr
    | none => simpa using hr
  · simp [h]
  · simp [h]
@[simp] theorem State.accessRow_wf (s : State) (m : MemAccess) (found : EccFinding) (h : Memory.wf s.mem = true) :
    Memory.wf (s.accessRow m found).mem = true := by
  refine State.stepAccess_wf _ _ _ _ ?_
  rw [State.countBuffer_mem]
  show State.MemCanon _
  split <;> simp [h]
@[simp] theorem State.accessChunk_wf (s : State) (m : MemAccess) (found : BurstFinding) (h : Memory.wf s.mem = true) :
    Memory.wf (s.accessChunk m found).mem = true := by
  unfold State.accessChunk
  split <;> simp [h]
@[simp] theorem State.copyEnd_wf (s : State) (p q : Nat) (r : FetchedRec) (data : List Byte) (bad : Option Nat)
    (h : Memory.wf s.mem = true) :
    Memory.wf (s.copyEnd p q r data bad).mem = true := by
  simp only [State.copyEnd]
  (repeat' split) <;> simp [h]
@[simp] theorem execCopyComplete_canon (port : HostId) (ring : RingId) (data : List Byte) (bad : Option Nat) (s : State)
    (h : Memory.wf s.mem = true) :
    CanonNext (execCopyComplete port ring data bad s) := by
  unfold execCopyComplete
  split <;> simp [h]
@[simp] theorem State.cutCopy_wf (s : State) (p q : Nat) (e : PcieError) (a n : Nat) (data : List Byte) (h : Memory.wf s.mem = true) :
    Memory.wf (s.cutCopy p q e a n data).mem = true := by
  unfold State.cutCopy
  split <;> simp [h]
@[simp] theorem State.pcieFail_wf (s : State) (p q : Nat) (e : PcieError) (data : List Byte) (h : Memory.wf s.mem = true) :
    Memory.wf (s.pcieFail p q e data).mem = true := by
  simp only [State.pcieFail]
  split <;> simp [h]
@[simp] theorem execPcieCompletionTimeout_canon (port : HostId) (ring : RingId) (err : PcieError) (data : List Byte) (s : State)
    (h : Memory.wf s.mem = true) :
    CanonNext (execPcieCompletionTimeout port ring err data s) := by
  simp [execPcieCompletionTimeout, h]
@[simp] theorem State.localAccess_wf (s : State) (who : Requester) (a : Nat) (write : Bool) (data : List Byte) (len : Nat)
    (bad : Option Nat) (h : Memory.wf s.mem = true) :
    Memory.wf (s.localAccess who a write data len bad).mem = true := by
  show State.MemCanon _
  simp only [State.localAccess]
  split
  · rename_i ar _ _
    split
    · simp [h]
    · split
      · simp [h]
      · have hr := s.hostRead_mem ar a len bad
        split <;> rename_i e <;> rw [e] at hr <;> simp_all
  · simp [h]
@[simp] theorem State.windowAccess_wf (s : State) (who : Requester) (a : Nat) (write : Bool) (data : List Byte) (len : Nat)
    (bad : Option Nat) (h : Memory.wf s.mem = true) :
    Memory.wf (s.windowAccess who a write data len bad).mem = true := by
  simp [State.windowAccess, h]
@[simp] theorem execWindowAccess_canon (who : Requester) (addr : BitVec 42) (write : Bool) (data : List Byte) (len : Fin 4097)
    (bad : Option Nat) (s : State) (h : Memory.wf s.mem = true) :
    CanonNext (execWindowAccess who addr write data len bad s) := by
  simp [execWindowAccess, h]
@[simp] theorem State.bar4_wf (s : State) (p : HostId) (o : Nat) (write : Bool) (data : List Byte) (len : Nat) (bad : Option Nat)
    (h : Memory.wf s.mem = true) :
    Memory.wf (s.bar4 p o write data len bad).mem = true := by
  simp only [State.bar4, mem_ite, wf_ite, State.unclaimed_mem, State.busError_mem, State.b4Error_mem, State.remoteWrite_mem, h,
    State.localAccess_wf, ite_self]
@[simp] theorem State.hallWaits_wf (s : State) (h : Memory.wf s.mem = true) : Memory.wf s.hallWaits.mem = true := by
  unfold State.hallWaits
  split
  · exact foldl_wf _ (fun t w ht => State.bar4_wf _ _ _ _ _ _ _ ht) _ h
  · exact h
@[simp] theorem execBar4Access_canon (port : HostId) (offset : BitVec 36) (write : Bool) (data : List Byte) (len : Fin 4097)
    (bad : Option Nat) (s : State) (h : Memory.wf s.mem = true) :
    CanonNext (execBar4Access port offset write data len bad s) := by
  simp [execBar4Access, h]

/-! #### The canonical form under Machine/Recover -/

@[simp] theorem State.loseMemory_wf (s : State) (h : Memory.wf s.mem = true) : Memory.wf s.loseMemory.mem = true := by
  simp [State.loseMemory, h]
@[simp] theorem State.moduleReset_wf (s : State) (off : Bool) (h : Memory.wf s.mem = true) :
    Memory.wf (s.moduleReset off).mem = true := by
  simp [State.moduleReset, h]
@[simp] theorem State.coldReset_wf (s : State) (h : Memory.wf s.mem = true) : Memory.wf s.coldReset.mem = true := by
  simp [State.coldReset, h]
@[simp] theorem execVinGood_canon (s : State) (lost : Bool) (h : Memory.wf s.mem = true) : CanonNext (execVinGood s lost) := by
  simp [execVinGood, h]
@[simp] theorem execVinStopThreshold_canon (high : Bool) (s : State) (h : Memory.wf s.mem = true) :
    CanonNext (execVinStopThreshold high s) := by
  simp [execVinStopThreshold, h]
@[simp] theorem execThermalShutdown_canon (bay : BayId) (sensor : Fin 36) (degrees : BitVec 8) (s : State)
    (h : Memory.wf s.mem = true) :
    CanonNext (execThermalShutdown bay sensor degrees s) := by
  simp [execThermalShutdown, h]
@[simp] theorem State.resetBy_wf (s : State) (cool : Bool) (h : Memory.wf s.mem = true) : Memory.wf (s.resetBy cool).mem = true := by
  simp [State.resetBy, h]
@[simp] theorem execModrstN_canon (low cool : Bool) (s : State) (h : Memory.wf s.mem = true) : CanonNext (execModrstN low cool s) := by
  simp [execModrstN, h]
@[simp] theorem execI3cResetCommand_canon (cool : Bool) (s : State) (h : Memory.wf s.mem = true) :
    CanonNext (execI3cResetCommand cool s) := by
  simp [execI3cResetCommand, h]
@[simp] theorem State.bayUp_wf (s : State) (b : Nat) (h : Memory.wf s.mem = true) : Memory.wf (s.bayUp b).mem = true := by
  simp [State.bayUp, h]
@[simp] theorem execBayReady_canon (bay : BayId) (s : State) (h : Memory.wf s.mem = true) : CanonNext (execBayReady bay s) := by
  simp [execBayReady, h]
theorem execModrstCmd_canon (who : Requester) (s : State) (h : Memory.wf s.mem = true) : CanonNext (execModrstCmd who s) := by
  rw [execModrstCmd, canonNext_next]
  refine State.regWrite_wf _ _ _ _ (fun u hu => ?_) h
  simp [hu]

/-! #### The canonical form under Machine/Slots -/

theorem State.hostSlot_wf (s : State) (f : FreeCommit) (h : Memory.wf s.mem = true) :
    ∀ t, s.hostSlot f = some t → Memory.wf t.mem = true := by
  simp [State.hostSlot, h]
@[simp] theorem State.freeAccess_wf (s : State) (f : FreeCommit) (h : Memory.wf s.mem = true) :
    Memory.wf (s.freeAccess f).mem = true := by
  show State.MemCanon _
  unfold State.freeAccess
  dsimp only
  split
  · rename_i t e
    rw [State.memCanon_iff, State.countBay_mem]
    split at e
    · exact s.engineSlot_wf f h t e
    · exact s.fillRow_wf _ h t e
    · exact s.snapSlotRow_wf _ _ h t e
    · exact s.hostSlot_wf f h t e
    · rw [s.gleanerSlot_mem t f e]; exact h
  · exact h
@[simp] theorem State.engineSlotNow_wf (s : State) (slice : Nat) (found : EccFinding) (h : Memory.wf s.mem = true) :
    Memory.wf (s.engineSlotNow slice found).mem = true := by
  simp [State.engineSlotNow, h]
@[simp] theorem execNtSlotAccess_canon (slice : Fin 256) (found : EccFinding) (rfm : Nat) (s : State) (h : Memory.wf s.mem = true) :
    CanonNext (execNtSlotAccess slice found rfm s) := by
  simp [execNtSlotAccess, h]
@[simp] theorem State.bayRow_wf (s : State) (b : Nat) (h : Memory.wf s.mem = true) : Memory.wf (s.bayRow b).mem = true := by
  show State.MemCanon _
  unfold State.bayRow
  split <;> simp [h]
@[simp] theorem State.freeAccesses_wf (s : State) (h : Memory.wf s.mem = true) : Memory.wf s.freeAccesses.mem = true := by
  simp only [State.freeAccesses]
  refine foldl_wf _ (fun t b ht => State.bayRow_wf t b ht) _ ?_
  refine State.engineRows_wf _ ?_
  exact foldl_wf _ (fun t f ht => State.freeAccess_wf t f ht) _ h
@[simp] theorem State.chunk_wf (s : State) (found : BurstFinding) (h : Memory.wf s.mem = true) :
    Memory.wf (s.chunk found).mem = true := by
  unfold State.chunk
  (repeat' split) <;> simp [h]
@[simp] theorem execGranaryChunk_canon (found : BurstFinding) (s : State) (h : Memory.wf s.mem = true) :
    CanonNext (execGranaryChunk found s) := by
  simp [execGranaryChunk, h]

/-! #### The canonical form under Machine/Tick -/

@[simp] theorem State.scMemory_wf (s : State) (x : Nat) (h : Memory.wf s.mem = true) : Memory.wf (s.scMemory x).mem = true := by
  have hd : Memory.wf ((((s.meetReads x).ports x fun _ => true)).eachLine fun s l => s.drains l x).mem = true :=
    State.eachLine_wf _ _ (fun t l ht => by simp [ht]) (by simp [h])
  simp [State.scMemory, hd]
@[simp] theorem State.scEnd_wf (s : State) (h : Memory.wf s.mem = true) : Memory.wf s.scEnd.mem = true := by
  simp only [State.scEnd, State.scChecks_mem, State.scFlags_mem, State.scWords_mem]
  refine State.landWrites_wf _ _ ?_
  rw [State.scResults_mem, foldl_mem _ (by simp)]
  simp [h]
@[simp] theorem State.endOfJob_wf (s : State) (h : Memory.wf s.mem = true) : Memory.wf s.endOfJob.mem = true := by
  simp [State.endOfJob, h]
@[simp] theorem State.passTime_wf (s : State) (h : Memory.wf s.mem = true) : Memory.wf s.passTime.mem = true := by
  simp only [State.passTime, State.frameStart_mem]
  refine State.hallWaits_wf _ ?_
  simp [h]
@[simp] theorem State.tick_wf (s : State) (h : Memory.wf s.mem = true) : Memory.wf s.tick.mem = true := by
  unfold State.tick
  split
  · exact s.harvestBoundary_wf h
  · dsimp only
    refine State.passTime_wf _ ?_
    rw [State.endCc_mem, State.countCc_mem, State.linksCc_mem, State.countWaits_mem, State.ballastCc_mem, State.dutyPeriod_mem]
    refine State.endOfJob_wf _ ?_
    rw [State.sendSlots_mem]
    refine State.snapCc_wf _ (State.freeAccesses_wf _ ?_)
    simp [h]

/-! #### The canonical form under Machine/Writes -/

theorem execPullReplica_canon (who : Requester) (record : List Byte) (s : State) (h : Memory.wf s.mem = true) :
    CanonNext (execPullReplica who record s) := by
  rw [execPullReplica, canonNext_next]
  refine State.regWrite_wf _ _ _ _ (fun u hu => ?_) h
  simp [hu]
theorem State.rcvCmdWrite_canon (who : Requester) (v : W32) (s : State) (h : Memory.wf s.mem = true) :
    CanonNext (State.rcvCmdWrite who v s) := by
  unfold State.rcvCmdWrite
  split
  · exact execPullReplica_canon _ _ _ h
  · exact (execRescanSlots_keeps _ _).canonNext h
  · exact execModrstCmd_canon _ _ h
  · exact (execBayrst_keeps _ _ _).canonNext h
  · exact (execLinerst_keeps _ _ _).canonNext h
  · exact (canonNext_next s).2 h
theorem dieWrite_canon (who : Requester) (b x : Nat) (v : W32) (s : State) (h : Memory.wf s.mem = true) :
    CanonNext (dieWrite who b x v s) := by
  unfold dieWrite
  dsimp only
  split
  · exact (execFlgMfSet_keeps _ _ _ _ _).canonNext h
  split
  · exact (execFlgMfClr_keeps _ _ _ _ _).canonNext h
  split
  · exact (canonNext_next s).2 h
  split
  · exact (execNtZoneWrite_keeps _ _ _).canonNext h
  · exact (execRcvDisreqWrite_keeps _ _ _).canonNext h
  · exact (execRcvDisforceWrite_keeps _ _ _).canonNext h
  · exact State.rcvCmdWrite_canon _ _ _ h
  · simp [h]
theorem bar0Write_canon (who : Requester) (o : Nat) (v : W32) (s : State) (h : Memory.wf s.mem = true) :
    CanonNext (bar0Write who o v s) := by
  have keeps {r : Host.Outcome State Fault Refusal} (k : KeepsMem s r) : CanonNext r := k.canonNext h
  have next {t : State} (k : t.mem = s.mem) : CanonNext (.next t) := keeps ((keepsMem_next s t).2 k)
  unfold bar0Write
  refine .ite (next (State.rcvWrite_mem _ _ _ _)) (.ite (next rfl) (.ite (next (State.unclaimed_mem _ _)) (.ite
    (next (State.busError_mem _ _ _)) (.ite (next rfl) (.ite (.ite ?_ (.ite ?_ ?_)) (.ite (.ite ?_ (.ite ?_ (next rfl)))
    (.ite ?_ (.ite ?_ (.ite ?_ (.ite (.ite (next rfl) ?_) (.ite ?_ (.ite ?_ (next rfl)))))))))))))
  · exact keeps (State.hrvReqWrite_keeps _ _ _)
  · exact keeps (execHrvAck_keeps _ _ _)
  · exact next (State.hrvWrite_mem _ _ _ _)
  · exact keeps (execSchCtrlWrite_keeps _ _ _)
  · exact keeps (execSchHoldLimitWrite_keeps _ _ _)
  · exact keeps (pwrReg_keeps _ _ _ _)
  · exact keeps (hstReg_keeps _ _ _ _ _)
  · exact keeps (hstReg_keeps _ _ _ _ _)
  · exact dieWrite_canon _ _ _ _ _ h
  · exact keeps (fabReg_keeps _ _ _ _)
  · exact keeps (State.haltWord_keeps _ _ _)
theorem wordWrite_canon (who : Requester) (t : RegTarget) (add : Nat) (v : W32) (s : State) (h : Memory.wf s.mem = true) :
    CanonNext (wordWrite who t add v s) := by
  unfold wordWrite
  split
  · exact bar0Write_canon _ _ _ _ h
  · exact (bar2Write_keeps _ _ _ _).canonNext h
  · split
    · exact (boxWrite_keeps _ _ _ _ _).canonNext h
    · simp [h]
  · split <;> simp [h]
theorem execRegisterWrite_canon (who : Requester) (target : RegTarget) (size : Fin 9) (value : W64) (s : State)
    (h : Memory.wf s.mem = true) :
    CanonNext (execRegisterWrite who target size value s) := by
  unfold execRegisterWrite
  dsimp only
  split
  · exact wordWrite_canon _ _ _ _ _ h
  split
  · have lo := wordWrite_canon who target 0 (value.extractLsb' 0 32) s h
    split
    · rename_i t e
      exact wordWrite_canon _ _ _ _ _ (lo t e)
    · exact lo
  · rw [canonNext_next]
    show State.MemCanon _
    split <;> simp [h]

/-! ### Every step -/

/-- Every command: those that write memory keep its form, the others keep the list. -/
theorem exec_canon (i : Instr) (s : State) (h : Memory.wf s.mem = true) : CanonNext (exec i s) := by
  have keeps {r : Host.Outcome State Fault Refusal} (k : KeepsMem s r) : CanonNext r := k.canonNext h
  unfold exec
  cases i with
  | heldRowDrain l found => exact execHeldRowDrain_canon _ _ _ h
  | ntSlotAccess slice found rfm => exact execNtSlotAccess_canon _ _ _ _ h
  | harvestBoundary => exact execHarvestBoundary_canon _ h
  | harvestActionsComplete => exact execHarvestActionsComplete_canon _ h
  | snapshotCaptureDone here => exact execSnapshotCaptureDone_canon _ _ h
  | snapshotWriteDone found => exact execSnapshotWriteDone_canon _ _ h
  | snapshotCommitDone => exact execSnapshotCommitDone_canon _ h
  | granaryChunk found => exact execGranaryChunk_canon _ _ h
  | managementMessage src m => exact execManagementMessage_canon _ _ _ h
  | vinStopThreshold high => exact execVinStopThreshold_canon _ _ h
  | thermalShutdown bay sensor degrees => exact execThermalShutdown_canon _ _ _ _ h
  | vinGood lost => exact execVinGood_canon _ _ h
  | bayReady bay => exact execBayReady_canon _ _ h
  | modrstN low cool => exact execModrstN_canon _ _ _ h
  | i3cResetCommand cool => exact execI3cResetCommand_canon _ _ h
  | pcieCompletionTimeout port ring err data => exact execPcieCompletionTimeout_canon _ _ _ _ _ h
  | copyComplete port ring data bad => exact execCopyComplete_canon _ _ _ _ _ h
  | loadProceed reloc fillError found => exact execLoadProceed_canon _ _ _ _ h
  | fillComplete => exact execFillComplete_canon _ h
  | clearUnitDone bay line unit => exact execClearUnitDone_canon _ _ _ _ h
  | ntSliceClearDone slice => exact execNtSliceClearDone_canon _ _ h
  | bar4Access port offset write data len bad => exact execBar4Access_canon _ _ _ _ _ _ _ h
  | windowAccess who addr write data len bad => exact execWindowAccess_canon _ _ _ _ _ _ _ h
  | pullReplica who record => exact execPullReplica_canon _ _ _ h
  | pullComplete record content => exact execPullComplete_canon _ _ _ h
  | modrstCmd who => exact execModrstCmd_canon _ _ h
  | registerWrite who target size value => exact execRegisterWrite_canon _ _ _ _ _ h
  | _ => exact keeps (by simp)
theorem step_canon (s : State) (h : Memory.wf s.mem = true) : CanonNext (step s) := by
  unfold step
  split
  · exact (canonNext_next _).2 (s.tick_wf h)
  · exact exec_canon _ _ h
/-- Settles O5: each command, and the passage of one cc, writes memory only byte by byte or takes entries out of it. -/
theorem everyStepKeepsMemoryCanonical : Obligations.EveryStepKeepsMemoryCanonical := by
  intro s t h e
  exact step_canon s h t e

end Sys2Proof.Machine
end

section

namespace Sys2Proof.Machine

/-! ### Mailboxes (R401 to R405)

What a command does to a mailbox is said once for each shared operation: which box it changes, and that sending, interrupting
and the error registers of a port change none. -/

theorem foldl_keeps {α β : Type} (π : State → β) (f : State → α → State) (h : ∀ s a, π (f s a) = π s) (l : List α) (s : State) :
    π (l.foldl f s) = π s := by
  induction l generalizing s with
  | nil => rfl
  | cons a l ih => exact (ih _).trans (h s a)

@[simp] theorem boxKey_inj (a b : MailboxId) : boxKey a = boxKey b ↔ a = b := by
  cases a <;> cases b <;> simp only [boxKey, MailboxId.open_.injEq, MailboxId.secure.injEq, MailboxId.internal.injEq, reduceCtorEq,
    iff_false, Fin.ext_iff] <;> omega

@[simp] theorem State.box_updBox_same (s : State) (b : MailboxId) (f : Mailbox → Mailbox) :
    (s.updBox b f).box b = f (s.box b) := by simp [State.box, State.updBox]
theorem State.box_updBox_ne (s : State) (b c : MailboxId) (f : Mailbox → Mailbox) (h : b ≠ c) :
    (s.updBox b f).box c = s.box c := by simp [State.box, State.updBox, h]
@[simp] theorem State.updBox_outbox (s : State) (b : MailboxId) (f : Mailbox → Mailbox) : (s.updBox b f).outbox = s.outbox := rfl
@[simp] theorem State.send_boxes (s : State) (m : Sent) : (s.send m).host.boxes = s.host.boxes := rfl
@[simp] theorem State.send_box (s : State) (m : Sent) (b : MailboxId) : (s.send m).box b = s.box b := rfl
@[simp] theorem State.send_outbox (s : State) (m : Sent) : (s.send m).outbox = m :: s.outbox := rfl
@[simp] theorem State.updHp_boxes (s : State) (p : Nat) (f : HostPort → HostPort) : (s.updHp p f).host.boxes = s.host.boxes := rfl
@[simp] theorem State.updHp_box (s : State) (p : Nat) (f : HostPort → HostPort) (b : MailboxId) : (s.updHp p f).box b = s.box b := rfl
@[simp] theorem State.updHp_outbox (s : State) (p : Nat) (f : HostPort → HostPort) : (s.updHp p f).outbox = s.outbox := rfl
@[simp] theorem State.hp_updHp_same (s : State) (p : Nat) (f : HostPort → HostPort) : (s.updHp p f).hp p = f (s.hp p) := by
  simp [State.hp, State.updHp]

theorem State.logAer_eq (s : State) (p : Nat) (m : W32) :
    s.logAer p m = s.updHp p fun h => { h with aer := h.aer ||| m, aerCc := h.aerCc ||| m } := rfl

@[simp] theorem State.msix_box (s : State) (p v : Nat) (b : MailboxId) : (s.msix p v).box b = s.box b := by
  simp only [State.msix]
  split
  · rfl
  · split <;> simp
@[simp] theorem State.interrupt_box (s : State) (b : MailboxId) (m : Bool) (c : MailboxId) : (s.interrupt b m).box c = s.box c := by
  simp only [State.interrupt]
  split
  · rfl
  · cases b <;> simp only [State.send_box] <;> split <;> simp

@[simp] theorem State.busError_box (s : State) (w : Requester) (write : Bool) (b : MailboxId) :
    (s.busError w write).box b = s.box b := by
  cases w <;> simp only [State.busError, State.send_box]
  split <;> simp [State.logAer_eq]
@[simp] theorem State.busError_outbox (s : State) (w : Requester) (write : Bool) :
    (s.busError w write).outbox = .regError w :: s.outbox := by
  cases w <;> simp only [State.busError, State.send_outbox]
  split <;> simp [State.logAer_eq]

@[simp] theorem State.boxDrop_box (s : State) (b : MailboxId) :
    (s.boxDrop b).box b = { s.box b with drop := sat32 ((s.box b).drop + 1) } := by simp [State.boxDrop]
@[simp] theorem State.boxDrop_outbox (s : State) (b : MailboxId) : (s.boxDrop b).outbox = s.outbox := rfl

/-- The doorbell of a full mailbox (R402), whether or not the receiver is interrupted. -/
@[simp] theorem State.ring_box (s : State) (b : MailboxId) (me : Bool) (v : W32) :
    (s.ring b me v).box b = { s.box b with st := 2, db := (s.box b).db ||| v, rung := (s.box b).rung ||| v } := by
  simp only [State.ring]
  split <;> simp
@[simp] theorem State.drainBox_box (s : State) (b : MailboxId) (me : Bool) :
    (s.drainBox b me).box b =
      { s.box b with st := 0, db := 0, emptied := true, drained := some ((s.box b).src, (s.box b).emptied) } := by
  simp [State.drainBox]

theorem State.claimant_iff (s : State) (b : MailboxId) (w : Requester) :
    s.claimant b w = true ↔ (s.box b).st = 1 ∧ (s.box b).src = s.srcId w := by simp [State.claimant]

theorem State.unclaimed_host (s : State) (p : HostId) : (s.unclaimed (.host p)).host.boxes = s.host.boxes ∧
    (s.unclaimed (.host p)).outbox = .regError (.host p) :: s.outbox ∧ ((s.unclaimed (.host p)).hp p).aer.getLsbD 20 = true := by
  simp [State.unclaimed, State.logAer_eq]

/-! #### Accesses of one that is no end of the mailbox, or that its function does not claim -/

section
variable {s : State} {b : MailboxId} {w : Requester}

theorem State.boxEnd_eq_of_claims (hc : s.claims w = true) : s.boxEnd b w = endOf b w := by simp [State.boxEnd, hc]
theorem State.boxEnd_unclaimed (hc : s.claims w = false) : s.boxEnd b w = none := by simp [State.boxEnd, hc]
theorem State.noEnd_of_claims (hc : s.claims w = true) : s.noEnd w = s := by simp [State.noEnd, hc]
theorem State.noEnd_unclaimed (hc : s.claims w = false) : s.noEnd w = s.unclaimed w := by simp [State.noEnd, hc]

/-- Every command on a mailbox whose requester reaches no end of it is the access `noEnd`. -/
theorem exec_of_boxEnd_none (h : s.boxEnd b w = none) :
    exec (.mbClaim b w) s = .next (s.noEnd w) ∧ (∀ x v, exec (.mbMsgWrite b w x v) s = .next (s.noEnd w)) ∧
    (∀ v, exec (.mbDbset b w v) s = .next (s.noEnd w)) ∧ (∀ v, exec (.mbDbclr b w v) s = .next (s.noEnd w)) ∧
    exec (.mbUnclaim b w) s = .next (s.noEnd w) ∧ exec (.mbAck b w) s = .next (s.noEnd w) := by
  simp [exec, execMbClaim, execMbMsgWrite, execMbDbset, execMbDbclr, execMbUnclaim, execMbAck, State.claimBox, State.msgWrite,
    State.dbset, State.dbclr, State.boxAccess, State.cutOff, h]

end

/-! #### Accesses of an end of the mailbox -/

section
variable {s : State} {b : MailboxId} {who : Requester} {me : Bool}

theorem State.boxAccess_alive {write : Bool} {f : State → Bool → State} (he : s.boxEnd b who = some me)
    (hd : s.endDead b (!me) = false ∨ (s.box b).deadMode = true) : s.boxAccess b who write f = f s me := by
  have h : (s.endDead b (!me) && !(s.box b).deadMode) = false := by rcases hd with hd | hd <;> simp [hd]
  simp [State.boxAccess, he, h]
theorem State.boxAccess_dead {write : Bool} {f : State → Bool → State} (he : s.boxEnd b who = some me)
    (hd : s.endDead b (!me) = true) (hm : (s.box b).deadMode = false) :
    s.boxAccess b who write f = (if write then s.boxDrop b else s).busError who write := by
  simp [State.boxAccess, he, hd, hm]

theorem State.cutOff_eq (he : s.boxEnd b who = some me) : s.cutOff b who =
    ((s.box b).st == 0 && (s.box b).cutOff.any fun src => src == s.srcId who || (who == .mgmt && idIsMgmt src)) := by
  simp [State.cutOff, he]
theorem State.cutOff_of_st_ne (h : (s.box b).st ≠ 0) : s.cutOff b who = false := by simp [State.cutOff, h]

theorem State.claimBox_alive (he : s.boxEnd b who = some me) (hd : s.endDead b (!me) = false ∨ (s.box b).deadMode = true) :
    s.claimBox b who =
      if (s.box b).allow.getLsbD (s.srcId who) = false then (s.boxDrop b).send (.regData who (BitVec.ofNat 32 (s.srcId who)))
      else if (s.box b).st = 0 then
        (s.updBox b fun m => { m with st := 1, src := s.srcId who, msg := [] }).send
          (.regData who (BitVec.ofNat 32 (16 + s.srcId who)))
      else s.send (.regData who (BitVec.ofNat 32 (if s.claimant b who then 16 + s.srcId who else s.srcId who))) := by
  simp [State.claimBox, State.boxAccess_alive he hd]
theorem State.msgWrite_alive (he : s.boxEnd b who = some me) (hd : s.endDead b (!me) = false ∨ (s.box b).deadMode = true)
    (w : Nat) (v : W32) : s.msgWrite b who w v =
      if s.claimant b who then s.updBox b fun m => { m with msg := m.msg.put w v } else s.boxDrop b := by
  simp [State.msgWrite, State.boxAccess_alive he hd]
theorem State.dbset_alive (he : s.boxEnd b who = some me) (hd : s.endDead b (!me) = false ∨ (s.box b).deadMode = true)
    (hc : s.cutOff b who = false) (v : W32) : s.dbset b who v =
      if s.claimant b who then
        if v = 0 then s
        else if s.endDead b (!me) then (s.updBox b fun m => { m with st := 0, aborted := true }).interrupt b me
        else s.ring b me v
      else if (s.box b).st = 2 ∧ (s.box b).src = s.srcId who then s.ring b me v
      else s.boxDrop b := by
  simp [State.dbset, State.boxAccess_alive he hd, hc]

/-! ##### MB_CLAIM and MB_MSG_WRITE -/

section
variable (he : s.boxEnd b who = some me) (hd : s.endDead b (!me) = false ∨ (s.box b).deadMode = true)
include he hd

theorem State.claimBox_idle (ha : (s.box b).allow.getLsbD (s.srcId who) = true) (h0 : (s.box b).st = 0) :
    (s.claimBox b who).box b = { s.box b with st := 1, src := s.srcId who, msg := [] } ∧
    (s.claimBox b who).outbox = .regData who (BitVec.ofNat 32 (16 + s.srcId who)) :: s.outbox := by
  simp [State.claimBox_alive he hd, ha, h0]
theorem State.claimBox_notAllowed (ha : (s.box b).allow.getLsbD (s.srcId who) = false) :
    (s.claimBox b who).box b = { s.box b with drop := sat32 ((s.box b).drop + 1) } ∧
    (s.claimBox b who).outbox = .regData who (BitVec.ofNat 32 (s.srcId who)) :: s.outbox := by
  simp [State.claimBox_alive he hd, ha]
theorem State.claimBox_taken (ha : (s.box b).allow.getLsbD (s.srcId who) = true)
    (h : (s.box b).st = 2 ∨ (s.box b).st = 1 ∧ (s.box b).src ≠ s.srcId who) :
    (s.claimBox b who).box b = s.box b ∧
    (s.claimBox b who).outbox = .regData who (BitVec.ofNat 32 (s.srcId who)) :: s.outbox := by
  have h0 : (s.box b).st ≠ 0 := by omega
  have hc : s.claimant b who = false := by rcases h with h | ⟨h, h'⟩ <;> simp [State.claimant, *]
  simp [State.claimBox_alive he hd, ha, h0, hc]

theorem State.msgWrite_claimant (h1 : (s.box b).st = 1) (hs : (s.box b).src = s.srcId who) (w : Nat) (v : W32) :
    (s.msgWrite b who w v).box b = { s.box b with msg := (s.box b).msg.put w v } := by
  simp [State.msgWrite_alive he hd, State.claimant_iff, h1, hs]
theorem State.msgWrite_other (h : (s.box b).st ≠ 1 ∨ (s.box b).src ≠ s.srcId who) (w : Nat) (v : W32) :
    (s.msgWrite b who w v).box b = { s.box b with drop := sat32 ((s.box b).drop + 1) } := by
  have hc : ¬ ((s.box b).st = 1 ∧ (s.box b).src = s.srcId who) := by omega
  simp [State.msgWrite_alive he hd, State.claimant_iff, hc]

/-! ##### MB_DBSET -/

theorem State.dbset_posts (h1 : (s.box b).st = 1) (hs : (s.box b).src = s.srcId who) (v : W32) (hv : v ≠ 0)
    (hl : s.endDead b (!me) = false) :
    (s.dbset b who v).box b = { s.box b with st := 2, db := (s.box b).db ||| v, rung := (s.box b).rung ||| v } := by
  rw [State.dbset_alive he hd (State.cutOff_of_st_ne (by omega)), if_pos ((s.claimant_iff b who).2 ⟨h1, hs⟩), if_neg hv]
  simp [hl]
theorem State.dbset_deadReceiver (h1 : (s.box b).st = 1) (hs : (s.box b).src = s.srcId who) (v : W32) (hv : v ≠ 0)
    (hl : s.endDead b (!me) = true) : (s.dbset b who v).box b = { s.box b with st := 0, aborted := true } := by
  rw [State.dbset_alive he hd (State.cutOff_of_st_ne (by omega)), if_pos ((s.claimant_iff b who).2 ⟨h1, hs⟩), if_neg hv]
  simp [hl]
theorem State.dbset_full (h2 : (s.box b).st = 2) (hs : (s.box b).src = s.srcId who) (v : W32) :
    (s.dbset b who v).box b = { s.box b with db := (s.box b).db ||| v, rung := (s.box b).rung ||| v } := by
  simp [State.dbset_alive he hd (State.cutOff_of_st_ne (by omega)), State.claimant_iff, h2, hs]
theorem State.dbset_zero (h1 : (s.box b).st = 1) (hs : (s.box b).src = s.srcId who) : s.dbset b who 0 = s := by
  simp [State.dbset_alive he hd (State.cutOff_of_st_ne (by omega)), State.claimant_iff, h1, hs]
theorem State.dbset_other (v : W32) (h : (s.box b).st = 0 ∧ s.cutOff b who = false ∨ 3 ≤ (s.box b).st ∨
      (s.box b).st ≠ 0 ∧ (s.box b).src ≠ s.srcId who) :
    (s.dbset b who v).box b = { s.box b with drop := sat32 ((s.box b).drop + 1) } := by
  have hk : s.cutOff b who = false := by
    by_cases h0 : (s.box b).st = 0
    · rcases h with ⟨_, h⟩ | h | h
      · exact h
      · omega
      · omega
    · exact State.cutOff_of_st_ne h0
  have h1 : ¬ ((s.box b).st = 1 ∧ (s.box b).src = s.srcId who) := by omega
  have h2 : ¬ ((s.box b).st = 2 ∧ (s.box b).src = s.srcId who) := by omega
  simp [State.dbset_alive he hd hk, State.claimant_iff, h1, h2]

end

/-- Doorbell bits of a sender that a reset of the same cc cut off stay set, whoever is dead (R11). -/
theorem State.dbset_cutOff (he : s.boxEnd b who = some me) {k : Nat} (h0 : (s.box b).st = 0) (hk : (s.box b).cutOff = some k)
    (hs : k = s.srcId who ∨ who = .mgmt ∧ idIsMgmt k = true) (v : W32) :
    s.dbset b who v = s.updBox b fun m => { m with db := m.db ||| v, rung := m.rung ||| v } := by
  have hc : s.cutOff b who = true := by
    rw [State.cutOff_eq he]
    rcases hs with rfl | ⟨rfl, hs⟩ <;> simp [*]
  simp [State.dbset, hc]

/-! ##### MB_DBCLR, MB_UNCLAIM and MB_ACK -/

section
variable (he : s.boxEnd b who = some me)
include he

theorem State.dbclr_eq (v : W32) : s.dbclr b who v =
    if (s.box b).st = 2 ∧ idIsMgmt (s.box b).src = !me then
      if (s.box b).db &&& ~~~v = 0 then s.drainBox b me else s.updBox b fun m => { m with db := (s.box b).db &&& ~~~v }
    else if (s.box b).taken me then
      s.updBox b fun m => { m with met := (s.box b).met &&& ~~~v, aborted := m.aborted || (s.box b).met &&& ~~~v == 0 }
    else s.boxDrop b := by
  simp [State.dbclr, he, Bool.eq_not]

theorem State.dbclr_full (h2 : (s.box b).st = 2) (hs : idIsMgmt (s.box b).src = !me) (v : W32) (hv : (s.box b).db &&& ~~~v ≠ 0) :
    (s.dbclr b who v).box b = { s.box b with db := (s.box b).db &&& ~~~v } := by
  rw [State.dbclr_eq he, if_pos ⟨h2, hs⟩, if_neg hv, State.box_updBox_same]
theorem State.dbclr_empties (h2 : (s.box b).st = 2) (hs : idIsMgmt (s.box b).src = !me) (v : W32)
    (hv : (s.box b).db &&& ~~~v = 0) : (s.dbclr b who v).box b =
      { s.box b with st := 0, db := 0, emptied := true, drained := some ((s.box b).src, (s.box b).emptied) } := by
  simp [State.dbclr_eq he, h2, hs, hv]
theorem State.dbclr_other (v : W32) (h : (s.box b).st = 2 ∧ idIsMgmt (s.box b).src = me ∨ (s.box b).st ≠ 2 ∧
      (s.box b).taken me = false) : (s.dbclr b who v).box b = { s.box b with drop := sat32 ((s.box b).drop + 1) } := by
  rcases h with ⟨h2, hs⟩ | ⟨h2, ht⟩
  · simp [State.dbclr_eq he, h2, hs, Mailbox.taken]
  · simp [State.dbclr_eq he, h2, ht]
/-- A clear that meets a message which a reset of the same cc has taken from the receiver (R405). -/
theorem State.dbclr_taken (v : W32) {k : Nat} (h0 : (s.box b).st = 0) (hm : (s.box b).met ≠ 0)
    (hk : (s.box b).cutOff = some k) (hs : idIsMgmt k = !me) : (s.dbclr b who v).box b =
      { s.box b with met := (s.box b).met &&& ~~~v, aborted := (s.box b).aborted || (s.box b).met &&& ~~~v == 0 } := by
  have ht : (s.box b).taken me = true := by simpa [Mailbox.taken, h0, hk, hs] using hm
  simp [State.dbclr_eq he, h0, ht]

theorem exec_mbUnclaim : exec (.mbUnclaim b who) s =
    .next (if s.claimant b who then s.updBox b fun m => { m with st := 0 } else s.boxDrop b) := by
  simp [exec, execMbUnclaim, he]
theorem exec_mbAck : exec (.mbAck b who) s = .next (s.updBox b fun m => { m with aborted := false, emptied := false }) := by
  simp [exec, execMbAck, he]

end

/-! ##### A dead peer without DEAD_MODE (R404) -/

section
variable (he : s.boxEnd b who = some me) (hd : s.endDead b (!me) = true) (hm : (s.box b).deadMode = false)
include he hd hm

theorem State.claimBox_dead : s.claimBox b who = s.busError who false := by simp [State.claimBox, State.boxAccess_dead he hd hm]
theorem State.msgWrite_dead (w : Nat) (v : W32) : s.msgWrite b who w v = (s.boxDrop b).busError who true := by
  simp [State.msgWrite, State.boxAccess_dead he hd hm]
theorem State.dbset_dead (v : W32) (hc : s.cutOff b who = false) : s.dbset b who v = (s.boxDrop b).busError who true := by
  simp [State.dbset, State.boxAccess_dead he hd hm, hc]

end

end

/-! #### The reset of a port (R405) -/

@[simp] theorem State.undefine_boxes (s : State) (a n : Nat) : (s.undefine a n).host.boxes = s.host.boxes := by
  simp only [State.undefine]
  split <;> rfl
@[simp] theorem State.undefineLocal_boxes (s : State) (a n : Nat) : (s.undefineLocal a n).host.boxes = s.host.boxes := by
  simp only [State.undefineLocal]
  refine foldl_keeps (·.host.boxes) _ (fun s i => ?_) _ s
  split <;> simp
@[simp] theorem State.cutCopies_boxes (s : State) (p : Nat) : (s.cutCopies p).host.boxes = s.host.boxes := by
  rw [State.cutCopies]
  refine foldl_keeps (·.host.boxes) _ (fun s m => ?_) _ s
  simp

/-- What the reset of an end leaves in its mailbox (R11, R405). -/
def Mailbox.afterReset (m : Mailbox) (mgmt : Bool) : Mailbox :=
  { m with st := 0, db := m.rung, msg := [], cutOff := m.sender.or m.cutOff, drained := none
           aborted := m.aborted || (m.sender.any fun src => idIsMgmt src != mgmt) || m.drained.isSome
           met := if m.st = 2 then m.db else m.met
           emptied := match m.drained with | some d => d.2 | none => m.emptied }

@[simp] theorem State.boxReset_box_same (s : State) (b : MailboxId) (mgmt : Bool) :
    (s.boxReset b mgmt).box b = (s.box b).afterReset mgmt := by
  simp only [State.boxReset]
  split <;> simp only [State.interrupt_box, State.box_updBox_same] <;> rfl
theorem State.boxReset_box_ne (s : State) (b c : MailboxId) (mgmt : Bool) (h : b ≠ c) : (s.boxReset b mgmt).box c = s.box c := by
  simp only [State.boxReset]
  split <;> simp [State.box_updBox_ne _ _ _ _ h]

theorem State.portReset_open (s : State) (p : HostId) :
    (s.portReset p).box (.open_ p) = (s.box (.open_ p)).afterReset false := by
  rw [State.portReset, State.boxReset_box_ne _ _ _ _ (by simp), State.boxReset_box_same]
  simp [State.box, HostState.detach]

/-- A host's reset tells the management controller of its claim or message, and of one that was emptied in this cc. -/
theorem Mailbox.afterReset_aborted (m : Mailbox) : (m.afterReset false).aborted = true ↔
    m.aborted = true ∨ m.drained.isSome = true ∨ m.st ≠ 0 ∧ idIsMgmt m.src = true := by
  by_cases h : m.st = 0
  · cases hd : m.drained <;> simp [Mailbox.afterReset, Mailbox.sender, h, hd]
  · simp only [Mailbox.afterReset, Mailbox.sender, ne_eq, h, not_false_eq_true, if_true, Option.any_some, Bool.bne_false,
      Bool.or_eq_true, true_and]
    tauto

/-- Settles O56: a requester that is no end, an access that is not claimed, the accesses at a live peer or in DEAD_MODE, those that
look at no peer, and the reset of a port. -/
theorem mailboxesCarryMessages : Obligations.MailboxesCarryMessages := by
  unfold Obligations.MailboxesCarryMessages
  refine ⟨?strangers, ?unclaimed, ?alive, ?anyPeer, ?reset⟩
  case strangers =>
    intro s b who he hc
    have h := exec_of_boxEnd_none (s := s) (b := b) (w := who) (by rw [State.boxEnd_eq_of_claims hc, he])
    rwa [State.noEnd_of_claims hc] at h
  case unclaimed =>
    intro s b p i w v hc hi
    have hn : s.claims (.host p) = false := hc
    obtain ⟨hclaim, hmsg, hset, hclr, hun, hack⟩ := exec_of_boxEnd_none (b := b) (State.boxEnd_unclaimed hn)
    refine ⟨_, ?_, s.unclaimed_host p⟩
    rw [← State.noEnd_unclaimed hn]
    rcases hi with rfl | rfl | rfl | rfl | rfl | rfl
    exacts [hclaim, hmsg w v, hset v, hclr v, hun, hack]
  case alive =>
    rintro s b who me _ _ hend hc rfl rfl hd
    have he : s.boxEnd b who = some me := (State.boxEnd_eq_of_claims hc).trans hend
    refine ⟨fun ha h0 => ⟨_, rfl, State.claimBox_idle he hd ha h0⟩, fun ha => ⟨_, rfl, State.claimBox_notAllowed he hd ha⟩,
      fun ha h => ⟨_, rfl, State.claimBox_taken he hd ha h⟩,
      fun w v => ⟨fun h1 hs => ⟨_, rfl, State.msgWrite_claimant he hd h1 hs w v⟩,
        fun h => ⟨_, rfl, State.msgWrite_other he hd h w v⟩⟩,
      fun v => ⟨fun h1 hs hv hl => ⟨_, rfl, State.dbset_posts he hd h1 hs v hv hl⟩,
        fun h1 hs hv hl => ⟨_, rfl, State.dbset_deadReceiver he hd h1 hs v hv hl⟩,
        fun h2 hs => ⟨_, rfl, State.dbset_full he hd h2 hs v⟩, ?_, fun h => ⟨_, rfl, State.dbset_other he hd v h⟩⟩⟩
    rintro h1 hs rfl
    exact congrArg Host.Outcome.next (State.dbset_zero he hd h1 hs)
  case anyPeer =>
    rintro s b who me _ hend hc rfl
    have he : s.boxEnd b who = some me := (State.boxEnd_eq_of_claims hc).trans hend
    refine ⟨fun v k h0 hk hs => ⟨_, rfl, ?_⟩, fun v => ⟨fun h2 hs => ⟨fun hv => ⟨_, rfl, State.dbclr_full he h2 hs v hv⟩,
        fun hv => ⟨_, rfl, State.dbclr_empties he h2 hs v hv⟩⟩, fun h => ⟨_, rfl, State.dbclr_other he v h⟩,
        fun k h0 hm hk hs => ⟨_, rfl, State.dbclr_taken he v h0 hm hk hs⟩⟩,
      fun h1 hs => ⟨_, exec_mbUnclaim he, ?_⟩, fun h => ⟨_, exec_mbUnclaim he, ?_⟩, ⟨_, exec_mbAck he, by simp⟩,
      fun hd hm => ⟨⟨_, rfl, ?_⟩, fun w v => ⟨_, rfl, ?_⟩, fun v hcut => ⟨_, rfl, ?_⟩⟩⟩
    · simp [State.dbset_cutOff he h0 hk hs]
    · simp [State.claimant_iff, h1, hs]
    · have hn : ¬ ((s.box b).st = 1 ∧ (s.box b).src = s.srcId who) := by omega
      simp [State.claimant_iff, hn]
    · simp [State.claimBox_dead he hd hm]
    · simp [State.msgWrite_dead he hd hm]
    · simp [State.dbset_dead he hd hm v hcut]
  case reset =>
    rintro s p _ rfl hup
    have hbox : ((s.updHp p fun h => { h with up := false }).goDown p).box (.open_ p) = s.box (.open_ p) := rfl
    refine ⟨_, rfl, ?_⟩
    simp only [hup, if_true, State.portReset_open, hbox]
    exact ⟨rfl, rfl, rfl, rfl, Mailbox.afterReset_aborted _, fun h => by simp [Mailbox.afterReset, h]⟩

end Sys2Proof.Machine
end

section

namespace Sys2Proof.Machine

/-! ### Register writes (R8 to R11, R370, R376)

A write that does not reach its register is answered alike whichever register it names; one that does goes to the block of
its offset. -/

theorem exec_registerWrite_bar0 (who : Requester) (o : BitVec 25) (v : W64) (s : State) (ho : o.toNat % 4 = 0) :
    exec (.registerWrite who (.bar0 o) 4 v) s = bar0Write who o.toNat (v.extractLsb' 0 32) s := by
  simp [exec, execRegisterWrite, RegTarget.off, wordWrite, ho]
theorem exec_registerWrite_bar2 (who : Requester) (o : BitVec 20) (v : W64) (s : State) (ho : o.toNat % 4 = 0) :
    exec (.registerWrite who (.bar2 o) 4 v) s = bar2Write who o.toNat (v.extractLsb' 0 32) s := by
  simp [exec, execRegisterWrite, RegTarget.off, wordWrite, ho]

section
variable {who : Requester} {s : State} {o : Nat} {v : W32}

theorem State.Reaches.ne_bmc (h : s.Reaches who o) : who ≠ .bmc := by
  rintro rfl
  exact absurd h.1 (by decide)

/-- A write that a command's register answers by `regWrite` is that command, whether it reaches the register or not. -/
theorem bar0Write_eq_of_reaches {c : Host.Outcome State Fault Refusal} {f : State → State} (ho : o ≠ dieReg 0 0x800)
    (hc : c = .next (s.regWrite who o f)) (h : s.Reaches who o → bar0Write who o v s = c) : bar0Write who o v s = c := by
  by_cases hr : s.Reaches who o
  · exact h hr
  · subst hc
    simp only [State.Reaches, Bool.not_eq_true, not_and] at hr
    by_cases hb : onBus who = true
    · by_cases ht : s.tapOpen who = true
      · by_cases hcl : s.claims who = true
        · simp [bar0Write, State.regWrite, ho, hb, ht, hcl, hr hb ht hcl]
        · simp [bar0Write, State.regWrite, ho, hb, ht, hcl]
      · simp [bar0Write, State.regWrite, ho, ht]
    · simp [bar0Write, State.regWrite, ho, hb]

section
variable {x b : Nat}

theorem bar0Write_hrv (h : s.Reaches who (0x10000 + x)) (hx : x < 0x10000) : bar0Write who (0x10000 + x) v s =
    if x = 0x20 then State.hrvReqWrite who v s else if x = 0xC then execHrvAck who v s else .next (s.hrvWrite who x v) := by
  obtain ⟨hb, ht, hc, ha⟩ := id h
  simp [bar0Write, h.ne_bmc, hb, ht, hc, ha, show 0x10000 + x < 0x20000 by omega, show 0x10000 + x = 0x10020 ↔ x = 0x20 by omega,
    show 0x10000 + x = 0x1000C ↔ x = 0xC by omega]
theorem bar0Write_sch (h : s.Reaches who (0x20000 + x)) (hx : x < 0x10000) : bar0Write who (0x20000 + x) v s =
    if x = 0x10 then execSchCtrlWrite who v s else if x = 0x28 then execSchHoldLimitWrite who v s else .next s := by
  obtain ⟨hb, ht, hc, ha⟩ := id h
  simp [bar0Write, h.ne_bmc, hb, ht, hc, ha, show ¬ 0x20000 + x < 0x10000 by omega, show ¬ 0x20000 + x < 0x20000 by omega,
    show 0x20000 + x < 0x30000 by omega, show 0x20000 + x = 0x20010 ↔ x = 0x10 by omega,
    show 0x20000 + x = 0x20028 ↔ x = 0x28 by omega]
theorem bar0Write_pwr (h : s.Reaches who (0x40000 + x)) (hx : x < 0x40000) :
    bar0Write who (0x40000 + x) v s = pwrReg who x v s := by
  obtain ⟨hb, ht, hc, ha⟩ := id h
  simp [bar0Write, h.ne_bmc, hb, ht, hc, ha, show ¬ 0x40000 + x < 0x10000 by omega, show ¬ 0x40000 + x < 0x20000 by omega,
    show ¬ 0x40000 + x < 0x30000 by omega, show 0x40000 + x < 0x80000 by omega]
theorem bar0Write_die (h : s.Reaches who (dieReg b x)) (hb : b < 8) (hx : x < 0x100000) :
    bar0Write who (dieReg b x) v s = dieWrite who b x v s := by
  obtain ⟨hbus, ht, hc, ha⟩ := id h
  have hge : 0xA0000 ≤ dieReg b x := by simp only [dieReg]; omega
  have hlt : dieReg b x < 0x1400000 := by simp only [dieReg]; omega
  have hd : (dieReg b x - 0x400000) / 0x200000 = b := by simp only [dieReg]; omega
  have hm : (dieReg b x - 0x400000) % 0x200000 = 0x100000 + x := by simp only [dieReg]; omega
  have h4 : 0x400000 ≤ dieReg b x := by simp only [dieReg]; omega
  simp [bar0Write, h.ne_bmc, hbus, ht, hc, ha, hd, hm, h4, hlt, show ¬ dieReg b x < 0x10000 by omega,
    show ¬ dieReg b x < 0x20000 by omega, show ¬ dieReg b x < 0x30000 by omega, show ¬ dieReg b x < 0x80000 by omega,
    show ¬ dieReg b x < 0x90000 by omega, show ¬ dieReg b x < 0xA0000 by omega]
theorem bar0Write_fab (h : s.Reaches who (0x1400000 + x)) (hx : x < 0x200000) :
    bar0Write who (0x1400000 + x) v s = fabReg who x v s := by
  obtain ⟨hb, ht, hc, ha⟩ := id h
  simp [bar0Write, h.ne_bmc, hb, ht, hc, ha, show ¬ 0x1400000 + x < 0x10000 by omega, show ¬ 0x1400000 + x < 0x20000 by omega,
    show ¬ 0x1400000 + x < 0x30000 by omega, show ¬ 0x1400000 + x < 0x80000 by omega, show ¬ 0x1400000 + x < 0x90000 by omega,
    show ¬ 0x1400000 + x < 0xA0000 by omega, show ¬ 0x1400000 + x < 0x1400000 by omega, show 0x1400000 + x < 0x1600000 by omega]
theorem bar0Write_halt (h : s.Reaches who haltReg) : bar0Write who haltReg v s = State.haltWord who v s := by
  obtain ⟨hb, ht, hc, ha⟩ := id h
  simp only [haltReg] at ha
  simp [bar0Write, haltReg, h.ne_bmc, hb, ht, hc, ha]
/-- Offsets of no register that a write changes. -/
theorem bar0Write_ignored (h : s.Reaches who o) (ho : o < 0x10000 ∨ 0x1600000 ≤ o ∧ o ≠ haltReg ∨
    0x20000 ≤ o ∧ o < 0x40000 ∧ o ≠ 0x20010 ∧ o ≠ 0x20028) : bar0Write who o v s = .next s := by
  obtain ⟨hb, ht, hc, ha⟩ := id h
  rcases ho with ho | ⟨ho, hn⟩ | ⟨ho, ho', h1, h2⟩
  · simp [bar0Write, h.ne_bmc, hb, ht, hc, ha, ho]
  · simp [bar0Write, h.ne_bmc, hb, ht, hc, ha, hn, show ¬ o < 0x10000 by omega, show ¬ o < 0x20000 by omega,
      show ¬ o < 0x30000 by omega, show ¬ o < 0x80000 by omega, show ¬ o < 0x90000 by omega, show ¬ o < 0xA0000 by omega,
      show ¬ o < 0x1400000 by omega, show ¬ o < 0x1600000 by omega]
  · simp [bar0Write, h.ne_bmc, hb, ht, hc, ha, h1, h2, show ¬ o < 0x10000 by omega, show ¬ o < 0x20000 by omega,
      show ¬ 0x40000 ≤ o by omega, show ¬ 0x80000 ≤ o by omega, show ¬ 0x90000 ≤ o by omega,
      show ¬ 0x400000 ≤ o by omega, show ¬ 0x1400000 ≤ o by omega, show o ≠ haltReg by simp only [haltReg]; omega]

end

theorem bar0Write_unclaimed (hb : onBus who = true) (ht : s.tapOpen who = true) (hc : s.claims who = false) :
    bar0Write who o v s = .next (s.unclaimed who) := by
  have hn : who ≠ .bmc := by rintro rfl; exact absurd hb (by decide)
  simp [bar0Write, hn, hb, ht, hc]
theorem bar0Write_unanswered (hb : onBus who = true) (ht : s.tapOpen who = true) (hc : s.claims who = true)
    (ha : s.answers who o = false) : bar0Write who o v s = .next (s.busError who true) := by
  have hn : who ≠ .bmc := by rintro rfl; exact absurd hb (by decide)
  simp [bar0Write, hn, hb, ht, hc, ha]

end

/-! #### A write at the register of a command is that command -/

section
variable (who : Requester) (s : State) (v : W32)

theorem bar0Write_schCtrl : bar0Write who 0x20010 v s = execSchCtrlWrite who v s :=
  bar0Write_eq_of_reaches (by decide) rfl fun h => (bar0Write_sch (x := 0x10) h (by omega)).trans rfl
theorem bar0Write_schHoldLimit : bar0Write who 0x20028 v s = execSchHoldLimitWrite who v s :=
  bar0Write_eq_of_reaches (by decide) rfl fun h => (bar0Write_sch (x := 0x28) h (by omega)).trans rfl
theorem bar0Write_hrvAck : bar0Write who 0x1000C v s = execHrvAck who v s :=
  bar0Write_eq_of_reaches (by decide) rfl fun h => (bar0Write_hrv (x := 0xC) h (by omega)).trans rfl
theorem bar0Write_hrvArm (hv : v.extractLsb' 0 2 = 1) : bar0Write who 0x10020 v s = execHrvArm who s :=
  bar0Write_eq_of_reaches (by decide) rfl fun h => by
    rw [bar0Write_hrv (x := 0x20) h (by omega), if_pos rfl, State.hrvReqWrite, hv]
    rfl
theorem bar0Write_pwrClass : bar0Write who 0x40000 v s = execPwrClassWrite who v s :=
  bar0Write_eq_of_reaches (by decide) rfl fun h => (bar0Write_pwr (x := 0) h (by omega)).trans rfl
theorem bar0Write_fabShape : bar0Write who 0x1400008 v s = execFabShapeWrite who v s :=
  bar0Write_eq_of_reaches (by decide) rfl fun h => (bar0Write_fab (x := 8) h (by omega)).trans rfl
theorem bar0Write_ntZone : bar0Write who 0x500208 v s = execNtZoneWrite who v s :=
  bar0Write_eq_of_reaches (by decide) rfl fun h =>
    (bar0Write_die (b := 0) (x := 0x208) h (by omega) (by omega)).trans rfl
theorem bar0Write_rcvDisreq : bar0Write who 0x500804 v s = execRcvDisreqWrite who v s :=
  bar0Write_eq_of_reaches (by decide) rfl fun h =>
    (bar0Write_die (b := 0) (x := 0x804) h (by omega) (by omega)).trans rfl
theorem bar0Write_flgMfSet : bar0Write who 0x500040 v s = execFlgMfSet who 0 0 v s :=
  bar0Write_eq_of_reaches (by decide) rfl fun h =>
    (bar0Write_die (b := 0) (x := 0x40) h (by omega) (by omega)).trans rfl
theorem bar0Write_dbgHalt (hv : v.extractLsb' 0 3 = 1) : bar0Write who 0x1700600 v s = execDbgHalt who s :=
  bar0Write_eq_of_reaches (by decide) rfl fun h => by
    rw [show (0x1700600 : Nat) = haltReg from rfl, bar0Write_halt h, State.haltWord, hv]
    rfl

/-- BAR2 of a port: the doorbells of its first ring, and MB_DBSET of its open mailbox. -/
theorem bar2Write_sqDb (p : HostId) : bar2Write (.host p) 0 v s = execSqDb p 0 v s := by
  by_cases hc : s.claims (.host p) <;> simp [bar2Write, execSqDb, hc]
theorem bar2Write_cqDb (p : HostId) : bar2Write (.host p) 4 v s = execCqDb p 0 v s := by
  by_cases hc : s.claims (.host p) <;> simp [bar2Write, execCqDb, hc]
theorem bar2Write_mbDbset (p : HostId) : bar2Write (.host p) 0x1044 v s = execMbDbset (.open_ p) (.host p) v s := by
  by_cases hc : s.claims (.host p)
  · simp [bar2Write, hc, boxWrite]
  · have hn : s.boxEnd (.open_ p) (.host p) = none := by simp [State.boxEnd, hc]
    simp [bar2Write, hc, execMbDbset, State.dbset, State.cutOff, State.boxAccess, State.noEnd, hn]

end

/-! #### Plain registers (R8, R427) -/

theorem ofNat_halfSet_lo (b : W64) (x : W32) : BitVec.ofNat 64 (halfSet b.toNat false x) = b.extractLsb' 32 32 ++ x := by
  have hx := x.isLt
  have hb := b.isLt
  apply BitVec.eq_of_toNat_eq
  rw [BitVec.toNat_append, ← Nat.shiftLeft_add_eq_or_of_lt hx]
  simp only [halfSet, Bool.false_eq_true, if_false, BitVec.toNat_ofNat, BitVec.extractLsb'_toNat, Nat.shiftLeft_eq, Nat.shiftRight_eq_div_pow]
  omega
theorem ofNat_halfSet_hi (b : W64) (x : W32) : BitVec.ofNat 64 (halfSet b.toNat true x) = x ++ b.extractLsb' 0 32 := by
  have hx := x.isLt
  have hb := b.isLt
  apply BitVec.eq_of_toNat_eq
  rw [BitVec.toNat_append, ← Nat.shiftLeft_add_eq_or_of_lt (BitVec.isLt _)]
  simp only [halfSet, if_true, BitVec.toNat_ofNat, BitVec.extractLsb'_toNat, Nat.shiftLeft_eq, Nat.shiftRight_eq_div_pow]
  omega

/-- A W1C bit that is written 1 clears, unless it is set in the cc. -/
theorem getLsbD_w1c {n : Nat} (old now v : BitVec n) {i : Nat} (hi : i < n) :
    (w1c old now v).getLsbD i = (old.getLsbD i && !v.getLsbD i || now.getLsbD i) := by simp [w1c, hi]

section
variable {who : Requester} {s : State} (v : W32)

theorem bar0Write_fabCtrl (h : s.Reaches who 0x1400000) : bar0Write who 0x1400000 v s =
    .next (if s.isOwner who = true ∧ s.time.loaded = false then { s with fab.ctrl := v &&& 0x1F } else s) := by
  refine (bar0Write_fab (x := 0) h (by omega)).trans ?_
  by_cases ho : s.isOwner who = true <;> by_cases hl : s.time.loaded = true <;> simp [fabReg, State.fabWrite, ho, hl]
theorem bar0Write_hrvReqScLo (h : s.Reaches who 0x10018) : bar0Write who 0x10018 v s =
    .next (if s.isOwner who = true then { s with hrv.reqSc := s.hrv.reqSc.extractLsb' 32 32 ++ v } else s) := by
  refine (bar0Write_hrv (x := 0x18) h (by omega)).trans ?_
  rw [← ofNat_halfSet_lo]
  by_cases ho : s.isOwner who = true <;> simp [State.hrvWrite, ho]
theorem bar0Write_hrvReqScHi (h : s.Reaches who 0x1001C) : bar0Write who 0x1001C v s =
    .next (if s.isOwner who = true then { s with hrv.reqSc := v ++ s.hrv.reqSc.extractLsb' 0 32 } else s) := by
  refine (bar0Write_hrv (x := 0x1C) h (by omega)).trans ?_
  rw [← ofNat_halfSet_hi]
  by_cases ho : s.isOwner who = true <;> simp [State.hrvWrite, ho]
theorem bar0Write_hrvCtrl (h : s.Reaches who 0x10000) : bar0Write who 0x10000 v s = .next { s with hrv.ctrl := v &&& 1 } :=
  (bar0Write_hrv (x := 0) h (by omega)).trans rfl
theorem bar0Write_pwrAlert (h : s.Reaches who 0x4001C) : bar0Write who 0x4001C v s =
    .next { s with pwr.alert := w1c s.pwr.alert s.pwr.alertCc (v.setWidth 6) } :=
  (bar0Write_pwr (x := 0x1C) h (by omega)).trans rfl
theorem bar0Write_rcvAlert (h : s.Reaches who 0x500800) : bar0Write who 0x500800 v s =
    .next (if s.isOwner who = true then
      { s with rcv.alert := w1c s.rcv.alert s.rcv.alertCc (v.setWidth 12 &&& 0xFFE) } else s) := by
  refine (bar0Write_die (b := 0) (x := 0x800) h (by omega) (by omega)).trans ?_
  simp [dieWrite, State.rcvWrite, h.ne_bmc]

/-- The upper word of 8 aligned bytes. -/
theorem toNat_add_four {o : BitVec 25} (ho : o.toNat % 8 = 0) : (o + 4).toNat = o.toNat + 4 := by
  have h4 : (4 : BitVec 25).toNat = 4 := rfl
  rw [BitVec.toNat_add, h4]
  exact Nat.mod_eq_of_lt (by have := o.isLt; omega)
/-- 8 bytes are two words, the lower first. -/
theorem exec_registerWrite_eight (o : BitVec 25) (v : W64) {a : State} (ho : o.toNat % 8 = 0)
    (h : exec (.registerWrite who (.bar0 o) 4 v) s = .next a) :
    exec (.registerWrite who (.bar0 o) 8 v) s = exec (.registerWrite who (.bar0 (o + 4)) 4 (v >>> 32)) a := by
  have hn := toNat_add_four ho
  have hv : (v >>> 32).extractLsb' 0 32 = v.extractLsb' 32 32 := by
    ext i hi
    simp
  rw [exec_registerWrite_bar0 _ _ _ _ (by omega)] at h
  rw [exec_registerWrite_bar0 _ _ _ _ (by omega), hn, hv]
  simp [exec, execRegisterWrite, RegTarget.off, wordWrite, ho, h]

end

/-- The error of a wrong size or alignment (R376). -/
theorem exec_registerWrite_badSize (s : State) (p : HostId) (t : RegTarget) (n : Fin 9) (v : W64)
    (h : n ≠ 4 ∧ n ≠ 8 ∨ n = 4 ∧ RegTarget.off t % 4 ≠ 0 ∨ n = 8 ∧ RegTarget.off t % 8 ≠ 0) :
    exec (.registerWrite (.host p) t n v) s = .next ((s.busError (.host p) true).hostErr p 2) := by
  have h4 : ¬ (n.val = 4 ∧ RegTarget.off t % 4 = 0) := by omega
  have h8 : ¬ (n.val = 8 ∧ RegTarget.off t % 8 = 0) := by omega
  simp [exec, execRegisterWrite, h4, h8]

/-! ### Register reads (R70, R376) -/

section
variable {who : Requester} {s : State}

theorem State.loRead_of_tapClosed (h : s.tapOpen who = false) (o : Nat) : s.loRead who o = s := by simp [State.loRead, h]

theorem exec_loRead_bar0 (who : Requester) (s : State) (o : BitVec 25) (ho : o.toNat % 4 = 0) :
    exec (.loRead who ⟨.bar0 o, 4⟩) s = .next (s.loRead who o.toNat) := by
  by_cases ht : s.tapOpen who = true
  · simp [exec, execLoRead, RegTarget.off, State.wordRead, ho, ht]
  · rw [State.loRead_of_tapClosed (by simpa using ht)]
    simp [exec, execLoRead, ht]
/-- A read of 8 bytes is two words, the lower first. -/
theorem exec_loRead_eight (ht : s.tapOpen who = true) (o : BitVec 25) (ho : o.toNat % 8 = 0) :
    exec (.loRead who ⟨.bar0 o, 8⟩) s = .next ((s.loRead who o.toNat).loRead who (o + 4).toNat) := by
  have hn := toNat_add_four ho
  rw [hn]
  simp [exec, execLoRead, RegTarget.off, State.wordRead, ho, ht]
theorem exec_loRead_badSize (s : State) (p : HostId) (t : RegTarget) (n : Fin 9)
    (h : n ≠ 4 ∧ n ≠ 8 ∨ n = 4 ∧ RegTarget.off t % 4 ≠ 0 ∨ n = 8 ∧ RegTarget.off t % 8 ≠ 0) :
    exec (.loRead (.host p) ⟨t, n⟩) s = .next ((s.busError (.host p) false).hostErr p 2) := by
  have h4 : ¬ (n.val = 4 ∧ RegTarget.off t % 4 = 0) := by omega
  have h8 : ¬ (n.val = 8 ∧ RegTarget.off t % 8 = 0) := by omega
  simp [exec, execLoRead, State.tapOpen, h4, h8]

theorem State.readReg_of_pair {o v : Nat} (h : s.pair64 o = some v) : s.readReg who o = BitVec.ofNat 32 v := by
  simp [State.readReg, h]

section
variable (ht : s.tapOpen who = true) (hc : s.claims who = true) (hb : onBus who = true) {o : Nat}
include ht hc hb

theorem State.loRead_stopped (hr : s.readStopped who o = true) : s.loRead who o = s.busError who false := by
  simp [State.loRead, ht, hc, hb, hr]

/-- What a read of LO leaves of the kept halves: its own HI, before the other offsets' (R70). -/
theorem State.loRead_pair {v : Nat} (hr : s.readStopped who o = false) (hp : s.pair64 o = some v) :
    (s.loRead who o).outbox = .regData who (BitVec.ofNat 32 v) :: s.outbox ∧
    (who, o + 4, BitVec.ofNat 32 (v / 2 ^ 32)) ∈ (s.loRead who o).host.hiBuf ∧
    ∀ e ∈ (s.loRead who o).host.hiBuf, e.1 = who → e.2.1 = o + 4 → e.2.2 = BitVec.ofNat 32 (v / 2 ^ 32) := by
  have h := State.readReg_of_pair (who := who) hp
  simp only [State.loRead, ht, hc, hb, hr, hp, h, Bool.not_true, Bool.false_eq_true, if_false, State.send_outbox, true_and]
  refine ⟨List.mem_cons_self, fun e he h1 h2 => ?_⟩
  rcases List.mem_cons.1 he with rfl | he
  · rfl
  · simp [h1, h2] at he

/-- A read of a HI whose half is kept takes it. -/
theorem State.loRead_kept {w : W32} {r : List (Requester × Nat × W32)} (hr : s.readStopped who o = false)
    (hp : s.pair64 o = none) (hk : s.host.hiBuf = (who, o, w) :: r) :
    (s.loRead who o).outbox = .regData who w :: s.outbox ∧
    ∀ e ∈ (s.loRead who o).host.hiBuf, ¬(e.1 = who ∧ e.2.1 = o) := by
  have hf : s.host.hiBuf.find? (fun e => e.1 == who && e.2.1 == o) = some (who, o, w) := by simp [hk]
  have heq : s.loRead who o = { (s.send (.regData who w)) with
      host.hiBuf := s.host.hiBuf.filter fun e => !(e.1 == who && e.2.1 == o) } := by
    simp [State.loRead, ht, hc, hb, hr, hp, hf]
  rw [heq]
  exact ⟨rfl, fun e he ⟨h1, h2⟩ => by simp [h1, h2] at he⟩

theorem State.loRead_plain (hr : s.readStopped who o = false) (hp : s.pair64 o = none)
    (hk : ∀ e ∈ s.host.hiBuf, ¬(e.1 = who ∧ e.2.1 = o)) : s.loRead who o = s.send (.regData who (s.readReg who o)) := by
  have hf : s.host.hiBuf.find? (fun e => e.1 == who && e.2.1 == o) = none := by simpa using hk
  simp [State.loRead, ht, hc, hb, hr, hp, hf]

end

theorem State.readReg_modId : s.readReg who 0 = 0x41570008 := rfl
theorem State.readReg_schHoldLead : s.readReg who 0x2002C = 8 := rfl

end

/-! #### Reads of a mailbox (R402, R403) -/

section
variable (s : State) (b : MailboxId) (who : Requester)

theorem exec_loRead_mbClaim : exec (.loRead who ⟨.box b 0x50, 4⟩) s = exec (.mbClaim b who) s := by
  by_cases ht : s.tapOpen who = true
  · by_cases hc : s.claims who = true
    · simp [exec, execLoRead, execMbClaim, RegTarget.off, State.wordRead, State.boxRead, ht, hc]
    · have hn : s.boxEnd b who = none := State.boxEnd_unclaimed (by simpa using hc)
      simp [exec, execLoRead, execMbClaim, RegTarget.off, State.wordRead, State.claimBox, State.boxAccess, State.noEnd, ht, hc, hn]
  · obtain rfl : who = .debug := by
      cases who <;> simp_all [State.tapOpen]
    have hn : s.boxEnd b .debug = none := by cases b <;> rfl
    simp [exec, execLoRead, execMbClaim, State.claimBox, State.boxAccess, State.noEnd, State.claims, ht, hn]

variable {s b who}

theorem State.tapOpen_of_endOf {me : Bool} (he : endOf b who = some me) : s.tapOpen who = true := by
  cases who with
  | debug => cases b <;> simp [endOf] at he
  | _ => rfl

theorem exec_loRead_box {me : Bool} (he : endOf b who = some me) (hc : s.claims who = true) (x : BitVec 8)
    (hx : x.toNat % 4 = 0) (hn : x.toNat ≠ 0x50) :
    exec (.loRead who ⟨.box b x, 4⟩) s = .next (s.send (.regData who (s.boxReg b who me x.toNat))) := by
  have he' : s.boxEnd b who = some me := (State.boxEnd_eq_of_claims hc).trans he
  simp [exec, execLoRead, RegTarget.off, State.wordRead, State.boxRead, State.tapOpen_of_endOf he, hc, he', hx, hn]

end

/-! ### Accesses to memory (R29 to R32, R290, R305) -/

section
variable {s : State} {who : Requester} {a : Nat} {w : Bool} {d : List Byte} {len : Nat} {bad : Option Nat} {m : Nat} {ar : Area}

theorem State.windowAccess_eq_localAccess (ht : s.tapOpen who = true) (hc : s.claims who = true)
    (hd : who ≠ .debug ∨ 0x18100000000 ≤ a ∧ a < 0x18300000000) :
    s.windowAccess who a w d len bad = s.localAccess who a w d len bad := by
  have hn : ¬ (who = .debug ∧ (a < 0x18100000000 ∨ 0x18300000000 ≤ a)) := by
    rintro ⟨h, h'⟩
    exact hd.elim (· h) (by omega)
  simp [State.windowAccess, ht, hc, hn]
theorem State.windowAccess_tapClosed (ht : s.tapOpen who = false) : s.windowAccess who a w d len bad = s := by
  simp [State.windowAccess, ht]
theorem State.windowAccess_unclaimed {p : HostId} (hc : (s.hp p).memOn = false) :
    s.windowAccess (.host p) a w d len bad = s.unclaimed (.host p) := by
  simp [State.windowAccess, State.tapOpen, State.claims, hc]
theorem State.windowAccess_outside (ht : s.tapOpen .debug = true) (ha : a < 0x18100000000 ∨ 0x18300000000 ≤ a) :
    s.windowAccess .debug a w d len bad = s.busError .debug w := by
  simp [State.windowAccess, ht, State.claims, ha]

section
variable (hm : m = if w then d.length else len)
include hm

theorem State.localAccess_against (h : s.against (s.closedFor who w) a m ≠ none) :
    s.localAccess who a w d len bad = s.busError who w := by
  obtain ⟨k, hk⟩ := Option.ne_none_iff_exists'.1 h
  simp only [State.localAccess, ← hm, hk]

theorem State.windowAccess_refused (ht : s.tapOpen who = true) (hc : s.claims who = true)
    (h : who = .debug ∧ (a < 0x18100000000 ∨ 0x18300000000 ≤ a) ∨ s.against (s.closedFor who w) a m ≠ none) :
    s.windowAccess who a w d len bad = s.busError who w := by
  by_cases hd : who = .debug ∧ (a < 0x18100000000 ∨ 0x18300000000 ≤ a)
  · obtain ⟨rfl, ha⟩ := hd
    exact State.windowAccess_outside ht ha
  · have hd' : who ≠ .debug ∨ 0x18100000000 ≤ a ∧ a < 0x18300000000 := by
      by_cases hw : who = .debug
      · exact .inr (by have := not_and.1 hd hw; omega)
      · exact .inl hw
    rw [State.windowAccess_eq_localAccess ht hc hd', State.localAccess_against hm (h.resolve_left hd)]

theorem State.localAccess_slotted (h : s.against (s.closedFor who w) a m = none) (ha : s.areaOf a m = some ar)
    (hs : ar.slotted = true) (h0 : m ≠ 0) : s.localAccess who a w d len bad =
      { s with host.mem := s.host.mem ++ [⟨who, none, a, m, w, if w then d else [], bad, 0, 0⟩] } := by
  simp [State.localAccess, ← hm, h, ha, hs, h0, State.putAccess]

end

theorem State.badWord_of_no_marks (h : s.marks = []) (p : Nat) : s.badWord p = none := by
  simp [State.badWord, State.accessMarks, State.rowMarks, accessBad, h]
/-- With no error in memory, a read of a window finds none and counts none. -/
theorem State.hostRead_of_no_marks (h : s.marks = []) (hs : ar.slotted = false) (a n : Nat) :
    s.hostRead ar a n none = (s, none) := by
  have hrow : ∀ r, s.hostRowErrors ar r = s := by
    intro r
    cases ar <;> simp_all [Area.slotted, State.hostRowErrors, State.lsErrors, State.rowMarks]
  have hbad : s.badRow ar a n = none := by
    cases ar <;> simp_all [Area.slotted, State.badRow]
    intro r _
    split <;> simp [State.badWord_of_no_marks h]
  have hg : ar ≠ .granary := by rintro rfl; exact absurd hs (by decide)
  simp [State.hostRead, hg, hbad, List.foldl_fixed', hrow]
theorem State.localAccess_read (h : s.against (s.closedFor who false) a len = none) (ha : s.areaOf a len = some ar)
    (hs : ar.slotted = false) (hm : s.marks = []) :
    s.localAccess who a false d len none = s.send (.memData who (s.hostBytes a len)) := by
  simp [State.localAccess, h, ha, hs, State.hostRead_of_no_marks hm hs]

theorem State.settleRow_of_not_held {l : Nat} (h : (s.line l).ls.held = []) (r : Nat) : s.settleRow l r = s := by
  simp [State.settleRow, LineState.heldFor, h]
/-- A write of the local-store window into a line with no held row writes its bytes. -/
theorem State.hostWrite_ls {l : Nat} (h : (s.line l).ls.held = []) (a : Nat) (d : List Byte) :
    s.hostWrite (.ls l) a d = (s.updBay (l / 64) fun z => { z with clear := false }).setBytes a d := by
  have hl : ((s.updBay (l / 64) fun z => { z with clear := false }).line l).ls.held = [] := h
  simp only [State.hostWrite, Area.bays, List.foldl_cons, List.foldl_nil]
  rw [List.foldl_fixed' (State.settleRow_of_not_held hl)]
theorem State.localAccess_lsWrite {l : Nat} (h : s.against (s.closedFor who true) a d.length = none)
    (ha : s.areaOf a d.length = some (.ls l)) (hh : (s.line l).ls.held = []) : s.localAccess who a true d len bad =
      (s.updBay (l / 64) fun z => { z with clear := false }).setBytes a d := by
  simp [State.localAccess, h, ha, Area.slotted, State.hostWrite_ls hh]

end

/-! #### BAR4 (R35, R378) -/

section
variable {s : State} {p : HostId} {o : Nat} {w : Bool} {d : List Byte} {len : Nat} {bad : Option Nat} {g m : Nat}

theorem State.bar4_unclaimed (h : (s.hp p).memOn = false) : s.bar4 p o w d len bad = s.unclaimed (.host p) := by
  simp [State.bar4, State.claims, h]
theorem State.bar4_before_mgmt (hc : (s.hp p).memOn = true) (h : s.mod.mgmt = false) :
    s.bar4 p o w d len bad = s.busError (.host p) w := by
  simp [State.bar4, State.claims, hc, h]

section
variable (hg : g = (s.hp p).b4Base.toNat / s.bar4Size * s.bar4Size + o) (hm : m = if w then d.length else len)
  (hc : (s.hp p).memOn = true) (hmg : s.mod.mgmt = true) (hsz : o + m ≤ s.bar4Size)
include hg hm hc hmg hsz

/-- An access in the window, by the address that the window names. -/
theorem State.bar4_eq : s.bar4 p o w d len bad =
    if 2 ^ 58 ≤ g ∨ g / 2 ^ 57 % 2 = 1 ∧ BitVec.ofNat 15 (g / 2 ^ 42) ≠ 0 then s.b4Error p w
    else if g / 2 ^ 57 % 2 = 1 then s.localAccess (.host p) (g % 2 ^ 42) w d len bad
    else if s.coordOk = false then { s with host.hall := s.host.hall ++ [⟨p, o, w, d, len, bad⟩] }
    else if BitVec.ofNat 15 (g / 2 ^ 42) = s.coord then s.localAccess (.host p) (g % 2 ^ 42) w d len bad
    else if s.inTorus (BitVec.ofNat 15 (g / 2 ^ 42)) = false then s.b4Error p w
    else if w = true ∧ inGranary (g % 2 ^ 42) = true then
      if s.canReach (BitVec.ofNat 15 (g / 2 ^ 42)) = true then s.remoteWrite (BitVec.ofNat 15 (g / 2 ^ 42)) (g % 2 ^ 42) d
      else s.busError (.host p) w
    else s.b4Error p w := by
  have hs : ¬ s.bar4Size < o + if w then d.length else len := by omega
  simp [State.bar4, State.claims, hc, hmg, hs, ← hg]

theorem State.bar4_hall (h57 : g < 2 ^ 57) (hk : s.coordOk = false) : s.bar4 p o w d len bad =
    { s with host.hall := s.host.hall ++ [⟨p, o, w, d, len, bad⟩] } := by
  have hl : ¬ g / 2 ^ 57 % 2 = 1 := by omega
  have hb : ¬ 2 ^ 58 ≤ g := by omega
  rw [State.bar4_eq hg hm hc hmg hsz, if_neg (by rintro (h | ⟨h, -⟩) <;> contradiction), if_neg hl, if_pos hk]

theorem State.bar4_local (h : g < 2 ^ 57 ∧ s.coordOk = true ∧ g / 2 ^ 42 = s.coord.toNat ∨ 2 ^ 57 ≤ g ∧ g < 2 ^ 57 + 2 ^ 42) :
    s.bar4 p o w d len bad = s.localAccess (.host p) (g % 2 ^ 42) w d len bad := by
  rw [State.bar4_eq hg hm hc hmg hsz]
  rcases h with ⟨h57, hk, hco⟩ | ⟨hlo, hhi⟩
  · have hl : ¬ g / 2 ^ 57 % 2 = 1 := by omega
    have hb : ¬ 2 ^ 58 ≤ g := by omega
    have hcc : BitVec.ofNat 15 (g / 2 ^ 42) = s.coord := by rw [hco, BitVec.ofNat_toNat, BitVec.setWidth_eq]
    rw [if_neg (by rintro (h | ⟨h, -⟩) <;> contradiction), if_neg hl, if_neg (by simp [hk]), if_pos hcc]
  · have hl : g / 2 ^ 57 % 2 = 1 := by omega
    have hb : ¬ 2 ^ 58 ≤ g := by omega
    have h0 : BitVec.ofNat 15 (g / 2 ^ 42) = 0 := by
      apply BitVec.eq_of_toNat_eq
      rw [BitVec.toNat_ofNat]
      show g / 2 ^ 42 % 2 ^ 15 = 0
      omega
    rw [if_neg (by rintro (h | ⟨-, h⟩) <;> contradiction), if_pos hl]

theorem State.bar4_beyond (h : 2 ^ 57 + 2 ^ 42 ≤ g) : s.bar4 p o w d len bad = s.b4Error p w := by
  rw [State.bar4_eq hg hm hc hmg hsz, if_pos]
  by_cases h58 : 2 ^ 58 ≤ g
  · exact .inl h58
  · refine .inr ⟨by omega, fun h0 => ?_⟩
    have h0 := congrArg BitVec.toNat h0
    rw [BitVec.toNat_ofNat] at h0
    change g / 2 ^ 42 % 2 ^ 15 = 0 at h0
    omega

/-- An access whose coordinate is another module's. -/
theorem State.bar4_remote {c : BitVec 15} (h57 : g < 2 ^ 57) (hk : s.coordOk = true) (hco : g / 2 ^ 42 = c.toNat)
    (hne : c ≠ s.coord) : s.bar4 p o w d len bad =
      if s.inTorus c = true ∧ w = true ∧ inGranary (g % 2 ^ 42) = true then
        if s.canReach c = true then s.remoteWrite c (g % 2 ^ 42) d else s.busError (.host p) w
      else s.b4Error p w := by
  have hl : ¬ g / 2 ^ 57 % 2 = 1 := by omega
  have hb : ¬ 2 ^ 58 ≤ g := by omega
  have hcc : BitVec.ofNat 15 (g / 2 ^ 42) = c := by rw [hco, BitVec.ofNat_toNat, BitVec.setWidth_eq]
  rw [State.bar4_eq hg hm hc hmg hsz, if_neg (by rintro (h | ⟨h, -⟩) <;> contradiction), if_neg hl, if_neg (by simp [hk]), hcc,
    if_neg hne]
  by_cases ht : s.inTorus c = true <;> simp [ht]

end

theorem State.b4Error_err (s : State) (p : HostId) (w : Bool) : ((s.b4Error p w).hp p).err.getLsbD 1 = true := by
  simp [State.b4Error, State.hostErr, bitOn]

end

/-! #### A write to the granary of another module (R341 to R343, R378) -/

theorem leNat_byte (bs : List Byte) (i : Nat) : leNat bs / 256 ^ i % 256 = (bs.getD i 0).toNat := by
  induction bs generalizing i with
  | nil => simp [leNat]
  | cons b bs ih =>
    have hb := b.isLt
    cases i with
    | zero => simp only [leNat, Nat.pow_zero, Nat.div_one, List.getD_cons_zero]; omega
    | succ i =>
      rw [leNat, Nat.pow_succ', ← Nat.div_div_eq_div_mul, show (b.toNat + 256 * leNat bs) / 256 = leNat bs by omega, ih,
        List.getD_cons_succ]

theorem byteOf_ofNat_leNat {n : Nat} (bs : List Byte) (i : Nat) (h : 8 * i + 8 ≤ n) :
    byteOf (BitVec.ofNat n (leNat bs)) i = bs.getD i 0 := by
  obtain ⟨k, rfl⟩ := Nat.exists_eq_add_of_le h
  apply BitVec.eq_of_toNat_eq
  have hp : (2 : Nat) ^ (8 * i + 8 + k) = 2 ^ (8 * i) * 2 ^ (8 + k) := by rw [← Nat.pow_add]; congr 1; omega
  rw [byteOf, BitVec.extractLsb'_toNat, BitVec.toNat_ofNat, Nat.shiftRight_eq_div_pow, hp, Nat.mod_mul_right_div_self,
    Nat.mod_mod_of_dvd _ (Nat.pow_dvd_pow 2 (by omega)), ← leNat_byte, Nat.pow_mul]

/-- The bytes that a write names stand in the packet at their places. -/
theorem State.byteOf_remotePayload (s : State) (a b : Nat) (d : List Byte) (i : Nat) (hb : b ≤ a) (hi : i < d.length)
    (hk : a - b + i < 256) : byteOf (s.remotePayload a b d) (a - b + i) = d.getD i 0 := by
  rw [State.remotePayload, byteOf_ofNat_leNat _ _ (by omega)]
  simp only [List.getD_eq_getElem?_getD, List.getElem?_map, List.getElem?_range hk, Option.map_some, Option.getD_some]
  rw [if_pos (by simp; omega), show b + (a - b + i) - a = i by omega]

theorem mkHeader_dst (last : Bool) (src dst : BitVec 15) (addr seq : Nat) :
    (mkHeader 2 1 0 none last 0 src dst 0 addr seq).extractLsb' 64 15 = dst := by
  have hs := src.isLt
  have hd := dst.isLt
  apply BitVec.eq_of_toNat_eq
  rw [BitVec.extractLsb'_toNat, mkHeader, BitVec.toNat_ofNat, Nat.shiftRight_eq_div_pow]
  generalize seq % 2 ^ 32 = q
  cases last <;> simp only [Bool.false_eq_true, if_false, if_true] <;> omega

section
variable (s : State)

theorem State.queueItem_keeps (i : DynItem) : (s.queueItem i none).outbox = s.outbox ∧
    (s.queueItem i none).fab.retain = s.fab.retain ∧ (s.queueItem i none).fab.nextTag = s.fab.nextTag := by
  simp only [State.queueItem]
  split <;> exact ⟨rfl, rfl, rfl⟩

/-- A packet to another module, handed over while the retention buffer has room, is kept there until its DONE (R339). -/
theorem State.injectOne_remote (x : DynOut) (h0 : x.due = 0) (hr : s.fab.retain.length < 64) (hd : x.pkt.dst ≠ s.coord) :
    (s.injectOne x).outbox = s.outbox ∧ (s.injectOne x).fab.retain = s.fab.retain ++ [⟨x.tag, x.dst, x.pkt⟩] ∧
    (s.injectOne x).fab.nextTag = s.fab.nextTag := by
  have hc : ((x.due ≤ s.sc || !s.time.running) && decide (s.fab.retain.length < 64)) = true := by simp [h0, hr]
  rw [State.injectOne, hc, if_pos rfl, State.inject, if_neg hd]
  exact State.queueItem_keeps _ _

/-- The packet of 256 bytes that carries a write to `a` of module `c`. -/
def State.remotePacket (c : BitVec 15) (a : Nat) (d : List Byte) : Packet :=
  ⟨mkHeader 2 1 0 none true 0 s.coord c 0 (a / 128 * 128) s.fab.nextTag, s.remotePayload a (a / 128 * 128) d⟩

/-- A write of one packet: the state in which it waits to be injected. -/
def State.remoteQueued (c : BitVec 15) (a : Nat) (d : List Byte) : State :=
  { s with
    fab.outq := [{ due := 0, tag := s.fab.nextTag, dst := c, pkt := s.remotePacket c a d }]
    fab.nextTag := (s.fab.nextTag + 1) % 2 ^ 32
    freeIx := s.freeIx + (if a / 128 * 128 = a && d.length % 256 = 0 then 0 else 1) }

theorem State.remotePacket_dst (c : BitVec 15) (a : Nat) (d : List Byte) : (s.remotePacket c a d).dst = c := mkHeader_dst _ _ _ _ _

theorem State.remoteWrite_one (c : BitVec 15) (a : Nat) (d : List Byte) (h0 : d ≠ []) (h : a % 128 + d.length ≤ 256)
    (hq : s.fab.outq = []) : s.remoteWrite c a d =
      (s.remoteQueued c a d).injectOne { due := 0, tag := s.fab.nextTag, dst := c, pkt := s.remotePacket c a d } := by
  have hl : 0 < d.length := List.length_pos_iff.2 h0
  have hn : (a - a / 128 * 128 + d.length + 255) / 256 = 1 := by omega
  simp only [State.remoteWrite, hn, hq]
  rfl

/-- A write of one packet to another module, while the retention buffer has room. -/
theorem State.remoteWrite_spec (c : BitVec 15) (a : Nat) (d : List Byte) (h0 : d ≠ []) (h : a % 128 + d.length ≤ 256)
    (hq : s.fab.outq = []) (hr : s.fab.retain.length < 64) (hc : c ≠ s.coord) :
    ∃ k, (s.remoteWrite c a d).outbox = s.outbox ∧
      (s.remoteWrite c a d).fab.retain = s.fab.retain ++ [⟨s.fab.nextTag, c, k⟩] ∧
      (s.remoteWrite c a d).fab.nextTag = (s.fab.nextTag + 1) % 2 ^ 32 ∧
      k.header = mkHeader 2 1 0 none true 0 s.coord c 0 (a / 128 * 128) s.fab.nextTag ∧
      ∀ i, i < d.length → byteOf k.payload (a % 128 + i) = d.getD i 0 := by
  have hdst : (s.remotePacket c a d).dst ≠ (s.remoteQueued c a d).coord := by rwa [State.remotePacket_dst]
  obtain ⟨hout, hretain, htag⟩ := (s.remoteQueued c a d).injectOne_remote ⟨0, s.fab.nextTag, c, s.remotePacket c a d⟩ rfl hr hdst
  rw [s.remoteWrite_one c a d h0 h hq]
  refine ⟨s.remotePacket c a d, hout.trans ?_, hretain.trans ?_, htag.trans ?_, ?_, fun i hi => ?_⟩
  · rfl
  · rfl
  · rfl
  · rw [State.remotePacket]
  · rw [show a % 128 + i = a - a / 128 * 128 + i by omega]
    exact s.byteOf_remotePayload _ _ d i (by omega) hi (by omega)

end

/-! #### What the errors leave -/

@[simp] theorem State.send_hp (s : State) (m : Sent) (p : Nat) : (s.send m).hp p = s.hp p := rfl
theorem State.unclaimed_host_hp (s : State) (p : HostId) : ((s.unclaimed (.host p)).hp p).err = (s.hp p).err ∧
    ((s.unclaimed (.host p)).hp p).aer.getLsbD 20 = true := by
  simp [State.unclaimed, State.logAer_eq]
theorem State.busError_eq (s : State) (who : Requester) (w : Bool) : s.busError who w =
    { s with host.ports := (s.busError who w).host.ports, outbox := .regError who :: s.outbox } := by
  cases who <;> cases w <;> rfl
theorem State.busError_host_hp (s : State) (p : HostId) (w : Bool) : ((s.busError (.host p) w).hp p).err = (s.hp p).err ∧
    ((s.busError (.host p) w).hp p).errCnt = if w then sat32 ((s.hp p).errCnt + 1) else (s.hp p).errCnt := by
  cases w <;> simp [State.busError, State.logAer_eq]
@[simp] theorem State.hostErr_hp (s : State) (p : HostId) (n : Nat) :
    (s.hostErr p n).hp p = { s.hp p with err := bitOn (s.hp p).err n, errCc := bitOn (s.hp p).errCc n } := by
  simp [State.hostErr]

/-- The error of an access of a wrong size or alignment, as a host sees it (R376). -/
theorem State.sizeError_spec (s : State) (p : HostId) (w : Bool) :
    (((s.busError (.host p) w).hostErr p 2).hp p).err.getLsbD 2 = true ∧
    (((s.busError (.host p) w).hostErr p 2).hp p).errCnt = (if w then sat32 ((s.hp p).errCnt + 1) else (s.hp p).errCnt) ∧
    ((s.busError (.host p) w).hostErr p 2).outbox = .regError (.host p) :: s.outbox ∧
    (s.busError (.host p) w).hostErr p 2 = { s with
      host.ports := ((s.busError (.host p) w).hostErr p 2).host.ports
      outbox := ((s.busError (.host p) w).hostErr p 2).outbox } := by
  refine ⟨by simp [bitOn], by rw [State.hostErr_hp, ← (s.busError_host_hp p w).2], by simp [State.hostErr], ?_⟩
  cases w <;> rfl

/-- Settles O60: what a register write reaches and what it does there, the two words of 8 bytes, errors of size, reads with their kept
halves, reads of mailboxes, windows, and BAR4. -/
theorem registersAndWindows : Obligations.RegistersAndWindows := by
  unfold Obligations.RegistersAndWindows
  refine ⟨?routes, ?plain, ?writeSize, ?reads, ?readSize, ?boxes, ?windows, ?bar4⟩
  case routes =>
    rintro s who v x rfl
    refine ⟨?_, ?_, ?_, ?_, ?_, ?_, ?_, fun hx => ?_, fun hx => ?_, fun p hp => ?_⟩
    · exact (exec_registerWrite_bar0 _ _ _ _ (by decide)).trans (bar0Write_schCtrl who s _)
    · exact (exec_registerWrite_bar0 _ _ _ _ (by decide)).trans (bar0Write_schHoldLimit who s _)
    · exact (exec_registerWrite_bar0 _ _ _ _ (by decide)).trans (bar0Write_hrvAck who s _)
    · exact (exec_registerWrite_bar0 _ _ _ _ (by decide)).trans (bar0Write_pwrClass who s _)
    · exact (exec_registerWrite_bar0 _ _ _ _ (by decide)).trans (bar0Write_fabShape who s _)
    · exact (exec_registerWrite_bar0 _ _ _ _ (by decide)).trans (bar0Write_ntZone who s _)
    · exact (exec_registerWrite_bar0 _ _ _ _ (by decide)).trans (bar0Write_rcvDisreq who s _)
    · exact (exec_registerWrite_bar0 _ _ _ _ (by decide)).trans (bar0Write_hrvArm who s _ hx)
    · exact (exec_registerWrite_bar0 _ _ _ _ (by decide)).trans (bar0Write_dbgHalt who s _ hx)
    · subst hp
      exact ⟨(exec_registerWrite_bar2 _ _ _ _ (by decide)).trans (bar2Write_sqDb s _ p),
        (exec_registerWrite_bar2 _ _ _ _ (by decide)).trans (bar2Write_cqDb s _ p),
        (exec_registerWrite_bar2 _ _ _ _ (by decide)).trans (bar2Write_mbDbset s _ p)⟩
  case plain =>
    rintro s who v x rfl
    refine ⟨fun h => ?_, fun h => ?_, fun h => ?_, fun h => ?_, fun h => ?_, fun h => ?_, ?_, fun o ho h hr => ?_,
      fun o p hp ho hc => ?_, fun o ho hb ht hc ha => ?_, fun o a ho h => exec_registerWrite_eight o v ho h⟩
    · exact (exec_registerWrite_bar0 _ _ _ _ (by decide)).trans (bar0Write_fabCtrl _ h)
    · exact (exec_registerWrite_bar0 _ _ _ _ (by decide)).trans (bar0Write_hrvReqScLo _ h)
    · exact (exec_registerWrite_bar0 _ _ _ _ (by decide)).trans (bar0Write_hrvReqScHi _ h)
    · exact (exec_registerWrite_bar0 _ _ _ _ (by decide)).trans (bar0Write_hrvCtrl _ h)
    · refine ⟨_, (exec_registerWrite_bar0 _ _ _ _ (by decide)).trans (bar0Write_pwrAlert _ h), rfl, fun i hi => ?_⟩
      rw [getLsbD_w1c _ _ _ hi]
      simp [hi]
    · have he := (exec_registerWrite_bar0 who 0x500800 v s (by decide)).trans (bar0Write_rcvAlert _ h)
      refine ⟨fun ho => ?_, fun ho => ⟨_, he.trans (by rw [if_pos ho]), rfl, fun i hi => ?_⟩⟩
      · rw [he, if_neg (by simp [ho])]
      · rw [getLsbD_w1c _ _ _ hi]
        have hm : ∀ i < 12, (0xFFE : BitVec 12).getLsbD i = (i != 0) := by decide
        rw [BitVec.getLsbD_and, hm i hi, BitVec.getLsbD_setWidth]
        simp [hi]
    · exact (exec_registerWrite_bar0 _ _ _ _ (by decide)).trans (bar0Write_flgMfSet who s _)
    · rw [exec_registerWrite_bar0 _ _ _ _ ho, bar0Write_ignored h]
      have hne {o' : BitVec 25} (hn : o ≠ o') : o.toNat ≠ o'.toNat := fun he => hn (BitVec.eq_of_toNat_eq he)
      rcases hr with hr | ⟨hr, hn⟩ | ⟨hr, hr', h1, h2⟩
      · exact .inl hr
      · exact .inr (.inl ⟨hr, hne hn⟩)
      · exact .inr (.inr ⟨hr, hr', hne h1, hne h2⟩)
    · subst hp
      exact ⟨_, (exec_registerWrite_bar0 _ _ _ _ ho).trans (bar0Write_unclaimed rfl rfl hc), rfl, (s.unclaimed_host_hp p).1,
        (s.unclaimed_host_hp p).2, rfl⟩
    · exact ⟨_, (exec_registerWrite_bar0 _ _ _ _ ho).trans (bar0Write_unanswered hb ht hc ha), State.busError_outbox _ _ _,
        by rw [s.busError_eq who true]⟩
  case writeSize =>
    intro s p t n v h
    obtain ⟨herr, hcnt, hout, heq⟩ := s.sizeError_spec p true
    exact ⟨_, exec_registerWrite_badSize s p t n v h, herr, hcnt, hout, heq⟩
  case reads =>
    intro s who o v ht hc hb ho
    have he (a : State) := exec_loRead_bar0 who a o ho
    refine ⟨fun hr hp => ⟨_, he s, State.loRead_pair ht hc hb hr hp⟩,
      fun hr => ⟨_, he s, by rw [State.loRead_stopped ht hc hb hr, State.busError_outbox]⟩,
      fun w r hr hp hk => ⟨_, he s, State.loRead_kept ht hc hb hr hp hk⟩,
      fun hr hp hk => (he s).trans (congrArg Host.Outcome.next (State.loRead_plain ht hc hb hr hp hk)), fun h8 a b ha hb' => ?_,
      State.readReg_modId, State.readReg_schHoldLead⟩
    rw [he, Host.Outcome.next.injEq] at ha
    rw [← hb', ← ha, exec_loRead_eight ht o h8, exec_loRead_bar0 _ _ _ (by rw [toNat_add_four h8]; omega)]
  case readSize =>
    intro s p t n h
    obtain ⟨herr, -, hout, heq⟩ := s.sizeError_spec p false
    exact ⟨_, exec_loRead_badSize s p t n h, herr, hout, heq⟩
  case boxes =>
    intro s b who
    refine ⟨exec_loRead_mbClaim s b who, fun me he hc => ⟨?_, ?_⟩, fun p hp hb hc ha => ?_⟩
    · exact exec_loRead_box he hc 0x40 (by decide) (by decide)
    · exact exec_loRead_box he hc 0x54 (by decide) (by decide)
    · subst hp hb
      refine (exec_loRead_box (me := false) (by simp [endOf]) hc 0 (by decide) (by decide)).trans ?_
      have ha' : (s.box (.secure p)).allow.getLsbD (s.srcId (.host p)) = false := ha
      simp [State.boxReg, ha']
  case windows =>
    intro s who a w d n bad m hm
    refine ⟨fun ht => ?_, fun p hp hc => ?_, fun ht hc h => ?_, fun ht hc hd hag ar har => ⟨fun hs h0 => ?_, fun hs hw hbad hmk => ?_,
      fun l hl hw hh hwf => ?_⟩⟩
    · exact congrArg Host.Outcome.next (State.windowAccess_tapClosed ht)
    · subst hp
      exact ⟨_, congrArg Host.Outcome.next (State.windowAccess_unclaimed hc), rfl, rfl⟩
    · have he := State.windowAccess_refused (bad := bad) hm ht hc h
      exact ⟨_, congrArg Host.Outcome.next he, by simp, by simp, by rw [s.busError_eq], by rw [s.busError_eq]⟩
    · exact congrArg Host.Outcome.next ((State.windowAccess_eq_localAccess ht hc hd).trans (State.localAccess_slotted hm hag har hs h0))
    · subst hw hbad hm
      exact ⟨_, congrArg Host.Outcome.next ((State.windowAccess_eq_localAccess ht hc hd).trans (State.localAccess_read hag har hs hmk)),
        rfl, rfl⟩
    · subst hl hw hm
      refine ⟨_, congrArg Host.Outcome.next ((State.windowAccess_eq_localAccess ht hc hd).trans (State.localAccess_lsWrite hag har hh)),
        fun i hi => ?_, fun x hx => ?_, rfl⟩
      · rw [State.byte_setBytes _ _ _ _ (by exact hwf), if_pos (by omega), Nat.add_sub_cancel_left]
      · rw [State.byte_setBytes _ _ _ _ (by exact hwf), if_neg (by omega)]
        rfl
  case bar4 =>
    intro s p o w d n bad g m hg hm
    refine ⟨fun h => ?_, fun hc hmg hsz => ⟨fun h57 hk => congrArg Host.Outcome.next (State.bar4_hall hg hm hc hmg hsz h57 hk),
      fun h hag ar har => ⟨fun hs h0 => ?_, fun hs hw hbad hmk => ?_⟩,
      fun c h57 hk hco hne => ⟨fun h => ?_, fun ht hw hgr hr => ?_, fun ht hw hgr hr h0 h256 hq hret => ?_⟩, fun h => ?_⟩⟩
    · have hcases : s.bar4 p o.toNat w d n.val bad = s.unclaimed (.host p) ∨
          s.bar4 p o.toNat w d n.val bad = s.busError (.host p) w := by
        by_cases hc : (s.hp p).memOn = true
        · exact .inr (State.bar4_before_mgmt hc (h.resolve_left (by simp [hc])))
        · exact .inl (State.bar4_unclaimed (by simpa using hc))
      rcases hcases with he | he
      · exact ⟨_, congrArg Host.Outcome.next he, rfl, rfl⟩
      · exact ⟨_, congrArg Host.Outcome.next he, by simp, by simp⟩
    · exact congrArg Host.Outcome.next ((State.bar4_local hg hm hc hmg hsz h).trans (State.localAccess_slotted hm hag har hs h0))
    · subst hw hbad
      have hn : m = n.val := hm
      rw [hn] at hag har ⊢
      exact ⟨_, congrArg Host.Outcome.next ((State.bar4_local hg hm hc hmg hsz h).trans (State.localAccess_read hag har hs hmk)), rfl, rfl⟩
    · have he := State.bar4_remote (bad := bad) hg hm hc hmg hsz h57 hk hco hne
      rw [if_neg (by rintro ⟨h1, h2, h3⟩; exact absurd h (by simp only [h1, h2, h3]; decide))] at he
      exact ⟨_, congrArg Host.Outcome.next he, s.b4Error_err p w, by simp [State.b4Error, State.hostErr], by simp,
        by rw [State.b4Error, s.busError_eq]; rfl⟩
    · have he := State.bar4_remote (bad := bad) hg hm hc hmg hsz h57 hk hco hne
      rw [if_pos ⟨ht, hw, hgr⟩, if_neg (by simp [hr])] at he
      exact ⟨_, congrArg Host.Outcome.next he, (s.busError_host_hp p w).1, by simp, by simp, by rw [s.busError_eq]⟩
    · have he := State.bar4_remote (bad := bad) hg hm hc hmg hsz h57 hk hco hne
      rw [if_pos ⟨ht, hw, hgr⟩, if_pos hr] at he
      have h128 : g % 2 ^ 42 % 128 = g % 128 := by omega
      obtain ⟨k, hout, hretain, htag, hhead, hbytes⟩ := s.remoteWrite_spec c (g % 2 ^ 42) d h0 (by omega) hq hret hne
      refine ⟨_, k, congrArg Host.Outcome.next he, State.remoteWrite_mem _ _ _ _, hout, hretain, htag, hhead, ?_⟩
      rwa [h128] at hbytes
    · have he := State.bar4_beyond (bad := bad) hg hm hc hmg hsz h
      exact ⟨_, congrArg Host.Outcome.next he, s.b4Error_err p w, by simp [State.b4Error, State.hostErr], by simp⟩

end Sys2Proof.Machine
end

section

namespace Sys2Proof.Machine

/-! ### Bring-up (Table 14-1)

Bytes after a clear are said once for each operation that clears: zero where it clears, as before elsewhere. -/

theorem getLsbD_bitOn_self {n i : Nat} (v : BitVec n) (h : i < n) : (bitOn v i).getLsbD i = true := by
  simp [bitOn, h]

/-! #### Bytes after a clear -/

theorem Memory.get_filter_addr (m : List Host.Cell) (k : Nat → Bool) (a : Nat) :
    Memory.get (m.filter fun c => k c.1) a = if k a then Memory.get m a else Memory.blank := by
  induction m with
  | nil => simp [Memory.get]
  | cons c m ih =>
    obtain ⟨x, v⟩ := c
    by_cases hx : x = a
    · subst hx
      by_cases hk : k x = true
      · simp [Memory.get, hk]
      · simp [ih, hk]
    · by_cases hk : k x = true <;> simp [Memory.get, hk, hx, ih]

/-- The stamp of the undefined range that the byte at `r` is in. -/
def stampAt (us : List UndefRange) (r : Nat) : Option Nat :=
  (us.find? fun u => u.base ≤ r && r < u.base + u.len).map UndefRange.stamp

theorem State.byte_eq_of_stampAt (s : State) (r : Nat) :
    s.byte r = (stampAt s.undef r).elim (Memory.get s.mem r) (Config.freeByte · r) := by
  rw [State.byte_eq, stampAt]
  cases (s.undef.find? fun u => u.base ≤ r && r < u.base + u.len).map UndefRange.stamp <;> rfl

/-- Bytes that an operation takes out of the memory list and out of the undefined ranges read zero, every other byte as before. -/
theorem State.byte_cleared {s t : State} {r : Nat} (p : Prop) [Decidable p]
    (hm : Memory.get t.mem r = if p then Memory.blank else Memory.get s.mem r)
    (hu : stampAt t.undef r = if p then none else stampAt s.undef r) : t.byte r = if p then 0 else s.byte r := by
  rw [State.byte_eq_of_stampAt, State.byte_eq_of_stampAt s, hm, hu]
  split <;> rfl

theorem stampAt_cut (us : List UndefRange) (a n r : Nat) :
    stampAt (us.flatMap fun u => u.cut a n) r = if a ≤ r ∧ r < a + n then none else stampAt us r :=
  UndefRange.find_cut us a n r

theorem stampAt_append (us vs : List UndefRange) (r : Nat) : stampAt (us ++ vs) r = (stampAt us r).or (stampAt vs r) := by
  simp only [stampAt, List.find?_append]
  cases us.find? _ <;> rfl

theorem stampAt_flatMap (f : UndefRange → List UndefRange) (p : Prop) [Decidable p] (r : Nat)
    (h : ∀ u, stampAt (f u) r = if p then none else stampAt [u] r) (us : List UndefRange) :
    stampAt (us.flatMap f) r = if p then none else stampAt us r := by
  induction us with
  | nil => simp [stampAt]
  | cons u us ih =>
    rw [List.flatMap_cons, stampAt_append, h, ih, show u :: us = [u] ++ us from rfl, stampAt_append [u]]
    split <;> rfl

theorem stampAt_cutRange (us : List UndefRange) (a step lo n r : Nat) :
    stampAt ((List.range n).foldl (fun l i => l.flatMap fun v => v.cut (a + step * (lo + i)) 128) us) r =
      if ∃ i < n, a + step * (lo + i) ≤ r ∧ r < a + step * (lo + i) + 128 then none else stampAt us r := by
  induction n with
  | zero => simp
  | succ n ih =>
    rw [List.range_succ, List.foldl_append, List.foldl_cons, List.foldl_nil, stampAt_cut, ih]
    rw [← ite_or]
    exact if_congr (by rw [Nat.exists_lt_succ_right, or_comm]) rfl rfl

/-- The rows that an undefined range does not meet need no cut (`cutRows` starts at the first row that it may meet). -/
theorem stampAt_cutRows (u : UndefRange) (a step n r : Nat) (h : 128 ≤ step) :
    stampAt (u.cutRows a step n) r = if ∃ i < n, a + step * i ≤ r ∧ r < a + step * i + 128 then none else stampAt [u] r := by
  rw [UndefRange.cutRows, stampAt_cutRange]
  by_cases hu : u.base ≤ r ∧ r < u.base + u.len
  · have hiff : (∃ i < min n ((u.base + u.len - a) / step + 1) - (u.base - a) / step,
        a + step * ((u.base - a) / step + i) ≤ r ∧ r < a + step * ((u.base - a) / step + i) + 128) ↔
        ∃ i < n, a + step * i ≤ r ∧ r < a + step * i + 128 := by
      constructor
      · rintro ⟨i, hi, hr⟩
        exact ⟨(u.base - a) / step + i, by omega, hr⟩
      · rintro ⟨i, hi, hlo, hhi⟩
        have h1 : (u.base - a) / step ≤ i := by
          rw [← Nat.lt_succ_iff, Nat.div_lt_iff_lt_mul (by omega), Nat.succ_mul, Nat.mul_comm i]
          omega
        have h2 : i ≤ (u.base + u.len - a) / step := by
          rw [Nat.le_div_iff_mul_le (by omega), Nat.mul_comm]
          omega
        refine ⟨i - (u.base - a) / step, by omega, ?_⟩
        rw [Nat.add_sub_cancel' h1]
        exact ⟨hlo, hhi⟩
    simp only [hiff]
  · have hn : stampAt [u] r = none := by simpa [stampAt] using hu
    simp [hn]

theorem State.byte_zeroBytes (s : State) (a n r : Nat) :
    (s.zeroBytes a n).byte r = if a ≤ r ∧ r < a + n then 0 else s.byte r := by
  refine State.byte_cleared _ ?_ (stampAt_cut s.undef a n r)
  rw [State.zeroBytes, Memory.zero, Memory.get_filter_addr s.mem (fun x => decide (x < a) || decide (a + n ≤ x))]
  by_cases h : a ≤ r ∧ r < a + n
  · rw [if_pos h, if_neg (by simp; omega)]
  · rw [if_neg h, if_pos (by simp; omega)]

/-- The byte at `r` is one of the bay buffer of bay `b` (R275). -/
abbrev inBb (b r : Nat) : Prop := bbPhys b 0 ≤ r ∧ r < bbPhys b 0x4000000

theorem bbSlice_lt (o : Nat) : bbSlice o < 64 := Nat.mod_lt _ (by omega)

theorem inBb_slice_iff_row {b i r : Nat} (hi : i < 64) :
    (∃ j < 8192, bbPhys b (128 * i) + 8192 * j ≤ r ∧ r < bbPhys b (128 * i) + 8192 * j + 128) ↔
      inBb b r ∧ bbSlice (r - bbPhys b 0) = i := by
  simp only [inBb, bbPhys, bbSlice]
  constructor
  · rintro ⟨j, hj, hr⟩
    omega
  · rintro ⟨⟨h1, h2⟩, h3⟩
    exact ⟨(r - (0x18000000000 + b * 0x4000000)) / 8192, by omega, by omega⟩

theorem State.byte_zeroSlice (s : State) (b : Nat) {i : Nat} (r : Nat) (hi : i < 64) :
    (s.zeroSlice b i).byte r = if inBb b r ∧ bbSlice (r - bbPhys b 0) = i then 0 else s.byte r := by
  refine State.byte_cleared _ ?_ ?_
  · rw [State.zeroSlice, Memory.get_filter_addr s.mem
      (fun x => !(decide (bbPhys b 0 ≤ x) && decide (x < bbPhys b 0x4000000) && decide (bbSlice (x - bbPhys b 0) = i))), ← ite_not]
    exact if_congr (by simp only [Bool.not_eq_true', Bool.not_eq_false, Bool.and_eq_true, decide_eq_true_eq]) rfl rfl
  · rw [State.zeroSlice]
    refine stampAt_flatMap _ _ r (fun u => ?_) s.undef
    rw [stampAt_cutRows u _ _ _ r (by omega : 128 ≤ 8192)]
    exact if_congr (inBb_slice_iff_row hi) rfl rfl

/-! #### The fill engines of a bay (R280) -/

@[simp] theorem State.byte_updBay (s : State) (b : Nat) (f : BayState → BayState) (r : Nat) : (s.updBay b f).byte r = s.byte r := rfl
@[simp] theorem State.byte_updLine (s : State) (l : Nat) (f : LineState → LineState) (r : Nat) : (s.updLine l f).byte r = s.byte r := rfl
@[simp] theorem State.bay_zeroBytes (s : State) (a n b : Nat) : (s.zeroBytes a n).bay b = s.bay b := rfl
@[simp] theorem State.bay_updLine (s : State) (l b : Nat) (f : LineState → LineState) : (s.updLine l f).bay b = s.bay b := rfl

/-- The engines of bay `b` clear the first `n` slices of its bay buffer. -/
def State.clearSlices (s : State) (b n : Nat) : State := (List.range n).foldl (fun s i => s.zeroSlice b i) s

theorem State.clearSlices_succ (s : State) (b n : Nat) : s.clearSlices b (n + 1) = (s.clearSlices b n).zeroSlice b n := by
  rw [State.clearSlices, List.range_succ, List.foldl_append]
  rfl
@[simp] theorem State.clearSlices_bay (s : State) (b n c : Nat) : (s.clearSlices b n).bay c = s.bay c :=
  foldl_keeps (·.bay c) (fun s i => s.zeroSlice b i) (fun _ _ => rfl) _ s
@[simp] theorem State.clearSlices_mod (s : State) (b n : Nat) : (s.clearSlices b n).mod = s.mod :=
  foldl_keeps State.mod (fun s i => s.zeroSlice b i) (fun _ _ => rfl) _ s

theorem State.byte_clearSlices (s : State) (b r : Nat) {n : Nat} (h : n ≤ 64) :
    (s.clearSlices b n).byte r = if inBb b r ∧ bbSlice (r - bbPhys b 0) < n then 0 else s.byte r := by
  induction n with
  | zero => simp [State.clearSlices]
  | succ n ih =>
    rw [State.clearSlices_succ, State.byte_zeroSlice _ _ _ (by omega), ih (by omega), ← ite_or]
    exact if_congr (by rw [← and_or_left, Nat.lt_succ_iff_lt_or_eq, or_comm]) rfl rfl

/-- The fill engines have started on every unit of the bay's on-chip memories, and none is clear. -/
def BayState.Fresh (z : BayState) : Prop :=
  z.lineActive = true ∧ z.bbActive = true ∧ z.clrLines = [] ∧ z.clrSlices = [] ∧ z.clear = false

/-- The bay after its engines have cleared its first `n` lines, and no slice. -/
def BayState.linesDone (z : BayState) (n : Nat) : BayState :=
  { z with clrLines := (List.range n).reverse, lineActive := decide (n < 64) }

/-- The engines of bay `b` work through its first `n` lines. -/
def State.clearLines (s : State) (b n : Nat) : State :=
  (List.range n).foldl (fun s l => if s.lineFilling (b * 64 + l) then s.lineDone (b * 64 + l) else s) s

theorem State.clearLines_succ (s : State) (b n : Nat) : s.clearLines b (n + 1) =
    if (s.clearLines b n).lineFilling (b * 64 + n) then (s.clearLines b n).lineDone (b * 64 + n) else s.clearLines b n := by
  rw [State.clearLines, List.range_succ, List.foldl_append]
  rfl

theorem State.byte_lineDone (s : State) (l r : Nat) :
    (s.lineDone l).byte r = if lsPhys l 0 ≤ r ∧ r < lsPhys l 0 + 0x60000 then 0 else s.byte r := by
  simp [State.lineDone, State.byte_zeroBytes]
theorem State.bay_lineDone_ne (s : State) {l c : Nat} (h : l / 64 ≠ c) : (s.lineDone l).bay c = s.bay c := by
  simp [State.lineDone, State.bay_updBay, h]

/-- The byte at `r` is one of the local stores of the first `n` lines of bay `b` (R26). -/
abbrev inStores (b n r : Nat) : Prop :=
  lsPhys (b * 64) 0 ≤ r ∧ r < lsPhys (b * 64 + n) 0 ∧ (r - lsPhys 0 0) % 0x80000 < 0x60000

theorem inStores_zero (b r : Nat) : ¬ inStores b 0 r := by
  simp only [inStores, lsPhys]
  omega
theorem inStores_succ (b n r : Nat) :
    inStores b (n + 1) r ↔ (lsPhys (b * 64 + n) 0 ≤ r ∧ r < lsPhys (b * 64 + n) 0 + 0x60000) ∨ inStores b n r := by
  simp only [inStores, lsPhys]
  omega

/-- What the first `n` lines of a freshly started bay change. -/
theorem State.clearLines_spec (s : State) {b n : Nat} (h : (s.bay b).Fresh) (hn : n ≤ 64) :
    (s.clearLines b n).bay b = (s.bay b).linesDone n ∧ (∀ c, c ≠ b → (s.clearLines b n).bay c = s.bay c) ∧
    (s.clearLines b n).mod = s.mod ∧ ∀ r, (s.clearLines b n).byte r = if inStores b n r then 0 else s.byte r := by
  obtain ⟨hl, hb, hcl, -, hc⟩ := h
  induction n with
  | zero =>
    refine ⟨?_, fun _ _ => rfl, rfl, fun r => by rw [if_neg (inStores_zero b r)]; rfl⟩
    show s.bay b = { s.bay b with clrLines := [], lineActive := true }
    rw [← hl, ← hcl]
  | succ n ih =>
    obtain ⟨ihb, ihc, ihm, ihr⟩ := ih (by omega)
    have hlt : n < 64 := by omega
    have hdiv : (b * 64 + n) / 64 = b := by omega
    have hmod : (b * 64 + n) % 64 = n := by omega
    have hfill : (s.clearLines b n).lineFilling (b * 64 + n) = true := by
      simp [State.lineFilling, hdiv, hmod, ihb, BayState.linesDone, hlt]
    rw [State.clearLines_succ, if_pos hfill]
    refine ⟨?_, fun c hne => ?_, ihm, fun r => ?_⟩
    · simp [State.lineDone, State.bay_updBay, hdiv, hmod, ihb, BayState.linesDone, hlt, List.range_succ, hb, hc]
    · rw [State.bay_lineDone_ne _ (by rw [hdiv]; exact hne.symm), ihc c hne]
    · rw [State.byte_lineDone, ihr, ← ite_or]
      exact if_congr (inStores_succ b n r).symm rfl rfl

/-- The bay with every unit of its on-chip memories clear. -/
def BayState.chipDone (z : BayState) : BayState :=
  { z.linesDone 64 with clrSlices := List.range 64, bbActive := false, clear := true }

/-- The state once the lines of bay `b` are clear. -/
def State.finishLines (s : State) (b : Nat) : State :=
  (s.clearLines b 64).updBay b fun z => { z with lineActive := false, clear := !z.bbActive }

theorem State.finishChip_of_lineActive (s : State) {b : Nat} (hl : (s.bay b).lineActive = true) : s.finishChip b =
    if ((s.finishLines b).bay b).bbActive then
      (((List.range 64).filter fun i => !((s.finishLines b).bay b).clrSlices.contains i).foldl (fun s i => s.zeroSlice b i)
        (s.finishLines b)).updBay b fun z => { z with clrSlices := List.range 64, bbActive := false, clear := !z.lineActive }
    else s.finishLines b := by
  unfold State.finishChip
  rw [if_pos hl]
  rfl

theorem State.finishChip_of_fresh (s : State) {b : Nat} (h : (s.bay b).Fresh) : s.finishChip b =
    ((s.finishLines b).clearSlices b 64).updBay b
      fun z => { z with clrSlices := List.range 64, bbActive := false, clear := !z.lineActive } := by
  have hbay : (s.finishLines b).bay b = { (s.bay b).linesDone 64 with lineActive := false, clear := !(s.bay b).bbActive } := by
    rw [State.finishLines, State.bay_updBay, if_pos rfl, (s.clearLines_spec h (Nat.le_refl 64)).1]
    rfl
  obtain ⟨hl, hbb, -, hcs, -⟩ := h
  have hall : (List.range 64).filter (fun i => !((s.finishLines b).bay b).clrSlices.contains i) = List.range 64 :=
    List.filter_eq_self.2 fun i _ => by simp [hbay, BayState.linesDone, hcs]
  rw [s.finishChip_of_lineActive hl, hall, if_pos (by rw [hbay]; exact hbb)]
  rfl

theorem State.finishChip_spec (s : State) {b : Nat} (h : (s.bay b).Fresh) :
    (s.finishChip b).bay b = (s.bay b).chipDone ∧ (∀ c, c ≠ b → (s.finishChip b).bay c = s.bay c) ∧ (s.finishChip b).mod = s.mod ∧
    ∀ r, (s.finishChip b).byte r = if inBb b r ∨ inStores b 64 r then 0 else s.byte r := by
  obtain ⟨hb, hc, hm, hr⟩ := s.clearLines_spec h (Nat.le_refl 64)
  rw [s.finishChip_of_fresh h, State.finishLines]
  refine ⟨?_, fun c hne => ?_, ?_, fun r => ?_⟩
  · rw [State.bay_updBay, if_pos rfl, State.clearSlices_bay, State.bay_updBay, if_pos rfl, hb]
    rfl
  · rw [State.bay_updBay, if_neg hne.symm, State.clearSlices_bay, State.bay_updBay, if_neg hne.symm, hc c hne]
  · rw [State.updBay_mod, State.clearSlices_mod, State.updBay_mod, hm]
  · rw [State.byte_updBay, State.byte_clearSlices _ _ _ (Nat.le_refl 64), State.byte_updBay, hr, ← ite_or]
    exact if_congr (by rw [and_iff_left (bbSlice_lt _)]) rfl rfl

/-- The state in which the fill engines of bay `b`, whose stacks are trained, start on its memories. -/
def State.startBay (s : State) (b : Nat) : State :=
  ({ s with lines := s.lines.map fun e : Nat × LineState => if bayOf e.1 = b then (e.1, e.2.cleared) else e } : State).updBay b
    fun z => { (z.startFill false) with trained := 15, inReset := false }

theorem State.startBay_bay (s : State) (b : Nat) :
    (s.startBay b).bay b = { (s.bay b).startFill false with trained := 15, inReset := false } := by
  rw [State.startBay, State.bay_updBay, if_pos rfl]
  rfl
theorem State.startBay_bay_ne (s : State) {b c : Nat} (h : c ≠ b) : (s.startBay b).bay c = s.bay c := by
  rw [State.startBay, State.bay_updBay, if_neg h.symm]
  rfl

/-- A bay that has come up (Table 14-1): the fill engines have cleared its on-chip memories, and no other byte has changed. -/
theorem State.bayUp_spec (s : State) (b : BayId) :
    (s.bayUp b).mod.bayReady.getLsbD b = true ∧
    (s.bayUp b).bay b = ({ (s.bay b).startFill false with trained := 15, inReset := false } : BayState).chipDone ∧
    (∀ c, c ≠ b.val → (s.bayUp b).bay c = s.bay c) ∧
    ∀ r, (s.bayUp b).byte r = if inBb b r ∨ inStores b 64 r then 0 else s.byte r := by
  have hfresh : ((s.startBay b).bay b).Fresh := by rw [State.startBay_bay]; exact ⟨rfl, rfl, rfl, rfl, rfl⟩
  obtain ⟨hb, hc, -, hr⟩ := (s.startBay b).finishChip_spec hfresh
  have heq : s.bayUp b = { (s.startBay b).finishChip b with
      mod.bayReady := bitOn ((s.startBay b).finishChip b).mod.bayReady b } := rfl
  rw [heq]
  exact ⟨getLsbD_bitOn_self _ b.isLt, hb.trans (by rw [State.startBay_bay]),
    fun c h => (hc c h).trans (s.startBay_bay_ne h), hr⟩

/-! #### Straps (R20, R21) -/

/-- What the straps set; the class only at a cold reset (R409, R427). -/
theorem State.strap_spec (s : State) (z : Straps) :
    (s.strap z).mod.sampled = true ∧ (s.strap z).mod.straps = z ∧ (s.strap z).host.owner = z.hostrole.toNat ∧
    (s.strap z).coordOk = (z.coordMode == 0 || s.coordOk) ∧ (s.strap z).coord = (if z.coordMode = 0 then z.coord else s.coord) ∧
    (s.strap z).pwr = (if s.mod.cold then { s.pwr with cls := z.pwrclass.toNat, clsWin := z.pwrclass.toNat } else s.pwr) ∧
    (z.err = true → (s.strap z).rcv.alert.getLsbD 1 = true) := by
  have hok : (if z.coordMode = 0 then true else s.coordOk) = (z.coordMode == 0 || s.coordOk) := by
    by_cases h : z.coordMode = 0
    · rw [if_pos h, h]
      rfl
    · rw [if_neg h, beq_eq_false_iff_ne.2 h, Bool.false_or]
  unfold State.strap
  cases z.err
  · exact ⟨rfl, rfl, rfl, hok, rfl, rfl, nofun⟩
  · exact ⟨rfl, rfl, rfl, hok, rfl, rfl, fun _ => getLsbD_bitOn_self _ (by omega)⟩

/-! #### The granary's population (R23, R300, Table 9-4) -/

theorem Tbl.look_map_mem {α : Type} (g : Nat → α) {l : List Nat} {k : Nat} (h : k ∈ l) (d : α) :
    Tbl.look (l.map fun n => (n, g n)) k d = g k := by
  induction l with
  | nil => simp at h
  | cons n l ih =>
    rw [List.map_cons, Tbl.look]
    split
    · next hn => rw [hn]
    · next hn => exact ih ((List.mem_cons.1 h).resolve_left (Ne.symm hn))

/-- The kinds of DIMM among those found. -/
def kindsOf (f : List DimmFound) : List DimmFound := (f.filter fun d => d.typ ≠ 0).eraseDups
/-- The sockets that hold a DIMM. -/
def socketsOf (f : List DimmFound) : List Nat := (List.range 8).filter fun n => (f.getD n default).typ ≠ 0
/-- The population is not one of Table 9-4, or R300 does not list one of its DIMMs. -/
def wrongPopulation (f : List DimmFound) : Bool :=
  socketsOf f ≠ [] && (!populations.contains (socketsOf f) || (kindsOf f).any DimmFound.unlisted)
/-- The state once the DIMMs found in the sockets are known. -/
def State.withDimms (s : State) (f : List DimmFound) : State :=
  ({ s with
      gr.dimms := (List.range 8).map fun n =>
        (n, { typ := (f.getD n default).typ, cap := (f.getD n default).cap
              trained := (s.gr.dimms.look n default).trained, ready := (s.gr.dimms.look n default).ready })
      gr.mismatch := decide (1 < (kindsOf f).length), gr.popErr := wrongPopulation f } : State).repopulate

theorem State.populate_eq (s : State) (l : List DimmFound) : s.populate l =
    if decide (1 < (kindsOf ((s.socketsHold l).take 8)).length) || wrongPopulation ((s.socketsHold l).take 8) then
      ({ s.withDimms ((s.socketsHold l).take 8) with mod.chReady := 0 } : State).setAlert 2
    else s.withDimms ((s.socketsHold l).take 8) := rfl

theorem GranaryState.capacity_of_pop {g : GranaryState} {n : Nat} {l : List Nat} (h : g.pop = n :: l) :
    g.capacity = (l.length + 1) * capBytes (g.dimms.look n default).cap := by
  rw [GranaryState.capacity, h]

/-- The DIMM of a channel is trained (Table 14-1, step 7). -/
def State.trainChannel (s : State) (n : Nat) : State :=
  { s with gr.dimms := s.gr.dimms.upd n default fun d => { d with trained := true, ready := s.gr.pop.contains n } }

theorem State.channelUp_eq (s : State) (n : Nat) (l : List DimmFound) : s.channelUp n l =
    if (s.populate l).gr.pop.contains n && !(s.populate l).rcv.disCh.getLsbD n &&
        !(s.populate l).rcv.disBay.getLsbD (channelBay n) then
      { (s.populate l).trainChannel n with mod.chReady := bitOn (s.populate l).mod.chReady n, gr.statusOff := false }
    else (s.populate l).trainChannel n := rfl

/-- Every socket holds a DIMM and no channel is disabled: the largest population is in force (R439). -/
theorem State.population_of_all (s : State) (hm : s.gr.mismatch = false) (he : s.gr.popErr = false)
    (hd : ∀ k ∈ List.range 8, (s.gr.dimms.look k default).typ ≠ 0) (hc : s.rcv.disCh = 0) :
    s.population = [0, 1, 2, 3, 4, 5, 6, 7] := by
  have hall : (List.range 8).all (fun k => (s.gr.dimms.look k default).typ ≠ 0 && !s.rcv.disCh.getLsbD k) = true :=
    List.all_eq_true.2 fun k hk => by simpa [hc] using hd k hk
  unfold State.population
  rw [hm, he, if_neg (by decide)]
  exact congrArg (Option.getD · []) (List.find?_cons_of_pos (l := [[0, 2, 4, 6], [0, 4], [0]]) hall)

section
variable {s : State} {l : List DimmFound} {d : DimmFound}

theorem socketsHold_fitted (h1 : s.part.order ≠ 1) (h2 : s.part.order ≠ 2) : s.socketsHold l = l := by
  unfold State.socketsHold
  split
  · next h => exact absurd (BitVec.eq_of_toNat_eq h) h1
  · next h => exact absurd (BitVec.eq_of_toNat_eq h) h2
  · rfl

/-- AW8-M1T and AW8-M2T hold the modules of Table 0-1, whatever is said to be fitted (R1). -/
theorem socketsHold_soldWith (h : s.part.order = 1 ∨ s.part.order = 2) :
    s.socketsHold l = List.replicate 8 ⟨2, if s.part.order = 1 then 2 else 4⟩ := by
  unfold State.socketsHold
  rcases h with h | h <;> rw [h] <;> rfl

/-- A wrong population leaves the granary empty, whichever channel reports (R23). -/
theorem State.channelUp_of_wrongPopulation (n : Nat) (h : wrongPopulation ((s.socketsHold l).take 8) = true) :
    (s.channelUp n l).gr.pop = [] ∧ (s.channelUp n l).gr.popErr = true ∧ (s.channelUp n l).mod.chReady = 0 ∧
    (s.channelUp n l).rcv.alert.getLsbD 2 = true := by
  have hp : s.populate l = ({ s.withDimms ((s.socketsHold l).take 8) with mod.chReady := 0 } : State).setAlert 2 := by
    rw [State.populate_eq, h, Bool.or_true, if_pos rfl]
  have hpop : (s.populate l).gr.pop = [] := by
    rw [hp]
    simp [State.setAlert, State.withDimms, State.repopulate, State.population, h]
  rw [State.channelUp_eq, if_neg (by simp [hpop])]
  refine ⟨hpop, ?_, ?_, ?_⟩
  · rw [hp]; exact h
  · rw [hp]; rfl
  · rw [hp]; exact getLsbD_bitOn_self _ (by omega)

theorem kindsOf_replicate (h : d.typ ≠ 0) : kindsOf (List.replicate 8 d) = [d] := by
  simp [kindsOf, List.replicate, h, List.eraseDups_cons]
theorem socketsOf_replicate (h : d.typ ≠ 0) : socketsOf (List.replicate 8 d) = [0, 1, 2, 3, 4, 5, 6, 7] := by
  simp [socketsOf, List.replicate, List.range_succ, h]
theorem wrongPopulation_replicate (h : d.typ ≠ 0) : wrongPopulation (List.replicate 8 d) = DimmFound.unlisted d := by
  rw [wrongPopulation, kindsOf_replicate h, socketsOf_replicate h]
  simp [populations]
/-- Two DIMMs stand in sockets 0 and 1, which no population of Table 9-4 names alone. -/
theorem wrongPopulation_pair (h : d.typ ≠ 0) : wrongPopulation [d, d] = true := by
  have hs : socketsOf [d, d] = [0, 1] := by simp [socketsOf, List.range_succ, h]; decide
  simp [wrongPopulation, hs, populations]

theorem State.withDimms_replicate_dimm {k : Nat} (hk : k < 8) :
    (s.withDimms (List.replicate 8 d)).gr.dimms.look k default =
      ⟨d.typ, d.cap, (s.gr.dimms.look k default).trained, (s.gr.dimms.look k default).ready⟩ := by
  rw [State.withDimms, State.repopulate, Tbl.look_map_mem _ (List.mem_range.2 hk), List.getD_replicate _ hk]

/-- Eight DIMMs of one listed kind make the largest population of Table 9-4. -/
theorem State.populate_of_replicate (hl : s.socketsHold l = List.replicate 8 d) (ht : d.typ ≠ 0)
    (hu : DimmFound.unlisted d = false) (hch : s.rcv.disCh = 0) : s.populate l = s.withDimms (List.replicate 8 d) ∧
    (s.populate l).gr.pop = [0, 1, 2, 3, 4, 5, 6, 7] ∧ (s.populate l).gr.mismatch = false ∧ (s.populate l).gr.popErr = false := by
  have hw : wrongPopulation (List.replicate 8 d) = false := by rw [wrongPopulation_replicate ht, hu]
  have hk : decide (1 < (kindsOf (List.replicate 8 d)).length) = false := by rw [kindsOf_replicate ht]; rfl
  have hp : s.populate l = s.withDimms (List.replicate 8 d) := by
    rw [State.populate_eq, hl, List.take_replicate, Nat.min_self, hk, hw]
    rfl
  refine ⟨hp, ?_, by rw [hp]; exact hk, by rw [hp]; exact hw⟩
  rw [hp]
  exact (s.withDimms (List.replicate 8 d)).population_of_all hk hw
    (fun k hk => by rwa [State.withDimms_replicate_dimm (List.mem_range.1 hk)]) hch

/-- With that population the whole granary is there, and the channel that reports is ready. -/
theorem State.channelUp_of_replicate (n : Fin 8) (hl : s.socketsHold l = List.replicate 8 d) (ht : d.typ ≠ 0)
    (hu : DimmFound.unlisted d = false) (hch : s.rcv.disCh = 0) (hbay : s.rcv.disBay = 0) :
    (s.channelUp n l).gr.pop = [0, 1, 2, 3, 4, 5, 6, 7] ∧ (s.channelUp n l).mod.chReady.getLsbD n = true ∧
    (s.channelUp n l).gr.mismatch = false ∧ (s.channelUp n l).gr.popErr = false ∧
    (s.channelUp n l).gr.capacity = 8 * capBytes d.cap := by
  obtain ⟨hp, hpop, hm, he⟩ := State.populate_of_replicate hl ht hu hch
  have hrcv : (s.populate l).rcv = s.rcv := by rw [hp]; rfl
  have hon : (s.populate l).gr.pop.contains n && !(s.populate l).rcv.disCh.getLsbD n &&
      !(s.populate l).rcv.disBay.getLsbD (channelBay n) := by
    have hn : [0, 1, 2, 3, 4, 5, 6, 7].contains n.val = true := List.contains_iff_mem.2 (List.mem_range.2 n.isLt)
    rw [hpop, hn, hrcv, hch, hbay]
    simp
  have heq : s.channelUp n l = { (s.populate l).trainChannel n with
      mod.chReady := bitOn (s.populate l).mod.chReady n, gr.statusOff := false } := (State.channelUp_eq s n l).trans (if_pos hon)
  have hpop' : (s.channelUp n l).gr.pop = [0, 1, 2, 3, 4, 5, 6, 7] := by rw [heq]; exact hpop
  have hcap : ((s.channelUp n l).gr.dimms.look 0 default).cap = d.cap := by
    have hfit (k : Nat) (hk : k < 8) : ((s.populate l).gr.dimms.look k default).cap = d.cap := by
      rw [hp, State.withDimms_replicate_dimm hk]
    rw [heq]
    simp only [State.trainChannel, Tbl.look_upd]
    split
    · exact hfit n n.isLt
    · exact hfit 0 (by decide)
  refine ⟨hpop', ?_, by rw [heq]; exact hm, by rw [heq]; exact he, by rw [GranaryState.capacity_of_pop hpop', hcap]; rfl⟩
  rw [heq]
  exact getLsbD_bitOn_self _ n.isLt

end

/-! #### The steps -/

theorem exec_strapSampling (s : State) (p : StrapPins) : exec (.strapSampling p) s =
    .next (if s.mod.standby && s.mod.vin && !s.mod.rstLow && !s.mod.shut && !s.mod.sampled then s.strap (strapsOf p) else s) := rfl
theorem exec_bayReady (s : State) (b : BayId) : exec (.bayReady b) s =
    .next (if s.upAndManaged && !s.rcv.disBay.getLsbD b && !s.mod.bayReady.getLsbD b then s.bayUp b else s) := rfl
theorem exec_granaryChannelReady_of_up {s : State} (n : Fin 8) (l : List DimmFound) (h : s.upAndManaged = true) :
    exec (.granaryChannelReady n l) s = .next (s.channelUp n l) := congrArg Host.Outcome.next (if_pos h)

/-- Settles O46: each step of Table 14-1 where its conditions hold, and that it changes nothing where they do not. -/
theorem bringUpSteps : Obligations.BringUpSteps := by
  unfold Obligations.BringUpSteps
  refine ⟨?vinBack, ?vinCold, ?straps, ?rails, ?bays, ?granary, fun s n l h => congrArg Host.Outcome.next (if_neg (by simp [h]))⟩
  case vinBack =>
    intro s lost hs h
    refine congrArg Host.Outcome.next (if_pos ?_)
    rcases h with h | h <;> simp [hs, h]
  case vinCold =>
    intro s lost h
    have hcold : ¬ (s.mod.standby && !(lost && !s.mod.vin)) = true := by
      rcases h with h | ⟨hl, hv⟩
      · simp [h]
      · simp [hl, hv]
    exact ⟨_, congrArg Host.Outcome.next (if_neg hcold), rfl, rfl, rfl, rfl, rfl, rfl, rfl⟩
  case straps =>
    intro s p
    refine ⟨fun hs hv hr hsh hsa => ?_, fun h => ?_⟩
    · obtain ⟨h1, h2, h3, h4, h5, h6, h7⟩ := s.strap_spec (strapsOf p)
      refine ⟨_, (exec_strapSampling s p).trans (congrArg Host.Outcome.next (if_pos ?_)), h1, h2, h3, h4, fun h => ?_, fun h => ?_,
        fun h => ?_, h7, State.strap_mem _ _⟩
      · simp [hs, hv, hr, hsh, hsa]
      · rw [h5, if_pos h]
      · rw [h6, if_pos h]
      · rw [h6, if_neg (by simp [h])]
    · refine (exec_strapSampling s p).trans (congrArg Host.Outcome.next (if_neg ?_))
      rcases h with h | h | h | h | h <;> simp [h]
  case rails =>
    intro s
    refine ⟨fun hsa hv hsh => congrArg Host.Outcome.next (if_pos (by simp [hsa, hv, hsh])), fun h => ?_⟩
    refine congrArg Host.Outcome.next (if_neg ?_)
    rcases h with h | h | h <;> simp [h]
  case bays =>
    intro s b _
    refine ⟨fun hu hd hr => ?_, fun h => ?_⟩
    · obtain ⟨hready, hbay, hother, hbyte⟩ := s.bayUp_spec b
      refine ⟨_, (exec_bayReady s b).trans (congrArg Host.Outcome.next (if_pos (by rw [hu, hd, hr]; rfl))), hready, ?_, ?_,
        fun a ha => ?_, fun l a hl ha => ?_, fun _ a ha => ?_, hother⟩
      · rw [hbay]; rfl
      · rw [hbay]; rfl
      · refine (hbyte _).trans (if_pos (.inl ?_))
        simp only [inBb, bbPhys]
        omega
      · refine (hbyte _).trans (if_pos (.inr ?_))
        simp only [bayOf] at hl
        simp only [inStores, lsPhys]
        omega
      · refine (hbyte a).trans (if_neg ?_)
        simp only [inBb, bbPhys, inStores, lsPhys]
        omega
    · refine (exec_bayReady s b).trans (congrArg Host.Outcome.next (if_neg ?_))
      rcases h with h | h | h <;> simp [h]
  case granary =>
    intro s n d hu hch hbay ht
    have hsold : DimmFound.unlisted ⟨2, if s.part.order = 1 then 2 else 4⟩ = false := by split <;> rfl
    refine ⟨fun htyp hcap => ⟨_, exec_granaryChannelReady_of_up n _ hu, ?_⟩, fun h1 h2 => ?_, fun h h1 h2 => ?_, fun l h => ?_⟩
    · by_cases h : s.part.order = 1 ∨ s.part.order = 2
      · obtain ⟨hpop, hr, hm, he, -⟩ := State.channelUp_of_replicate n (socketsHold_soldWith h) (by simp) hsold hch hbay
        exact ⟨hpop, hr, hm, he⟩
      · have hd : DimmFound.unlisted d = false := by simp [DimmFound.unlisted, htyp, hcap]
        obtain ⟨hpop, hr, hm, he, -⟩ := State.channelUp_of_replicate n
          (socketsHold_fitted (fun h1 => h (.inl h1)) fun h2 => h (.inr h2)) ht hd hch hbay
        exact ⟨hpop, hr, hm, he⟩
    · exact ⟨_, exec_granaryChannelReady_of_up n _ hu,
        State.channelUp_of_wrongPopulation n (by rw [socketsHold_fitted h1 h2]; exact wrongPopulation_pair ht)⟩
    · refine ⟨_, exec_granaryChannelReady_of_up n _ hu, State.channelUp_of_wrongPopulation n ?_⟩
      rw [socketsHold_fitted h1 h2, List.take_replicate, Nat.min_self, wrongPopulation_replicate ht]
      simpa [DimmFound.unlisted] using h
    · obtain ⟨hpop, hr, -, -, hc⟩ := State.channelUp_of_replicate n (l := l) (socketsHold_soldWith h) (by simp) hsold hch hbay
      refine ⟨_, exec_granaryChannelReady_of_up n _ hu, hpop, ?_, hr⟩
      rw [hc]
      split <;> rfl

end Sys2Proof.Machine
end

section
/-! SUPPORT. Steps, holds, and the registers of schedule time, harvests and the debug port. -/

namespace Sys2Proof.Machine

/-- Settles O1: what `step` does with a command in front is its definition. -/
theorem stepRunsFrontCommand : Obligations.StepRunsFrontCommand := by
  intro s c rest
  rfl

/-! ### Hold requests (R40, R41, R45) -/

/-- A request is active unless its length is over. -/
theorem HoldReq.active_iff (r : HoldReq) (now : Nat) : r.active now = true ↔ ∀ e, r.until_ = some e → now ≤ e := by
  cases h : r.until_ <;> simp [HoldReq.active, h]

section
variable (s : State) (c : Nat) (src : HoldSrc) (len : Option Nat)

theorem State.hasHold_iff : s.hasHold c src = true ↔
    ∃ r ∈ s.time.reqs, r.cause = c ∧ r.src = src ∧ r.active s.time.now = true := by
  simp [State.hasHold, and_assoc]

/-- Raising a request changes the requests and, while the job runs, the count of its cause (R47). -/
theorem State.raiseHold_open (s : State) (c : Nat) (src : HoldSrc) : s.raiseHold c src none =
    { s with
      time.reqs := s.time.reqs ++ [⟨c, src, none⟩]
      time.cnt.hcEv := if s.live then s.time.cnt.hcEv.upd c 0 fun n => sat32 (n + 1) else s.time.cnt.hcEv } := by
  by_cases h : s.live = true
  · have h' : State.live { s with time.reqs := s.time.reqs ++ [⟨c, src, none⟩] } = true := h
    simp [State.raiseHold, h, h']
  · have h' : State.live { s with time.reqs := s.time.reqs ++ [⟨c, src, none⟩] } = false := Bool.eq_false_iff.2 h
    simp [State.raiseHold, h, h']

theorem State.raiseHold_frame : s.raiseHold c src len =
    { s with
      time.reqs := (s.raiseHold c src len).time.reqs
      time.cnt.hcEv := (s.raiseHold c src len).time.cnt.hcEv } := by
  unfold State.raiseHold
  split
  · rfl
  · dsimp only
    split <;> rfl

theorem State.hasHold_raiseHold_open (c' : Nat) (src' : HoldSrc) : (s.raiseHold c src none).hasHold c' src' =
    (s.hasHold c' src' || (c == c' && src == src')) := by
  simp [State.raiseHold_open, State.hasHold, HoldReq.active]

theorem State.hasHold_dropHold (c' : Nat) (src' : HoldSrc) : (s.dropHold c src).hasHold c' src' =
    (s.hasHold c' src' && !(c == c' && src == src')) := by
  rw [Bool.eq_iff_iff]
  simp only [State.dropHold, State.hasHold, List.any_eq_true, List.mem_filter, Bool.and_eq_true, Bool.not_eq_true', beq_iff_eq,
    Bool.and_eq_false_iff, beq_eq_false_iff_ne]
  grind

/-- The causes are those of the requests that are active, so a request that has expired adds nothing. -/
theorem State.expireHolds_causes : s.expireHolds.causes = s.causes := by
  simp [State.causes, State.expireHolds]

end

theorem State.holdTimeout_eq_self (s : State) (h : s.time.limHold < s.time.limitLoad.toNat ∨ s.time.ctrlLoad.getLsbD 16 = false ∨
    s.live = false ∨ s.held = false ∨ s.job.holdOut = true) : s.holdTimeout = s := by
  unfold State.holdTimeout
  rw [if_neg]
  rcases h with h | h | h | h | h <;> simp [State.timedOut, h, -BitVec.getLsbD_eq_getElem]

/-- The first fault of a job is the only one in its buffer. -/
theorem State.faultAt_first (s : State) (f : Nat) (k : FaultKind) (d : Nat) (u u2 : UnitRef) (addr aux e o : Nat) (r : Bool)
    (hr : s.time.running = true) (hs : s.job.faultSc = none) (hf : s.job.faults = []) :
    ∃ x, (s.faultAt f k d u u2 addr aux e o r).job.faults = [x] ∧ x.kind = k.code ∧ x.aux = aux ∧ x.sc = f ∧ x.unit = u ∧
      (s.faultAt f k d u u2 addr aux e o r).job.faultSc = some f ∧
      (s.faultAt f k d u u2 addr aux e o r).job.holdOut = s.job.holdOut := by
  unfold State.faultAt
  simp only [hr, hs, hf, Bool.not_true, Bool.false_eq_true, if_false, Option.any_none, insertFault]
  split <;> exact ⟨_, rfl, rfl, rfl, rfl, rfl, rfl, rfl⟩

/-- A fault of no line leaves everything but the job's records as it was. -/
theorem State.faultAt_job (s : State) (f : Nat) (k : FaultKind) (d : Nat) (u u2 : UnitRef) (addr aux e o : Nat) (r : Bool)
    (hu : u.valid = false) : s.faultAt f k d u u2 addr aux e o r = { s with job := (s.faultAt f k d u u2 addr aux e o r).job } := by
  unfold State.faultAt
  split
  · rfl
  split
  · rfl
  simp [hu]

theorem State.running_of_live {s : State} (h : s.live = true) : s.time.running = true := by
  simp only [State.live, Bool.and_eq_true] at h
  exact h.1

theorem State.holdTimeout_eq {s : State} (hl : s.live = true) (hh : s.held = true) (hn : s.hasHold 9 .snapshot = false)
    (hc : s.time.ctrlLoad.getLsbD 16 = true) (hm : s.time.limitLoad.toNat ≤ s.time.limHold) (ho : s.job.holdOut = false) :
    s.holdTimeout = ({ s with job.holdOut := true } : State).faultAt s.nextSc .holdTimeout 0 UnitRef.none UnitRef.none 0
      s.causes.toNat := by
  simp [State.holdTimeout, State.timedOut, *]

/-- Settles O34: requests leave by their own length alone, and a timeout is recorded where its five conditions hold. -/
theorem holdsExpireAndTimeOut : Obligations.HoldsExpireAndTimeOut := by
  refine ⟨fun s => ⟨s.expireHolds, rfl, rfl, s.expireHolds_causes, fun r => ?_⟩, fun s h => ?_, ?_⟩
  · simp [State.expireHolds, HoldReq.active_iff]
  · exact congrArg Host.Outcome.next (s.holdTimeout_eq_self h)
  · intro s hl hh hn hc hm ho hs hf
    obtain ⟨r, h1, h2, h3, h4, -, h5, h6⟩ := State.faultAt_first { s with job.holdOut := true } s.nextSc .holdTimeout 0 .none .none
      0 s.causes.toNat 0 0 false (State.running_of_live hl) hs hf
    refine ⟨_, r, congrArg Host.Outcome.next (State.holdTimeout_eq hl hh hn hc hm ho), ?_, h6, h1, h2, h3, h4, h5⟩
    rw [State.faultAt_job _ _ _ _ _ _ _ _ _ _ _ rfl]

end Sys2Proof.Machine
end

section
/-! SUPPORT. Steps, holds, and the registers of schedule time, harvests and the debug port. -/

namespace Sys2Proof.Machine

/-! ### Register writes of a requester that reaches the register (R370, R373, R376) -/

section
variable {s : State} {who : Requester} {o : Nat}

theorem State.regWrite_eq_of_reaches (h : s.Reaches who o) (f : State → State) : s.regWrite who o f = f s := by
  obtain ⟨hb, ht, hc, ha⟩ := h
  simp [State.regWrite, hb, ht, hc, ha]
theorem State.regWrite_offBus (h : onBus who = false) (f : State → State) : s.regWrite who o f = s := by simp [State.regWrite, h]

/-! ### DBG_HALT (R371) -/

theorem State.haltWrite_debug (h : s.Reaches .debug haltReg) (f : State → State) : s.haltWrite .debug f = f s := by
  simp [State.haltWrite, State.regWrite_eq_of_reaches h]
theorem State.haltWrite_other (h : s.Reaches who haltReg) (hw : who ≠ .debug) (f : State → State) : s.haltWrite who f = s := by
  simp [State.haltWrite, State.regWrite_eq_of_reaches h, hw]

theorem State.halt_spec (s : State) : s.halt.dbg = ⟨true, none⟩ ∧ s.halt.hasHold 10 .debug = true ∧
    s.halt = { s with dbg := s.halt.dbg, time := s.halt.time } ∧ (s.hasHold 10 .debug = true → s.halt.time = s.time) := by
  by_cases h : s.hasHold 10 .debug = true
  · have e : s.halt = { s with dbg := ⟨true, none⟩ } := if_pos h
    rw [e]
    exact ⟨rfl, h, rfl, fun _ => rfl⟩
  · have e : s.halt = ({ s with dbg := ⟨true, none⟩ } : State).raiseHold 10 .debug none := if_neg h
    rw [e]
    refine ⟨?_, ?_, ?_, fun h' => absurd h' h⟩
    · rw [State.raiseHold_open]
    · simp [State.hasHold_raiseHold_open]
    · rw [State.raiseHold_open]
theorem State.resume_spec (s : State) : s.resume.dbg = ⟨false, none⟩ ∧ s.resume.hasHold 10 .debug = false ∧
    s.resume = { s with dbg := s.resume.dbg, time := { s.time with reqs := s.resume.time.reqs } } := by
  have h := s.hasHold_dropHold 10 .debug 10 .debug
  simp only [beq_self_eq_true, Bool.and_self, Bool.not_true, Bool.and_false] at h
  exact ⟨rfl, h, rfl⟩
theorem State.stepBy_spec (s : State) {n : Nat} (hn : n ≠ 0) :
    (s.stepBy n).dbg = ⟨false, some (s.nextSc + n)⟩ ∧ (s.stepBy n).hasHold 10 .debug = false := by
  have h := s.hasHold_dropHold 10 .debug 10 .debug
  simp only [beq_self_eq_true, Bool.and_self, Bool.not_true, Bool.and_false] at h
  rw [State.stepBy, if_neg hn]
  exact ⟨rfl, h⟩

theorem State.stepExpire_none (h : s.dbg.stepTo = none) : s.stepExpire = s := by simp [State.stepExpire, h]
theorem State.stepExpire_early {n : Nat} (h : s.dbg.stepTo = some n) (hn : s.eightBefore n = false) : s.stepExpire = s := by
  simp [State.stepExpire, h, hn]
theorem State.stepExpire_due {n : Nat} (h : s.dbg.stepTo = some n) (hn : s.eightBefore n = true) :
    s.stepExpire.dbg = ⟨true, none⟩ ∧ s.stepExpire.hasHold 10 .debug = true ∧ s.stepExpire.lines = s.lines := by
  have e : s.stepExpire = ({ s with dbg := ⟨true, none⟩ } : State).raiseHold 10 .debug none := by simp [State.stepExpire, h, hn]
  rw [e]
  refine ⟨?_, ?_, ?_⟩
  · rw [State.raiseHold_open]
  · simp [State.hasHold_raiseHold_open]
  · rw [State.raiseHold_open]

end

/-! ### Module flags that a host writes (R222, R247) -/

theorem getLsbD_putBit (v : BitVec 128) (i : Nat) (b : Bool) {j : Nat} (hj : j < 128) :
    (putBit v i b).getLsbD j = if i = j then b else v.getLsbD j := by
  have h1 : ((1 : BitVec 128) <<< i).getLsbD j = decide (i = j) := by
    rw [BitVec.getLsbD_shiftLeft, show (1 : BitVec 128) = 1#128 from rfl, BitVec.getLsbD_one, Bool.eq_iff_iff]
    simp only [hj, decide_true, Bool.true_and, Bool.and_eq_true, Bool.not_eq_true', decide_eq_false_iff_not, decide_eq_true_eq]
    omega
  cases b <;> simp only [putBit, Bool.false_eq_true, if_false, if_true, BitVec.getLsbD_or, BitVec.getLsbD_and, BitVec.getLsbD_not, h1]
    <;> by_cases h : i = j <;> simp [h, hj]

/-- A set that reaches its home withdraws requests and does nothing else. -/
theorem State.setReaches_eq (s : State) (cls : FlagClass) (home ix : Nat) :
    s.setReaches cls home ix = { s with time.reqs := (s.setReaches cls home ix).time.reqs } := by
  unfold State.setReaches
  generalize s.deadlineWaits.filter _ = l
  induction l generalizing s with
  | nil => rfl
  | cons w l ih => exact (ih _).trans rfl

section
variable (s : State) (home ix : Nat) (set : Bool)

/-- A change from outside reaches the flags, or their list of changes, and withdraws requests. -/
theorem State.outsideChange_eq : s.outsideChange home ix set =
    { s with
      time.reqs := (s.outsideChange home ix set).time.reqs
      flags := if s.live then { s.flags with chgs := s.flags.chgs ++ [⟨.module, home, ix, set, .other, s.nextSc⟩] }
        else { s.flags with
          mf := s.flags.mf.upd home 0 fun v => putBit v ix set, mfBase := s.flags.mfBase.upd home 0 fun v => putBit v ix set } } := by
  unfold State.outsideChange
  cases set
  · by_cases h : s.live = true
    · simp [h, State.flagChange]
    · simp [h]
  · rw [if_pos rfl, State.setReaches_eq]
    by_cases h : s.live = true
    · simp [h, State.flagChange]
    · simp [h]

@[simp] theorem State.outsideChange_live : (s.outsideChange home ix set).live = s.live := by rw [State.outsideChange_eq]; rfl
@[simp] theorem State.outsideChange_nextSc : (s.outsideChange home ix set).nextSc = s.nextSc := by rw [State.outsideChange_eq]; rfl

theorem State.outsideChange_flags_live (h : s.live = true) : (s.outsideChange home ix set).flags =
    { s.flags with chgs := s.flags.chgs ++ [⟨.module, home, ix, set, .other, s.nextSc⟩] } := by
  rw [State.outsideChange_eq, if_pos h]
theorem State.outsideChange_mf_idle (h : s.live = false) : (s.outsideChange home ix set).flags.mf =
    s.flags.mf.upd home 0 fun v => putBit v ix set := by
  rw [State.outsideChange_eq, if_neg (by simp [h])]

/-- A host's write of a word of flags, bit by bit. -/
def State.changeFlags (s : State) (home base : Nat) (set : Bool) (l : List Nat) : State :=
  l.foldl (fun s i => s.outsideChange home (base + i) set) s

theorem State.changeFlags_live (base : Nat) (l : List Nat) (h : s.live = true) : (s.changeFlags home base set l).flags =
    { s.flags with chgs := s.flags.chgs ++ l.map fun i => ⟨.module, home, base + i, set, .other, s.nextSc⟩ } := by
  induction l generalizing s with
  | nil => simp [State.changeFlags]
  | cons i l ih =>
    have h' := ih (s.outsideChange home (base + i) set) (by simpa using h)
    rw [State.outsideChange_nextSc, State.outsideChange_flags_live _ _ _ _ h] at h'
    simpa [State.changeFlags] using h'
theorem State.changeFlags_idle (base : Nat) (l : List Nat) (h : s.live = false) (k : Nat) {j : Nat} (hj : j < 128) :
    ((s.changeFlags home base set l).flags.mf.look k 0).getLsbD j =
      if k = home ∧ ∃ i ∈ l, base + i = j then set else (s.flags.mf.look k 0).getLsbD j := by
  induction l generalizing s with
  | nil => simp [State.changeFlags, -BitVec.getLsbD_eq_getElem]
  | cons i l ih =>
    refine (ih (s.outsideChange home (base + i) set) (by simpa using h)).trans ?_
    rw [State.outsideChange_mf_idle _ _ _ _ h, Tbl.look_upd]
    by_cases hk : k = home
    · subst hk
      by_cases hi : base + i = j <;> simp [getLsbD_putBit _ _ _ hj, hi, -BitVec.getLsbD_eq_getElem]
    · simp [hk, Ne.symm hk]

end

theorem State.flagsWrite_eq {s : State} {who : Requester} {b k : Nat} {v : W32} {set : Bool}
    (h : s.Reaches who (dieReg b ((if set then 0x40 else 0x50) + 4 * k))) : s.flagsWrite who b k v set =
    if s.isOwner who then s.changeFlags b (32 * k) set ((List.range 32).filter fun i => v.getLsbD i) else s := by
  rw [State.flagsWrite, State.regWrite_eq_of_reaches h]
  rfl

/-- What a write of the flags of one bay does when the requester reaches the register, for both registers. -/
theorem State.flagsWrite_spec {s : State} {who : Requester} {b : BayId} {k : Fin 4} {v : W32} {set : Bool}
    (h : s.Reaches who (dieReg b ((if set then 0x40 else 0x50) + 4 * k))) :
    (s.isOwner who = false → s.flagsWrite who b k v set = s) ∧
    (s.isOwner who = true → s.live = false → ∀ h j, j < 128 → ((s.flagsWrite who b k v set).flags.mf.look h 0).getLsbD j =
      if h = b.val ∧ j / 32 = k.val ∧ v.getLsbD (j % 32) = true then set else (s.flags.mf.look h 0).getLsbD j) ∧
    (s.isOwner who = true → s.live = true → (s.flagsWrite who b k v set).flags.mf = s.flags.mf ∧
      (∀ j, j < 32 → v.getLsbD j = true →
        ⟨.module, b, 32 * k + j, set, .other, s.nextSc⟩ ∈ (s.flagsWrite who b k v set).flags.chgs) ∧
      ∀ c ∈ s.flags.chgs, c ∈ (s.flagsWrite who b k v set).flags.chgs) := by
  rw [State.flagsWrite_eq h]
  refine ⟨fun ho => by simp [ho], fun ho hl a j hj => ?_, fun ho hl => ?_⟩
  · rw [if_pos ho, State.changeFlags_idle _ _ _ _ _ hl _ hj]
    refine if_congr (and_congr Iff.rfl ?_) rfl rfl
    simp only [List.mem_filter, List.mem_range]
    constructor
    · rintro ⟨i, ⟨hi, hv⟩, rfl⟩
      exact ⟨by omega, by rwa [show (32 * k.val + i) % 32 = i by omega]⟩
    · rintro ⟨hk, hv⟩
      exact ⟨j % 32, ⟨Nat.mod_lt _ (by omega), hv⟩, by omega⟩
  · rw [if_pos ho, State.changeFlags_live _ _ _ _ _ hl]
    refine ⟨rfl, fun j hj hv => List.mem_append_right _ (List.mem_map.2 ⟨j, ?_, rfl⟩), fun c hc => List.mem_append_left _ hc⟩
    simp [hj, hv]

/-- Settles O58: each write at its register, for a requester that reaches it and for one that does not. -/
theorem debugHarvestTimeAndFlagRegisters : Obligations.DebugHarvestTimeAndFlagRegisters := by
  refine ⟨fun s h => ?_, fun s who hw h => ?_, fun s => ?_, fun s who h => ?_, fun s who v => ?_, ?_⟩
  · have e := State.haltWrite_debug h
    refine ⟨⟨_, congrArg Host.Outcome.next (e _), s.halt_spec⟩, ⟨_, congrArg Host.Outcome.next (e _), s.resume_spec⟩, fun n => ⟨fun hn => ?_, fun hn => ?_⟩⟩
    · exact congrArg Host.Outcome.next ((e _).trans (by simp [hn, State.stepBy]))
    · exact ⟨_, congrArg Host.Outcome.next (e _), s.stepBy_spec (by simpa [BitVec.toNat_eq] using hn)⟩
  · have e := State.haltWrite_other h hw
    exact ⟨congrArg Host.Outcome.next (e _), congrArg Host.Outcome.next (e _), fun n => congrArg Host.Outcome.next (e _)⟩
  · refine ⟨fun h => congrArg Host.Outcome.next (State.stepExpire_none h), fun n h => ⟨fun hn => congrArg Host.Outcome.next (State.stepExpire_early h hn), fun hn => ?_⟩⟩
    exact ⟨_, rfl, State.stepExpire_due h hn⟩
  · have e := fun f => State.regWrite_eq_of_reaches h f
    refine ⟨fun ho => ?_, fun ho => ?_⟩ <;> simp [exec, execHrvArm, execHrvDisarm, e, ho, State.setArmed]
  · refine ⟨fun h => ?_, fun h => ?_, fun h => ?_, fun h => ?_⟩
    · have e := fun f => State.regWrite_eq_of_reaches h f
      refine ⟨fun hv => ?_, fun hv => ?_⟩ <;> simp [exec, execHrvAck, e, hv]
    · exact ⟨_, congrArg Host.Outcome.next (State.regWrite_eq_of_reaches h _), rfl, rfl, rfl⟩
    · exact ⟨_, congrArg Host.Outcome.next (State.regWrite_eq_of_reaches h _), rfl, rfl, rfl⟩
    · exact ⟨congrArg Host.Outcome.next (State.regWrite_offBus h _), congrArg Host.Outcome.next (State.regWrite_offBus h _), congrArg Host.Outcome.next (State.regWrite_offBus h _)⟩
  · intro s who b k v i set o hi h
    have hr : s.Reaches who (dieReg b ((if set then 0x40 else 0x50) + 4 * k)) := by
      rcases hi with ⟨-, rfl, rfl⟩ | ⟨-, rfl, rfl⟩ <;> exact h
    have he : exec i s = .next (s.flagsWrite who b k v set) := by rcases hi with ⟨rfl, rfl, -⟩ | ⟨rfl, rfl, -⟩ <;> rfl
    obtain ⟨h1, h2, h3⟩ := State.flagsWrite_spec (v := v) hr
    refine ⟨fun ho => he.trans (congrArg Host.Outcome.next (h1 ho)), fun ho hl => ⟨_, he, h2 ho hl⟩, fun ho hl => ⟨_, he, h3 ho hl⟩⟩

end Sys2Proof.Machine
end

section
/-! SUPPORT. Harvest points (R60 to R62, R65): what an issue of CC.HARVEST plans, and what ARM and DISARM of its cc leave of it. -/

namespace Sys2Proof.Machine

/-! ### What an issue leaves of the state beside its line -/

section
variable {s t : State} {l : Nat}

theorem IssueFrame.hrv (h : IssueFrame s t l) : t.hrv = s.hrv := by rw [h.1]
theorem IssueFrame.now (h : IssueFrame s t l) : t.time.now = s.time.now := by rw [h.1]
theorem IssueFrame.img (h : IssueFrame s t l) : t.job.img = s.job.img := by rw [h.1]
theorem IssueFrame.sc (h : IssueFrame s t l) : t.sc = s.sc := by rw [State.sc, h.1]; rfl
theorem IssueFrame.ownerReaches (h : IssueFrame s t l) {who : Requester} {o : Nat} (g : s.OwnerReaches who o) :
    t.OwnerReaches who o := by
  rw [h.1]
  exact g
/-- The frame holds with any state of the harvests on both sides. -/
theorem IssueFrame.withHrv (h : IssueFrame s t l) (x : HrvState) : IssueFrame { s with hrv := x } { t with hrv := x } l := by
  refine ⟨?_, h.2⟩
  conv_lhs => rw [h.1]

end

/-! ### CC.HARVEST -/

section
variable (s : State) (q : Queue) (i : Instr)

/-- The state on which an issue of the CC has its effect (R83, R421, Table 7-10). -/
def State.ccIssued : State := ((s.noteIssue .cc q).draws q i).countLine q.line .ccIss

theorem State.ccIssued_frame : IssueFrame s (s.ccIssued q i) q.line :=
  ((s.noteIssue_frame .cc q).trans (State.draws_frame _ q i).1).trans (.updLine _ _ fun L => L.count .ccIss)
theorem State.ccIssued_preds : ((s.ccIssued q i).line q.line).cc.preds = (s.line q.line).cc.preds := by
  have h : ((s.noteIssue .cc q).line q.line).cc = (s.line q.line).cc := by rw [s.noteIssue_note .cc q q.line]
  simp only [State.ccIssued, State.countLine, State.draws, State.line_updLine, if_pos, LineState.drawn, LineState.count]
  split <;> rw [h]

variable {s q i}

theorem State.issueCc_eq (h : s.CanIssue .cc q i) (f : State → Ctx → State) : s.issueCc q i f =
    .next ((f (s.ccIssued q i) (((s.noteIssue .cc q).draws q i).ctx .cc q ((s.noteIssue .cc q).draws q i).sc 0)).advance .cc q) := by
  rw [State.issueCc, State.issueOne, State.issueWith_eq s .cc q i _ h]
  rfl

end

/-- The harvests after a CC.HARVEST of sc `x` that is made under no prediction, on the harvest line or elsewhere (R60, R61, R65). -/
def HrvState.point (h : HrvState) (now x : Nat) (here : Bool) (w : FmtC) : HrvState :=
  if here = false then h
  else if w.fld 0 1 = 0 then { h with bounds := h.bounds ++ [⟨x, now, h.pendWas, false, false, false⟩] }
  else if h.armedWas && h.reqSc.toNat ≤ x then
    { h with bounds := h.bounds ++ [⟨x, now, h.pendWas, false, false, true⟩], armed := false }
  else h

/-- The harvest line is the one of the queue. -/
def ImageInfo.harvestsAt (i : ImageInfo) (q : Queue) : Bool := i.hline == some q.line.val

theorem ImageInfo.harvestsAt_iff (i : ImageInfo) (q : Queue) : i.harvestsAt q = true ↔ i.hline = some q.line.val := by
  simp [ImageInfo.harvestsAt]

/-- The effect of CC.HARVEST on the state at its issue. -/
def State.harvestPoint (w : FmtC) (s : State) (k : Ctx) : State :=
  if s.predicted k then s.faultK k .specPath 3
  else if (match s.job.img with | some i => i.hline | none => none) != some k.l then s
  else if w.fld 0 1 = 0 then s.harvestAt k.x false
  else if s.hrv.armedWas && s.hrv.reqSc.toNat ≤ k.x then { (s.harvestAt k.x true) with hrv.armed := false }
  else s

theorem execCcHarvest_eq (q : Queue) (w : FmtC) (s : State) :
    exec (.ccHarvest q w) s = s.issueCc q (.ccHarvest q w) (State.harvestPoint w) := rfl

theorem State.harvestPoint_eq {s : State} {k : Ctx} {q : Queue} {i : ImageInfo} (w : FmtC) (hp : s.predicted k = false)
    (hi : s.job.img = some i) (hl : k.l = q.line.val) :
    s.harvestPoint w k = { s with hrv := s.hrv.point s.time.now k.x (i.harvestsAt q) w } := by
  unfold State.harvestPoint HrvState.point ImageInfo.harvestsAt
  rw [if_neg (by simp [hp]), hi, hl]
  by_cases h1 : i.hline = some q.line.val
  · by_cases h2 : w.fld 0 1 = 0
    · simp [h1, h2, State.harvestAt]
    · by_cases h3 : s.hrv.armedWas = true ∧ s.hrv.reqSc.toNat ≤ k.x
      · simp [h1, h2, h3, State.harvestAt]
      · have h3' : (s.hrv.armedWas && decide (s.hrv.reqSc.toNat ≤ k.x)) = false := by simpa using h3
        simp [h1, h2, h3']
  · simp [h1]

/-- The harvests after a CC.HARVEST of the current sc. -/
def State.harvested (s : State) (q : Queue) (w : FmtC) (i : ImageInfo) : HrvState :=
  s.hrv.point s.time.now s.sc (i.harvestsAt q) w

section
variable {s : State} {q : Queue} {w : FmtC} {i : ImageInfo}

theorem exec_ccHarvest (hi : s.job.img = some i) (h : s.CanIssue .cc q (.ccHarvest q w))
    (hp : s.predicted (s.ctx .cc q s.sc 0) = false) :
    ∃ t, exec (.ccHarvest q w) s = .next t ∧ IssueFrame { s with hrv := s.harvested q w i } t q.line := by
  have hf := s.ccIssued_frame q (.ccHarvest q w)
  have hd := (s.noteIssue_frame .cc q).trans (State.draws_frame (s.noteIssue .cc q) q (.ccHarvest q w)).1
  generalize hk : State.ctx ((s.noteIssue .cc q).draws q (.ccHarvest q w)) .cc q ((s.noteIssue .cc q).draws q (.ccHarvest q w)).sc 0 = k
  obtain ⟨hl, ht, hx⟩ : k.l = q.line.val ∧ k.t = q.task.val ∧ k.x = s.sc := by rw [← hk]; exact ⟨rfl, rfl, hd.sc⟩
  have hu : (s.ccIssued q (.ccHarvest q w)).predicted k = false := by
    rw [State.predicted, hl, hx, ht, LineState.unconf, s.ccIssued_preds q]
    exact hp
  have he := State.harvestPoint_eq w hu (hf.img.trans hi) hl
  rw [hx, hf.hrv, hf.now] at he
  refine ⟨_, (execCcHarvest_eq q w s).trans (State.issueCc_eq h _), ?_⟩
  rw [hk, he]
  exact (hf.withHrv _).trans (State.advance_frame _ .cc q).1

theorem State.harvested_off (h : i.hline ≠ some q.line.val ∨ w.fld 0 1 = 1 ∧ (s.hrv.armedWas = false ∨ s.sc < s.hrv.reqSc.toNat)) :
    s.harvested q w i = s.hrv := by
  unfold State.harvested HrvState.point
  rcases h with h | ⟨h, h'⟩
  · rw [if_pos (by simpa [ImageInfo.harvestsAt] using h)]
  · have h3 : ¬ (s.hrv.armedWas && decide (s.hrv.reqSc.toNat ≤ s.sc)) = true := by
      rcases h' with h' | h' <;> simp [h']
    simp [h, h3]
theorem State.harvested_always (hl : i.hline = some q.line.val) (hw : w.fld 0 1 = 0) : s.harvested q w i =
    { s.hrv with bounds := s.hrv.bounds ++ [⟨s.sc, s.time.now, s.hrv.pendWas, false, false, false⟩] } := by
  simp [State.harvested, HrvState.point, (i.harvestsAt_iff q).2 hl, hw]
theorem State.harvested_onRequest (hl : i.hline = some q.line.val) (hw : w.fld 0 1 = 1) (ha : s.hrv.armedWas = true)
    (hr : s.hrv.reqSc.toNat ≤ s.sc) : s.harvested q w i =
    { s.hrv with bounds := s.hrv.bounds ++ [⟨s.sc, s.time.now, s.hrv.pendWas, false, false, true⟩], armed := false } := by
  simp [State.harvested, HrvState.point, (i.harvestsAt_iff q).2 hl, hw, ha, hr]

end

/-- Settles O35: the boundary that an issue of CC.HARVEST plans is that of `State.harvested`. -/
theorem harvestInstruction : Obligations.HarvestInstruction := by
  rintro s q w k i rfl hi h hp
  obtain ⟨t, ht, hf⟩ := exec_ccHarvest hi h hp
  have hv := hf.hrv
  refine ⟨fun hl hw => ⟨t, ht, ?_⟩, fun hl hw ha hr => ⟨t, ht, ?_⟩, fun hn => ⟨t, ht, ?_⟩⟩
  · rw [State.harvested_always hl hw] at hf hv
    rw [hv]
    exact ⟨rfl, rfl, hf⟩
  · rw [State.harvested_onRequest hl hw ha hr] at hf hv
    rw [hv]
    exact ⟨rfl, rfl, hf⟩
  · rwa [State.harvested_off hn] at hf

/-! ### ARM and DISARM in the cc of a CC.HARVEST (R62) -/

section
variable {s : State} {who : Requester} {q : Queue} {w : FmtC} {i : ImageInfo}

theorem exec_hrvArm (h : s.OwnerReaches who 0x10020) : exec (.hrvArm who) s = .next s.setArmed := by
  obtain ⟨hr, ho⟩ := h
  simp [exec, execHrvArm, State.regWrite_eq_of_reaches hr, ho]
theorem exec_hrvDisarm (h : s.OwnerReaches who 0x10020) : exec (.hrvDisarm who) s = .next { s with hrv.armed := false } := by
  obtain ⟨hr, ho⟩ := h
  simp [exec, execHrvDisarm, State.regWrite_eq_of_reaches hr, ho]

/-- A queue may issue as before when no boundary is added. -/
theorem State.CanIssue.withHrv {st : Station} {c : Instr} (h : s.CanIssue st q c) (x : HrvState) (hx : ∀ b ∈ x.bounds, b ∈ s.hrv.bounds) :
    ({ s with hrv := x } : State).CanIssue st q c := by
  obtain ⟨hw, hm, hp⟩ := h
  refine ⟨hw, ?_, hp⟩
  simp only [State.mayStart, State.mayIssue, State.beforeBoundary, Bool.and_eq_true, Bool.not_eq_true', List.any_eq_false] at hm ⊢
  obtain ⟨⟨⟨⟨⟨⟨⟨⟨⟨⟨h1, h2⟩, h3⟩, h4⟩, h5⟩, h6⟩, h7⟩, h8⟩, h9⟩, h10⟩, h11⟩ := hm
  exact ⟨⟨⟨⟨⟨⟨⟨⟨⟨⟨h1, h2⟩, fun b hb => h3 b (hx b hb)⟩, h4⟩, h5⟩, h6⟩, h7⟩, h8⟩, h9⟩, h10⟩, h11⟩

section
variable (hr : s.OwnerReaches who 0x10020) (hi : s.job.img = some i) (hl : i.hline = some q.line.val) (hw : w.fld 0 1 = 1)
  (hc : s.CanIssue .cc q (.ccHarvest q w)) (hp : s.predicted (s.ctx .cc q s.sc 0) = false)
include hr hi hw hc hp

theorem arm_then_harvest : ∃ a t, exec (.hrvArm who) s = .next a ∧ exec (.ccHarvest q w) a = .next t ∧ t.hrv.armed = true ∧
    t.hrv.bounds = s.hrv.bounds.filter fun b => !b.onReq || b.at_ != s.time.now := by
  obtain ⟨t, ht, hf⟩ := exec_ccHarvest (s := s.setArmed) hi (hc.withHrv _ fun b hb => List.mem_of_mem_filter hb) hp
  rw [State.harvested_off (.inr ⟨hw, .inl rfl⟩)] at hf
  refine ⟨_, t, exec_hrvArm hr, ht, ?_, ?_⟩ <;> (rw [hf.hrv]; rfl)
include hl in
theorem harvest_then_arm : ∃ a t, exec (.ccHarvest q w) s = .next a ∧ exec (.hrvArm who) a = .next t ∧ t.hrv.armed = true ∧
    t.hrv.bounds = s.hrv.bounds.filter fun b => !b.onReq || b.at_ != s.time.now := by
  obtain ⟨a, ha, hf⟩ := exec_ccHarvest hi hc hp
  refine ⟨a, _, ha, exec_hrvArm (hf.ownerReaches hr), rfl, ?_⟩
  have hn : a.time.now = s.time.now := hf.now
  simp only [State.setArmed, hf.hrv, hn]
  by_cases h : s.hrv.armedWas = true ∧ s.hrv.reqSc.toNat ≤ s.sc
  · rw [State.harvested_onRequest hl hw h.1 h.2]
    simp
  · rw [State.harvested_off (.inr ⟨hw, by rcases Decidable.not_and_iff_not_or_not.1 h with h | h <;> simp_all⟩)]

variable (ha : s.hrv.armedWas = true) (hq : s.hrv.reqSc.toNat ≤ s.sc)
include hl ha hq

theorem disarm_then_harvest : ∃ a t, exec (.hrvDisarm who) s = .next a ∧ exec (.ccHarvest q w) a = .next t ∧ t.hrv.armed = false ∧
    t.hrv.bounds = s.hrv.bounds ++ [⟨s.sc, s.time.now, s.hrv.pendWas, false, false, true⟩] := by
  obtain ⟨t, ht, hf⟩ := exec_ccHarvest (s := { s with hrv.armed := false }) hi (hc.withHrv _ fun b hb => hb) hp
  rw [State.harvested_onRequest (s := { s with hrv.armed := false }) hl hw ha hq] at hf
  refine ⟨_, t, exec_hrvDisarm hr, ht, by rw [hf.hrv], ?_⟩
  rw [hf.hrv]
  rfl
theorem harvest_then_disarm : ∃ a t, exec (.ccHarvest q w) s = .next a ∧ exec (.hrvDisarm who) a = .next t ∧ t.hrv.armed = false ∧
    t.hrv.bounds = s.hrv.bounds ++ [⟨s.sc, s.time.now, s.hrv.pendWas, false, false, true⟩] := by
  obtain ⟨a, h, hf⟩ := exec_ccHarvest hi hc hp
  rw [State.harvested_onRequest hl hw ha hq] at hf
  refine ⟨a, _, h, exec_hrvDisarm (hf.ownerReaches hr), rfl, ?_⟩
  show a.hrv.bounds = _
  rw [hf.hrv]

end
end

end Sys2Proof.Machine
end

section
/-! SUPPORT. The steps of a boundary (R63 to R68, Table 2-7): what each may change, what it does, and the end of the boundary. -/

namespace Sys2Proof.Machine

/-! ### What each step leaves: the state beside what it writes -/

/-- The state beside what a disable writes. -/
def State.besideDisables (s : State) : State :=
  { s with
    rcv := State.reset.rcv, fab := State.reset.fab, mod.bayReady := 0, mod.chReady := 0, gr.pop := [], hrv.pend := 0 }
/-- The state beside what a map-out writes. -/
def State.besideMaps (s : State) : State := { s with lines := [], freeIx := 0, hrv.pend := 0 }
/-- The state beside what a change of power groups writes. -/
def State.besideGroups (s : State) : State := { s with lines := [], mem := [], undef := [], marks := [], fixes := [], hrv.pend := 0 }
/-- The state beside the power manager and HRV_PEND. -/
def State.besidePower (s : State) : State := { s with pwr := State.reset.pwr, hrv.pend := 0 }
/-- The schedule's time, the job, the host's side, and of the harvests everything but HRV_PEND. -/
def State.besideActions (s : State) : State := { State.reset with time := s.time, job := s.job, host := s.host, hrv := { s.hrv with pend := 0 } }

section
variable (s : State)

/-! ### Steps 3 and 4: disables, map-outs, power groups -/

/-- Step 3. -/
def State.stepDisables (s : State) (b : Boundary) : State :=
  if b.joined.getLsbD 1 then (s.disablesAt b.at_).foldl (fun s f => if s.idleFunc f then s.disable f else s) s else s
/-- Step 4, map-outs. -/
def State.stepMapOuts (s : State) (b : Boundary) : State := if b.joined.getLsbD 2 then s.mapOuts b.at_ else s
/-- Step 4, power groups. -/
def State.stepGroups (s : State) (b : Boundary) : State := if b.joined.getLsbD 3 then s.groupChanges b.h else s

theorem State.disable_frame (f : Func) : (s.disable f).besideDisables = s.besideDisables := by cases f <;> rfl
theorem State.stepDisables_frame (b : Boundary) : (s.stepDisables b).besideDisables = s.besideDisables := by
  unfold State.stepDisables
  split
  · refine foldl_keeps State.besideDisables (fun s f => if s.idleFunc f then s.disable f else s) (fun s f => ?_) _ s
    split
    · exact s.disable_frame f
    · rfl
  · rfl

/-- The queued rows of one line that are mapped out at a boundary planned in cc `c`. -/
def LineState.rowsDue (L : LineState) (c : Nat) : List (Nat × Nat × Nat) := L.ls.mapQueue.filter fun r => r.2.2 < c
/-- The line without them. -/
def LineState.dropRows (L : LineState) (c : Nat) : LineState :=
  let rest := L.ls.mapQueue.filter fun r => c ≤ r.2.2
  { L with ls := { L.ls with mapQueue := rest, isErr := if rest = [] then L.ls.isErr &&& 1024 else L.ls.isErr } }
/-- The map-outs of one line. -/
def State.lineMapOuts (s : State) (c l : Nat) : State :=
  ((s.line l).rowsDue c).foldl (fun s r => s.mapOut l r.1 r.2.1) (s.updLine l fun L => L.dropRows c)
theorem State.mapOuts_eq (c : Nat) : s.mapOuts c =
    let t := s.lines.foldl (fun s e => s.lineMapOuts c e.1) s
    if t.lines.any fun e => e.2.ls.mapQueue ≠ [] then t else { t with hrv.pend := t.hrv.pend &&& ~~~4 } := by
  unfold State.mapOuts
  rfl

theorem State.mapOut_frame (l st row : Nat) : (s.mapOut l st row).besideMaps = s.besideMaps := by
  unfold State.mapOut
  dsimp only
  split <;> rfl
theorem State.lineMapOuts_frame (c l : Nat) : (s.lineMapOuts c l).besideMaps = s.besideMaps :=
  foldl_keeps State.besideMaps (fun s (r : Nat × Nat × Nat) => s.mapOut l r.1 r.2.1) (fun s r => s.mapOut_frame l r.1 r.2.1) _ _
theorem State.mapOuts_frame (c : Nat) : (s.mapOuts c).besideMaps = s.besideMaps := by
  have h := foldl_keeps State.besideMaps (fun s (e : Nat × LineState) => s.lineMapOuts c e.1) (fun s e => s.lineMapOuts_frame c e.1)
    s.lines s
  rw [State.mapOuts_eq]
  dsimp only
  split <;> exact h
theorem State.stepMapOuts_frame (b : Boundary) : (s.stepMapOuts b).besideMaps = s.besideMaps := by
  unfold State.stepMapOuts
  split
  · exact s.mapOuts_frame _
  · rfl

/-- One group of a line reads zeros when its power changes (R266). -/
def State.cycleGroup (s : State) (l : Nat) (L : LineState) (g : Nat) : State :=
  if L.ls.pgOn.getLsbD g = L.ls.pgReq.getLsbD g then s else s.zeroBytes (lsPhys l (g * 98304)) 98304
/-- The groups of a line are those requested. -/
def LineState.takeGroups (L : LineState) : LineState := { L with ls := { L.ls with pgOn := L.ls.pgReq, pgReqValid := false } }
theorem State.changeGroups_eq (l h : Nat) : s.changeGroups l h =
    if !(s.line l).ls.pgReqValid || h ≤ (s.line l).ls.pgReqSc then s
    else ((List.range 4).foldl (fun t g => t.cycleGroup l (s.line l) g) s).updLine l LineState.takeGroups := rfl
theorem State.groupChanges_eq (h : Nat) : s.groupChanges h =
    let t := s.lines.foldl (fun s e => s.changeGroups e.1 h) s
    if t.lines.any fun e => e.2.ls.pgReqValid then t else { t with hrv.pend := t.hrv.pend &&& ~~~8 } := rfl

theorem State.cycleGroup_frame (l : Nat) (L : LineState) (g : Nat) : (s.cycleGroup l L g).besideGroups = s.besideGroups := by
  unfold State.cycleGroup
  split <;> rfl
theorem State.changeGroups_frame (l h : Nat) : (s.changeGroups l h).besideGroups = s.besideGroups := by
  rw [State.changeGroups_eq]
  split
  · rfl
  · exact foldl_keeps State.besideGroups (fun t g => t.cycleGroup l (s.line l) g) (fun t g => t.cycleGroup_frame l (s.line l) g) _ s
theorem State.groupChanges_frame (h : Nat) : (s.groupChanges h).besideGroups = s.besideGroups := by
  have g := foldl_keeps State.besideGroups (fun s (e : Nat × LineState) => s.changeGroups e.1 h) (fun s e => s.changeGroups_frame e.1 h)
    s.lines s
  rw [State.groupChanges_eq]
  dsimp only
  split <;> exact g
theorem State.stepGroups_frame (b : Boundary) : (s.stepGroups b).besideGroups = s.besideGroups := by
  unfold State.stepGroups
  split
  · exact s.groupChanges_frame _
  · rfl

/-! ### Steps 5 and 6: codes, the gleaners' counters, shares -/

/-- What a boundary makes of a bay's record when it applies the codes entered before cc `c`. -/
def BayPower.applied (p : BayPower) (c : Nat) : BayPower := if p.pend && p.since < c then { p with code := p.next, pend := false } else p
/-- A bay's record after a chosen code is entered in cc `now`. -/
def BayPower.entered (p : BayPower) (now c : Nat) : BayPower :=
  if c = p.code then { p with next := c, pend := false } else { p with next := c, pend := true, since := now }
/-- One bay's code is entered. -/
def State.enterCode (s : State) (codes : List Nat) (b : Nat) : State :=
  let c := codes.getD b 0
  if c = (s.bayPwr b).code then s.updPwr b fun x => { x with next := c, pend := false }
  else { (s.updPwr b fun x => { x with next := c, pend := true, since := s.time.now }) with hrv.pend := s.hrv.pend ||| 1 }
/-- The bay's share of the segment that ends. -/
def State.shared (s : State) : State :=
  let vcore := ((List.range 8).map fun b => 5000 + 25 * (s.bayPwr b).code).foldl (· + ·) 0 / 8
  let budget := (classLimit s.pwr.cls * 100000 - s.pwr.pncPeak) / vcore
  let total := ((List.range 8).map fun b => (s.bayPwr b).peak).foldl (· + ·) 0
  if total = 0 || !s.mod.mgmt then s else
    (List.range 8).foldl (fun s b => s.updPwr b fun x => { x with share := min 3200 (budget * x.peak / total) }) s
theorem State.setShares_eq : s.setShares = (List.range 8).foldl (fun s b => s.updPwr b fun x => { x with peak := 0, seen := false, margin := 0 })
    { s.shared with pwr.pinPeak := 0, pwr.pncPeak := 0 } := rfl

/-- Step 5: the codes in force. -/
def State.stepCodes (s : State) (b : Boundary) : State := if b.joined.getLsbD 0 then s.lowMargin.applyCodes b.at_ else s.lowMargin
/-- Steps 5 and 6. -/
def State.stepPower (s : State) (b : Boundary) : State := ((s.stepCodes b).gleanerReport.enterCodes s.chosenCodes).setShares

/-- A change of bays by bays. -/
theorem State.updPwrs_frame (F : Nat → BayPower → BayPower) (l : List Nat) :
    (l.foldl (fun s b => s.updPwr b (F b)) s).besidePower = s.besidePower :=
  foldl_keeps State.besidePower (fun s b => s.updPwr b (F b)) (fun _ _ => rfl) l s
theorem State.lowMargin_frame : s.lowMargin.besidePower = s.besidePower := by
  unfold State.lowMargin
  split <;> rfl
theorem State.applyCodes_frame (c : Nat) : (s.applyCodes c).besidePower = s.besidePower := by
  have h := s.updPwrs_frame (fun _ x => x.applied c) (List.range 8)
  unfold State.applyCodes
  dsimp only
  split <;> exact h
theorem State.stepCodes_frame (b : Boundary) : (s.stepCodes b).besidePower = s.besidePower := by
  unfold State.stepCodes
  split
  · exact (s.lowMargin.applyCodes_frame _).trans s.lowMargin_frame
  · exact s.lowMargin_frame
theorem State.enterCode_frame (codes : List Nat) (b : Nat) : (s.enterCode codes b).besidePower = s.besidePower := by
  unfold State.enterCode
  dsimp only
  split <;> rfl
theorem State.enterCodes_frame (codes : List Nat) : (s.enterCodes codes).besidePower = s.besidePower :=
  foldl_keeps State.besidePower (fun s b => s.enterCode codes b) (fun s b => s.enterCode_frame codes b) _ s
theorem State.shared_frame : s.shared.besidePower = s.besidePower := by
  unfold State.shared
  dsimp only
  split
  · rfl
  · exact s.updPwrs_frame (fun _ _ => _) _
theorem State.setShares_frame : s.setShares.besidePower = s.besidePower := by
  rw [State.setShares_eq]
  exact (State.updPwrs_frame _ (fun _ _ => _) _).trans s.shared_frame
/-- Beside the power manager, steps 5 and 6 latch the gleaners' counters alone. -/
theorem State.stepPower_frame (b : Boundary) : (s.stepPower b).besidePower = s.gleanerReport.besidePower := by
  have h : (s.stepCodes b).gleanerReport.besidePower = s.gleanerReport.besidePower :=
    (congrArg State.gleanerReport (s.stepCodes_frame b) :)
  exact (State.setShares_frame _).trans ((State.enterCodes_frame _ _).trans h)

/-! ### The steps one after another -/

theorem State.boundarySteps_eq (b : Boundary) :
    s.boundarySteps b = (((s.stepDisables b).stepMapOuts b).stepGroups b).stepPower b := rfl

/-- What every step keeps, the actions of a boundary keep. -/
theorem State.boundarySteps_of_keeps {β : Type} (π : State → β) (b : Boundary) (h1 : π (s.stepDisables b) = π s)
    (h2 : ∀ s, π (State.stepMapOuts s b) = π s) (h3 : ∀ s, π (State.stepGroups s b) = π s) (h4 : ∀ s, π (State.stepPower s b) = π s) :
    π (s.boundarySteps b) = π s :=
  (h4 _).trans ((h3 _).trans ((h2 _).trans h1))
/-- They leave the schedule's time, the job, the host's side, and of the harvests everything but HRV_PEND. -/
theorem State.boundarySteps_keeps (b : Boundary) : (s.boundarySteps b).time = s.time ∧ (s.boundarySteps b).job = s.job ∧
    (s.boundarySteps b).host = s.host ∧ (s.boundarySteps b).hrv = { s.hrv with pend := (s.boundarySteps b).hrv.pend } := by
  have hp {s t : State} (h : t.besidePower = s.besidePower) : t.besideActions = s.besideActions := (congrArg State.besideActions h :)
  have hm {s t : State} (h : t.besideMaps = s.besideMaps) : t.besideActions = s.besideActions := (congrArg State.besideActions h :)
  have hg {s t : State} (h : t.besideGroups = s.besideGroups) : t.besideActions = s.besideActions := (congrArg State.besideActions h :)
  have hd {s t : State} (h : t.besideDisables = s.besideDisables) : t.besideActions = s.besideActions :=
    (congrArg State.besideActions h :)
  have h := s.boundarySteps_of_keeps State.besideActions b (hd (s.stepDisables_frame b)) (fun s => hm (s.stepMapOuts_frame b))
    (fun s => hg (s.stepGroups_frame b)) (fun s => hp (s := s.gleanerReport) (s.stepPower_frame b))
  generalize s.boundarySteps b = t at h ⊢
  exact ⟨(congrArg State.time h :), (congrArg State.job h :), (congrArg State.host h :),
    (congrArg (fun x : State => { x.hrv with pend := t.hrv.pend }) h :)⟩

/-! ### The end of a boundary and its event (R68, R398) -/

theorem State.updHp_host (p : Nat) (f : HostPort → HostPort) : s.updHp p f = { s with host := (s.updHp p f).host } := rfl
theorem State.event_frame (p : Nat) (c : Completion) : s.event p c = { s with host := (s.event p c).host } := by
  unfold State.event
  dsimp only
  split
  · rfl
  · split <;> rfl
theorem State.harvestEvent_frame : s.harvestEvent = { s with host := s.harvestEvent.host } := by
  unfold State.harvestEvent
  split
  · exact s.event_frame _ _
  · rfl
/-- The end of a boundary changes its list, and the host's side by the event. -/
theorem State.closeBoundary_eq (b : Boundary) : s.closeBoundary b =
    { s with hrv := { s.hrv with bounds := s.hrv.bounds.filter (fun x => x != b), active := false }
             host := (s.closeBoundary b).host } :=
  State.harvestEvent_frame _

/-- An event waits at the ring of its port (R398). -/
theorem State.event_waits {p q : Nat} (c : Completion) (he : (s.hp p).evtCfg.getLsbD 4 = true)
    (hq : q = ((s.hp p).evtCfg.extractLsb' 0 4).toNat) (hen : (s.cq p q).en = true) : (none, c) ∈ ((s.event p c).cq p q).wait := by
  subst hq
  have key (t : State) (f : HostPort → HostPort) (n : Nat) (m : ComRing) : (none, c) ∈ (((t.updHp p f).updCq p n fun r =>
      { r with wait := r.wait ++ [(none, c)] }).cq p n).wait := by
    simp [State.updCq, State.cq]
  unfold State.event
  simp only [he, hen, Bool.not_true, Bool.false_or, Bool.false_eq_true, if_false]
  exact key _ _ _ default
theorem State.closeBoundary_event {b : Boundary} {p : HostId} {q : Nat} (hc : s.hrv.ctrl.getLsbD 0 = true) (ho : s.host.owner = p.val)
    (he : (s.hp p).evtCfg.getLsbD 4 = true) (hq : q = ((s.hp p).evtCfg.extractLsb' 0 4).toNat) (hen : (s.cq p q).en = true) :
    (none, mkEvent 0xE0 0 0 s.hrv.lastSc s.hrv.seq) ∈ ((s.closeBoundary b).cq p q).wait := by
  unfold State.closeBoundary State.harvestEvent
  rw [if_pos hc]
  dsimp only
  rw [ho]
  exact State.event_waits _ _ he hq hen
theorem State.closeBoundary_silent {b : Boundary} (hc : s.hrv.ctrl.getLsbD 0 = false) : (s.closeBoundary b).host = s.host := by
  unfold State.closeBoundary State.harvestEvent
  rw [if_neg (by simp [hc, -BitVec.getLsbD_eq_getElem])]

/-! ### Steps 1 and 2 (R63, R67) -/

theorem State.dueBoundary_spec {s : State} {b : Boundary} (h : s.dueBoundary = some b) :
    s.live = true ∧ b ∈ s.hrv.bounds ∧ b.latched = false ∧ b.h + 9 = s.sc := by
  unfold State.dueBoundary at h
  split at h
  next hl =>
    have hb := List.find?_some h
    simp only [Bool.and_eq_true, Bool.not_eq_true', beq_iff_eq] at hb
    exact ⟨hl, List.mem_of_find?_eq_some h, hb⟩
  next => cases h

/-- Whether what joined a boundary has something to do is not of the counters. -/
theorem State.needsHold_latchBoundary (h : Nat) (b : Boundary) : (s.latchBoundary h).needsHold b = s.needsHold b := by
  have hp (f : Func) : (s.latchBoundary h).jobUses f = s.jobUses f := by
    cases f <;>
      simp [State.jobUses, State.partUses, State.latchBoundary, State.latchUnits, List.any_map, Function.comp_def, LineState.latch]
  have hd : (s.latchBoundary h).disablesAt b.at_ = s.disablesAt b.at_ := by
    simp only [State.disablesAt, hp]
    rfl
  simp only [State.needsHold, hd]
  simp [State.latchBoundary, State.latchUnits, List.any_map, Function.comp_def, LineState.latch, PowerState.latch]

section
variable {s} {b : Boundary}

theorem State.harvestBoundary_none (h : s.dueBoundary = none) : s.harvestBoundary = s := by simp [State.harvestBoundary, h]
/-- A boundary with something to do stays open (R64). -/
theorem State.harvestBoundary_open (h : s.dueBoundary = some b) (hn : (b.raised || s.needsHold b) = true) :
    s.harvestBoundary = { s.latchBoundary b.h with
      hrv := { (s.latchBoundary b.h).hrv with
        bounds := s.hrv.bounds.map fun x => if x = b then { b with latched := true } else x, active := true } } := by
  simp only [State.harvestBoundary, h, State.needsHold_latchBoundary, hn, if_true]
  rfl
/-- One with nothing to do is over in its cc. -/
theorem State.harvestBoundary_over (h : s.dueBoundary = some b) (hn : (b.raised || s.needsHold b) = false) :
    s.harvestBoundary = ((s.latchBoundary b.h).boundarySteps b).closeBoundary b := by
  simp only [State.harvestBoundary, h, State.needsHold_latchBoundary, hn, Bool.false_eq_true, if_false]

/-- In both cases the counters have latched and restarted. -/
theorem State.harvestBoundary_latched (h : s.dueBoundary = some b) : s.harvestBoundary.time = (s.latchBoundary b.h).time ∧
    s.harvestBoundary.hrv = { (s.latchBoundary b.h).hrv with
      pend := s.harvestBoundary.hrv.pend, bounds := s.harvestBoundary.hrv.bounds, active := s.harvestBoundary.hrv.active } := by
  cases hn : b.raised || s.needsHold b with
  | true =>
    rw [State.harvestBoundary_open h hn]
    exact ⟨rfl, rfl⟩
  | false =>
    obtain ⟨ht, -, -, hh⟩ := (s.latchBoundary b.h).boundarySteps_keeps b
    rw [State.harvestBoundary_over h hn, State.closeBoundary_eq]
    dsimp only
    exact ⟨ht, by rw [hh]⟩

end

end

/-- Settles O36: an ARM or a DISARM of the cc decides whichever side of the CC.HARVEST it is on; a latch over an unread bank counts. -/
theorem harvestRequestsAndLostBanks : Obligations.HarvestRequestsAndLostBanks := by
  refine ⟨fun s who q w i hr hi hl hw hc hp => ?_, fun s b hb hu => ?_⟩
  · exact ⟨arm_then_harvest hr hi hw hc hp, harvest_then_arm hr hi hl hw hc hp, fun ha hq =>
      ⟨disarm_then_harvest hr hi hl hw hc hp ha hq, harvest_then_disarm hr hi hl hw hc hp ha hq⟩⟩
  · obtain ⟨-, h⟩ := State.harvestBoundary_latched hb
    refine ⟨_, rfl, ?_, ?_, ?_⟩ <;> rw [h] <;> simp [State.latchBoundary, State.latchUnits, hu, sat32]

end Sys2Proof.Machine
end

section
/-! SUPPORT. A harvest boundary and its actions (R63 to R68, R416 to R418, R444, Table 2-7): tables that latch, the requests raised
before the boundary, and each step's effect on one line and one bay. -/

namespace Sys2Proof

/-! ### Tables under filters, copies and maps -/

section
variable {α β : Type}

/-- A lookup after a filter on keys. -/
theorem Tbl.look_filter_key (t : Tbl α) (p : Nat → Bool) (n : Nat) (d : α) :
    Tbl.look (t.filter fun e => p e.1) n d = if p n = true then t.look n d else d := by
  induction t with
  | nil => simp [Tbl.look]
  | cons e t ih =>
    obtain ⟨j, v⟩ := e
    simp only [List.filter_cons]
    by_cases hj : j = n
    · subst hj
      split
      · simp [Tbl.look]
      · next h => rw [ih]; simp [h]
    · split <;> simp only [Tbl.look, ih, hj, if_false]

/-- A lookup in a table of the same keys. -/
theorem Tbl.look_map_val (t : Tbl α) (g : α → β) (n : Nat) (d : α) :
    Tbl.look (t.map fun e => (e.1, g e.2)) n (g d) = g (t.look n d) := by
  induction t with
  | nil => rfl
  | cons e t ih =>
    obtain ⟨j, v⟩ := e
    simp only [List.map_cons, Tbl.look, ih]
    split <;> rfl

/-- A key that is not listed gives the default. -/
theorem Tbl.look_of_not_mem (t : Tbl α) (n : Nat) (d : α) (h : n ∉ t.map Prod.fst) : t.look n d = d := by
  induction t with
  | nil => rfl
  | cons e t ih =>
    obtain ⟨j, v⟩ := e
    simp only [List.map_cons, List.mem_cons, not_or] at h
    simp [Tbl.look, Ne.symm h.1, ih h.2]

/-- Rising keys are distinct, and rise along the whole table. -/
theorem Tbl.pairwise_of_rising (t : Tbl α) (h : t.rising = true) : (t.map Prod.fst).Pairwise (· < ·) := by
  induction t with
  | nil => exact List.Pairwise.nil
  | cons e t ih =>
    cases t with
    | nil => simp
    | cons e' t =>
      obtain ⟨j, w⟩ := e
      obtain ⟨k, v⟩ := e'
      simp only [Tbl.rising, Bool.and_eq_true, decide_eq_true_eq] at h
      obtain ⟨hj, ht⟩ := h
      have hp := ih ht
      simp only [List.map_cons, List.pairwise_cons] at hp ⊢
      refine ⟨fun x hx => ?_, hp⟩
      rcases List.mem_cons.1 hx with rfl | hx
      · exact hj
      · exact hj.trans (hp.1 x hx)

/-- A table of distinct keys copied into another: its keys take its values. -/
theorem Tbl.look_foldl_put (t u : Tbl α) (n : Nat) (d : α) (ht : (t.map Prod.fst).Nodup) :
    (t.foldl (fun u e => u.put e.1 e.2) u).look n d = if n ∈ t.map Prod.fst then t.look n d else u.look n d := by
  induction t generalizing u with
  | nil => simp
  | cons e t ih =>
    obtain ⟨j, v⟩ := e
    simp only [List.map_cons, List.nodup_cons] at ht
    simp only [List.foldl_cons, ih _ ht.2, List.map_cons, List.mem_cons, Tbl.look_put, Tbl.look]
    by_cases hj : j = n
    · subst hj
      simp [ht.1]
    · grind

end

end Sys2Proof

namespace Sys2Proof.Machine

/-! ### Latching (R63, R271) -/

section
variable {sel : Nat → Bool} {cnt : Tbl Nat}

theorem latchKeys_cnt (bank : Tbl Nat) (n : Nat) : (latchKeys sel cnt bank).1.look n 0 = if sel n = true then 0 else cnt.look n 0 := by
  rw [latchKeys, Tbl.look_filter_key cnt fun k => !sel k]
  cases sel n <;> rfl
theorem latchKeys_bank (bank : Tbl Nat) (n : Nat) (h : (cnt.map Prod.fst).Nodup) :
    (latchKeys sel cnt bank).2.look n 0 = if sel n = true then cnt.look n 0 else bank.look n 0 := by
  have hs : ((cnt.filter fun e => sel e.1).map Prod.fst).Nodup := h.sublist (List.filter_sublist.map _)
  have hl := Tbl.look_filter_key cnt sel n 0
  rw [latchKeys, Tbl.look_foldl_put _ _ _ _ hs, Tbl.look_filter_key bank fun k => !sel k, hl]
  by_cases hn : sel n = true
  · simp only [hn, if_true, Bool.not_true, Bool.false_eq_true, if_false]
    split
    · rfl
    · next h => exact (Tbl.look_of_not_mem _ n 0 h).symm.trans (hl.trans (if_pos hn))
  · have : n ∉ (cnt.filter fun e => sel e.1).map Prod.fst := by simp [hn]
    rw [if_neg this, if_neg hn, if_pos (by simpa using hn)]

end

section
variable (L : LineState) (g : Bool) (n : Nat)

theorem LineState.latch_cnt : (L.latch g).cnt.look n 0 = if (gleanerLine.contains n == g) = true then 0 else L.cnt.look n 0 :=
  latchKeys_cnt (sel := fun k => gleanerLine.contains k == g) L.cntL n
theorem LineState.latch_cntL (h : (L.cnt.map Prod.fst).Nodup) :
    (L.latch g).cntL.look n 0 = if (gleanerLine.contains n == g) = true then L.cnt.look n 0 else L.cntL.look n 0 :=
  latchKeys_bank (sel := fun k => gleanerLine.contains k == g) L.cntL n h
theorem LineState.latch_nodup (h : (L.cnt.map Prod.fst).Nodup) : ((L.latch g).cnt.map Prod.fst).Nodup :=
  h.sublist (List.filter_sublist.map _)

end

section
variable (s : State)

theorem State.line_latched (g : Bool) (l : Nat) : Tbl.look (s.lines.map fun e => (e.1, e.2.latch g)) l LineState.idle = (s.line l).latch g :=
  Tbl.look_map_val s.lines (LineState.latch · g) l LineState.idle
theorem State.line_latchBoundary (h l : Nat) : (s.latchBoundary h).line l = (s.line l).latch false := s.line_latched false l
theorem State.line_gleanerReport (l : Nat) : s.gleanerReport.line l = (s.line l).latch true := s.line_latched true l

end

/-! ### The requests of a boundary (R64) -/

/-- A cause's bit is that of an active request. -/
theorem State.getLsbD_causes (s : State) {c : Nat} (hc : c < 11) :
    s.causes.getLsbD c = s.time.reqs.any fun r => r.active s.time.now && r.cause == c := by
  have key (l : List HoldReq) (m : BitVec 11) :
      (l.foldl (fun m r => m ||| ((1 : BitVec 11) <<< r.cause)) m).getLsbD c = (m.getLsbD c || l.any fun r => r.cause == c) := by
    induction l generalizing m with
    | nil => simp
    | cons r l ih =>
      have hb : ((1 : BitVec 11) <<< r.cause).getLsbD c = (r.cause == c) := by
        rw [Bool.eq_iff_iff]
        simp [hc]
        omega
      rw [List.foldl_cons, ih, BitVec.getLsbD_or, hb, List.any_cons, Bool.or_assoc]
  rw [State.causes, key, List.any_filter]
  simp
theorem State.hasHold_of_no_causes {s : State} (h : s.causes = 0) {c : Nat} (hc : c < 11) (src : HoldSrc) : s.hasHold c src = false := by
  have hg := s.getLsbD_causes hc
  rw [h, show (0 : BitVec 11).getLsbD c = false from BitVec.getLsbD_zero] at hg
  rw [Bool.eq_false_iff]
  intro hh
  obtain ⟨r, hr, h1, -, h3⟩ := (State.hasHold_iff s _ _).1 hh
  have := List.any_eq_false.1 hg.symm r hr
  simp [h3, h1] at this

section
variable {s : State} {b : Boundary}

theorem State.raiseBoundaries_idle (hb : s.hrv.bounds = [b]) (h : s.causes ≠ 0 ∨ s.live = false ∨ s.scIn 8 ≠ b.h + 9 ∨
    b.latched = false ∧ s.needsHold b = false) : s.raiseBoundaries = s := by
  rw [State.raiseBoundaries, hb, List.foldl_cons, List.foldl_nil, State.raiseBoundary, if_pos]
  rcases h with h | h | h | ⟨h, h'⟩
  · have : (s.causes == 0) = false := beq_eq_false_iff_ne.2 h
    simp only [State.eightBefore, this, Bool.and_false, Bool.false_and, Bool.not_false, Bool.or_true]
  · simp [State.eightBefore, h]
  · simp [State.eightBefore, h]
  · simp [h, h']
/-- The boundary's request, that of a snapshot that joins it, and the mark that they are raised. -/
theorem State.raiseBoundaries_due (hb : s.hrv.bounds = [b]) (hr : b.raised = false) (hc : s.causes = 0) (hl : s.live = true)
    (h8 : s.scIn 8 = b.h + 9) (h : b.latched = true ∨ s.needsHold b = true) :
    s.raiseBoundaries =
      let t := s.raiseHold 8 .harvest none
      let t := if b.joined.getLsbD 4 then t.raiseHold 9 .snapshot none else t
      { t with hrv.bounds := [{ b with raised := true }] } := by
  have hg : ¬ (b.raised || !(b.latched || s.needsHold b) || !s.eightBefore (b.h + 9)) = true := by
    rcases h with h | h <;> simp [State.eightBefore, *]
  rw [State.raiseBoundaries, hb, List.foldl_cons, List.foldl_nil, State.raiseBoundary, if_neg hg]
  dsimp only
  split <;> rw [State.raiseHold_frame] <;> simp [State.raiseHold_open, hb]

theorem State.raiseBoundaries_spec (hb : s.hrv.bounds = [b]) (hr : b.raised = false) (hc : s.causes = 0) (hl : s.live = true)
    (h8 : s.scIn 8 = b.h + 9) (h : b.latched = true ∨ s.needsHold b = true) :
    s.raiseBoundaries.hasHold 8 .harvest = true ∧ s.raiseBoundaries.hrv.bounds = [{ b with raised := true }] ∧
    (s.raiseBoundaries.hasHold 9 .snapshot = true ↔ b.joined.getLsbD 4 = true) ∧
    s.raiseBoundaries.time.cnt.hcEv.look 8 0 = sat32 (s.time.cnt.hcEv.look 8 0 + 1) := by
  have h9 := State.hasHold_of_no_causes hc (c := 9) (by omega) .snapshot
  have hh (t : State) (x : List Boundary) (c : Nat) (r : HoldSrc) : State.hasHold { t with hrv.bounds := x } c r = t.hasHold c r := rfl
  rw [State.raiseBoundaries_due hb hr hc hl h8 h]
  cases b.joined.getLsbD 4 with
  | false =>
    refine ⟨?_, rfl, ?_, ?_⟩
    · exact (hh _ _ _ _).trans (by simp [State.hasHold_raiseHold_open])
    · exact (Bool.eq_iff_iff.1 (hh _ _ _ _)).trans (by simp [State.hasHold_raiseHold_open, h9])
    · simp [State.raiseHold_open, hl]
  | true =>
    have hl' : (s.raiseHold 8 .harvest none).live = true := by rw [State.raiseHold_open]; exact hl
    refine ⟨?_, rfl, ?_, ?_⟩
    · exact (hh _ _ _ _).trans (by simp [State.hasHold_raiseHold_open])
    · exact (Bool.eq_iff_iff.1 (hh _ _ _ _)).trans (by simp [State.hasHold_raiseHold_open])
    · show ((s.raiseHold 8 .harvest none).raiseHold 9 .snapshot none).time.cnt.hcEv.look 8 0 = _
      rw [State.raiseHold_open (s.raiseHold 8 .harvest none), hl']
      simp [State.raiseHold_open, hl]

end

end Sys2Proof.Machine
end

section
/-! SUPPORT. Codes and shares at a boundary (R416 to R418): what a fold over the bays makes of one bay's record, and the power manager
after steps 5 and 6. -/

namespace Sys2Proof.Machine

/-! ### Folds over the bays -/

theorem State.bayPwr_updPwr (s : State) (b k : Nat) (f : BayPower → BayPower) :
    (s.updPwr b f).bayPwr k = if b = k then f (s.bayPwr k) else s.bayPwr k := by
  simp only [State.updPwr, State.bayPwr, Tbl.look_upd]
  split
  · next h => rw [h]
  · rfl

/-- A fold that changes the bays of a list, each by its own function, gives each bay its own change. -/
theorem State.bayPwr_foldl {f : State → Nat → State} {F : Nat → BayPower → BayPower}
    (hf : ∀ s b k, (f s b).bayPwr k = if b = k then F k (s.bayPwr k) else s.bayPwr k) {l : List Nat} (hl : l.Nodup) (s : State) (k : Nat) :
    (l.foldl f s).bayPwr k = if k ∈ l then F k (s.bayPwr k) else s.bayPwr k := by
  induction l generalizing s with
  | nil => simp
  | cons b l ih =>
    obtain ⟨hb, hl⟩ := List.nodup_cons.1 hl
    rw [List.foldl_cons, ih hl, hf]
    by_cases h : b = k
    · subst h
      simp [hb]
    · simp [h, show ¬ k = b from fun e => h e.symm]
theorem State.bayPwr_updPwrs (F : Nat → BayPower → BayPower) (s : State) {k : Nat} (hk : k < 8) :
    ((List.range 8).foldl (fun s b => s.updPwr b (F b)) s).bayPwr k = F k (s.bayPwr k) := by
  rw [State.bayPwr_foldl (f := fun s b => s.updPwr b (F b)) (F := F) (fun s b k => ?_) List.nodup_range, if_pos (List.mem_range.2 hk)]
  rw [State.bayPwr_updPwr]
  split
  · next h => rw [h]
  · rfl

/-- What a change of bays leaves of the power manager. -/
def PowerState.rest (p : PowerState) : PowerState := { p with bays := [] }
theorem State.updPwrs_rest (F : Nat → BayPower → BayPower) (l : List Nat) (s : State) :
    (l.foldl (fun s b => s.updPwr b (F b)) s).pwr.rest = s.pwr.rest :=
  foldl_keeps (fun s => s.pwr.rest) (fun s b => s.updPwr b (F b)) (fun _ _ => rfl) l s

section
variable (s : State)

/-! ### Codes (R416, R417) -/

theorem State.bayPwr_applyCodes (c : Nat) {k : Nat} (hk : k < 8) : (s.applyCodes c).bayPwr k = (s.bayPwr k).applied c := by
  have h := State.bayPwr_updPwrs (fun _ x => x.applied c) s hk
  unfold State.applyCodes
  dsimp only
  split <;> exact h
theorem State.applyCodes_rest (c : Nat) : (s.applyCodes c).pwr.rest = s.pwr.rest := by
  have h := State.updPwrs_rest (fun _ x => x.applied c) (List.range 8) s
  unfold State.applyCodes
  dsimp only
  split <;> exact h
theorem getLsbD_clear {n : Nat} (m x : BitVec n) (i : Nat) : (m &&& ~~~x).getLsbD i = (m.getLsbD i && !x.getLsbD i) := by
  by_cases h : i < n
  · simp [h]
  · simp [BitVec.getLsbD_of_ge _ _ (Nat.le_of_not_lt h)]
/-- HRV_PEND's bits beside VOLT. -/
theorem State.applyCodes_pend (c : Nat) {i : Nat} (hi : (1 : BitVec 5).getLsbD i = false) :
    (s.applyCodes c).hrv.pend.getLsbD i = s.hrv.pend.getLsbD i := by
  have h : ((List.range 8).foldl (fun s b => s.updPwr b fun x => x.applied c) s).hrv = s.hrv :=
    foldl_keeps State.hrv (fun s b => s.updPwr b fun x => x.applied c) (fun _ _ => rfl) _ s
  unfold State.applyCodes
  dsimp only
  split
  · exact congrArg (fun x => x.pend.getLsbD i) h
  · refine Eq.trans ?_ (congrArg (fun x => x.pend.getLsbD i) h)
    dsimp only
    rw [getLsbD_clear, hi, Bool.not_false, Bool.and_true]
    rfl

theorem State.bayPwr_enterCode (codes : List Nat) (b k : Nat) : (s.enterCode codes b).bayPwr k =
    if b = k then (s.bayPwr k).entered s.time.now (codes.getD k 0) else s.bayPwr k := by
  unfold State.enterCode BayPower.entered
  dsimp only
  split
  · next h =>
    rw [State.bayPwr_updPwr]
    split
    · next e => subst e; rw [if_pos h]
    · rfl
  · next h =>
    refine (State.bayPwr_updPwr s b k _).trans ?_
    split
    · next e => subst e; rw [if_neg h]
    · rfl
theorem BayPower.entered_code (p : BayPower) (now c : Nat) : (p.entered now c).code = p.code := by
  unfold BayPower.entered
  split <;> rfl
theorem BayPower.entered_peak (p : BayPower) (now c : Nat) : (p.entered now c).peak = p.peak := by
  unfold BayPower.entered
  split <;> rfl
theorem BayPower.entered_next (p : BayPower) (now c : Nat) : (p.entered now c).next = c := by
  unfold BayPower.entered
  split <;> rfl
theorem BayPower.entered_pend (p : BayPower) (now c : Nat) : (p.entered now c).pend = true ↔ c ≠ p.code := by
  unfold BayPower.entered
  split <;> simp [*]

/-- The codes of a list of bays are entered, and VOLT sets when one of them changes. -/
theorem State.enterCode_foldl (codes : List Nat) {l : List Nat} (hl : l.Nodup) :
    (∀ k, (l.foldl (fun s b => s.enterCode codes b) s).bayPwr k =
      if k ∈ l then (s.bayPwr k).entered s.time.now (codes.getD k 0) else s.bayPwr k) ∧
    (l.foldl (fun s b => s.enterCode codes b) s).hrv.pend =
      if l.any (fun b => codes.getD b 0 ≠ (s.bayPwr b).code) then s.hrv.pend ||| 1 else s.hrv.pend := by
  induction l generalizing s with
  | nil => simp
  | cons b l ih =>
    obtain ⟨hb, hl⟩ := List.nodup_cons.1 hl
    have hn : (s.enterCode codes b).time.now = s.time.now := (congrArg (·.time.now) (s.enterCode_frame codes b) :)
    have hc (k : Nat) : ((s.enterCode codes b).bayPwr k).code = (s.bayPwr k).code := by
      rw [State.bayPwr_enterCode]
      split
      · exact BayPower.entered_code _ _ _
      · rfl
    have hp : (s.enterCode codes b).hrv.pend = if codes.getD b 0 = (s.bayPwr b).code then s.hrv.pend else s.hrv.pend ||| 1 := by
      unfold State.enterCode
      dsimp only
      split <;> rfl
    obtain ⟨h1, h2⟩ := ih (s.enterCode codes b) hl
    refine ⟨fun k => ?_, ?_⟩
    · rw [List.foldl_cons, h1, State.bayPwr_enterCode, hn]
      by_cases h : b = k
      · subst h
        simp [hb]
      · simp [h, show ¬ k = b from fun e => h e.symm]
    · rw [List.foldl_cons, h2, hp]
      simp only [hc, List.any_cons]
      by_cases h : codes.getD b 0 = (s.bayPwr b).code
      · simp [h, -List.getD_eq_getElem?_getD]
      · simp [h, BitVec.or_assoc, -List.getD_eq_getElem?_getD]

theorem State.enterCodes_eq (codes : List Nat) : s.enterCodes codes = (List.range 8).foldl (fun s b => s.enterCode codes b) s := rfl
theorem State.bayPwr_enterCodes (codes : List Nat) {k : Nat} (hk : k < 8) :
    (s.enterCodes codes).bayPwr k = (s.bayPwr k).entered s.time.now (codes.getD k 0) := by
  rw [State.enterCodes_eq, (s.enterCode_foldl codes List.nodup_range).1, if_pos (List.mem_range.2 hk)]
theorem State.enterCodes_rest (codes : List Nat) : (s.enterCodes codes).pwr.rest = s.pwr.rest :=
  foldl_keeps (fun s => s.pwr.rest) (fun s b => s.enterCode codes b) (fun s b => by unfold State.enterCode; dsimp only; split <;> rfl) _ s
theorem State.enterCodes_pend (codes : List Nat) {i : Nat} (hi : (1 : BitVec 5).getLsbD i = false) :
    (s.enterCodes codes).hrv.pend.getLsbD i = s.hrv.pend.getLsbD i := by
  rw [State.enterCodes_eq, (s.enterCode_foldl codes List.nodup_range).2]
  split
  · rw [BitVec.getLsbD_or, hi, Bool.or_false]
  · rfl
theorem State.enterCodes_volt (codes : List Nat) {k : Nat} (hk : k < 8) (h : codes.getD k 0 ≠ (s.bayPwr k).code) :
    (s.enterCodes codes).hrv.pend.getLsbD 0 = true := by
  rw [State.enterCodes_eq, (s.enterCode_foldl codes List.nodup_range).2, if_pos]
  · rw [BitVec.getLsbD_or]
    simp
  · exact List.any_eq_true.2 ⟨k, List.mem_range.2 hk, by simpa using h⟩

/-! ### Shares (R418) -/

/-- The share that a bay gets from the segment's highest windows. -/
def State.newShare (s : State) (p : BayPower) : Nat :=
  let vcore := ((List.range 8).map fun b => 5000 + 25 * (s.bayPwr b).code).sum / 8
  let total := ((List.range 8).map fun b => (s.bayPwr b).peak).sum
  if total = 0 ∨ s.mod.mgmt = false then p.share
  else min 3200 ((classLimit s.pwr.cls * 100000 - s.pwr.pncPeak) / vcore * p.peak / total)

theorem State.bayPwr_shared {k : Nat} (hk : k < 8) :
    s.shared.bayPwr k = { s.bayPwr k with share := s.newShare (s.bayPwr k) } := by
  unfold State.shared State.newShare
  simp only [List.sum_eq_foldl, Bool.or_eq_true, decide_eq_true_eq, Bool.not_eq_true']
  split
  · rfl
  · exact State.bayPwr_updPwrs (fun _ x => { x with share := _ }) s hk
theorem State.bayPwr_setShares {k : Nat} (hk : k < 8) : s.setShares.bayPwr k =
    { s.bayPwr k with share := s.newShare (s.bayPwr k), peak := 0, seen := false, margin := 0 } := by
  rw [State.setShares_eq, State.bayPwr_updPwrs (fun _ x => { x with peak := 0, seen := false, margin := 0 }) _ hk]
  show { s.shared.bayPwr k with peak := 0, seen := false, margin := 0 } = _
  rw [s.bayPwr_shared hk]
/-- The shares change bays alone. -/
theorem State.shared_keeps {β : Type} (π : State → β) (h : ∀ (s : State) b f, π (s.updPwr b f) = π s) : π s.shared = π s := by
  unfold State.shared
  dsimp only
  split
  · rfl
  · exact foldl_keeps π (fun s b => s.updPwr b _) (fun s b => h s b _) _ s
theorem State.setShares_keeps {β : Type} (π : State → β) (h : ∀ (s : State) b f, π (s.updPwr b f) = π s)
    (h' : ∀ s : State, π { s with pwr.pinPeak := 0, pwr.pncPeak := 0 } = π s) : π s.setShares = π s := by
  rw [State.setShares_eq]
  exact (foldl_keeps π (fun s b => s.updPwr b _) (fun s b => h s b _) _ _).trans ((h' _).trans (s.shared_keeps π h))

/-! ### Steps 5 and 6 -/

theorem State.lowMargin_alert {k : Nat} (hk : k < 8) (h1 : (s.bayPwr k).seen = true) (h2 : (s.bayPwr k).margin < 20)
    (h3 : (s.bayPwr k).code = 72) : s.lowMargin.pwr.alert.getLsbD 5 = true := by
  have : ((List.range 8).any fun b => (s.bayPwr b).seen && (s.bayPwr b).margin < 20 && (s.bayPwr b).code = 72) = true :=
    List.any_eq_true.2 ⟨k, List.mem_range.2 hk, by simp [h1, h2, h3]⟩
  rw [State.lowMargin, if_pos this]
  simp [State.powerAlert]
theorem State.lowMargin_bays : s.lowMargin.pwr.bays = s.pwr.bays := by
  unfold State.lowMargin
  split <;> rfl
theorem State.lowMargin_hrv : s.lowMargin.hrv = s.hrv := by
  unfold State.lowMargin
  split <;> rfl

/-- The bay's record with the code in force from this boundary on. -/
def BayPower.inForce (p : BayPower) (b : Boundary) : BayPower := if b.joined.getLsbD 0 then p.applied b.at_ else p

variable (b : Boundary)

theorem State.bayPwr_lowMargin (k : Nat) : s.lowMargin.bayPwr k = s.bayPwr k := by rw [State.bayPwr, s.lowMargin_bays]; rfl
theorem State.bayPwr_stepCodes {k : Nat} (hk : k < 8) : (s.stepCodes b).bayPwr k = (s.bayPwr k).inForce b := by
  unfold State.stepCodes BayPower.inForce
  split
  · rw [State.bayPwr_applyCodes _ _ hk, s.bayPwr_lowMargin]
  · exact s.bayPwr_lowMargin k
theorem State.stepCodes_rest : (s.stepCodes b).pwr.rest = s.lowMargin.pwr.rest := by
  unfold State.stepCodes
  split
  · exact State.applyCodes_rest _ _
  · rfl
theorem State.stepCodes_pend {i : Nat} (hi : (1 : BitVec 5).getLsbD i = false) :
    (s.stepCodes b).hrv.pend.getLsbD i = s.hrv.pend.getLsbD i := by
  unfold State.stepCodes
  split
  · rw [State.applyCodes_pend _ _ hi, s.lowMargin_hrv]
  · rw [s.lowMargin_hrv]

/-- The codes are in force, and the new ones entered. -/
def State.coded (s : State) (b : Boundary) : State := (s.stepCodes b).gleanerReport.enterCodes s.chosenCodes
theorem State.stepPower_eq : s.stepPower b = (s.coded b).setShares := rfl

theorem State.bayPwr_coded {k : Nat} (hk : k < 8) :
    (s.coded b).bayPwr k = ((s.bayPwr k).inForce b).entered s.time.now (s.chosenCode (s.bayPwr k)) := by
  have hn : (s.stepCodes b).gleanerReport.time.now = s.time.now := (congrArg (·.time.now) (s.stepCodes_frame b) :)
  have hc : s.chosenCodes.getD k 0 = s.chosenCode (s.bayPwr k) := by
    simp [State.chosenCodes, hk]
  rw [State.coded, State.bayPwr_enterCodes _ _ hk, hn, hc]
  exact congrArg (fun p => BayPower.entered p _ _) (s.bayPwr_stepCodes b hk)
theorem State.coded_rest : (s.coded b).pwr.rest = s.lowMargin.pwr.rest :=
  (State.enterCodes_rest _ _).trans (s.stepCodes_rest b)
theorem State.coded_pend {i : Nat} (hi : (1 : BitVec 5).getLsbD i = false) :
    (s.coded b).hrv.pend.getLsbD i = s.hrv.pend.getLsbD i :=
  (State.enterCodes_pend _ _ hi).trans (s.stepCodes_pend b hi)
theorem State.coded_volt {k : Nat} (hk : k < 8) (h : ((s.coded b).bayPwr k).pend = true) : (s.coded b).hrv.pend.getLsbD 0 = true := by
  rw [s.bayPwr_coded b hk, BayPower.entered_pend] at h
  refine State.enterCodes_volt _ _ hk ?_
  have hc : s.chosenCodes.getD k 0 = s.chosenCode (s.bayPwr k) := by
    simp [State.chosenCodes, hk]
  rw [hc]
  exact (s.bayPwr_stepCodes b hk) ▸ h

theorem State.stepPower_pend {i : Nat} (hi : (1 : BitVec 5).getLsbD i = false) :
    (s.stepPower b).hrv.pend.getLsbD i = s.hrv.pend.getLsbD i := by
  rw [State.stepPower_eq, State.setShares_keeps _ State.hrv (fun _ _ _ => rfl) (fun _ => rfl)]
  exact s.coded_pend b hi

theorem BayPower.inForce_code (p : BayPower) :
    (p.inForce b).code = if b.joined.getLsbD 0 ∧ p.pend = true ∧ p.since < b.at_ then p.next else p.code := by
  unfold BayPower.inForce BayPower.applied
  cases b.joined.getLsbD 0 <;> cases p.pend <;> simp [apply_ite BayPower.code]
theorem BayPower.inForce_rest (p : BayPower) : (p.inForce b).peak = p.peak ∧ (p.inForce b).share = p.share := by
  unfold BayPower.inForce BayPower.applied
  split
  · split <;> exact ⟨rfl, rfl⟩
  · exact ⟨rfl, rfl⟩
theorem BayPower.entered_share (p : BayPower) (now c : Nat) : (p.entered now c).share = p.share := by
  unfold BayPower.entered
  split <;> rfl

/-- A bay's code, chosen code and alert after a boundary (R416, R417). -/
theorem State.stepPower_code {k : Nat} (hk : k < 8) {p : BayPower} (hp : p = s.bayPwr k) :
    ((s.stepPower b).bayPwr k).code = (if b.joined.getLsbD 0 ∧ p.pend = true ∧ p.since < b.at_ then p.next else p.code) ∧
    ((s.stepPower b).bayPwr k).next = s.chosenCode p ∧
    (((s.stepPower b).bayPwr k).pend = true ↔ ((s.stepPower b).bayPwr k).next ≠ ((s.stepPower b).bayPwr k).code) ∧
    (((s.stepPower b).bayPwr k).pend = true → (s.stepPower b).hrv.pend.getLsbD 0 = true) ∧ ((s.stepPower b).bayPwr k).peak = 0 ∧
    (p.seen = true → p.margin < 20 → p.code = 72 → (s.stepPower b).pwr.alert.getLsbD 5 = true) := by
  subst hp
  have hh : (s.stepPower b).hrv = (s.coded b).hrv := State.setShares_keeps _ State.hrv (fun _ _ _ => rfl) fun _ => rfl
  have ha : (s.stepPower b).pwr.alert = s.lowMargin.pwr.alert :=
    (State.setShares_keeps _ (·.pwr.alert) (fun _ _ _ => rfl) fun _ => rfl).trans (congrArg PowerState.alert (s.coded_rest b) :)
  have hb := State.bayPwr_setShares (s.coded b) hk
  rw [← State.stepPower_eq] at hb
  rw [hb, hh, ha]
  refine ⟨?_, ?_, ?_, s.coded_volt b hk, rfl, s.lowMargin_alert hk⟩
  · rw [s.bayPwr_coded b hk]
    exact (BayPower.entered_code _ _ _).trans (BayPower.inForce_code b _)
  · rw [s.bayPwr_coded b hk]
    exact BayPower.entered_next _ _ _
  · rw [s.bayPwr_coded b hk]
    dsimp only
    rw [BayPower.entered_pend, BayPower.entered_next, BayPower.entered_code]

/-- A bay's share after a boundary (R418). -/
theorem State.stepPower_share {k : Nat} (hk : k < 8) {p : BayPower} (hp : p = s.bayPwr k) {total vcore : Nat}
    (ht : total = ((List.range 8).map fun i => (s.bayPwr i).peak).sum)
    (hv : vcore = ((List.range 8).map fun i => 5000 + 25 * ((s.stepPower b).bayPwr i).code).sum / 8) :
    ((s.stepPower b).bayPwr k).share = if total = 0 ∨ s.mod.mgmt = false then p.share
      else min 3200 ((classLimit s.pwr.cls * 100000 - s.pwr.pncPeak) / vcore * p.peak / total) := by
  subst hp
  have hk' : ((s.coded b).bayPwr k).share = (s.bayPwr k).share ∧ ((s.coded b).bayPwr k).peak = (s.bayPwr k).peak := by
    rw [s.bayPwr_coded b hk, BayPower.entered_share, BayPower.entered_peak]
    exact ⟨(BayPower.inForce_rest b _).2, (BayPower.inForce_rest b _).1⟩
  have hp : (List.range 8).map (fun i => ((s.coded b).bayPwr i).peak) = (List.range 8).map fun i => (s.bayPwr i).peak :=
    List.map_congr_left fun i hi => by
      rw [s.bayPwr_coded b (List.mem_range.1 hi), BayPower.entered_peak, (BayPower.inForce_rest b _).1]
  have hc : (List.range 8).map (fun i => 5000 + 25 * ((s.stepPower b).bayPwr i).code) =
      (List.range 8).map fun i => 5000 + 25 * ((s.coded b).bayPwr i).code :=
    List.map_congr_left fun i hi => by rw [State.stepPower_eq, State.bayPwr_setShares _ (List.mem_range.1 hi)]
  have hr : s.lowMargin.pwr.rest = { s.pwr.rest with alert := s.lowMargin.pwr.alert, alertCc := s.lowMargin.pwr.alertCc } := by
    unfold State.lowMargin
    split <;> rfl
  have hr' := (s.coded_rest b).trans hr
  have hl : (s.coded b).pwr.cls = s.pwr.cls := (congrArg PowerState.cls hr' :)
  have hn : (s.coded b).pwr.pncPeak = s.pwr.pncPeak := (congrArg PowerState.pncPeak hr' :)
  have hm : (s.coded b).mod.mgmt = s.mod.mgmt :=
    (congrArg (·.mod.mgmt) (State.enterCodes_frame _ _) :).trans (congrArg (·.mod.mgmt) (s.stepCodes_frame b) :)
  rw [State.stepPower_eq, State.bayPwr_setShares _ hk]
  dsimp only
  rw [State.newShare, hp, ← ht, hl, hn, hm, ← hc, ← hv, hk'.1, hk'.2]

end

end Sys2Proof.Machine
end

section
/-! SUPPORT. Disables, map-outs and power groups of a boundary (R265, R266, R273, R437): what each makes of a module's one line, of its
bytes and of its functions. -/

namespace Sys2Proof.Machine

/-! ### Disables (R437) -/

section
variable (s : State)

theorem getLsbD_bitOff_self {n : Nat} (v : BitVec n) (i : Nat) : (bitOff v i).getLsbD i = false := by
  simp only [bitOff, BitVec.getLsbD_and, BitVec.getLsbD_not, BitVec.getLsbD_shiftLeft]
  by_cases h : i < n
  · simp [h, show 0 < n by omega]
  · simp [h]

/-- A disable shows in its register, ends its request, and sets RCV_ALERT.DISABLED. -/
theorem State.disable_spec (f : Func) : (s.disable f).isDisabled f = true ∧ (s.disable f).disWaits f = false ∧
    (s.disable f).rcv.alert.getLsbD 11 = true := by
  refine ⟨?_, ?_, ?_⟩
  · cases f with
    | bay b => exact getLsbD_bitOn_self _ b.isLt
    | channel n => exact getLsbD_bitOn_self _ n.isLt
    | port p => exact getLsbD_bitOn_self _ p.isLt
  · cases f <;> exact getLsbD_bitOff_self _ _
  · cases f <;> exact getLsbD_bitOn_self _ (by omega)

variable (b : Boundary)

theorem State.stepDisables_of_nil (h : (if b.joined.getLsbD 1 then s.disablesAt b.at_ else []) = []) : s.stepDisables b = s := by
  unfold State.stepDisables
  split at h
  · next hj => rw [if_pos hj, h, List.foldl_nil]
  · next hj => rw [if_neg hj]
theorem State.stepDisables_of_one {f : Func} (h : (if b.joined.getLsbD 1 then s.disablesAt b.at_ else []) = [f])
    (hi : s.idleFunc f = true) : s.stepDisables b = s.disable f := by
  unfold State.stepDisables
  split at h
  · next hj => rw [if_pos hj, h, List.foldl_cons, List.foldl_nil, if_pos hi]
  · cases h

end

/-! ### Map-outs (R273) -/

theorem State.line_of_lines {s : State} {l : Nat} {L : LineState} (h : s.lines = [(l, L)]) : s.line l = L := by
  rw [State.line, h]
  exact if_pos rfl
theorem State.lines_setLine {s : State} {l : Nat} {L : LineState} (h : s.lines = [(l, L)]) (M : LineState) :
    (s.setLine l M).lines = [(l, M)] := by
  rw [State.setLine, h]
  simp [Tbl.put]

/-- Values put one after another from a key on. -/
theorem look_foldl_zipIdx (base : Nat) (t : Tbl W64) (ws : List W64) {i : Nat} (hi : i < ws.length) :
    (ws.zipIdx.foldl (fun (t : Tbl W64) e => t.put (base + e.2) e.1) t).look (base + i) 0 = ws.getD i 0 := by
  induction ws using List.reverseRecOn with
  | nil => simp at hi
  | append_singleton ws w ih =>
    rw [List.zipIdx_append, List.foldl_append]
    simp only [List.zipIdx_cons, List.zipIdx_nil, List.foldl_cons, List.foldl_nil, Nat.zero_add, Tbl.look_put]
    rw [List.length_append, List.length_singleton] at hi
    by_cases h : i = ws.length
    · simp [h]
    · have hl : i < ws.length := by omega
      rw [if_neg (by omega), ih hl, List.getD_append _ _ _ _ hl]

/-- A line with one row mapped to spare `k`, whose content is `ws`. -/
def LineState.mapped (L : LineState) (st row k : Nat) (ws : List W64) : LineState :=
  { L with
    isBad := L.isBad.filter fun w => !(w / 4096 = st && w % 4096 / 64 = row)
    istore := ws.zipIdx.foldl (fun (t : Tbl W64) e => t.put (st * 4096 + row * 64 + e.2) e.1) L.istore
    ls.isMap := L.ls.isMap.put st (L.ls.isMap.look st 0 ||| BitVec.ofNat 64 ((row + 64) * 2 ^ (8 * k))) }
theorem State.mapOut_spare {s : State} {l st row k : Nat} (h : freeSpare ((s.line l).ls.isMap.look st 0) = some k) :
    s.mapOut l st row =
      { s.setLine l ((s.line l).mapped st row k ((s.copyRow l st row).getD [])) with freeIx := s.freeIx + 1 } := by
  simp only [State.mapOut, h]
  rfl
theorem State.mapOut_full {s : State} {l st row : Nat} (h : freeSpare ((s.line l).ls.isMap.look st 0) = none) :
    s.mapOut l st row = s := by
  simp only [State.mapOut, h]

/-- What a map-out leaves of the line: its queue and its groups. -/
def LineState.sameUnits (L M : LineState) : Prop := M.ls = { L.ls with isMap := M.ls.isMap }

theorem State.mapOut_one {s : State} {l : Nat} {L : LineState} (h : s.lines = [(l, L)]) (st row : Nat) :
    ∃ M, (s.mapOut l st row).lines = [(l, M)] ∧ L.sameUnits M := by
  cases hk : freeSpare ((s.line l).ls.isMap.look st 0) with
  | none => exact ⟨L, by rw [State.mapOut_full hk, h], rfl⟩
  | some k =>
    rw [State.mapOut_spare hk]
    refine ⟨_, State.lines_setLine h _, ?_⟩
    rw [State.line_of_lines h]
    rfl
theorem State.mapOut_foldl_one {s : State} {l : Nat} {L : LineState} (h : s.lines = [(l, L)]) (rs : List (Nat × Nat × Nat)) :
    ∃ M, (rs.foldl (fun s r => s.mapOut l r.1 r.2.1) s).lines = [(l, M)] ∧ L.sameUnits M := by
  induction rs generalizing s L with
  | nil => exact ⟨L, h, rfl⟩
  | cons r rs ih =>
    obtain ⟨M, hM, hu⟩ := State.mapOut_one h r.1 r.2.1
    obtain ⟨N, hN, hv⟩ := ih hM
    refine ⟨N, hN, ?_⟩
    unfold LineState.sameUnits at hu hv ⊢
    rw [hv, hu]

section
variable {s : State} {l : Nat} {L : LineState}

theorem State.lines_dropRows (h : s.lines = [(l, L)]) (c : Nat) : (s.updLine l fun L => L.dropRows c).lines = [(l, L.dropRows c)] := by
  rw [State.updLine, State.lines_setLine h, State.line_of_lines h]

/-- The map-outs of a module of one line: its queue keeps the later rows, and its groups stay. -/
theorem State.mapOuts_one (h : s.lines = [(l, L)]) (c : Nat) : ∃ M, (s.mapOuts c).lines = [(l, M)] ∧
    (s.mapOuts c).lines = (s.lineMapOuts c l).lines ∧ (L.dropRows c).sameUnits M ∧
    (M.ls.mapQueue = [] → (s.mapOuts c).hrv.pend.getLsbD 2 = false) := by
  obtain ⟨M, hM, hu⟩ := State.mapOut_foldl_one (State.lines_dropRows h c) (L.rowsDue c)
  have hl : (s.lineMapOuts c l).lines = [(l, M)] := by rw [State.lineMapOuts, State.line_of_lines h, hM]
  have hf : s.lines.foldl (fun s e => s.lineMapOuts c e.1) s = s.lineMapOuts c l := by rw [h]; rfl
  have he : (s.mapOuts c).lines = (s.lineMapOuts c l).lines := by
    rw [State.mapOuts_eq, hf]
    dsimp only
    split <;> rfl
  refine ⟨M, he.trans hl, he, hu, fun hq => ?_⟩
  rw [State.mapOuts_eq, hf]
  dsimp only
  rw [if_neg (by simp [hl, hq]), getLsbD_clear]
  simp

/-- A row's copy does not depend on what waits to be mapped out. -/
theorem State.copyRow_dropRows (h : s.lines = [(l, L)]) (c st row : Nat) :
    (s.updLine l fun L => L.dropRows c).copyRow l st row = s.copyRow l st row := by
  have hl := State.lines_dropRows h c
  have hf (X : LineState) : [(l, X)].filter (fun e => e.2.hasLine && decide (e.1 < l)) = [] := by simp
  unfold State.copyRow
  rw [State.line_of_lines hl, State.line_of_lines h, hl, h]
  simp only [hf]
  rfl
theorem State.copyRow_length {st row : Nat} {ws : List W64} (h : s.copyRow l st row = some ws) : ws.length = 64 := by
  unfold State.copyRow at h
  split at h
  · cases h
  · obtain ⟨g, -, rfl⟩ := Option.map_eq_some_iff.1 h
    simp

/-- The one row that waits takes a free spare, and its content (R273). -/
theorem State.mapOuts_row (h : s.lines = [(l, L)]) {c c0 st row k : Nat} (hq : L.ls.mapQueue = [(st, row, c0)]) (hc : c0 < c)
    (hk : freeSpare (L.ls.isMap.look st 0) = some k) :
    (s.mapOuts c).lines = [(l, (L.dropRows c).mapped st row k ((s.copyRow l st row).getD []))] ∧
      (s.mapOuts c).hrv.pend.getLsbD 2 = false := by
  obtain ⟨M, hM, he, hu, hp⟩ := State.mapOuts_one h c
  have hd := State.lines_dropRows h c
  have hr : (s.line l).rowsDue c = [(st, row, c0)] := by simp [LineState.rowsDue, State.line_of_lines h, hq, hc]
  have hl : (s.lineMapOuts c l).lines = [(l, (L.dropRows c).mapped st row k ((s.copyRow l st row).getD []))] := by
    rw [State.lineMapOuts, hr, List.foldl_cons, List.foldl_nil, State.mapOut_spare (k := k)]
    · refine (State.lines_setLine hd _).trans ?_
      rw [State.line_of_lines hd, State.copyRow_dropRows h]
    · rw [State.line_of_lines hd]
      exact hk
  refine ⟨he.trans hl, hp ?_⟩
  rw [hu]
  show L.ls.mapQueue.filter _ = []
  simp [hq, hc]

end

/-! ### Power groups (R266) -/

theorem State.byte_cycleGroups (s : State) (l : Nat) (L : LineState) (gs : List Nat) (r : Nat) :
    (gs.foldl (fun t g => t.cycleGroup l L g) s).byte r =
      if ∃ g ∈ gs, L.ls.pgOn.getLsbD g ≠ L.ls.pgReq.getLsbD g ∧ lsPhys l (g * 98304) ≤ r ∧ r < lsPhys l (g * 98304) + 98304 then 0
      else s.byte r := by
  induction gs generalizing s with
  | nil => simp
  | cons g gs ih =>
    have hb : (s.cycleGroup l L g).byte r =
        if L.ls.pgOn.getLsbD g ≠ L.ls.pgReq.getLsbD g ∧ lsPhys l (g * 98304) ≤ r ∧ r < lsPhys l (g * 98304) + 98304 then 0
        else s.byte r := by
      unfold State.cycleGroup
      by_cases h : L.ls.pgOn.getLsbD g = L.ls.pgReq.getLsbD g
      · simp only [h, if_true, ne_eq, not_true_eq_false, false_and, if_false]
      · simp only [h, if_false, State.byte_zeroBytes, ne_eq, not_false_eq_true, true_and]
    rw [List.foldl_cons, ih, hb]
    simp only [List.exists_mem_cons_iff]
    split
    · next h => rw [if_pos (.inr h)]
    · next h => simp only [or_iff_left h]

section
variable {s : State} {l : Nat} {M : LineState}

theorem State.cycleGroups_lines (s : State) (l : Nat) (L : LineState) (gs : List Nat) :
    (gs.foldl (fun t g => t.cycleGroup l L g) s).lines = s.lines :=
  foldl_keeps State.lines (fun t g => t.cycleGroup l L g) (fun t g => by unfold State.cycleGroup; split <;> rfl) gs s

theorem State.groupChanges_one (h : s.lines = [(l, M)]) (hh : Nat) : s.groupChanges hh =
    if (s.changeGroups l hh).lines.any fun e => e.2.ls.pgReqValid then s.changeGroups l hh
    else { s.changeGroups l hh with hrv.pend := (s.changeGroups l hh).hrv.pend &&& ~~~8 } := by
  rw [State.groupChanges_eq, h]
  rfl

/-- A change of groups writes what the line's groups are, and nothing else of it. -/
theorem State.changeGroups_one (h : s.lines = [(l, M)]) (hh : Nat) : ∃ N, (s.changeGroups l hh).lines = [(l, N)] ∧
    N = { M with ls := { M.ls with pgOn := N.ls.pgOn, pgReqValid := N.ls.pgReqValid } } := by
  rw [State.changeGroups_eq]
  split
  · exact ⟨M, h, rfl⟩
  · refine ⟨M.takeGroups, ?_, rfl⟩
    have hl := (State.cycleGroups_lines s l (s.line l) (List.range 4)).trans h
    rw [State.updLine, State.lines_setLine hl, State.line_of_lines hl]
theorem State.changeGroups_pend (s : State) (l hh : Nat) : (s.changeGroups l hh).hrv.pend = s.hrv.pend := by
  rw [State.changeGroups_eq]
  split
  · rfl
  · exact foldl_keeps (·.hrv.pend) (fun t g => t.cycleGroup l _ g) (fun t g => by unfold State.cycleGroup; split <;> rfl) _ s

theorem State.stepGroups_one (h : s.lines = [(l, M)]) (b : Boundary) : ∃ N, (s.stepGroups b).lines = [(l, N)] ∧
    N = { M with ls := { M.ls with pgOn := N.ls.pgOn, pgReqValid := N.ls.pgReqValid } } ∧
    (s.stepGroups b).hrv.pend.getLsbD 2 = s.hrv.pend.getLsbD 2 := by
  unfold State.stepGroups
  split
  · obtain ⟨N, hN, he⟩ := State.changeGroups_one h b.h
    have hp := s.changeGroups_pend l b.h
    refine ⟨N, ?_, he, ?_⟩
    · rw [State.groupChanges_one h]
      split <;> exact hN
    · rw [State.groupChanges_one h]
      split
      · rw [hp]
      · dsimp only
        rw [getLsbD_clear, hp]
        simp
  · exact ⟨M, h, rfl, rfl⟩

/-- A valid request of before the boundary changes the groups; those that change read zeros. -/
theorem State.stepGroups_due (h : s.lines = [(l, M)]) {b : Boundary} (hj : b.joined.getLsbD 3 = true) (hv : M.ls.pgReqValid = true)
    (hs : M.ls.pgReqSc < b.h) : (s.stepGroups b).lines = [(l, M.takeGroups)] ∧ (s.stepGroups b).hrv.pend.getLsbD 3 = false ∧
    ∀ r, (s.stepGroups b).byte r =
      if ∃ g ∈ List.range 4, M.ls.pgOn.getLsbD g ≠ M.ls.pgReq.getLsbD g ∧ lsPhys l (g * 98304) ≤ r ∧ r < lsPhys l (g * 98304) + 98304
      then 0 else s.byte r := by
  have hc : s.changeGroups l b.h =
      ((List.range 4).foldl (fun t g => t.cycleGroup l M g) s).updLine l LineState.takeGroups := by
    rw [State.changeGroups_eq, State.line_of_lines h, if_neg (by simp [hv, hs])]
  have hl : (s.changeGroups l b.h).lines = [(l, M.takeGroups)] := by
    have hl := (State.cycleGroups_lines s l M (List.range 4)).trans h
    rw [hc, State.updLine, State.lines_setLine hl, State.line_of_lines hl]
  have he : s.stepGroups b = { s.changeGroups l b.h with hrv.pend := (s.changeGroups l b.h).hrv.pend &&& ~~~8 } := by
    rw [State.stepGroups, if_pos hj, State.groupChanges_one h, if_neg (by simp [hl, LineState.takeGroups])]
  rw [he]
  refine ⟨hl, ?_, fun r => ?_⟩
  · dsimp only
    rw [getLsbD_clear]
    simp
  · rw [← State.byte_cycleGroups, hc]
    rfl

end

end Sys2Proof.Machine
end

section
/-! SUPPORT. The end of a boundary's actions, and the boundary as a whole (R63 to R68, R444). -/

namespace Sys2Proof.Machine

/-! ### The end: a snapshot begins, or the boundary is over -/

/-- What follows steps 3 to 6. -/
def State.boundaryEnd (s : State) (b : Boundary) : State :=
  if b.joined.getLsbD 4 && s.rcv.snap.isSome then s.beginSnapshot b else (s.dropHold 9 .snapshot).closeBoundary b
/-- The state beside what the end of a boundary writes, HARVEST's withdrawal included. -/
def State.besideEnd (s : State) : State :=
  { s with time.reqs := [], hrv := State.reset.hrv, rcv.snap := none, host := State.reset.host }

section
variable {s : State} {b : Boundary}

theorem State.closeBoundary_frame (s : State) (b : Boundary) : (s.closeBoundary b).besideEnd = s.besideEnd := by
  rw [State.closeBoundary_eq]
  rfl
theorem State.closeBoundary_hrv (s : State) (b : Boundary) : (s.closeBoundary b).hrv =
    { s.hrv with bounds := s.hrv.bounds.filter (fun x => x != b), active := false } := by
  rw [State.closeBoundary_eq]
theorem State.closeBoundary_time (s : State) (b : Boundary) : (s.closeBoundary b).time = s.time := by
  rw [State.closeBoundary_eq]

theorem State.beginSnapshot_frame (s : State) (b : Boundary) : (s.beginSnapshot b).besideEnd = s.besideEnd := by
  unfold State.beginSnapshot
  split <;> rfl
theorem State.beginSnapshot_time (s : State) (b : Boundary) : (s.beginSnapshot b).time = s.time := by
  unfold State.beginSnapshot
  split <;> rfl
theorem State.boundaryEnd_frame (s : State) (b : Boundary) : (s.boundaryEnd b).besideEnd = s.besideEnd := by
  unfold State.boundaryEnd
  split
  · exact s.beginSnapshot_frame b
  · exact (s.dropHold 9 .snapshot).closeBoundary_frame b
theorem State.boundaryEnd_pend (s : State) (b : Boundary) {i : Nat} (hi : (16 : BitVec 5).getLsbD i = false) :
    (s.boundaryEnd b).hrv.pend.getLsbD i = s.hrv.pend.getLsbD i := by
  unfold State.boundaryEnd
  split
  · unfold State.beginSnapshot
    split
    · dsimp only
      rw [getLsbD_clear, hi, Bool.not_false, Bool.and_true]
    · rfl
  · rw [State.closeBoundary_hrv]
    rfl
theorem State.boundaryEnd_hasHold (s : State) (b : Boundary) : (s.boundaryEnd b).hasHold 8 .harvest = s.hasHold 8 .harvest := by
  unfold State.boundaryEnd
  split
  · exact (congrArg (fun z : TimeState => z.reqs.any fun r => r.cause == 8 && r.src == .harvest && r.active z.now)
      (s.beginSnapshot_time b) :)
  · refine Eq.trans (congrArg (fun z : TimeState => z.reqs.any fun r => r.cause == 8 && r.src == .harvest && r.active z.now)
      (State.closeBoundary_time (s.dropHold 9 .snapshot) b) :) ?_
    exact (State.hasHold_dropHold _ _ _ _ _).trans (by simp)

/-! ### The actions -/

/-- Without an open boundary, without HARVEST, or after a fault, nothing happens (R66). -/
theorem State.actionsComplete_idle (h : (∀ b ∈ s.hrv.bounds, b.latched = false) ∨ s.hasHold 8 .harvest = false ∨
    s.job.faultSc.isSome = true) : s.actionsComplete = s := by
  unfold State.actionsComplete
  split
  · rfl
  · next b hb =>
    rw [if_pos]
    rcases h with h | h | h
    · have hl := List.find?_some hb
      rw [h b (List.mem_of_find?_eq_some hb)] at hl
      cases hl
    · simp [h]
    · simp [h]

variable (hb : s.hrv.bounds = [b]) (hl : b.latched = true)
include hb hl

theorem State.openBoundary_one : s.openBoundary = some b := by simp [State.openBoundary, hb, hl]
theorem State.actionsComplete_waits (hj : b.joined.getLsbD 1 = true) (hf : ∃ f ∈ s.disablesAt b.at_, s.idleFunc f = false) :
    s.actionsComplete = s := by
  obtain ⟨f, hf, hi⟩ := hf
  have : ((s.disablesAt b.at_).any fun f => !s.idleFunc f) = true := List.any_eq_true.2 ⟨f, hf, by simp [hi]⟩
  simp only [State.actionsComplete, State.openBoundary_one hb hl, hj, this, Bool.and_true, Bool.or_true, if_true]

variable (hh : s.hasHold 8 .harvest = true) (hn : s.job.faultSc = none)
include hh hn

theorem State.actionsComplete_eq {ds : List Func} (hd : ds = if b.joined.getLsbD 1 then s.disablesAt b.at_ else [])
    (hi : ds = [] ∨ ∃ f, ds = [f] ∧ s.idleFunc f = true) :
    s.actionsComplete = ((s.boundarySteps b).dropHold 8 .harvest).boundaryEnd b := by
  have : (b.joined.getLsbD 1 && (s.disablesAt b.at_).any fun f => !s.idleFunc f) = false := by
    cases hj : b.joined.getLsbD 1 with
    | false => rfl
    | true =>
      rw [hj, if_pos rfl] at hd
      rw [← hd]
      rcases hi with rfl | ⟨f, rfl, hf⟩
      · rfl
      · simp [hf]
  simp only [State.actionsComplete, State.openBoundary_one hb hl, hh, hn, this, Option.isSome_none, Bool.not_true, Bool.or_false,
    Bool.false_eq_true, if_false]
  rfl

end

/-! ### What the actions have done -/

/-- The state after steps 3 and 4. -/
def State.unitsDone (s : State) (b : Boundary) : State := ((s.stepDisables b).stepMapOuts b).stepGroups b
/-- The state after HARVEST_ACTIONS_COMPLETE. -/
def State.actionsDone (s : State) (b : Boundary) : State := ((s.boundarySteps b).dropHold 8 .harvest).boundaryEnd b

section
variable (s : State) (b : Boundary)

theorem State.boundarySteps_unitsDone : s.boundarySteps b = (s.unitsDone b).stepPower b := rfl
theorem State.actionsDone_frame : (s.actionsDone b).besideEnd = ((s.unitsDone b).stepPower b).besideEnd := by
  have hd (x : State) : (x.dropHold 8 .harvest).besideEnd = x.besideEnd := rfl
  rw [State.actionsDone, State.boundaryEnd_frame, hd, State.boundarySteps_unitsDone]
theorem State.actionsDone_pend {i : Nat} (hi : (16 : BitVec 5).getLsbD i = false) :
    (s.actionsDone b).hrv.pend.getLsbD i = ((s.unitsDone b).stepPower b).hrv.pend.getLsbD i := by
  rw [State.actionsDone, State.boundaryEnd_pend _ b hi, State.dropHold_hrv, State.boundarySteps_unitsDone]
theorem State.actionsDone_hasHold : (s.actionsDone b).hasHold 8 .harvest = false := by
  rw [State.actionsDone, State.boundaryEnd_hasHold, State.hasHold_dropHold]
  simp
/-- The power manager is that of steps 5 and 6; the rest is that of steps 3 and 4, but for the latch of step 6. -/
theorem State.actionsDone_pwr : (s.actionsDone b).pwr = ((s.unitsDone b).stepPower b).pwr := by
  have h (x : State) : x.besideEnd.pwr = x.pwr := rfl
  rw [← h, s.actionsDone_frame, h]
theorem State.actionsDone_keeps {β : Type} (π : State → β) (h1 : ∀ s, π (State.besideEnd s) = π s)
    (h2 : ∀ s, π (State.besidePower s) = π s) : π (s.actionsDone b) = π (s.unitsDone b).gleanerReport := by
  rw [← h1, s.actionsDone_frame, h1, ← h2, State.stepPower_frame, h2]
theorem State.actionsDone_bayPwr (k : Nat) : (s.actionsDone b).bayPwr k = ((s.unitsDone b).stepPower b).bayPwr k := by
  rw [State.bayPwr, s.actionsDone_pwr b, State.bayPwr]

/-- A line ends with the counters of its gleaners latched. -/
theorem State.actionsDone_line (l : Nat) : (s.actionsDone b).line l = ((s.unitsDone b).line l).latch true := by
  rw [s.actionsDone_keeps b (State.line · l) (fun _ => rfl) fun _ => rfl, State.line_gleanerReport]
theorem State.actionsDone_byte (a : Nat) : (s.actionsDone b).byte a = (s.unitsDone b).byte a :=
  s.actionsDone_keeps b (State.byte · a) (fun _ => rfl) fun _ => rfl

/-- The disables of a boundary are those of its step 3. -/
theorem State.actionsDone_funcs (f : Func) : (s.actionsDone b).isDisabled f = (s.stepDisables b).isDisabled f ∧
    (s.actionsDone b).disWaits f = (s.stepDisables b).disWaits f ∧
    (s.actionsDone b).rcv.alert = (s.stepDisables b).rcv.alert := by
  have key {β : Type} (π : State → β) (h1 : ∀ s, π (State.besideEnd s) = π s) (h2 : ∀ s, π (State.besidePower s) = π s)
      (h3 : ∀ s, π (State.besideGroups s) = π s) (h4 : ∀ s, π (State.besideMaps s) = π s) (h5 : ∀ s, π (State.gleanerReport s) = π s) :
      π (s.actionsDone b) = π (s.stepDisables b) := by
    calc π (s.actionsDone b) = π (s.unitsDone b) := (s.actionsDone_keeps b π h1 h2).trans (h5 _)
      _ = π ((s.stepDisables b).stepMapOuts b) := by rw [State.unitsDone, ← h3, State.stepGroups_frame, h3]
      _ = π (s.stepDisables b) := by rw [← h4, State.stepMapOuts_frame, h4]
  have hr (s : State) : (State.besideEnd s).isDisabled f = s.isDisabled f ∧ (State.besideEnd s).disWaits f = s.disWaits f := by
    cases f <;> exact ⟨rfl, rfl⟩
  refine ⟨key (State.isDisabled · f) (fun s => (hr s).1) ?_ ?_ ?_ ?_, key (State.disWaits · f) (fun s => (hr s).2) ?_ ?_ ?_ ?_,
    key (·.rcv.alert) ?_ ?_ ?_ ?_ ?_⟩ <;> exact fun _ => rfl

/-- Step 3 leaves the lines and the bytes. -/
theorem State.stepDisables_lines : (s.stepDisables b).lines = s.lines := (congrArg State.lines (s.stepDisables_frame b) :)
theorem State.stepDisables_byte (a : Nat) : (s.stepDisables b).byte a = s.byte a := (congrArg (State.byte · a) (s.stepDisables_frame b) :)
theorem State.stepMapOuts_byte (a : Nat) : (s.stepMapOuts b).byte a = s.byte a := (congrArg (State.byte · a) (s.stepMapOuts_frame b) :)

/-- Steps 3 and 4 leave the power manager. -/
theorem State.unitsDone_pwr : (s.unitsDone b).pwr = s.pwr ∧ (s.unitsDone b).mod.mgmt = s.mod.mgmt := by
  have key {β : Type} (π : State → β) (h1 : ∀ s, π (State.besideDisables s) = π s) (h3 : ∀ s, π (State.besideGroups s) = π s)
      (h4 : ∀ s, π (State.besideMaps s) = π s) : π (s.unitsDone b) = π s := by
    rw [State.unitsDone, ← h3, State.stepGroups_frame, h3, ← h4, State.stepMapOuts_frame, h4, ← h1, State.stepDisables_frame, h1]
  exact ⟨key State.pwr (fun _ => rfl) (fun _ => rfl) fun _ => rfl, key (·.mod.mgmt) (fun _ => rfl) (fun _ => rfl) fun _ => rfl⟩

end

end Sys2Proof.Machine
end

section
/-! SUPPORT. The clauses of a harvest boundary (R63 to R68, Table 2-7), each from the laws of its step. -/

namespace Sys2Proof.Machine

/-! ### A boundary that nothing joined -/

section
variable {s : State} {b : Boundary}

theorem State.unitsDone_of_unjoined (h1 : b.joined.getLsbD 1 = false) (h2 : b.joined.getLsbD 2 = false)
    (h3 : b.joined.getLsbD 3 = false) (s : State) : s.unitsDone b = s := by
  simp only [State.unitsDone, State.stepDisables, State.stepMapOuts, State.stepGroups, h1, h2, h3, Bool.false_eq_true, if_false]
/-- A state that the steps do not read or write beside the power manager is the one of step 6. -/
theorem State.boundarySteps_unjoined (h1 : b.joined.getLsbD 1 = false) (h2 : b.joined.getLsbD 2 = false)
    (h3 : b.joined.getLsbD 3 = false) (s : State) : (s.boundarySteps b).besidePower = s.gleanerReport.besidePower := by
  rw [State.boundarySteps_unitsDone, State.unitsDone_of_unjoined h1 h2 h3, State.stepPower_frame]

theorem State.hp_of_host {s t : State} (h : t.host = s.host) (p : Nat) : t.hp p = s.hp p := by rw [State.hp, h, State.hp]
theorem State.cq_of_host {s t : State} (h : t.host = s.host) (p q : Nat) : t.cq p q = s.cq p q := by
  rw [State.cq, State.hp_of_host h, State.cq]

/-- The end of a boundary whose steps kept the host's side: its list, and its event (R68). -/
theorem State.closeBoundary_spec {t : State} (hb : t.hrv.bounds = [b]) (hh : t.host = s.host) (hc : t.hrv.ctrl = s.hrv.ctrl) :
    (t.closeBoundary b).hrv.bounds = [] ∧ (t.closeBoundary b).hrv.active = false ∧
    (s.hrv.ctrl.getLsbD 0 = false → (t.closeBoundary b).host = s.host) ∧
    ∀ (p : HostId) (q : Nat), s.hrv.ctrl.getLsbD 0 = true → s.host.owner = p.val → (s.hp p).evtCfg.getLsbD 4 = true →
      q = ((s.hp p).evtCfg.extractLsb' 0 4).toNat → (s.cq p q).en = true →
      (none, mkEvent 0xE0 0 0 t.hrv.lastSc t.hrv.seq) ∈ ((t.closeBoundary b).cq p q).wait := by
  refine ⟨?_, ?_, fun h => ?_, fun p q h0 ho he hq hen => ?_⟩
  · rw [State.closeBoundary_hrv]
    simp [hb]
  · rw [State.closeBoundary_hrv]
  · rw [← hc] at h
    rw [State.closeBoundary_silent _ h, hh]
  · rw [← hc] at h0
    rw [← hh] at ho
    rw [← State.hp_of_host hh] at he hq
    rw [← State.cq_of_host hh] at hen
    exact State.closeBoundary_event t h0 ho he hq hen

/-! ### HARVEST_BOUNDARY -/

variable (hl : s.live = true) (hb : s.hrv.bounds = [b]) (h9 : b.h + 9 = s.sc) (hn : b.latched = false)
include hl hb h9 hn

theorem State.dueBoundary_one : s.dueBoundary = some b := by simp [State.dueBoundary, hl, hb, h9, hn]

/-- The counters of a line whose boundary stays open latch but for the gleaners', and all of them when nothing joined (R63, R271). -/
theorem State.harvestBoundary_lines (ho : (b.raised || s.needsHold b) = true ∨ b.joined = 0) (l n : Nat)
    (hr : (s.line l).cnt.rising = true) :
    (s.harvestBoundary.line l).cntL.look n 0 = (if gleanerLine.contains n && (b.raised || s.needsHold b) then (s.line l).cntL.look n 0
      else (s.line l).cnt.look n 0) ∧
    (s.harvestBoundary.line l).cnt.look n 0 =
      (if gleanerLine.contains n && (b.raised || s.needsHold b) then (s.line l).cnt.look n 0 else 0) := by
  have hd := State.dueBoundary_one hl hb h9 hn
  have hk : ((s.line l).cnt.map Prod.fst).Nodup := (Tbl.pairwise_of_rising _ hr).imp Nat.ne_of_lt
  cases hon : b.raised || s.needsHold b with
  | true =>
    have ht : s.harvestBoundary.line l = (s.line l).latch false := by
      rw [State.harvestBoundary_open hd hon]
      exact s.line_latchBoundary b.h l
    rw [ht, LineState.latch_cntL _ _ _ hk, LineState.latch_cnt]
    cases gleanerLine.contains n <;> exact ⟨rfl, rfl⟩
  | false =>
    have hj : b.joined = 0 := by simpa [hon] using ho
    have ht : s.harvestBoundary.line l = ((s.line l).latch false).latch true := by
      have hc (x : State) : x.besideEnd.line l = x.line l := rfl
      have hp (x : State) : x.besidePower.line l = x.line l := rfl
      rw [State.harvestBoundary_over hd hon, ← hc, State.closeBoundary_frame, hc, ← hp,
        State.boundarySteps_unjoined (by simp [hj]) (by simp [hj]) (by simp [hj]), hp, State.line_gleanerReport, State.line_latchBoundary]
    rw [ht, LineState.latch_cntL _ _ _ (LineState.latch_nodup _ _ hk), LineState.latch_cntL _ _ _ hk]
    simp only [LineState.latch_cnt]
    cases gleanerLine.contains n <;> exact ⟨rfl, rfl⟩

/-- A boundary without pending actions is over, with its event (R68). -/
theorem State.harvestBoundary_ends (hon : (b.raised || s.needsHold b) = false) : s.harvestBoundary.hrv.active = false ∧
    s.harvestBoundary.hrv.bounds = [] ∧ (b.joined = 0 → s.harvestBoundary.rcv = s.rcv ∧ s.harvestBoundary.mem = s.mem) ∧
    (s.hrv.ctrl.getLsbD 0 = false → s.harvestBoundary.host = s.host) ∧
    ∀ (p : HostId) (q : Nat), s.hrv.ctrl.getLsbD 0 = true → s.host.owner = p.val → (s.hp p).evtCfg.getLsbD 4 = true →
      q = ((s.hp p).evtCfg.extractLsb' 0 4).toNat → (s.cq p q).en = true →
      (none, mkEvent 0xE0 0 0 (b.h + 8) ((s.hrv.seq + 1) % 2 ^ 32)) ∈ (s.harvestBoundary.cq p q).wait := by
  obtain ⟨-, -, hh, hv⟩ := (s.latchBoundary b.h).boundarySteps_keeps b
  have hs := State.closeBoundary_spec (s := s) (b := b) (t := (s.latchBoundary b.h).boundarySteps b) (by rw [hv]; exact hb) hh
    (by rw [hv]; rfl)
  rw [State.harvestBoundary_over (State.dueBoundary_one hl hb h9 hn) hon]
  obtain ⟨h1, h2, h3, h4⟩ := hs
  refine ⟨h2, h1, fun hj => ?_, h3, fun p q h0 ho he hq hen => ?_⟩
  · have hf := State.boundarySteps_unjoined (b := b) (by simp [hj]) (by simp [hj]) (by simp [hj]) (s.latchBoundary b.h)
    have hr (x : State) : x.besidePower.rcv = x.rcv := rfl
    have hm (x : State) : x.besidePower.mem = x.mem := rfl
    rw [State.closeBoundary_eq]
    dsimp only
    rw [← hr, ← hm, hf]
    exact ⟨rfl, rfl⟩
  · have h := h4 p q h0 ho he hq hen
    rw [hv] at h
    exact h

end

/-! ### HARVEST_ACTIONS_COMPLETE -/

section
variable {s : State} {b : Boundary} {l : Nat} {L : LineState}

/-- Whether or not rows are mapped out, the groups of a module's one line stay. -/
theorem State.stepMapOuts_one (h : s.lines = [(l, L)]) : ∃ M, (s.stepMapOuts b).lines = [(l, M)] ∧ M.ls.pgOn = L.ls.pgOn ∧
    M.ls.pgReq = L.ls.pgReq ∧ M.ls.pgReqValid = L.ls.pgReqValid ∧ M.ls.pgReqSc = L.ls.pgReqSc := by
  unfold State.stepMapOuts
  split
  · obtain ⟨M, hM, -, hu, -⟩ := State.mapOuts_one h b.at_
    refine ⟨M, hM, ?_⟩
    rw [show M.ls = _ from hu]
    exact ⟨rfl, rfl, rfl, rfl⟩
  · exact ⟨L, h, rfl, rfl, rfl, rfl⟩

/-- The row that waits has its spare and its content after the boundary (R273). -/
theorem State.actionsDone_mapOut {st row c k : Nat} (hj : b.joined.getLsbD 2 = true) (h : s.lines = [(l, L)])
    (hq : L.ls.mapQueue = [(st, row, c)]) (hc : c < b.at_) (hk : freeSpare (L.ls.isMap.look st 0) = some k) :
    ((s.actionsDone b).line l).ls.mapQueue = [] ∧ (s.actionsDone b).hrv.pend.getLsbD 2 = false ∧
    ((s.actionsDone b).line l).ls.isMap.look st 0 = L.ls.isMap.look st 0 ||| BitVec.ofNat 64 ((row + 64) * 2 ^ (8 * k)) ∧
    (∀ w ∈ ((s.actionsDone b).line l).isBad, w / 4096 ≠ st ∨ w % 4096 / 64 ≠ row) ∧
    ∀ ws i, s.stepDisables b = s → s.copyRow l st row = some ws → i < 64 →
      ((s.actionsDone b).line l).istore.look (st * 4096 + row * 64 + i) 0 = ws.getD i 0 := by
  have h1 : (s.stepDisables b).lines = [(l, L)] := (s.stepDisables_lines b).trans h
  obtain ⟨h2, hp2⟩ := State.mapOuts_row h1 hq hc hk
  rw [show (s.stepDisables b).mapOuts b.at_ = (s.stepDisables b).stepMapOuts b by rw [State.stepMapOuts, if_pos hj]] at h2 hp2
  obtain ⟨N, hN, he, hp⟩ := State.stepGroups_one h2 b
  have hline : (s.actionsDone b).line l = N.latch true := by
    rw [State.actionsDone_line, State.unitsDone, State.line_of_lines hN]
  rw [hline, s.actionsDone_pend b (by decide), State.stepPower_pend _ _ (by decide), State.unitsDone, hp, hp2, he]
  refine ⟨?_, rfl, ?_, fun w hw => ?_, fun ws i hd hs hi => ?_⟩
  · show L.ls.mapQueue.filter _ = []
    simp [hq, hc]
  · exact Tbl.look_put_self _ _ _ _
  · have hw : w ∈ L.isBad.filter fun w => !(w / 4096 = st && w % 4096 / 64 = row) := hw
    have := (List.mem_filter.1 hw).2
    simpa [or_iff_not_imp_left] using this
  · rw [hd, hs]
    exact look_foldl_zipIdx _ _ ws (by rw [State.copyRow_length hs]; exact hi)

/-- The groups are those requested, and those that changed read zeros (R266). -/
theorem State.actionsDone_groups (hj : b.joined.getLsbD 3 = true) (h : s.lines = [(l, L)]) (hv : L.ls.pgReqValid = true)
    (hs : L.ls.pgReqSc < b.h) :
    ((s.actionsDone b).line l).ls.pgOn = L.ls.pgReq ∧ ((s.actionsDone b).line l).ls.pgReqValid = false ∧
    (s.actionsDone b).hrv.pend.getLsbD 3 = false ∧
    (∀ g a, g < 4 → a < 98304 → L.ls.pgOn.getLsbD g ≠ L.ls.pgReq.getLsbD g → (s.actionsDone b).byte (lsPhys l (g * 98304 + a)) = 0) ∧
    ∀ a, a < lsPhys l 0 ∨ lsPhys l 0x60000 ≤ a → (s.actionsDone b).byte a = s.byte a := by
  obtain ⟨M, hM, ho, hr, hva, hsa⟩ := State.stepMapOuts_one (b := b) ((s.stepDisables_lines b).trans h)
  obtain ⟨hN, hp, hy⟩ := State.stepGroups_due hM hj (hva.trans hv) (by rw [hsa]; exact hs)
  have hline : (s.actionsDone b).line l = M.takeGroups.latch true := by
    rw [State.actionsDone_line, State.unitsDone, State.line_of_lines hN]
  refine ⟨by rw [hline]; exact hr, by rw [hline]; rfl, ?_, fun g a hg ha hne => ?_, fun a ha => ?_⟩
  · rw [s.actionsDone_pend b (by decide), State.stepPower_pend _ _ (by decide), State.unitsDone, hp]
  · rw [State.actionsDone_byte, State.unitsDone, hy, if_pos]
    exact ⟨g, List.mem_range.2 hg, by rw [ho, hr]; exact hne, by unfold lsPhys; omega, by unfold lsPhys; omega⟩
  · rw [State.actionsDone_byte, State.unitsDone, hy, if_neg, State.stepMapOuts_byte, State.stepDisables_byte]
    rintro ⟨g, hg, -, h1, h2⟩
    have hg := List.mem_range.1 hg
    unfold lsPhys at h1 h2 ha
    omega

/-- A bay's code and share after the boundary (R416 to R418). -/
theorem State.actionsDone_power {k : Nat} (hk : k < 8) {p : BayPower} (hp : p = s.bayPwr k) :
    ((s.actionsDone b).bayPwr k).code = (if b.joined.getLsbD 0 ∧ p.pend = true ∧ p.since < b.at_ then p.next else p.code) ∧
    ((s.actionsDone b).bayPwr k).next = s.chosenCode p ∧
    (((s.actionsDone b).bayPwr k).pend = true ↔ ((s.actionsDone b).bayPwr k).next ≠ ((s.actionsDone b).bayPwr k).code) ∧
    (((s.actionsDone b).bayPwr k).pend = true → (s.actionsDone b).hrv.pend.getLsbD 0 = true) ∧
    ((s.actionsDone b).bayPwr k).peak = 0 ∧
    (p.seen = true → p.margin < 20 → p.code = 72 → (s.actionsDone b).pwr.alert.getLsbD 5 = true) ∧
    ∀ total vcore, total = ((List.range 8).map fun i => (s.bayPwr i).peak).sum →
      vcore = ((List.range 8).map fun i => 5000 + 25 * ((s.actionsDone b).bayPwr i).code).sum / 8 →
      ((s.actionsDone b).bayPwr k).share = if total = 0 ∨ s.mod.mgmt = false then p.share
        else min 3200 ((classLimit s.pwr.cls * 100000 - s.pwr.pncPeak) / vcore * p.peak / total) := by
  obtain ⟨hw, hm⟩ := s.unitsDone_pwr b
  have hb (i : Nat) : (s.unitsDone b).bayPwr i = s.bayPwr i := by rw [State.bayPwr, hw, State.bayPwr]
  have hc : (s.unitsDone b).chosenCode p = s.chosenCode p := by rw [State.chosenCode, hw, State.chosenCode]
  have hp' : p = (s.unitsDone b).bayPwr k := hp.trans (hb k).symm
  obtain ⟨h1, h2, h3, h4, h5, h6⟩ := State.stepPower_code (s.unitsDone b) b hk hp'
  simp only [State.actionsDone_bayPwr, State.actionsDone_pwr, s.actionsDone_pend b (i := 0) (by decide)]
  refine ⟨h1, h2.trans hc, h3, h4, h5, h6, fun total vcore ht hv => ?_⟩
  have h := State.stepPower_share (s.unitsDone b) b hk hp' (total := total) (vcore := vcore) (by simpa only [hb] using ht) hv
  rw [hm, hw] at h
  exact h

/-- Without a snapshot the boundary is over. -/
theorem State.actionsDone_ends (hb : s.hrv.bounds = [b]) (hj : b.joined.getLsbD 4 = false) :
    (s.actionsDone b).hrv.bounds = [] ∧ (s.actionsDone b).hrv.active = false ∧
    ∀ (p : HostId) (q : Nat), s.hrv.ctrl.getLsbD 0 = true → s.host.owner = p.val → (s.hp p).evtCfg.getLsbD 4 = true →
      q = ((s.hp p).evtCfg.extractLsb' 0 4).toNat → (s.cq p q).en = true →
      (none, mkEvent 0xE0 0 0 s.hrv.lastSc s.hrv.seq) ∈ ((s.actionsDone b).cq p q).wait := by
  obtain ⟨-, -, hh, hv⟩ := s.boundarySteps_keeps b
  have he : s.actionsDone b = (((s.boundarySteps b).dropHold 8 .harvest).dropHold 9 .snapshot).closeBoundary b := by
    rw [State.actionsDone, State.boundaryEnd, if_neg (by simp [hj, -BitVec.getLsbD_eq_getElem])]
  have hs := State.closeBoundary_spec (s := s) (b := b) (t := ((s.boundarySteps b).dropHold 8 .harvest).dropHold 9 .snapshot)
    (by rw [State.dropHold_hrv, State.dropHold_hrv, hv]; exact hb) (by rw [State.dropHold_host, State.dropHold_host, hh]) (by rw [State.dropHold_hrv, State.dropHold_hrv, hv])
  rw [he]
  obtain ⟨h1, h2, -, h4⟩ := hs
  refine ⟨h1, h2, fun p q h0 ho he hq hen => ?_⟩
  have h := h4 p q h0 ho he hq hen
  rw [State.dropHold_hrv, State.dropHold_hrv, hv] at h
  exact h

/-- A boundary that nothing joined latches the gleaners' counters and ends. -/
theorem State.actionsDone_unjoined (hj : b.joined = 0) : (s.actionsDone b).lines = s.lines.map (fun e => (e.1, e.2.latch true)) ∧
    (s.actionsDone b).mem = s.mem ∧ (s.actionsDone b).rcv = s.rcv := by
  have hu := State.unitsDone_of_unjoined (b := b) (by simp [hj]) (by simp [hj]) (by simp [hj]) s
  have hf := State.boundarySteps_unjoined (b := b) (by simp [hj]) (by simp [hj]) (by simp [hj]) s
  have hr (x : State) : x.besidePower.rcv = x.rcv := rfl
  refine ⟨?_, ?_, ?_⟩
  · rw [s.actionsDone_keeps b State.lines (fun _ => rfl) fun _ => rfl, hu]
    rfl
  · rw [s.actionsDone_keeps b State.mem (fun _ => rfl) fun _ => rfl, hu]
    rfl
  · rw [State.actionsDone, State.boundaryEnd, if_neg (by simp [hj]), State.closeBoundary_eq]
    dsimp only
    rw [State.dropHold_rcv, State.dropHold_rcv, ← hr, hf]
    rfl

/-- The snapshot that begins. -/
theorem State.beginSnapshot_snap {j : SnapJob} (h : s.rcv.snap = some j) : (s.beginSnapshot b).rcv.snap = some { j with
    phase := 1, sc := b.h + 8
    wslot := if j.slot = 1 then 0 else if j.slot = 2 then 1 else if s.rcv.scan.latest = 1 then 1 else 0 } := by
  simp only [State.beginSnapshot, h]
theorem State.beginSnapshot_bounds (s : State) (b : Boundary) : (s.beginSnapshot b).hrv.bounds = s.hrv.bounds := by
  unfold State.beginSnapshot
  split <;> rfl

/-- A boundary that a snapshot alone joined begins its capture, and stays open (R444). -/
theorem State.actionsDone_snapshot (hj : b.joined = 16) {j : SnapJob} (hs : s.rcv.snap = some j) :
    (s.actionsDone b).hrv.bounds = s.hrv.bounds ∧ (s.actionsDone b).hasHold 9 .snapshot = s.hasHold 9 .snapshot ∧
    (s.actionsDone b).mem = s.mem ∧ (s.actionsDone b).rcv.snap = some { j with
      phase := 1, sc := b.h + 8
      wslot := if j.slot = 1 then 0 else if j.slot = 2 then 1 else if s.rcv.scan.latest = 1 then 1 else 0 } := by
  have hu := State.unitsDone_of_unjoined (b := b) (by simp [hj]) (by simp [hj]) (by simp [hj]) s
  have hf := State.boundarySteps_unjoined (b := b) (by simp [hj]) (by simp [hj]) (by simp [hj]) s
  obtain ⟨ht, -, -, hv⟩ := s.boundarySteps_keeps b
  have hr : ((s.boundarySteps b).dropHold 8 .harvest).rcv = s.rcv := by
    have hr (x : State) : x.besidePower.rcv = x.rcv := rfl
    rw [State.dropHold_rcv, ← hr, hf]
    rfl
  have he : s.actionsDone b = ((s.boundarySteps b).dropHold 8 .harvest).beginSnapshot b := by
    rw [State.actionsDone, State.boundaryEnd, if_pos (by rw [hr, hs]; simp [hj])]
  have hb := State.beginSnapshot_snap (b := b) ((congrArg RecoverState.snap hr).trans hs)
  rw [hr] at hb
  refine ⟨?_, ?_, ?_, ?_⟩
  · rw [he, State.beginSnapshot_bounds, State.dropHold_hrv, hv]
  · rw [he, State.hasHold, State.beginSnapshot_time, ← State.hasHold, State.hasHold_dropHold, State.hasHold, ht]
    simp [State.hasHold]
  · rw [s.actionsDone_keeps b State.mem (fun _ => rfl) fun _ => rfl, hu]
    rfl
  · rw [he, hb]

end

/-- Settles O37: the latch, the requests raised before it, and the steps of its actions, clause by clause. -/
theorem harvestBoundaryAndItsActions : Obligations.HarvestBoundaryAndItsActions := by
  refine ⟨⟨fun s h => ?_, fun s b hl hb h9 hn => ?_, fun s b hb hr => ⟨State.raiseBoundaries_idle hb,
      fun hc hl h8 h => State.raiseBoundaries_spec hb hr hc hl h8 h⟩⟩,
    fun s h => ?_, fun s b hb hl hh hn hj hf => ?_, fun s b ds hb hl hh hn hm hd hi => ?_, fun s b hb hl hh hn hj => ?_,
    fun s b j hb hl hh hn hj hs => ?_⟩
  · exact congrArg Host.Outcome.next (State.harvestBoundary_none h)
  · have hd := State.dueBoundary_one hl hb h9 hn
    obtain ⟨ht, hv⟩ := State.harvestBoundary_latched hd
    refine ⟨s.harvestBoundary, rfl, ?_, ?_, ?_, ?_, ?_, ?_, ?_, ?_, ?_, ?_, ?_, fun on hon => ?_⟩
    iterate 7 (rw [hv]; rfl)
    iterate 3 (rw [ht]; rfl)
    · rw [State.sc, ht]
      rfl
    · subst hon
      refine ⟨fun ho l n => State.harvestBoundary_lines hl hb h9 hn ho l n, fun hon => ?_, State.harvestBoundary_ends hl hb h9 hn⟩
      rw [State.harvestBoundary_open hd hon]
      exact ⟨rfl, by simp [hb], rfl⟩
  · exact congrArg Host.Outcome.next (State.actionsComplete_idle h)
  · exact congrArg Host.Outcome.next (State.actionsComplete_waits hb hl hj hf)
  · refine ⟨s.actionsDone b, congrArg Host.Outcome.next (State.actionsComplete_eq hb hl hh hn hd hi), s.actionsDone_hasHold b,
      fun f hf => ?_, fun h0 f => ?_, fun l L st row c k h2 h hq hc hk => ?_, fun l L h3 h hv hs => State.actionsDone_groups h3 h hv hs,
      fun k hk p hp => State.actionsDone_power hk hp, State.actionsDone_ends hb⟩
    · obtain rfl | ⟨f', rfl, hi⟩ := hi
      · cases hf
      · obtain rfl : f' = f := by simpa using hf
        obtain ⟨h1, h2, h3⟩ := s.actionsDone_funcs b f'
        rw [h1, h2, h3, s.stepDisables_of_one b hd.symm hi]
        exact s.disable_spec f'
    · rw [(s.actionsDone_funcs b f).1, s.stepDisables_of_nil b (hd.symm.trans h0)]
    · obtain ⟨h1, h3, h4, h5, h6⟩ := State.actionsDone_mapOut h2 h hq hc hk
      exact ⟨h1, h3, h4, h5, fun ws i h0 hs hi => h6 ws i (s.stepDisables_of_nil b (hd.symm.trans h0)) hs hi⟩
  · obtain ⟨h1, h2, -⟩ := State.actionsDone_ends hb (by simp [hj])
    exact ⟨s.actionsDone b, congrArg Host.Outcome.next (State.actionsComplete_eq hb hl hh hn (ds := []) (by simp [hj]) (.inl rfl)),
      h1, h2, s.actionsDone_hasHold b, State.actionsDone_unjoined hj⟩
  · obtain ⟨h1, h2, h3, h4⟩ := State.actionsDone_snapshot hj hs
    refine ⟨s.actionsDone b, congrArg Host.Outcome.next (State.actionsComplete_eq hb hl hh hn (ds := []) (by simp [hj]) (.inl rfl)),
      h1.trans hb, s.actionsDone_hasHold b, h2, h3, _, h4, rfl, rfl, rfl, fun h => ?_, fun h => ?_, fun h => ?_⟩ <;> simp [h]

end Sys2Proof.Machine
end

section
/-! SUPPORT. Ports and circuits of the fabric: what an update of one leaves, and each step of a scheduled packet (R326 to R330). -/

namespace Sys2Proof

theorem Tbl.find_put_self {α : Type} (t : Tbl α) (k : Nat) (v : α) : (t.put k v).find k = some v := by
  induction t with
  | nil => simp [Tbl.put, Tbl.find]
  | cons e t ih =>
    obtain ⟨j, w⟩ := e
    simp only [Tbl.put]
    split
    · simp [Tbl.find]
    · split
      · simp [Tbl.find]
      · next h => simp [Tbl.find, Ne.symm h, ih]

namespace Machine

/-! ### Ports and circuits -/

section
variable (s : State)

theorem State.port_updPort (p k : Nat) (f : FabPort → FabPort) : (s.updPort p f).port k = if p = k then f (s.port k) else s.port k := by
  simp only [State.updPort, State.port, Tbl.look_upd]
  split
  · next h => rw [h]
  · rfl
@[simp] theorem State.port_updPort_self (p : Nat) (f : FabPort → FabPort) : (s.updPort p f).port p = f (s.port p) := by
  rw [State.port_updPort, if_pos rfl]
@[simp] theorem State.port_updCs (c k : Nat) (f : CircState → CircState) : (s.updCs c f).port k = s.port k := rfl
@[simp] theorem State.cs_updCs_self (c : Nat) (f : CircState → CircState) : (s.updCs c f).cs c = f (s.cs c) := by
  simp [State.updCs, State.cs]
/-- The state beside the fabric's. -/
def State.besideFab (s : State) : State := { s with fab := State.reset.fab }
theorem State.eq_of_besideFab {s t : State} (h : t.besideFab = s.besideFab) : t = { s with fab := t.fab } :=
  (congrArg (fun x : State => { x with fab := t.fab }) h :)
@[simp] theorem State.besideFab_updPort (p : Nat) (f : FabPort → FabPort) : (s.updPort p f).besideFab = s.besideFab := rfl
@[simp] theorem State.circuit_updPort (p c : Nat) (f : FabPort → FabPort) : (s.updPort p f).circuit c = s.circuit c := rfl
@[simp] theorem State.splitS_updPort (p : Nat) (f : FabPort → FabPort) : (s.updPort p f).splitS = s.splitS := rfl
@[simp] theorem State.fullSc_updPort (p : Nat) (f : FabPort → FabPort) (v : Nat) : (s.updPort p f).fullSc v = s.fullSc v := rfl
@[simp] theorem State.time_updPort (p : Nat) (f : FabPort → FabPort) : (s.updPort p f).time = s.time := rfl
@[simp] theorem State.job_updPort (p : Nat) (f : FabPort → FabPort) : (s.updPort p f).job = s.job := rfl
@[simp] theorem State.cs_updPort (p c : Nat) (f : FabPort → FabPort) : (s.updPort p f).cs c = s.cs c := rfl

end

/-! ### Ready packets (R326) -/

section
variable {s : State} {c : Nat} {r : ReadyPkt}

/-- The only packet handed over is ready. -/
theorem State.packetsReady_one (hr : s.fab.ready = [r]) (hc : r.circ = c) (hd : r.due ≤ s.sc) :
    s.packetsReady c = State.makeReady { s with fab.ready := [] } r := by
  simp [State.packetsReady, hr, hc, hd]

/-- A packet of a circuit claims slot index `n` of port `p`, and waits there. -/
def State.claimed (s : State) (r : ReadyPkt) (p n : Nat) : State :=
  ({ ((s.updCs r.circ fun k => { k with made := k.made + 1 }).updCs r.circ fun k => { k with nextIx := n + 1 }) with
      fab.claims := [(p, n)] } : State).updPort p fun P =>
    { P with tx := P.tx ++ [⟨r.circ, (s.cs r.circ).made, false, nominal s.splitS n, s.originPacket r (s.cs r.circ).made n⟩] }
theorem State.claimed_spec (s : State) (r : ReadyPkt) (p n : Nat) : (s.claimed r p n).besideFab = s.besideFab ∧
    (s.claimed r p n).fab.ready = s.fab.ready ∧ (s.claimed r p n).fab.claims = [(p, n)] ∧
    (s.claimed r p n).cs r.circ = { s.cs r.circ with made := (s.cs r.circ).made + 1, nextIx := n + 1 } ∧
    ((s.claimed r p n).port p).tx = (s.port p).tx ++
      [⟨r.circ, (s.cs r.circ).made, false, nominal s.splitS n, s.originPacket r (s.cs r.circ).made n⟩] := by
  refine ⟨?_, ?_, ?_, ?_, ?_⟩
  · rw [State.claimed, State.besideFab_updPort]
    rfl
  · rfl
  · rfl
  · rw [State.claimed, State.cs_updPort]
    exact (State.cs_updCs_self (s.updCs r.circ fun k => { k with made := k.made + 1 }) r.circ fun k =>
      { k with nextIx := n + 1 }).trans (congrArg (fun k : CircState => { k with nextIx := n + 1 })
        (State.cs_updCs_self s r.circ fun k => { k with made := k.made + 1 }))
  · rw [State.claimed, State.port_updPort_self]
    rfl

/-- A packet of a circuit with one sending port claims its slot there. -/
theorem State.makeReady_sent {p : Nat} (hp : cOuts (s.circuit r.circ) = [p]) (hcl : s.fab.claims = []) {n : Nat}
    (hn : n = ownedFrom (s.circuit r.circ) (max (s.cs r.circ).nextIx (indexFrom s.splitS r.due))) :
    s.makeReady r = s.claimed r p n := by
  have hc (x : State) (m : Nat) (hp : cOuts (x.circuit r.circ) = [p]) (hcl : x.fab.claims = []) (pkt : Packet) :
      x.claim r.circ m n pkt = ({ x with fab.claims := [(p, n)] } : State).updPort p fun P =>
        { P with tx := P.tx ++ [⟨r.circ, m, false, nominal x.splitS n, pkt⟩] } := by
    simp [State.claim, hp, hcl, State.splitS]
  unfold State.makeReady
  dsimp only
  rw [if_neg (by rw [hp]; exact List.cons_ne_nil _ _)]
  subst hn
  exact hc ((s.updCs r.circ fun k => { k with made := k.made + 1 }).updCs r.circ fun k => { k with nextIx := _ + 1 }) _ hp hcl _
/-- A local operand's packet waits for its partner. -/
theorem State.makeReady_local (hp : cOuts (s.circuit r.circ) = []) : s.makeReady r =
    { s.updCs r.circ fun k => { k with made := k.made + 1 } with fab.locals := s.fab.locals.upd r.circ [] (· ++ [r]) } := by
  unfold State.makeReady
  dsimp only
  rw [if_pos hp]
  rfl

end

/-! ### Departure (R327, R329) -/

section
variable {s : State} {p : Nat}

theorem State.departure_idle (h : s.portUp p = false ∨ s.positionFree p = false ∨ s.position = none ∨
    ∃ i, s.position = some i ∧ s.splitS ≤ i) : s.departure p = s := by
  unfold State.departure
  split
  · rfl
  · next i hi =>
    rw [if_pos]
    rcases h with h | h | h | ⟨j, hj, h⟩
    · simp [h]
    · simp [h]
    · rw [h] at hi; cases hi
    · rw [hj] at hi
      cases hi
      simp [h]

/-- A packet as it leaves its port: counted as forwarded, or as the module's own. -/
def State.sent (s : State) (p : Nat) (x : TxCell) : State :=
  let t := s.updPort p fun P => { P with tx := P.tx.erase x }
  State.launch (if x.through then { t with fab.cnt.fwd := wrap64 (t.fab.cnt.fwd + 1) } else { t with fab.cnt.sch := wrap64 (t.fab.cnt.sch + 1) })
    p (.cell x.pkt)

theorem State.departure_one {x : TxCell} {i : Nat} (hst : (s.port p).st = 5) (hi : s.position = some i) (hs : i < s.splitS)
    (hf : s.positionFree p = true) (hr : (s.port p).resend = []) (ht : (s.port p).tx = [x]) (h1 : s.txReady x = true)
    (h2 : s.hasCredit x = true) (h3 : cOwns (s.circuit x.circ) i = true) : s.departure p = s.sent p x := by
  have hu : s.portUp p = true := by simp [State.portUp, hst]
  have hd : s.departing p i = some x := by simp [State.departing, ht, h1, h2, h3, firstOfCircuit]
  unfold State.departure
  simp only [hi, hu, hf, hr, hd, Bool.not_true, Bool.false_or, Bool.or_false, decide_eq_true_eq, Nat.not_le.2 hs, if_false, ne_eq,
    not_true_eq_false]
  rfl

theorem State.launch_eq (s : State) (p : Nat) (x : Packet) : s.launch p (.cell x) =
    (s.updPort p fun P => { P with
      posAt := s.fab.htc + 1, seq := (P.seq + 1) % 2 ^ 31, sent := Launched.mk P.seq (.cell x) :: P.sent.take 255
      cnt := { P.cnt with tx := wrap64 (P.cnt.tx + 1) } }).send
        (.cell p (s.port p).seq (.cell x) x (x.trailer (s.port p).seq)) := rfl
theorem State.sent_through {x : TxCell} (h : x.through = true) : s.sent p x =
    State.launch { s.updPort p fun P => { P with tx := P.tx.erase x } with fab.cnt.fwd := wrap64 (s.fab.cnt.fwd + 1) } p
      (.cell x.pkt) := by
  unfold State.sent
  rw [h]
  rfl
theorem State.sent_own {x : TxCell} (h : x.through = false) : s.sent p x =
    State.launch { s.updPort p fun P => { P with tx := P.tx.erase x } with fab.cnt.sch := wrap64 (s.fab.cnt.sch + 1) } p
      (.cell x.pkt) := by
  unfold State.sent
  rw [h]
  rfl

/-- What a launch shows of the port, the fabric and the outbox. -/
theorem State.launch_spec (t : State) (p : PortId) (x : Packet) :
    t.launch p (.cell x) = { t with fab := (t.launch p (.cell x)).fab, outbox := (t.launch p (.cell x)).outbox } ∧
    (t.launch p (.cell x)).outbox = .cell p (t.port p).seq (.cell x) x (x.trailer (t.port p).seq) :: t.outbox ∧
    ((t.launch p (.cell x)).port p).tx = (t.port p).tx ∧ (t.launch p (.cell x)).positionFree p = false ∧
    ((t.launch p (.cell x)).port p).seq = ((t.port p).seq + 1) % 2 ^ 31 ∧
    ((t.launch p (.cell x)).port p).cnt.tx = wrap64 ((t.port p).cnt.tx + 1) ∧ (t.launch p (.cell x)).fab.cnt = t.fab.cnt := by
  have hp (f : FabPort → FabPort) (m : Sent) : ((t.updPort p f).send m).port p = f (t.port p) := t.port_updPort_self p f
  rw [State.launch_eq]
  refine ⟨rfl, rfl, ?_, ?_, ?_, ?_, rfl⟩
  · rw [hp]
  · rw [State.positionFree, hp]
    simp only [ne_eq, decide_eq_false_iff_not, not_not]
    rfl
  · rw [hp]
  · rw [hp]

/-- A departure: the packet's cell, the port's count, and the count of what departs. -/
theorem State.sent_spec (s : State) (p : PortId) (x : TxCell) (ht : (s.port p).tx = [x]) :
    s.sent p x = { s with fab := (s.sent p x).fab, outbox := (s.sent p x).outbox } ∧
    (s.sent p x).outbox = .cell p (s.port p).seq (.cell x.pkt) x.pkt (x.pkt.trailer (s.port p).seq) :: s.outbox ∧
    ((s.sent p x).port p).tx = [] ∧ (s.sent p x).positionFree p = false ∧
    ((s.sent p x).port p).seq = ((s.port p).seq + 1) % 2 ^ 31 ∧ ((s.sent p x).port p).cnt.tx = wrap64 ((s.port p).cnt.tx + 1) ∧
    (x.through = true → (s.sent p x).fab.cnt.fwd = wrap64 (s.fab.cnt.fwd + 1)) ∧
    (x.through = false → (s.sent p x).fab.cnt.sch = wrap64 (s.fab.cnt.sch + 1)) := by
  have key (t : State) (hp : t.port p = (s.updPort p fun P => { P with tx := P.tx.erase x }).port p)
      (hf : t = { s with fab := t.fab }) : t.launch p (.cell x.pkt) =
        { s with fab := (t.launch p (.cell x.pkt)).fab, outbox := (t.launch p (.cell x.pkt)).outbox } ∧
      (t.launch p (.cell x.pkt)).outbox = .cell p (s.port p).seq (.cell x.pkt) x.pkt (x.pkt.trailer (s.port p).seq) :: s.outbox ∧
      ((t.launch p (.cell x.pkt)).port p).tx = [] ∧ (t.launch p (.cell x.pkt)).positionFree p = false ∧
      ((t.launch p (.cell x.pkt)).port p).seq = ((s.port p).seq + 1) % 2 ^ 31 ∧
      ((t.launch p (.cell x.pkt)).port p).cnt.tx = wrap64 ((s.port p).cnt.tx + 1) ∧
      (t.launch p (.cell x.pkt)).fab.cnt = t.fab.cnt := by
    obtain ⟨h1, h2, h3, h4, h5, h6, h7⟩ := t.launch_spec p x.pkt
    rw [State.port_updPort_self] at hp
    refine ⟨?_, ?_, ?_, h4, ?_, ?_, h7⟩
    · refine h1.trans ?_
      rw [hf]
    · rw [h2, hp, hf]
    · rw [h3, hp]
      simp [ht]
    · rw [h5, hp]
    · rw [h6, hp]
  cases h : x.through with
  | true =>
    rw [State.sent_through h]
    obtain ⟨h1, h2, h3, h4, h5, h6, h7⟩ := key
      { s.updPort p fun P => { P with tx := P.tx.erase x } with fab.cnt.fwd := wrap64 (s.fab.cnt.fwd + 1) } rfl rfl
    exact ⟨h1, h2, h3, h4, h5, h6, fun _ => by rw [h7], fun h => nomatch h⟩
  | false =>
    rw [State.sent_own h]
    obtain ⟨h1, h2, h3, h4, h5, h6, h7⟩ := key
      { s.updPort p fun P => { P with tx := P.tx.erase x } with fab.cnt.sch := wrap64 (s.fab.cnt.sch + 1) } rfl rfl
    exact ⟨h1, h2, h3, h4, h5, h6, (fun h => nomatch h), fun _ => by rw [h7]⟩

end

/-! ### Arrival (R321, R323, R328, R345) -/

/-- The two words of a trailer. -/
theorem Packet.trailer_words (k : Packet) {n : Nat} (hn : n < 2 ^ 31) : ((k.trailer n).extractLsb' 0 32).toNat = n ∧
    (k.trailer n).extractLsb' 32 32 = k.crc n := by
  have hc := (k.crc n).isLt
  constructor
  · rw [BitVec.extractLsb'_toNat, Packet.trailer, BitVec.toNat_ofNat, Nat.shiftRight_eq_div_pow]
    omega
  · apply BitVec.eq_of_toNat_eq
    rw [BitVec.extractLsb'_toNat, Packet.trailer, BitVec.toNat_ofNat, Nat.shiftRight_eq_div_pow]
    omega

/-- A received cell counts at its port. -/
def FabPort.counted (P : FabPort) (a : LinkCell) : FabPort :=
  { P with cnt := { P.cnt with rx := wrap64 (P.cnt.rx + 1) }, fecCe := sat32 (P.fecCe + a.fecCe), fecUe := sat32 (P.fecUe + a.fecUe) }

section
variable {s : State} {p : PortId} {a : LinkCell} {k : Packet}

/-- A cell that fails its CRC is asked for again. -/
theorem exec_arrival_badCrc (hs : (s.port p).st = 5) (hk : k = ⟨a.header, a.payload⟩)
    (hc : a.trailer.extractLsb' 32 32 ≠ k.crc (a.trailer.extractLsb' 0 32).toNat) : exec (.scheduledPacketArrival p a) s =
      .next ((s.updPort p (FabPort.counted · a)).updPort p fun P => P.inReplay P.expect true) := by
  subst hk
  have : s.receive p a = ((s.updPort p (FabPort.counted · a)).updPort p fun P => P.inReplay P.expect true, none) := by
    simp only [State.receive, hs, ne_eq, not_true_eq_false, if_false, hc, not_false_eq_true, if_true]
    rfl
  show execScheduledPacketArrival p a s = _
  rw [execScheduledPacketArrival, this]

/-- A clean scheduled packet in order reaches the port's delay (R317). -/
theorem exec_arrival_inOrder (hs : (s.port p).st = 5) (hk : k = ⟨a.header, a.payload⟩) (he : (s.port p).expect < 2 ^ 31)
    (hc : a.trailer = k.trailer (s.port p).expect) (hn : k.clean = true) (ht : k.typ = 1) : exec (.scheduledPacketArrival p a) s =
      .next (((s.updPort p (FabPort.counted · a)).updPort p FabPort.inOrder).hold p k) := by
  subst hk
  obtain ⟨h1, h2⟩ := Packet.trailer_words ⟨a.header, a.payload⟩ he
  rw [← hc] at h1 h2
  have hd : (s.port p).ahead (s.port p).expect = 0 := by
    unfold FabPort.ahead
    omega
  have : s.receive p a = ((s.updPort p (FabPort.counted · a)).updPort p FabPort.inOrder, some ⟨a.header, a.payload⟩) := by
    simp only [State.receive, hs, h1, h2, hd, hn, ht, ne_eq, not_true_eq_false, if_false, if_true, one_ne_zero]
    rfl
  show execScheduledPacketArrival p a s = _
  rw [execScheduledPacketArrival, this]
  simp [ht]

/-- An early packet is held for what the link's latency lacks. -/
theorem State.hold_early (h : (s.port p).lat < (s.port p).decl) : s.hold p k =
    s.updPort p fun P => { P with delay := P.delay ++ [(s.time.now + ((s.port p).decl - (s.port p).lat), k)] } := by
  simp only [State.hold, show (s.port p).decl - (s.port p).lat ≠ 0 by omega, decide_false, Bool.false_and, Bool.false_eq_true, if_false]
theorem State.hold_onTime (h : (s.port p).decl ≤ (s.port p).lat) (ht : k.typ = 1) : s.hold p k = s.scheduledArrival p k := by
  simp [State.hold, State.accept, Nat.sub_eq_zero_of_le h, ht]

/-- Packet `z.expSeq` of a circuit, of slot index `n`, is in the lead buffer of port `p`, and the requests for it have ended. -/
def State.atLead (s : State) (p : Nat) (k : Packet) (z : CircState) (n : Nat) : State :=
  (((s.updCs k.circ fun z => { z with afterIx := n + 1, expSeq := z.expSeq + 1 }).updPort p fun P => { P with
    lead := P.lead ++ [⟨k.circ, z.expSeq, n, k, cBase (s.circuit k.circ) + z.expSeq % max 1 (cAllow (s.circuit k.circ))⟩] }).dropHold 2
      (.packet k.circ z.expSeq)).dropHold 4 (.packet k.circ z.expSeq)
theorem State.atLead_spec (s : State) (p : Nat) (k : Packet) (z : CircState) (n : Nat) :
    ((s.atLead p k z n).port p).lead = (s.port p).lead ++
      [⟨k.circ, z.expSeq, n, k, cBase (s.circuit k.circ) + z.expSeq % max 1 (cAllow (s.circuit k.circ))⟩] ∧
    ((s.atLead p k z n).port p).expect = (s.port p).expect ∧
    (s.atLead p k z n).cs k.circ = { s.cs k.circ with afterIx := n + 1, expSeq := (s.cs k.circ).expSeq + 1 } ∧
    (s.atLead p k z n).hasHold 2 (.packet k.circ z.expSeq) = false ∧ (s.atLead p k z n).hasHold 4 (.packet k.circ z.expSeq) = false ∧
    (s.atLead p k z n).job = s.job := by
  have hp (t : State) (f : FabPort → FabPort) (c d : Nat) (x y : HoldSrc) : (((t.updPort p f).dropHold c x).dropHold d y).port p = f (t.port p) :=
    t.port_updPort_self p f
  have hc (t : State) (f : CircState → CircState) (g : FabPort → FabPort) (c d : Nat) (x y : HoldSrc) :
      ((((t.updCs k.circ f).updPort p g).dropHold c x).dropHold d y).cs k.circ = f (t.cs k.circ) := t.cs_updCs_self k.circ f
  refine ⟨?_, ?_, ?_, ?_, ?_, rfl⟩
  · rw [State.atLead, hp]
    rfl
  · rw [State.atLead, hp]
    rfl
  · rw [State.atLead, hc]
  · simp [State.atLead, State.hasHold_dropHold]
  · simp [State.atLead, State.hasHold_dropHold]

/-- A packet in its order at the end of its circuit enters the lead buffer, and the requests for it end (R51, R328). -/
theorem State.scheduledArrival_end (hr : s.time.running = true) {z : CircState} (hz : z = s.cs k.circ) {n : Nat}
    (hn : n = indexFrom s.splitS (s.fullSc k.sendSc))
    (hp : ∀ c x, (s.port p).peer = some (c, x) → c = k.src →
      nominal s.splitS n = s.fullSc k.sendSc ∧ cOwns (s.circuit k.circ) n = true ∧ z.afterIx ≤ n)
    (hv : cValid (s.circuit k.circ) = true) (hi : cIn (s.circuit k.circ) = p.val) (he : cEnd (s.circuit k.circ) = true)
    (hq : k.seq = z.expSeq % 2 ^ 32) : s.scheduledArrival p k = s.atLead p k z n := by
  subst hz hn
  have hpe : s.partEnded = false := by simp [State.partEnded, hr]
  have hsl : ((s.port p).peer.any (fun d => d.1 == k.src) &&
      !(nominal s.splitS (indexFrom s.splitS (s.fullSc k.sendSc)) == s.fullSc k.sendSc &&
        cOwns (s.circuit k.circ) (indexFrom s.splitS (s.fullSc k.sendSc)) &&
        decide ((s.cs k.circ).afterIx ≤ indexFrom s.splitS (s.fullSc k.sendSc)))) = false := by
    cases hpeer : (s.port p).peer with
    | none => rfl
    | some d =>
      by_cases hd : d.1 = k.src
      · obtain ⟨h1, h2, h3⟩ := hp d.1 d.2 hpeer hd
        simp [h1, h2, h3]
      · simp [hd]
  unfold State.scheduledArrival
  dsimp only
  rw [if_neg (by simp [hpe]), if_neg (by rw [hsl]; simp [hv, hi, hq]), if_pos he]
  rfl

end

/-! ### Use (R329 to R331, R337) -/

section
variable (s : State) (land aux a x : Nat) (d : BeatData)

/-- A beat of a delivery is one scheduled write; beside it the bridges and the fabric's records of landings change. -/
theorem State.deliverBeat_spec : ∃ u : MemUse, (s.deliverBeat land aux a x d).uses = s.uses ++ [u] ∧ u.data = d ∧ u.write = true ∧
    (a < 0x18000000000 → u.addr = a) ∧
    s.deliverBeat land aux a x d = { s with
      uses := (s.deliverBeat land aux a x d).uses, cross := (s.deliverBeat land aux a x d).cross
      fab.lands := (s.deliverBeat land aux a x d).fab.lands } := by
  unfold State.deliverBeat
  by_cases h : a < 0x18000000000
  · simp only [h, if_true]
    split <;> exact ⟨_, rfl, rfl, rfl, fun _ => rfl, rfl⟩
  · simp only [h, if_false]
    split <;> exact ⟨_, rfl, rfl, rfl, fun h => h.elim, rfl⟩

end

section
variable {s : State}

/-- A delivery within a region: its two beats, and what it leaves (R331). -/
theorem State.deliverMem_region (land aux u : Nat) (k : Packet) (data : BitVec 2048) (h : s.landRegion k.addr = true) :
    (∃ a b : MemUse, (s.deliverMem land aux u k data).uses = s.uses ++ [a, b] ∧ a.data = halfOf data 0 ∧ b.data = halfOf data 1 ∧
      a.write = true ∧ b.write = true ∧
      (k.addr + 128 < 0x18000000000 → a.addr = k.addr ∧ b.addr = k.addr + 128)) ∧
    (s.deliverMem land aux u k data).fab.ports = s.fab.ports ∧ (s.deliverMem land aux u k data).fab.cs = s.fab.cs := by
  obtain ⟨a, ha, ha1, ha2, ha3, hf⟩ := s.deliverBeat_spec land aux k.addr u (halfOf data 0)
  obtain ⟨b, hb, hb1, hb2, hb3, hg⟩ :=
    (s.deliverBeat land aux k.addr u (halfOf data 0)).deliverBeat_spec land aux (k.addr + 128) (u + 1) (halfOf data 1)
  have hu : (s.deliverMem land aux u k data).uses = ((s.deliverBeat land aux k.addr u (halfOf data 0)).deliverBeat land aux (k.addr + 128)
      (u + 1) (halfOf data 1)).uses ∧ (s.deliverMem land aux u k data).fab.ports = s.fab.ports ∧
      (s.deliverMem land aux u k data).fab.cs = s.fab.cs := by
    unfold State.deliverMem
    simp only [h, Bool.not_true, Bool.false_eq_true, if_false]
    rw [hg, hf]
    split <;> exact ⟨rfl, rfl, rfl⟩
  refine ⟨⟨a, b, ?_, ha1, hb1, ha2, hb2, fun hk => ⟨ha3 (by omega), hb3 hk⟩⟩, hu.2⟩
  rw [hu.1, hb, ha, List.append_assoc]
  rfl
theorem State.deliverMem_outside (land aux u : Nat) (k : Packet) (data : BitVec 2048) (h : s.landRegion k.addr = false) :
    s.deliverMem land aux u k data = s.faultAt u .region 0 ⟨land, 6, 0, true, 0⟩ UnitRef.none k.addr := by
  simp [State.deliverMem, h]

/-- A fault leaves the scheduled accesses and the fabric. -/
theorem State.faultAt_uses_fab (f : Nat) (k : FaultKind) (d : Nat) (u u2 : UnitRef) (addr aux e o : Nat) (r : Bool) :
    (s.faultAt f k d u u2 addr aux e o r).uses = s.uses ∧ (s.faultAt f k d u u2 addr aux e o r).fab = s.fab := by
  have h := (s.faultAt_frame f k d u u2 addr aux e o r).1
  rw [h]
  exact ⟨rfl, rfl⟩

variable {c : Nat} {e : LeadEnt} {z : BitVec 256}

/-- The packet leaves the lead buffer, and its circuit's count goes up. -/
def State.taken (s : State) (e : LeadEnt) : State :=
  (s.updPort (cIn (s.circuit e.circ)) fun P =>
    { P with lead := P.lead.erase e, due := if P.due.contains e.circ then P.due else P.due ++ [e.circ] }).updCs e.circ
    fun z => { z with used := e.q + 1 }
theorem State.usePacket_plain (h : cOp (s.circuit e.circ) = 0) : s.usePacket e = (s.taken e).endFunctions e e.pkt.payload := by
  unfold State.usePacket
  dsimp only
  rw [if_pos h]
  rfl
theorem State.useCircuit_notYet (hl : (s.port (cIn (s.circuit c))).lead = [e]) (hx : nominal s.splitS (e.n + cDelta (s.circuit c)) ≠ s.sc) :
    s.useCircuit c = s := by
  simp [State.useCircuit, hl, hx]
theorem State.useCircuit_now (he : cEnd (s.circuit c) = true) (hl : (s.port (cIn (s.circuit c))).lead = [e]) (hc : e.circ = c)
    (hx : nominal s.splitS (e.n + cDelta (s.circuit c)) = s.sc) : s.useCircuit c = s.usePacket e := by
  simp [State.useCircuit, hl, hx, he, hc]
theorem State.taken_spec (hl : (s.port (cIn (s.circuit e.circ))).lead = [e]) :
    ((s.taken e).port (cIn (s.circuit e.circ))).lead = [] ∧ ((s.taken e).cs e.circ).used = e.q + 1 ∧
    e.circ ∈ ((s.taken e).port (cIn (s.circuit e.circ))).due := by
  refine ⟨?_, ?_, ?_⟩
  · simp [State.taken, hl]
  · simp [State.taken]
  · simp only [State.taken, State.port_updCs, State.port_updPort_self]
    split
    · next h => exact List.contains_iff_mem.1 h
    · simp

end

/-! ### The checks 8 cc ahead (R51, R52), and signals -/

section
variable {s : State}

theorem State.raiseHold_fab (c : Nat) (src : HoldSrc) (len : Option Nat) : (s.raiseHold c src len).fab = s.fab := by
  rw [State.raiseHold_frame]

theorem State.lateCheck_idle {c q n : Nat}
    (h : s.eightBefore (nominal s.splitS (n + cDelta (s.circuit c))) = false ∨ s.inLead c q = true) : s.lateCheck c q n = s := by
  unfold State.lateCheck
  dsimp only
  rw [if_neg]
  rcases h with h | h <;> simp [h]
theorem State.lateCheck_late {c q n : Nat} (he : cEnd (s.circuit c) = true)
    (h8 : s.eightBefore (nominal s.splitS (n + cDelta (s.circuit c))) = true) (hl : s.inLead c q = false)
    (h2 : s.hasHold 2 (.packet c q) = false) (h4 : s.hasHold 4 (.packet c q) = false) :
    s.lateCheck c q n = s.raiseHold (if (s.port (cIn (s.circuit c))).replaying then 4 else 2) (.packet c q) none := by
  unfold State.lateCheck
  dsimp only
  rw [if_pos (by simp [*])]
theorem State.leadCheck_full {p : Nat} {x : TxCell} (ht : s.toSend p = [x]) (hx : x.through = false) (h8 : s.eightBefore x.at_ = true)
    (hc : s.hasCredit x = false) (hh : s.hasHold 3 (.packet x.circ x.q) = false) :
    s.leadCheck p = s.raiseHold 3 (.packet x.circ x.q) none := by
  simp [State.leadCheck, ht, hx, h8, hc, hh]

end

/-! ### The clauses of use -/

section
variable {s : State} {c : Fin 4096} {e : LeadEnt} {z : BitVec 256}

/-- An unheld cc of the job runs a circuit's use. -/
theorem exec_use (hl : s.live = true) (hh : s.held = false) : exec (.scheduledPacketUse c) s = .next (s.useCircuit c) := by
  show Host.Outcome.next (if s.live && !s.held then s.useCircuit c else s) = _
  rw [hl, hh]
  rfl

variable (hz : z = s.circuit c) (hc : e.circ = c.val) (ho : cOp z = 0) (hn : cNext z = 0)
include hz hc ho hn

theorem State.usePacket_memory (hd : cDlv z = 1) : s.usePacket e =
    (s.taken e).deliverMem (cLand z) (fabAux e.circ (cIn z)) s.sc e.pkt e.pkt.payload := by
  subst hz
  rw [← hc] at ho hn hd ⊢
  rw [State.usePacket_plain ho]
  have h1 : (s.taken e).circuit e.circ = s.circuit e.circ := rfl
  have h2 : (s.taken e).sc = s.sc := rfl
  simp only [State.endFunctions, h1, h2, hd, hn, ne_eq, not_true_eq_false, if_false]
theorem State.usePacket_stream (hd : cDlv z = 2) : s.usePacket e =
    { s.taken e with fab.strm := s.fab.strm.put e.circ ⟨e.circ, s.sc, e.pkt.payload, e.pkt.sig⟩ } := by
  subst hz
  rw [← hc] at ho hn hd
  rw [State.usePacket_plain ho]
  have h1 : (s.taken e).circuit e.circ = s.circuit e.circ := rfl
  simp only [State.endFunctions, h1, hd, hn, ne_eq, not_true_eq_false, if_false]
  rfl
theorem State.usePacket_none (h1 : cDlv z ≠ 1) (h2 : cDlv z ≠ 2) : s.usePacket e = s.taken e := by
  subst hz
  rw [← hc] at ho hn h1 h2
  rw [State.usePacket_plain ho]
  have hk : (s.taken e).circuit e.circ = s.circuit e.circ := rfl
  simp only [State.endFunctions, hk, hn, ne_eq, not_true_eq_false, if_false]

/-- Whatever the delivery, the packet has left the lead buffer. -/
theorem State.usePacket_taken (hl : (s.port (cIn z)).lead = [e]) : ((s.usePacket e).port (cIn z)).lead = [] ∧
    ((s.usePacket e).cs c).used = e.q + 1 ∧ c.val ∈ ((s.usePacket e).port (cIn z)).due := by
  have hz' : z = s.circuit e.circ := by rw [hz, hc]
  have key (t : State) (hp : t.fab.ports = (s.taken e).fab.ports) (hs : t.fab.cs = (s.taken e).fab.cs) :
      (t.port (cIn z)).lead = [] ∧ (t.cs c).used = e.q + 1 ∧ c.val ∈ (t.port (cIn z)).due := by
    have h1 (k : Nat) : t.port k = (s.taken e).port k := by rw [State.port, hp, State.port]
    have h2 (k : Nat) : t.cs k = (s.taken e).cs k := by rw [State.cs, hs, State.cs]
    rw [h1, h2, ← hc, hz']
    exact State.taken_spec (by rw [← hz']; exact hl)
  by_cases h1 : cDlv z = 1
  · rw [State.usePacket_memory hz hc ho hn h1]
    cases hr : (s.taken e).landRegion e.pkt.addr with
    | true => exact key _ (State.deliverMem_region _ _ _ _ _ hr).2.1 (State.deliverMem_region _ _ _ _ _ hr).2.2
    | false =>
      rw [State.deliverMem_outside _ _ _ _ _ hr]
      have hf := (State.faultAt_uses_fab (s := s.taken e) s.sc .region 0 ⟨cLand z, 6, 0, true, 0⟩ UnitRef.none e.pkt.addr 0 0 0 false).2
      exact key _ (by rw [hf]) (by rw [hf])
  · by_cases h2 : cDlv z = 2
    · rw [State.usePacket_stream hz hc ho hn h2]
      exact key _ rfl rfl
    · rw [State.usePacket_none hz hc ho hn h1 h2]
      exact key _ rfl rfl

end

/-- Settles O40: readiness, departure, arrival, use, the checks 8 cc ahead, and signals, each from its law. -/
theorem scheduledPackets : Obligations.ScheduledPackets := by
  refine ⟨fun s c r n hl hh hr hc hd hn => ?_, fun s p h => congrArg Host.Outcome.next (State.departure_idle h),
    fun s p x i P hP hst hi hs hf hre ht h1 h2 h3 => ?_, fun s p a k P z n hP hst hk he => ?_,
    fun s c e z hl hh hz he hle hc => ?_, fun s c q n u z hz hu => ?_, fun s p h => ?_, fun s p x ht hx h8 hcr hh => ?_,
    fun s l f hl hh hs hf hd => ?_⟩
  · have hx : exec (.scheduledPacketReady c) s = .next (State.makeReady { s with fab.ready := [] } r) := by
      show Host.Outcome.next (if s.live && !s.held then s.packetsReady c else s) = _
      rw [hl, hh, ← State.packetsReady_one hr hc hd]
      rfl
    rw [← hc] at hn ⊢
    refine ⟨fun p hp hcl => ⟨_, hx, ?_⟩, fun hp => ⟨_, hx, ?_⟩⟩
    · rw [State.makeReady_sent (s := { s with fab.ready := [] }) hp hcl hn]
      obtain ⟨h1, h2, h3, h4, h5⟩ := State.claimed_spec { s with fab.ready := [] } r p n
      exact ⟨State.eq_of_besideFab h1, h2, h3, h4, h5⟩
    · rw [State.makeReady_local (s := { s with fab.ready := [] }) hp]
      exact ⟨rfl, by simp⟩
  · subst hP
    refine ⟨s.sent p x, congrArg Host.Outcome.next (State.departure_one hst hi hs hf hre ht h1 h2 h3), ?_⟩
    exact s.sent_spec p x ht
  · subst hP
    have hport : ((s.updPort p (FabPort.counted · a)).updPort p FabPort.inOrder).port p = ((s.port p).counted a).inOrder := by
      simp only [State.port_updPort_self]
    refine ⟨fun hb => ⟨_, exec_arrival_badCrc hst hk hb, ?_⟩, fun hb hcl hty hr hz hn hp hv hi hend hq hd => ?_,
      fun hb hcl hty hd => ⟨_, exec_arrival_inOrder hst hk he hb hcl hty, ?_⟩⟩
    · simp only [State.port_updPort_self]
      exact ⟨rfl, rfl, rfl, rfl, rfl⟩
    · refine ⟨_, exec_arrival_inOrder hst hk he hb hcl hty, ?_⟩
      have hlead := State.scheduledArrival_end (s := (s.updPort p (FabPort.counted · a)).updPort p FabPort.inOrder) (p := p) (k := k)
        (z := z) (n := n)
      simp only [State.time_updPort, State.cs_updPort, State.splitS_updPort, State.fullSc_updPort, State.circuit_updPort] at hlead
      rw [State.hold_onTime (by rw [hport]; exact hd) hty,
        hlead hr hz hn (fun c x h => hp c x (by rw [hport] at h; exact h)) hv hi hend hq]
      obtain ⟨h1, h2, h3, h4, h5, h6⟩ := State.atLead_spec ((s.updPort p (FabPort.counted · a)).updPort p FabPort.inOrder) p k z n
      rw [hport] at h1 h2
      simp only [State.cs_updPort, State.circuit_updPort, State.job_updPort, ← hz] at h1 h3 h6
      exact ⟨h1, h2, h3, h4, h5, h6⟩
    · rw [State.hold_early (by rw [hport]; exact hd)]
      refine ⟨State.eq_of_besideFab (by rw [State.besideFab_updPort, State.besideFab_updPort, State.besideFab_updPort]), ?_, ?_⟩
      · rw [State.port_updPort_self, hport]
        rfl
      · rw [State.port_updPort_self, hport]
        rfl
  · rw [exec_use hl hh]
    subst hz
    refine ⟨fun hx => by rw [State.useCircuit_notYet hle hx], fun hx ho hn => ⟨_, by rw [State.useCircuit_now he hle hc hx], ?_⟩⟩
    obtain ⟨h1, h2, h3⟩ := State.usePacket_taken rfl hc ho hn hle
    refine ⟨h1, h2, h3, fun hd => ?_, fun hd hr => ?_, fun hd hr hf hff => ?_⟩
    · rw [State.usePacket_stream rfl hc ho hn hd, hc]
      exact ⟨Tbl.find_put_self _ _ _, rfl⟩
    · rw [State.usePacket_memory rfl hc ho hn hd]
      obtain ⟨u, v, h⟩ := (State.deliverMem_region (s := s.taken e) (cLand (s.circuit c)) (fabAux e.circ (cIn (s.circuit c))) s.sc e.pkt
        e.pkt.payload hr).1
      exact ⟨u, v, h⟩
    · rw [State.usePacket_memory rfl hc ho hn hd, State.deliverMem_outside (s := s.taken e) _ _ _ _ _ hr]
      refine ⟨(State.faultAt_uses_fab _ _ _ _ _ _ _ _ _ _).1, ?_⟩
      obtain ⟨r, h1, h2, -, h4, -⟩ := State.faultAt_first (s.taken e) s.sc .region 0 ⟨cLand (s.circuit c), 6, 0, true, 0⟩ UnitRef.none
        e.pkt.addr 0 0 0 false (State.running_of_live hl) hf hff
      exact ⟨r, h1, h2, h4⟩
  · subst hz hu
    refine ⟨fun he h8 hin h2 h4 => ⟨_, congrArg Host.Outcome.next (State.lateCheck_late he h8 hin h2 h4), ?_, State.raiseHold_fab ..⟩,
      fun h => congrArg Host.Outcome.next (State.lateCheck_idle h)⟩
    rw [State.hasHold_raiseHold_open]
    simp
  · show Host.Outcome.next (s.leadCheck p) = _
    rw [State.leadCheck, h]
    rfl
  · refine ⟨_, congrArg Host.Outcome.next (State.leadCheck_full ht hx h8 hcr hh), ?_, State.raiseHold_fab ..⟩
    rw [State.hasHold_raiseHold_open]
    simp
  · show Host.Outcome.next (if s.live && !s.held then s.signals l else s) = _
    rw [hl, hh]
    simp [State.signals, State.flagChange, hs, hf, hd]

end Machine
end Sys2Proof
end

section
/-! SUPPORT. The frame of schedule time: the operations of a cc that no hold, start, count or end of a job goes through leave the
clock of the part as it was, in the order of the model's definitions (R38 to R47). -/

namespace Sys2Proof.Machine

/-- Schedule time and the starts that wait for their cc. -/
def State.clock (s : State) : TimeState × Option Nat × Option (Nat × Nat) := (s.time, s.job.coordWait, s.job.startAt)

/-- The second state has the same clock. -/
def SameClock (s t : State) : Prop := t.clock = s.clock
@[simp] theorem sameClock_iff (s t : State) : SameClock s t ↔ t.clock = s.clock := ⟨id, id⟩
/-- An update of other fields. -/
@[simp] theorem clock_mk (s : State) (a b c d e f g h i j k l m n o p q r t u v w x y z aa bb cc dd) :
    State.clock ⟨s.time, a, s.job, b, c, d, e, f, g, h, i, j, k, l, m, n, o, p, q, r, t, u, v, w, x, y, z, aa, bb, cc, dd⟩ =
      s.clock := rfl
@[simp] theorem clock_ite (c : Prop) [Decidable c] (a b : State) : (if c then a else b).clock = if c then a.clock else b.clock :=
  apply_ite State.clock c a b
@[simp] theorem fst_clock_ite {α : Type} (c : Prop) [Decidable c] (a b : State × α) :
    (if c then a else b).1.clock = if c then a.1.clock else b.1.clock := by split <;> rfl
@[simp] theorem foldl_clock {α : Type} (f : State → α → State) (h : ∀ s a, SameClock s (f s a)) (l : List α) (s : State) :
    (l.foldl f s).clock = s.clock := by
  induction l generalizing s with
  | nil => rfl
  | cons a l ih => exact (ih _).trans (h s a)
@[simp] theorem foldl_fst_clock {α β : Type} (f : State × β → α → State × β) (h : ∀ e a, SameClock e.1 (f e a).1) (l : List α)
    (e : State × β) : (l.foldl f e).1.clock = e.1.clock := by
  induction l generalizing e with
  | nil => rfl
  | cons a l ih => exact (ih _).trans (h e a)

/-! #### The clock under Machine/Ops -/

@[simp] theorem State.setBytes_clock (s : State) (a : Nat) (bs : List Byte) : (s.setBytes a bs).clock = s.clock := rfl
@[simp] theorem State.zeroBytes_clock (s : State) (a n : Nat) : (s.zeroBytes a n).clock = s.clock := rfl
@[simp] theorem State.undefine_clock (s : State) (a n : Nat) : (s.undefine a n).clock = s.clock := by simp [State.undefine]
@[simp] theorem State.setRow_clock (s : State) (a : Nat) (d : BeatData) : (s.setRow a d).clock = s.clock := by simp [State.setRow]
@[simp] theorem State.writeLocal_clock (s : State) (a : Nat) (bs : List Byte) : (s.writeLocal a bs).clock = s.clock := by
  induction bs generalizing s a with
  | nil => rfl
  | cons b r ih => refine (ih _ _).trans ?_; split <;> simp
@[simp] theorem State.undefineLocal_clock (s : State) (a n : Nat) : (s.undefineLocal a n).clock = s.clock := by
  simp only [State.undefineLocal]
  refine foldl_clock _ (fun s a => ?_) _ _
  split <;> simp
@[simp] theorem State.freeBeat_clock (s : State) : s.freeBeat.1.clock = s.clock := rfl
@[simp] theorem State.setLine_clock (s : State) (l : Nat) (L : LineState) : (s.setLine l L).clock = s.clock := rfl
@[simp] theorem State.updLine_clock (s : State) (l : Nat) (f : LineState → LineState) : (s.updLine l f).clock = s.clock := rfl
@[simp] theorem State.updBay_clock (s : State) (b : Nat) (f : BayState → BayState) : (s.updBay b f).clock = s.clock := rfl
@[simp] theorem State.countLine_clock (s : State) (l : Nat) (c : LineCnt) (n : Nat) : (s.countLine l c n).clock = s.clock := rfl
@[simp] theorem State.countBay_clock (s : State) (b : Nat) (c : BayCnt) (n : Nat) : (s.countBay b c n).clock = s.clock := rfl
@[simp] theorem State.faultAt_clock (s : State) (f : Nat) (k : FaultKind) (detail : Nat) (u u2 : UnitRef)
    (addr aux expected observed : Nat) (resolve : Bool) :
    (s.faultAt f k detail u u2 addr aux expected observed resolve).clock = s.clock := by
  simp only [State.faultAt]
  split
  · rfl
  split
  · rfl
  split
  · exact (State.updLine_clock _ _ _).trans rfl
  · rfl
@[simp] theorem State.faultQ_clock (s : State) (st : Station) (l t : Nat) (k : FaultKind) (detail addr aux expected observed : Nat) :
    (s.faultQ st l t k detail addr aux expected observed).clock = s.clock := by simp [State.faultQ]
@[simp] theorem State.send_clock (s : State) (m : Sent) : (s.send m).clock = s.clock := rfl
@[simp] theorem State.setAlert_clock (s : State) (n : Nat) : (s.setAlert n).clock = s.clock := rfl
@[simp] theorem State.touchCopy_clock (s : State) (a n : Nat) : (s.touchCopy a n).clock = s.clock := by
  unfold State.touchCopy
  split
  · dsimp only
    split <;> rfl
  · rfl

/-! #### The clock under Machine/Operands -/

@[simp] theorem State.faultK_clock (s : State) (k : Ctx) (f : FaultKind) (detail addr aux expected observed : Nat) :
    (s.faultK k f detail addr aux expected observed).clock = s.clock := by simp [State.faultK]
@[simp] theorem State.checkBeat_clock (s : State) (k : Ctx) (sel : Nat) (exp : BitVec 6) (tagged : Bool) (b : Option Beat) :
    (s.checkBeat k sel exp tagged b).clock = s.clock := by
  unfold State.checkBeat
  split <;> simp
@[simp] theorem State.dequeue_clock (s : State) (k : Ctx) (n : Nat) (exp : BitVec 6) : (s.dequeue k n exp).1.clock = s.clock := by
  simp only [State.dequeue]
  split <;> simp
@[simp] theorem State.takeBeat_clock (s : State) (k : Ctx) (sel : Nat) (toff : BitVec 6) : (s.takeBeat k sel toff).1.clock = s.clock := by
  simp [State.takeBeat]
@[simp] theorem State.enqueue_clock (s : State) (l : Nat) (o : PendOut) (n : Nat) : (s.enqueue l o n).clock = s.clock := rfl
@[simp] theorem State.dqFull_clock (s : State) (l n : Nat) : (s.dqFull l n).clock = s.clock := by simp [State.dqFull]
@[simp] theorem State.land_clock (s : State) (l : Nat) (o : PendOut) : (s.land l o).clock = s.clock := by
  unfold State.land
  split <;> simp
@[simp] theorem State.locate_clock (s : State) (k : Ctx) (r kind : Nat) (write : Bool) (x : Nat) :
    (s.locate k r kind write x).1.clock = s.clock := by simp [State.locate]

/-! #### The clock under Machine/Access -/

@[simp] theorem State.mark_clock (s : State) (p : Nat) (bad : Bool) : (s.mark p bad).clock = s.clock := rfl
@[simp] theorem State.queueFix_clock (s : State) (p : Nat) : (s.queueFix p).clock = s.clock := by simp [State.queueFix]
@[simp] theorem State.lsErrors_clock (s : State) (l a src : Nat) : (s.lsErrors l a src).clock = s.clock := by simp [State.lsErrors]
@[simp] theorem State.bbErrors_clock (s : State) (b o src : Nat) : (s.bbErrors b o src).clock = s.clock := by simp [State.bbErrors]
@[simp] theorem State.foreignWrite_clock (s : State) (l a x : Nat) (writer : UnitRef) (t : Option Nat) :
    (s.foreignWrite l a x writer t).clock = s.clock := by
  unfold State.foreignWrite
  split <;> simp
@[simp] theorem State.lsBank_clock (s : State) (l a : Nat) (d : BeatData) : (s.lsBank l a d).clock = s.clock := by simp [State.lsBank]
@[simp] theorem State.lsWrite_clock (s : State) (u : MemUse) (l x : Nat) : (s.lsWrite u l x).clock = s.clock := by
  simp only [State.lsWrite]
  (repeat' split) <;> simp
@[simp] theorem State.drainPair_clock (s : State) (l x p : Nat) : (s.drainPair l x p).clock = s.clock := by
  unfold State.drainPair
  split <;> simp
@[simp] theorem State.drains_clock (s : State) (l x : Nat) : (s.drains l x).clock = s.clock := by simp [State.drains]
@[simp] theorem State.deliver_clock (s : State) (u : MemUse) (d : BeatData) : (s.deliver u d).clock = s.clock := by
  unfold State.deliver
  (repeat' split) <;> simp
theorem SameClock.matchOwner {s : State} {o : Owner} {F G H : Nat → State} (hF : ∀ n, SameClock s (F n))
    (hG : ∀ n, SameClock s (G n)) (hH : ∀ n, SameClock s (H n)) :
    SameClock s (match o with | .ls n => F n | .bb n => G n | .nt n => H n) := by
  cases o with
  | ls n => exact hF n
  | bb n => exact hG n
  | nt n => exact hH n
@[simp] theorem State.readErrors_clock (s : State) (u : MemUse) : (s.readErrors u).clock = s.clock := by
  show SameClock s _
  unfold State.readErrors
  refine .matchOwner (fun l => ?_) (fun b => ?_) fun _ => rfl
  · dsimp only; split <;> simp
  · dsimp only; split <;> simp
@[simp] theorem State.meetOne_clock (s : State) (u : MemUse) : (s.meetOne u).clock = s.clock := by
  unfold State.meetOne
  split <;> simp
@[simp] theorem State.meetSome_clock (s : State) (x : Nat) (sel : MemUse → Bool) : (s.meetSome x sel).clock = s.clock := by
  simp [State.meetSome]
@[simp] theorem State.meetReads_clock (s : State) (x : Nat) : (s.meetReads x).clock = s.clock := by simp [State.meetReads]
@[simp] theorem State.collide_clock (s : State) (x : Nat) (a b : MemUse) : (s.collide x a b).clock = s.clock := by
  simp only [State.collide]
  split <;> simp
@[simp] theorem State.countUse_clock (s : State) (u : MemUse) : (s.countUse u).clock = s.clock := by
  unfold State.countUse
  (repeat' split) <;> simp
@[simp] theorem State.ntUncorrectable_clock (s : State) (slice addr src : Nat) : (s.ntUncorrectable slice addr src).clock = s.clock := rfl
@[simp] theorem State.ntCorrected_clock (s : State) (slice : Nat) : (s.ntCorrected slice).clock = s.clock := rfl
@[simp] theorem State.ntRow_clock (s : State) (slice a p src : Nat) (bad : State → Nat → State) (hbad : ∀ u n, SameClock u (bad u n)) :
    (s.ntRow slice a p src bad).clock = s.clock := by
  simp only [sameClock_iff] at *
  unfold State.ntRow
  simp [*]
@[simp] theorem State.ntReadErrors_clock (s : State) (u : MemUse) : (s.ntReadErrors u).clock = s.clock := by
  unfold State.ntReadErrors
  split <;> simp
@[simp] theorem State.occupy_clock (s : State) (x : Nat) (u : MemUse) (same : Option MemUse) : (s.occupy x u same).clock = s.clock := by
  unfold State.occupy
  (repeat' split) <;> simp
@[simp] theorem State.ports_clock (s : State) (x : Nat) (sel : MemUse → Bool) : (s.ports x sel).clock = s.clock := by simp [State.ports]
@[simp] theorem State.landWrite_clock (s : State) (x : Nat) (u : MemUse) : (s.landWrite x u).clock = s.clock := by
  unfold State.landWrite
  (repeat' split) <;> simp
@[simp] theorem State.landWrites_clock (s : State) (x : Nat) : (s.landWrites x).clock = s.clock := by simp [State.landWrites]
@[simp] theorem State.crossAt_clock (s : State) (x src dst : Nat) (u : UnitRef) (port : Nat) :
    (s.crossAt x src dst u port).clock = s.clock := rfl
@[simp] theorem State.crossings_clock (s : State) (b x : Nat) : (s.crossings b x).clock = s.clock := by
  simp only [State.crossings]
  refine foldl_fst_clock _ (fun s a => ?_) _ _
  simp only
  split <;> simp

/-! #### The clock under Machine/LocalStore -/

@[simp] theorem State.access_clock (s : State) (u : MemUse) : (s.access u).clock = s.clock := rfl
@[simp] theorem State.lay_clock (s : State) (p : Nat) (f : EccFinding) : (s.lay p f).clock = s.clock := by
  unfold State.lay
  split <;> simp
@[simp] theorem State.alertRow_clock (s : State) (p : Nat) : (s.alertRow p).clock = s.clock := by simp [State.alertRow]
@[simp] theorem State.glean_clock (s : State) (m : GleanMem) (f : EccFinding) : (s.glean m f).clock = s.clock := by
  simp only [State.glean]
  split <;> simp
@[simp] theorem State.fixRow_clock (s : State) (p : Nat) : (s.fixRow p).clock = s.clock := rfl

/-! #### The clock under Machine/NearTier -/

theorem State.ntGlean_clock (s : State) (slice : Nat) (f : EccFinding) : ∀ t, s.ntGlean slice f = some t → t.clock = s.clock := by
  simp [State.ntGlean]
theorem State.gleanerSlot_clock (s : State) (f : FreeCommit) : ∀ t, s.gleanerSlot f = some t → t.clock = s.clock := by
  intro t h
  unfold State.gleanerSlot at h
  split at h
  · split at h
    · split at h
      · cases h; simp
      · cases h
    · cases h
  · exact s.ntGlean_clock _ _ t h

/-! #### The clock under Machine/Matrix -/

@[simp] theorem State.lwBeat_clock (s : State) (l : Nat) : (s.lwBeat l).clock = s.clock := by
  unfold State.lwBeat
  split <;> simp
@[simp] theorem State.lwComplete_clock (s : State) (l : Nat) : (s.lwComplete l).clock = s.clock := by
  unfold State.lwComplete
  split <;> simp
@[simp] theorem State.oowReport_clock (s : State) (l row issue f task pc : Nat) (resolve : Bool) :
    (s.oowReport l row issue f task pc resolve).clock = s.clock := by simp [State.oowReport]
@[simp] theorem State.commitRow_clock (s : State) (l : Nat) (c : MxCommit) : (s.commitRow l c).clock = s.clock := by
  unfold State.commitRow
  (repeat' split) <;> simp
@[simp] theorem State.mxCommits_clock (s : State) (l x : Nat) : (s.mxCommits l x).clock = s.clock := by simp [State.mxCommits]

/-! #### The clock under Machine/Vector -/

@[simp] theorem State.vxReport_clock (s : State) (l task pc : Nat) (ev : BitVec 3) (f outSc : Nat) (resolve : Bool) :
    (s.vxReport l task pc ev f outSc resolve).clock = s.clock := by simp [State.vxReport]
@[simp] theorem State.vxEvent_clock (s : State) (l : Nat) (o : PendOut) : (s.vxEvent l o).clock = s.clock := by
  unfold State.vxEvent
  (repeat' split) <;> simp
@[simp] theorem State.vxOutputs_clock (s : State) (l x : Nat) : (s.vxOutputs l x).clock = s.clock := by
  simp only [State.vxOutputs]
  split <;> simp

/-! #### The clock under Machine/Words -/

@[simp] theorem State.flagChange_clock (s : State) (cls : FlagClass) (home ix : Nat) (set : Bool) (src : ChgSrc) (eff : Nat) :
    (s.flagChange cls home ix set src eff).clock = s.clock := rfl
@[simp] theorem State.setFlagWord_clock (s : State) (cls : FlagClass) (home : Nat) (v : BitVec 128) :
    (s.setFlagWord cls home v).clock = s.clock := by
  unfold State.setFlagWord
  split <;> simp
@[simp] theorem State.settleFlags_clock (s : State) (cls : FlagClass) (home : Nat) : (s.settleFlags cls home).clock = s.clock := by
  simp [State.settleFlags]
@[simp] theorem State.sendWord_clock (s : State) (k : Ctx) (n : Nat) (v : W64) : (s.sendWord k n v).clock = s.clock := by
  simp [State.sendWord]
@[simp] theorem State.arrive_clock (s : State) (w : WordFly) : (s.arrive w).clock = s.clock := by
  simp only [State.arrive]
  (repeat' split) <;> simp
@[simp] theorem State.arrivals_clock (s : State) (l x : Nat) : (s.arrivals l x).clock = s.clock := by simp [State.arrivals]
@[simp] theorem State.nackOne_clock (s : State) (n : NackFly) : (s.nackOne n).clock = s.clock := by simp [State.nackOne]
@[simp] theorem State.nacksAt_clock (s : State) (l x : Nat) : (s.nacksAt l x).clock = s.clock := by simp [State.nacksAt]

/-! #### The clock under Machine/Control -/

@[simp] theorem State.release_clock (s : State) (x : Nat) (w : Nat × Nat × WaitSt) : (s.release x w).clock = s.clock := rfl
@[simp] theorem State.countMrel_clock (s : State) (cls : FlagClass) (home : Nat) : (s.countMrel cls home).clock = s.clock := by
  unfold State.countMrel
  split <;> simp
@[simp] theorem State.countCont_clock (s : State) (cls : FlagClass) (home n : Nat) : (s.countCont cls home n).clock = s.clock := by
  unfold State.countCont
  split <;> simp
@[simp] theorem State.probeFlag_clock (s : State) (cls : FlagClass) (home ix : Nat) : (s.probeFlag cls home ix).clock = s.clock := by
  simp [State.probeFlag]
@[simp] theorem State.endLending_clock (s : State) (l t : Nat) : (s.endLending l t).clock = s.clock := by
  unfold State.endLending
  (repeat' split) <;> simp
@[simp] theorem State.elbAt_clock (s : State) (x : Nat) : (s.elbAt x).clock = s.clock := by
  simp only [State.elbAt]
  refine foldl_clock _ (fun s a => ?_) _ _
  simp
@[simp] theorem State.viewReport_clock (s : State) (coord : BitVec 15) (first : Nat) (entries : List W32) :
    (s.viewReport coord first entries).clock = s.clock := rfl

/-! #### The clock under Machine/Power -/

@[simp] theorem State.updPwr_clock (s : State) (b : Nat) (f : BayPower → BayPower) : (s.updPwr b f).clock = s.clock := rfl
@[simp] theorem State.keepExpire_clock (s : State) : s.keepExpire.clock = s.clock := by simp [State.keepExpire]
@[simp] theorem State.ballastCc_clock (s : State) : s.ballastCc.clock = s.clock := by simp [State.ballastCc]

/-! #### The clock under Machine/Cells -/

@[simp] theorem State.updCs_clock (s : State) (c : Nat) (f : CircState → CircState) : (s.updCs c f).clock = s.clock := rfl
@[simp] theorem State.updPort_clock (s : State) (p : Nat) (f : FabPort → FabPort) : (s.updPort p f).clock = s.clock := rfl
@[simp] theorem State.faultFab_clock (s : State) (x : Nat) (k : FaultKind) (detail circ port : Nat) :
    (s.faultFab x k detail circ port).clock = s.clock := by simp [State.faultFab]

/-! #### The clock under Machine/Port -/

@[simp] theorem State.ptAddr_clock (s : State) (k : Ctx) (r kind : Nat) (write : Bool) (x : Nat) :
    (s.ptAddr k r kind write x).1.clock = s.clock := by
  have h := s.locate_clock k r kind write x
  unfold State.ptAddr
  generalize s.locate k r kind write x = p at *
  obtain ⟨t, _ | a⟩ := p
  · exact h
  · simpa using h
@[simp] theorem State.usesPort_clock (s : State) (k : Ctx) (port : Nat) : (s.usesPort k port).clock = s.clock := rfl
@[simp] theorem State.bbBeat_clock (s : State) (k : Ctx) (w : FmtM) (write valid : Bool) (u : Option Nat) (x : Nat) :
    (s.bbBeat k w write valid u x).clock = s.clock := by
  show SameClock s _
  unfold State.bbBeat
  split
  rename_i t d e
  have ht : SameClock s (t, d).1 := by rw [← e]; simp
  have h : SameClock t _ := t.ptAddr_clock k w.region.toNat 2 write x
  split <;> rename_i e <;> rw [e] at h <;> simp_all
@[simp] theorem State.nbrBeat_clock (s : State) (k : Ctx) (w : FmtM) (write valid : Bool) (u : Option Nat) (x : Nat) :
    (s.nbrBeat k w write valid u x).clock = s.clock := by
  show SameClock s _
  unfold State.nbrBeat
  split
  rename_i t d e
  have ht : SameClock s (t, d).1 := by rw [← e]; simp
  have h : SameClock t _ := t.ptAddr_clock k (w.region.toNat % 16) 1 write x
  split
  · exact ht
  · split <;> rename_i e <;> rw [e] at h <;> simp_all
@[simp] theorem State.bgBeat_clock (s : State) (l : Nat) (b : Background) : (s.bgBeat l b).clock = s.clock := by
  show SameClock s _
  simp only [State.bgBeat]
  split <;>
  · split
    · simp
    · split <;> simp
@[simp] theorem State.bgStep_clock (s : State) (l : Nat) : (s.bgStep l).clock = s.clock := by
  unfold State.bgStep
  split <;> simp
@[simp] theorem State.bgEnd_clock (s : State) (l : Nat) : (s.bgEnd l).clock = s.clock := by
  unfold State.bgEnd
  (repeat' split) <;> simp
@[simp] theorem State.readReturns_clock (s : State) (st : Station) (l x : Nat) : (s.readReturns st l x).clock = s.clock := by
  simp [State.readReturns]

/-! #### The clock under Machine/Fabric -/

@[simp] theorem State.claim_clock (s : State) (c q n : Nat) (pkt : Packet) : (s.claim c q n pkt).clock = s.clock := by
  simp only [State.claim]
  refine foldl_clock _ (fun s a => ?_) _ _
  split <;> simp
@[simp] theorem State.makeReady_clock (s : State) (r : ReadyPkt) : (s.makeReady r).clock = s.clock := by simp [State.makeReady]
@[simp] theorem State.packetsReady_clock (s : State) (c : Nat) : (s.packetsReady c).clock = s.clock := by simp [State.packetsReady]
@[simp] theorem State.deliverBeat_clock (s : State) (land aux a x : Nat) (d : BeatData) :
    (s.deliverBeat land aux a x d).clock = s.clock := by simp [State.deliverBeat]
@[simp] theorem State.deliverMem_clock (s : State) (land aux u : Nat) (k : Packet) (data : BitVec 2048) :
    (s.deliverMem land aux u k data).clock = s.clock := by
  unfold State.deliverMem
  (repeat' split) <;> simp
@[simp] theorem State.sendNext_clock (s : State) (next m q : Nat) (k : Packet) (data : BitVec 2048) :
    (s.sendNext next m q k data).clock = s.clock := by simp [State.sendNext]
@[simp] theorem State.takeLocal_clock (s : State) (c q : Nat) : (s.takeLocal c q).clock = s.clock := rfl
@[simp] theorem State.endFunctions_clock (s : State) (e : LeadEnt) (data : BitVec 2048) : (s.endFunctions e data).clock = s.clock := by
  simp only [State.endFunctions]
  (repeat' split) <;> simp
@[simp] theorem State.usePacket_clock (s : State) (e : LeadEnt) : (s.usePacket e).clock = s.clock := by
  simp only [State.usePacket]
  (repeat' split) <;> simp
@[simp] theorem State.useCircuit_clock (s : State) (c : Nat) : (s.useCircuit c).clock = s.clock := by simp [State.useCircuit]
@[simp] theorem State.signals_clock (s : State) (l : Nat) : (s.signals l).clock = s.clock := by
  simp only [State.signals]
  refine foldl_clock _ (fun s a => ?_) _ _
  simp
@[simp] theorem State.landCheck_clock (s : State) (x : Nat) : (s.landCheck x).clock = s.clock := by simp [State.landCheck]
@[simp] theorem State.freeEntry_clock (s : State) (src : Option (Nat × Nat)) : (s.freeEntry src).clock = s.clock := by
  unfold State.freeEntry
  split <;> simp
@[simp] theorem State.queueItem_clock (s : State) (i : DynItem) (src : Option (Nat × Nat)) : (s.queueItem i src).clock = s.clock := by
  unfold State.queueItem
  split <;> simp
@[simp] theorem State.busyFrom_clock (s : State) (dst : BitVec 15) (tag addr : Nat) : (s.busyFrom dst tag addr).clock = s.clock := rfl

/-! #### The clock under Machine/Granary -/

@[simp] theorem State.freeMoves_clock (s : State) : s.freeMoves.clock = s.clock := rfl
@[simp] theorem State.enterMove_clock (s : State) (f : MoveFly) : (s.enterMove f).clock = s.clock := by simp [State.enterMove]
@[simp] theorem State.enterMoves_clock (s : State) : s.enterMoves.clock = s.clock := by simp [State.enterMoves]
@[simp] theorem State.updPair_clock (s : State) (u : Nat) (f : GrPair → GrPair) : (s.updPair u f).clock = s.clock := rfl
@[simp] theorem State.countBytes_clock (s : State) (a n : Nat) : (s.countBytes a n).clock = s.clock := by simp [State.countBytes]
@[simp] theorem State.burstMark_clock (s : State) (a : Nat) : (s.burstMark a).clock = s.clock := by
  unfold State.burstMark
  split <;> simp
@[simp] theorem State.burstFound_clock (s : State) (a : Nat) (bad : Bool) (src : Nat) : (s.burstFound a bad src).clock = s.clock := by
  unfold State.burstFound
  split <;> simp
@[simp] theorem State.readBursts_clock (s : State) (a n : Nat) (found : BurstFinding) : (s.readBursts a n found).clock = s.clock := by
  unfold State.readBursts
  split <;> simp
@[simp] theorem State.grRead_clock (s : State) (a n : Nat) : (s.grRead a n).clock = s.clock := by simp [State.grRead]
@[simp] theorem State.countBuffer_clock (s : State) (a : Nat) (write : Bool) : (s.countBuffer a write).clock = s.clock := by
  simp [State.countBuffer]
@[simp] theorem State.engineRow_clock (s : State) (r dst : Nat) : (s.engineRow r dst).clock = s.clock := by
  show SameClock s _
  unfold State.engineRow
  split
  · simp
  split
  · refine (foldl_clock _ (fun t m => ?_) _ _).trans ?_
    · split <;> simp
    · simp
  · refine State.ntRow_clock _ _ _ _ _ _ fun t a => ?_
    dsimp only
    split <;> simp
@[simp] theorem State.chunkFinding_clock (s : State) (c : Chunk) : (s.chunkFinding c).clock = s.clock := by
  unfold State.chunkFinding
  refine (foldl_clock _ (fun t a => ?_) _ _).trans ?_
  · dsimp only
    split <;> simp
  · simp
@[simp] theorem State.endChunk_clock (s : State) (c : Chunk) : (s.endChunk c).clock = s.clock := by simp [State.endChunk]
@[simp] theorem State.chunkRow_clock (s : State) (found : EccFinding) : (s.chunkRow found).clock = s.clock := by
  simp only [State.chunkRow]
  (repeat' split) <;> simp
@[simp] theorem State.ownSlot_clock (s : State) (sl : Nat) (found : EccFinding) :
    (s.ownSlot sl found).clock = s.clock := by simp [State.ownSlot]
@[simp] theorem State.engineRows_clock (s : State) : s.engineRows.clock = s.clock := by
  unfold State.engineRows
  split <;> simp
theorem State.engineSlot_clock (s : State) (f : FreeCommit) : ∀ t, s.engineSlot f = some t → t.clock = s.clock := by
  unfold State.engineSlot
  split <;> simp

/-! #### The clock under Machine/Mailbox -/

@[simp] theorem State.updHp_clock (s : State) (p : Nat) (f : HostPort → HostPort) : (s.updHp p f).clock = s.clock := rfl
@[simp] theorem State.hostErr_clock (s : State) (p n : Nat) : (s.hostErr p n).clock = s.clock := rfl
@[simp] theorem State.logAer_clock (s : State) (p : Nat) (m : W32) : (s.logAer p m).clock = s.clock := rfl
@[simp] theorem State.unclaimed_clock (s : State) (w : Requester) : (s.unclaimed w).clock = s.clock := by
  unfold State.unclaimed
  split <;> simp
@[simp] theorem State.msix_clock (s : State) (p v : Nat) : (s.msix p v).clock = s.clock := by simp [State.msix]
@[simp] theorem State.updBox_clock (s : State) (b : MailboxId) (f : Mailbox → Mailbox) : (s.updBox b f).clock = s.clock := rfl
@[simp] theorem State.interrupt_clock (s : State) (b : MailboxId) (mgmt : Bool) : (s.interrupt b mgmt).clock = s.clock := by
  unfold State.interrupt
  (repeat' split) <;> simp
@[simp] theorem State.boxDrop_clock (s : State) (b : MailboxId) : (s.boxDrop b).clock = s.clock := rfl
@[simp] theorem State.busError_clock (s : State) (w : Requester) (write : Bool) : (s.busError w write).clock = s.clock := by
  unfold State.busError
  split <;> simp
@[simp] theorem State.noEnd_clock (s : State) (w : Requester) : (s.noEnd w).clock = s.clock := by simp [State.noEnd]
@[simp] theorem State.boxAccess_clock (s : State) (b : MailboxId) (w : Requester) (write : Bool) (f : State → Bool → State)
    (hf : ∀ u n, SameClock u (f u n)) :
    (s.boxAccess b w write f).clock = s.clock := by
  simp only [sameClock_iff] at *
  unfold State.boxAccess
  split <;> simp [*]
@[simp] theorem State.claimBox_clock (s : State) (box : MailboxId) (who : Requester) : (s.claimBox box who).clock = s.clock := by
  simp [State.claimBox]
@[simp] theorem State.msgWrite_clock (s : State) (box : MailboxId) (who : Requester) (w : Nat) (value : W32) :
    (s.msgWrite box who w value).clock = s.clock := by simp [State.msgWrite]
@[simp] theorem State.ring_clock (s : State) (b : MailboxId) (sender : Bool) (v : W32) : (s.ring b sender v).clock = s.clock := by
  simp [State.ring]
@[simp] theorem State.dbset_clock (s : State) (box : MailboxId) (who : Requester) (value : W32) :
    (s.dbset box who value).clock = s.clock := by simp [State.dbset]
@[simp] theorem State.drainBox_clock (s : State) (b : MailboxId) (me : Bool) :
    (s.drainBox b me).clock = s.clock := by simp [State.drainBox]
@[simp] theorem State.postBox_clock (s : State) (b : MailboxId) (m0 m1 : Nat) : (s.postBox b m0 m1).clock = s.clock := by
  simp [State.postBox]
@[simp] theorem State.allowOwner_clock (s : State) : s.allowOwner.clock = s.clock := rfl

/-! #### The clock under Machine/Rings -/

@[simp] theorem State.updSq_clock (s : State) (p q : Nat) (f : SubRing → SubRing) : (s.updSq p q f).clock = s.clock := rfl
@[simp] theorem State.updCq_clock (s : State) (p q : Nat) (f : ComRing → ComRing) : (s.updCq p q f).clock = s.clock := rfl
@[simp] theorem State.cqInterrupt_clock (s : State) (p q : Nat) : (s.cqInterrupt p q).clock = s.clock := by simp [State.cqInterrupt]
@[simp] theorem State.cqTimes_clock (s : State) : s.cqTimes.clock = s.clock := by simp [State.cqTimes]
@[simp] theorem State.event_clock (s : State) (p : Nat) (c : Completion) : (s.event p c).clock = s.clock := by simp [State.event]
@[simp] theorem State.finish_clock (s : State) (p q status detail value : Nat) : (s.finish p q status detail value).clock = s.clock := by
  simp only [State.finish]
  split <;> simp
@[simp] theorem State.skim_clock (s : State) (p q : Nat) : (s.skim p q).clock = s.clock := by
  simp only [State.skim]
  split <;> simp
@[simp] theorem State.complete_clock (s : State) (p q status detail value : Nat) :
    (s.complete p q status detail value).clock = s.clock := by
  unfold State.complete
  split <;> simp
@[simp] theorem State.lockTap_clock (s : State) : s.lockTap.clock = s.clock := rfl
@[simp] theorem State.changeOwner_clock (s : State) (how : Nat) : (s.changeOwner how).clock = s.clock := by simp [State.changeOwner]
@[simp] theorem State.takeover_clock (s : State) (by_ : Nat) : (s.takeover by_).clock = s.clock := by simp [State.takeover]

/-! #### The clock under Machine/Link -/

@[simp] theorem State.launchControl_clock (s : State) (p kind : Nat) : (s.launchControl p kind).clock = s.clock := by
  simp [State.launchControl]

/-! #### The clock under Machine/Harvest -/

@[simp] theorem State.holdTimeout_clock (s : State) : s.holdTimeout.clock = s.clock := by
  unfold State.holdTimeout
  split
  · exact (State.faultAt_clock ..).trans rfl
  · rfl

/-! #### The clock under Machine/Permute -/

@[simp] theorem State.pxOutputs_clock (s : State) (l x : Nat) : (s.pxOutputs l x).clock = s.clock := by simp [State.pxOutputs]

/-! #### The clock under Machine/Snapshot -/

@[simp] theorem State.undefineGranary_clock (s : State) (a n : Nat) : (s.undefineGranary a n).clock = s.clock := by
  simp [State.undefineGranary]
@[simp] theorem State.undefineCapture_clock (s : State) (pos : Nat) : (s.undefineCapture pos).clock = s.clock := by
  simp [State.undefineCapture]
@[simp] theorem State.cutSlot_clock (s : State) (k : Nat) : (s.cutSlot k).clock = s.clock := by simp [State.cutSlot]
@[simp] theorem State.cutSnapshot_clock (s : State) : s.cutSnapshot.clock = s.clock := by
  unfold State.cutSnapshot
  split <;> simp
@[simp] theorem State.grWrite_clock (s : State) (a : Nat) (bs : List Byte) : (s.grWrite a bs).clock = s.clock := by simp [State.grWrite]
@[simp] theorem State.copyReads_clock (s : State) (a n : Nat) : (s.copyReads a n).clock = s.clock := by
  unfold State.copyReads
  split
  · exact foldl_clock _ (fun t r => by simp) _ _
  split
  · refine foldl_clock _ (fun t r => ?_) _ _
    dsimp only
    split <;> simp
  · rfl
@[simp] theorem State.slotBad_clock (s : State) (base a : Nat) : (s.slotBad base a).clock = s.clock := by
  unfold State.slotBad
  split <;> simp
@[simp] theorem State.snapRow_clock (s : State) : s.snapRow.clock = s.clock := by
  unfold State.snapRow
  split
  · split
    · rw [clock_mk, State.undefineLocal_clock]
    · dsimp only
      rw [clock_mk, foldl_clock _ (by simp), State.grWrite_clock]
      split <;> simp
  · rfl
theorem State.snapSlotRow_clock (s : State) (sl : Nat) (found : EccFinding) :
    ∀ t, s.snapSlotRow sl found = some t → t.clock = s.clock := by
  unfold State.snapSlotRow
  (repeat' split) <;> simp
@[simp] theorem State.snapCc_clock (s : State) : s.snapCc.clock = s.clock := by simp [State.snapCc]

/-! #### The clock under Machine/Job -/

@[simp] theorem State.abortRec_clock (s : State) (r : Option RecRef) : (s.abortRec r).clock = s.clock := by
  unfold State.abortRec
  split <;> simp
@[simp] theorem State.flush_clock (s : State) : s.flush.clock = s.clock := by
  simp only [State.flush]
  refine (clock_mk ..).trans ((foldl_clock _ (fun u a => ?_) _ _).trans ((foldl_clock _ (fun u a => ?_) _ _).trans ?_))
  · simp
  · simp
  · have h : (s.fab.ready.foldl State.makeReady { s with fab.ready := [] }).clock = s.clock := by simp
    exact congrArg (fun c : TimeState × Option Nat × Option (Nat × Nat) => (c.1, s.job.coordWait, s.job.startAt)) h
@[simp] theorem State.fillRest_clock (s : State) (sl : Nat) : (s.fillRest sl).clock = s.clock := rfl
@[simp] theorem State.ntSliceDone_clock (s : State) (sl : Nat) : (s.ntSliceDone sl).clock = s.clock := by simp [State.ntSliceDone]
theorem State.fillRow_clock (s : State) (sl : Nat) : ∀ t, s.fillRow sl = some t → t.clock = s.clock := by
  simp only [State.fillRow]
  split <;> simp

/-! #### The clock under Machine/Window -/

@[simp] theorem State.layHost_clock (s : State) (a : Nat) (bad : Option Nat) : (s.layHost a bad).clock = s.clock := by
  unfold State.layHost
  (repeat' split) <;> simp
@[simp] theorem State.hostRowErrors_clock (s : State) (ar : Area) (r : Nat) : (s.hostRowErrors ar r).clock = s.clock := by
  unfold State.hostRowErrors
  (repeat' split) <;> simp
@[simp] theorem State.hostRead_clock (s : State) (ar : Area) (a n : Nat) (bad : Option Nat) :
    (s.hostRead ar a n bad).1.clock = s.clock := by
  unfold State.hostRead
  split <;> simp
@[simp] theorem State.settleRow_clock (s : State) (l r : Nat) : (s.settleRow l r).clock = s.clock := by
  unfold State.settleRow
  split <;> simp
@[simp] theorem State.accSet_clock (s : State) (a : Nat) (b : Byte) : (s.accSet a b).clock = s.clock := by
  simp only [State.accSet]
  split
  · rfl
  · exact State.updLine_clock _ _ _
@[simp] theorem State.accBytes_clock (s : State) (a : Nat) (bs : List Byte) : (s.accBytes a bs).clock = s.clock := by
  induction bs generalizing s a with
  | nil => rfl
  | cons b r ih => rw [State.accBytes_cons, ih, State.accSet_clock]
@[simp] theorem State.hostWrite_clock (s : State) (ar : Area) (a : Nat) (bs : List Byte) : (s.hostWrite ar a bs).clock = s.clock := by
  simp only [State.hostWrite]
  generalize hu : List.foldl _ s _ = u
  have h : u.clock = s.clock := by rw [← hu, foldl_clock _ (by simp)]
  cases ar with
  | acc => rw [State.accBytes_clock]; exact h
  | ls l => rw [State.setBytes_clock, foldl_clock _ (by simp)]; exact h
  | granary => rw [State.countBytes_clock, State.writeLocal_clock]; exact h
  | near => rw [State.touchCopy_clock, State.writeLocal_clock]; exact h
  | bb b => rw [State.writeLocal_clock]; exact h
@[simp] theorem State.putAccess_clock (s : State) (m : MemAccess) : (s.putAccess m).clock = s.clock := rfl
@[simp] theorem State.endAccess_clock (s : State) (m : MemAccess) (e : AccessEnd) : (s.endAccess m e).clock = s.clock := by
  unfold State.endAccess
  (repeat' split) <;> simp
@[simp] theorem State.stepAccess_clock (s : State) (m : MemAccess) (n : Nat) (bad : Option Nat) :
    (s.stepAccess m n bad).clock = s.clock := by
  simp only [State.stepAccess]
  (repeat' split) <;> simp
@[simp] theorem State.accessRow_clock (s : State) (m : MemAccess) (found : EccFinding) : (s.accessRow m found).clock = s.clock := by
  unfold State.accessRow
  split <;> simp
@[simp] theorem State.localAccess_clock (s : State) (who : Requester) (a : Nat) (write : Bool) (data : List Byte) (len : Nat)
    (bad : Option Nat) :
    (s.localAccess who a write data len bad).clock = s.clock := by
  unfold State.localAccess
  dsimp only
  split
  next ar _ _ =>
    split
    · simp
    split
    · simp
    have h := s.hostRead_clock ar a len bad
    split
    next t f e => rw [e] at h; simpa using h
    next t e => rw [e] at h; simpa using h
  · simp
@[simp] theorem State.b4Error_clock (s : State) (p : HostId) (write : Bool) :
    (s.b4Error p write).clock = s.clock := by simp [State.b4Error]

/-! #### The clock under Machine/Security -/

@[simp] theorem State.bootNotice_clock (s : State) : s.bootNotice.clock = s.clock := by
  unfold State.bootNotice
  split <;> simp
@[simp] theorem State.emptyBox_clock (s : State) (b : MailboxId) : (s.emptyBox b).clock = s.clock := by simp [State.emptyBox]
@[simp] theorem State.ownerUnknown_clock (s : State) : s.ownerUnknown.clock = s.clock := by simp [State.ownerUnknown]

/-! #### The clock under Machine/Slots -/

theorem State.hostSlot_clock (s : State) (f : FreeCommit) : ∀ t, s.hostSlot f = some t → t.clock = s.clock := by simp [State.hostSlot]
@[simp] theorem State.freeAccess_clock (s : State) (f : FreeCommit) : (s.freeAccess f).clock = s.clock := by
  unfold State.freeAccess
  dsimp only
  split
  next t e =>
    refine (State.countBay_clock ..).trans ?_
    split at e
    · exact s.engineSlot_clock _ t e
    · exact s.fillRow_clock _ t e
    · exact s.snapSlotRow_clock _ _ t e
    · exact s.hostSlot_clock _ t e
    · exact s.gleanerSlot_clock _ t e
  · rfl
@[simp] theorem State.bayRow_clock (s : State) (b : Nat) : (s.bayRow b).clock = s.clock := by
  unfold State.bayRow
  split <;> simp
@[simp] theorem State.freeAccesses_clock (s : State) : s.freeAccesses.clock = s.clock := by simp [State.freeAccesses]

/-! #### The clock under Machine/Speculation -/

@[simp] theorem State.specDepth_clock (s : State) (l t : Nat) : (s.specDepth l t).clock = s.clock := by
  unfold State.specDepth
  split <;> simp
@[simp] theorem State.specHarvest_clock (s : State) (l t : Nat) : (s.specHarvest l t).clock = s.clock := by simp [State.specHarvest]
@[simp] theorem State.deferredSends_clock (s : State) (l : Nat) : (s.deferredSends l).clock = s.clock := by simp [State.deferredSends]

/-! #### The clock under Machine/Tick -/

@[simp] theorem State.eachLine_clock (s : State) (f : State → Nat → State) (hf : ∀ u n, SameClock u (f u n)) :
    (s.eachLine f).clock = s.clock := by
  simp only [sameClock_iff] at *
  unfold State.eachLine
  simp [*]
@[simp] theorem State.eachBay_clock (s : State) (f : State → Nat → State) (hf : ∀ u n, SameClock u (f u n)) :
    (s.eachBay f).clock = s.clock := by
  simp only [sameClock_iff] at *
  unfold State.eachBay
  simp [*]
@[simp] theorem State.scStations_clock (s : State) : s.scStations.clock = s.clock := by simp [State.scStations]
@[simp] theorem State.scFabric_clock (s : State) : s.scFabric.clock = s.clock := by simp [State.scFabric]
@[simp] theorem State.scMemory_clock (s : State) (x : Nat) : (s.scMemory x).clock = s.clock := by simp [State.scMemory]
@[simp] theorem State.scResults_clock (s : State) (x : Nat) : (s.scResults x).clock = s.clock := by simp [State.scResults]
@[simp] theorem State.scWords_clock (s : State) (x : Nat) : (s.scWords x).clock = s.clock := by simp [State.scWords]
@[simp] theorem State.srPorts_clock (s : State) (l x : Nat) : (s.srPorts l x).clock = s.clock := by simp [State.srPorts]
@[simp] theorem State.dqChecks_clock (s : State) (l : Nat) : (s.dqChecks l).clock = s.clock := by simp [State.dqChecks]
@[simp] theorem State.countWaits_clock (s : State) : s.countWaits.clock = s.clock := by simp [State.countWaits]
@[simp] theorem State.frameStart_clock (s : State) : s.frameStart.clock = s.clock := by simp [State.frameStart]
@[simp] theorem State.countIdle_clock (s : State) (p : Nat) : (s.countIdle p).clock = s.clock := by simp [State.countIdle]
@[simp] theorem State.linkCc_clock (s : State) (p : Nat) : (s.linkCc p).clock = s.clock := by simp [State.linkCc]
@[simp] theorem State.linksCc_clock (s : State) : s.linksCc.clock = s.clock := by simp [State.linksCc]
@[simp] theorem State.endCc_clock (s : State) : s.endCc.clock = s.clock := by simp [State.endCc]

end Sys2Proof.Machine
end

section
/-! SUPPORT. How far one cc may move schedule time before it counts: requests of the causes that an event withdraws may go,
new requests are counted, and the counters of holds stand (R38 to R41, R47). -/

namespace Sys2Proof.Machine

/-- Schedule time and the starts that wait for their cc, as `State.clock` reads them. -/
abbrev ClockState := TimeState × Option Nat × Option (Nat × Nat)

/-- What the counters of a cc and of its hold read (R38, R47). -/
def TimeState.counted (t : TimeState) : (Nat × Nat) × (Nat × Nat × Nat × Nat × Nat) × Tbl Nat :=
  ((t.release, t.curHold), (t.cnt.cc, t.cnt.scc, t.cnt.holdCc, t.cnt.holdEv, t.cnt.holdMax), t.cnt.hcCc)

/-- The requests of a running job move on within a cc: those that no event withdraws stay, each raise counts (R40, R47). -/
structure HoldsMove (a b : TimeState) : Prop where
  counted : b.counted = a.counted
  kept : ∀ r ∈ a.reqs, r.cause ∉ endCauses → r ∈ b.reqs
  raised : ∀ c, sat32 (a.cnt.hcEv.look c 0) ≤ sat32 (b.cnt.hcEv.look c 0)
  fresh : a.release ≤ a.now → ∀ c, b.cnt.hcEv.look c 0 = a.cnt.hcEv.look c 0 → a.cnt.hcEv.look c 0 < 0xFFFFFFFF →
    ∀ r ∈ b.reqs, r.cause = c → r ∈ a.reqs

theorem HoldsMove.refl (a : TimeState) : HoldsMove a a :=
  ⟨rfl, fun _ hr _ => hr, fun _ => le_rfl, fun _ _ _ _ _ hr _ => hr⟩
theorem HoldsMove.trans {a b c : TimeState} (h : HoldsMove a b) (k : HoldsMove b c) (hn : b.now = a.now) : HoldsMove a c where
  counted := k.counted.trans h.counted
  kept r hr hc := k.kept r (h.kept r hr hc) hc
  raised n := (h.raised n).trans (k.raised n)
  fresh hl n he hm r hr hc := by
    have hb : b.cnt.hcEv.look n 0 = a.cnt.hcEv.look n 0 := by
      have h1 := h.raised n
      have h2 := k.raised n
      simp only [sat32, he] at h1 h2
      omega
    have hrel : b.release = a.release := congrArg (·.1.1) h.counted
    refine h.fresh hl n hb hm r (k.fresh ?_ n (he.trans hb.symm) (hb ▸ hm) r hr hc) hc
    rw [hrel, hn]
    exact hl

/-- Schedule time moves within a cc: the cc and the history stand, nothing starts, and a job that still runs has moved its
requests alone. -/
structure Moves (a b : ClockState) : Prop where
  now : b.1.now = a.1.now
  hist : b.1.hist = a.1.hist
  coord : a.2.1 = none → b.2.1 = none
  start : a.2.2 = none → b.2.2 = none
  runs : b.1.running = true → a.1.running = true ∧ HoldsMove a.1 b.1

theorem Moves.refl (a : ClockState) : Moves a a := ⟨rfl, rfl, id, id, fun h => ⟨h, .refl _⟩⟩
theorem Moves.trans {a b c : ClockState} (h : Moves a b) (k : Moves b c) : Moves a c where
  now := k.now.trans h.now
  hist := k.hist.trans h.hist
  coord hc := k.coord (h.coord hc)
  start hc := k.start (h.start hc)
  runs hr := by
    obtain ⟨hb, hbc⟩ := k.runs hr
    obtain ⟨ha, hab⟩ := h.runs hb
    exact ⟨ha, hab.trans hbc h.now⟩
/-- Schedule time stands. -/
theorem Moves.of_eq {a b : ClockState} (h : b = a) : Moves a b := h ▸ .refl a
theorem Moves.trans_eq {a b c : ClockState} (h : Moves a b) (k : c = b) : Moves a c := k ▸ h
/-- The move starts at an equal reading. -/
theorem Moves.since {a b c : ClockState} (k : Moves b c) (h : b = a) : Moves a c := h ▸ k
theorem Moves.ite {a b c : ClockState} {p : Prop} [Decidable p] (hb : Moves a b) (hc : Moves a c) : Moves a (if p then b else c) := by
  split
  · exact hb
  · exact hc
/-- A fold of moves is a move. -/
theorem foldl_moves {α : Type} {f : State → α → State} (h : ∀ s a, Moves s.clock (f s a).clock) (l : List α) (s : State) :
    Moves s.clock (l.foldl f s).clock := by
  induction l generalizing s with
  | nil => exact .refl _
  | cons a l ih => exact (h s a).trans (ih _)

/-! ### What moves schedule time within a cc -/

theorem State.raiseHold_moves (s : State) (c : Nat) (src : HoldSrc) (len : Option Nat) :
    Moves s.clock (s.raiseHold c src len).clock := by
  unfold State.raiseHold
  split
  · exact .refl _
  dsimp only
  split
  · refine ⟨rfl, rfl, id, id, fun h => ⟨h, rfl, fun r hr _ => List.mem_append_left _ hr, fun n => ?_, fun _ n he hm r hr hc => ?_⟩⟩
    · simp only [State.clock, Tbl.look_upd, sat32]
      split
      next e => subst e; omega
      · exact le_rfl
    · simp only [State.clock, Tbl.look_upd] at he hr hm ⊢
      rcases List.mem_append.1 hr with hr | hr
      · exact hr
      · obtain rfl := List.mem_singleton.1 hr
        simp only at hc
        subst hc
        simp only [ite_true, sat32] at he
        omega
  · rename_i hl
    refine ⟨rfl, rfl, id, id, fun h => ⟨h, rfl, fun r hr _ => List.mem_append_left _ hr, fun n => le_rfl, fun hn => ?_⟩⟩
    exact absurd (by simp only [State.live, Bool.and_eq_true, decide_eq_true_eq]; exact ⟨h, hn⟩) hl
theorem State.dropHold_moves (s : State) {c : Nat} (hc : c ∈ endCauses) (src : HoldSrc) : Moves s.clock (s.dropHold c src).clock := by
  refine ⟨rfl, rfl, id, id, fun h => ⟨h, rfl, fun r hr hn => ?_, fun n => le_rfl, fun _ n _ _ r hr _ => (List.mem_filter.1 hr).1⟩⟩
  refine List.mem_filter.2 ⟨hr, ?_⟩
  have : r.cause ≠ c := fun e => hn (e ▸ hc)
  simp [this]
theorem State.countNdc_moves (s : State) (f : Feature) (u : UnitRef) : Moves s.clock (s.countNdc f u).clock := by
  have h (x y z w v : Nat) : Moves s.clock
      (State.clock { s with time.cnt := { s.time.cnt with ndc := x, ndcY := y, ndcE := z, ndcD := w, ndcC := v } }) :=
    ⟨rfl, rfl, id, id, fun h => ⟨h, rfl, fun _ hr _ => hr, fun _ => le_rfl, fun _ _ _ _ _ hr _ => hr⟩⟩
  have hf (p : Prop) [Decidable p] (t : State) (x k d u v) : (if p then t.faultAt x k d u v 0 f.ctorIdx else t).clock = t.clock := by
    rw [clock_ite, State.faultAt_clock, ite_self]
  simp only [State.countNdc]
  rw [hf]
  cases f with
  | yield => exact h ..
  | elb => exact h ..
  | dynfab => exact h ..
  | clk => exact h ..

/-! ### Dynamic packets, signals and flags -/

theorem State.setReaches_moves (s : State) (cls : FlagClass) (home ix : Nat) : Moves s.clock (s.setReaches cls home ix).clock :=
  foldl_moves (fun u _ => u.dropHold_moves (by decide) _) _ s
theorem State.outsideChange_moves (s : State) (home ix : Nat) (set : Bool) : Moves s.clock (s.outsideChange home ix set).clock := by
  simp only [State.outsideChange]
  generalize hu : (if s.live = true then _ else _ : State) = u
  have h : u.clock = s.clock := by
    rw [← hu]
    split <;> simp
  rw [clock_ite, ← h]
  exact (u.setReaches_moves ..).ite (.refl _)
theorem State.dynConsumed_moves (s : State) : Moves s.clock s.dynConsumed.clock := by
  rw [State.dynConsumed, clock_ite]
  exact (s.countNdc_moves ..).ite (.refl _)
theorem State.transferDone_moves (s : State) (x : Transfer) : Moves s.clock (s.transferDone x).clock := by
  unfold State.transferDone
  dsimp only
  split
  · refine .trans ?_ (State.dynConsumed_moves _)
    exact (State.outsideChange_moves ..).since rfl
  · exact .refl _
theorem State.doneFrom_moves (s : State) (dst : BitVec 15) (tag addr : Nat) : Moves s.clock (s.doneFrom dst tag addr).clock :=
  (foldl_moves State.transferDone_moves _ _).since rfl
theorem State.ownMessage_moves (s : State) (m : Message) : Moves s.clock (s.ownMessage m).clock := by
  unfold State.ownMessage
  split
  · exact .of_eq (s.busyFrom_clock ..)
  · exact s.doneFrom_moves ..
  · exact .refl _
theorem State.message_moves (s : State) (dst : BitVec 15) (m : Message) : Moves s.clock (s.message dst m).clock := by
  unfold State.message
  split
  · exact s.ownMessage_moves m
  · exact .of_eq (s.queueItem_clock ..)
theorem State.dynReceive_moves (s : State) (k : Packet) : Moves s.clock (s.dynReceive k).clock := by
  unfold State.dynReceive
  split
  · exact s.message_moves ..
  · exact .refl _
theorem State.dynForMe_moves (s : State) (k : Packet) : Moves s.clock (s.dynForMe k).clock := by
  unfold State.dynForMe
  split
  · exact s.dynReceive_moves k
  split
  · exact .of_eq (s.viewReport_clock ..)
  · exact .refl _
theorem State.inject_moves (s : State) (k : Packet) : Moves s.clock (s.inject k).clock := by
  unfold State.inject
  dsimp only
  split
  · exact (State.dynForMe_moves ..).since rfl
  · exact .of_eq (State.queueItem_clock ..)
theorem State.injectOne_moves (s : State) (d : DynOut) : Moves s.clock (s.injectOne d).clock := by
  unfold State.injectOne
  split
  · exact (State.inject_moves ..).since rfl
  · exact .refl _
theorem State.injectDue_moves (s : State) : Moves s.clock s.injectDue.clock := foldl_moves State.injectOne_moves _ s
theorem State.reportTo_moves (s : State) (group : List (BitVec 15)) (first : Nat) (es : List W32) :
    Moves s.clock (s.reportTo group first es).clock :=
  foldl_moves (fun u d => u.inject_moves (u.report d first es)) _ s
theorem State.sendReports_moves (s : State) : Moves s.clock s.sendReports.clock := by
  unfold State.sendReports
  split
  · exact .refl _
  split
  · exact .refl _
  · refine (foldl_moves (fun u b => ?_) _ _).since rfl
    dsimp only
    rw [clock_ite]
    exact (u.reportTo_moves ..).ite (.refl _)
theorem State.sendSlot_moves (s : State) (z : SlotSend) : Moves s.clock (s.sendSlot z).clock := by
  unfold State.sendSlot
  split
  · exact .refl _
  split
  · exact .refl _
  split
  · exact .of_eq (State.grRead_clock ..)
  · exact (State.message_moves ..).trans_eq rfl
theorem State.sendSlots_moves (s : State) : Moves s.clock s.sendSlots.clock := by
  unfold State.sendSlots
  split
  · exact .refl _
  · exact (foldl_moves State.sendSlot_moves _ s).trans (State.injectDue_moves _)

/-! ### The sc -/

theorem State.changesReach_moves (s : State) (cls : FlagClass) (home : Nat) : Moves s.clock (s.changesReach cls home).clock :=
  (foldl_moves (fun u (c : FlagChg) => u.setReaches_moves cls home c.idx) _ _).since (s.settleFlags_clock cls home)
theorem State.scFlags_moves (s : State) : Moves s.clock s.scFlags.clock := by
  unfold State.scFlags
  dsimp only
  generalize hv : List.foldl (α := State) _ s _ = v
  have hv : Moves s.clock v.clock := hv ▸ foldl_moves (fun u h => u.changesReach_moves (Prod.fst h) h.2) _ s
  exact hv.trans_eq ((clock_mk ..).trans (v.eachLine_clock _ (by simp)))
theorem State.scChecks_moves (s : State) (x : Nat) : Moves s.clock (s.scChecks x).clock := by
  simp only [State.scChecks]
  rw [State.enterMoves_clock, State.eachLine_clock _ _ (by simp)]
  exact (State.injectDue_moves _).since (by simp)
theorem State.scEnd_moves (s : State) : Moves s.clock s.scEnd.clock := by
  simp only [State.scEnd]
  refine ((State.scFlags_moves _).trans (State.scChecks_moves _ _)).since ?_
  simp

/-! ### Looking ahead -/

theorem State.checkDeadline_moves (s : State) (w : Nat × Nat × WaitSt) : Moves s.clock (s.checkDeadline w).clock := by
  unfold State.checkDeadline
  split
  · exact .refl _
  · dsimp only
    rw [clock_ite]
    exact (s.raiseHold_moves ..).ite (.refl _)
theorem State.leadCheck_moves (s : State) (p : Nat) : Moves s.clock (s.leadCheck p).clock :=
  foldl_moves (fun u _ => by rw [clock_ite]; exact (u.raiseHold_moves ..).ite (.refl _)) _ s
theorem State.raiseBoundary_moves (s : State) (b : Boundary) : Moves s.clock (s.raiseBoundary b).clock := by
  unfold State.raiseBoundary
  split
  · exact .refl _
  · dsimp only
    refine (s.raiseHold_moves 8 .harvest none).trans ?_
    generalize s.raiseHold 8 .harvest none = u
    split
    · exact u.raiseHold_moves ..
    · exact .refl _
theorem State.raiseBoundaries_moves (s : State) : Moves s.clock s.raiseBoundaries.clock := foldl_moves State.raiseBoundary_moves _ s
theorem State.stepExpire_moves (s : State) : Moves s.clock s.stepExpire.clock := by
  unfold State.stepExpire
  split
  · rw [clock_ite]
    exact (State.raiseHold_moves { s with dbg := { halted := true, stepTo := none } } ..).ite (.refl _)
  · exact .refl _
theorem State.rampLook_moves (s : State) : Moves s.clock s.rampLook.clock := by
  have h (d : List Nat) : Moves s.clock (s.rampRaise d).clock := by
    unfold State.rampRaise
    dsimp only
    rw [clock_ite]
    exact (Moves.refl _).ite (s.raiseHold_moves ..)
  rw [State.rampLook, clock_ite]
  exact (h _).ite (.refl _)
theorem State.lookAhead_moves (s : State) : Moves s.clock s.lookAhead.clock :=
  (foldl_moves State.checkDeadline_moves s.deadlineWaits s).trans <| (foldl_moves State.leadCheck_moves (List.range 12) _).trans <|
    (State.raiseBoundaries_moves _).trans <| (State.stepExpire_moves _).trans <| (State.sendReports_moves _).trans (State.rampLook_moves _)

/-! ### The rest of the cc, and the end of the job -/

theorem State.cutBoundary_moves (s : State) : Moves s.clock s.cutBoundary.clock := by
  unfold State.cutBoundary
  split
  · exact (s.dropHold_moves (by decide) _).trans (State.dropHold_moves _ (by decide) _)
  · exact .refl _
theorem State.dutyPeriod_moves (s : State) : Moves s.clock s.dutyPeriod.clock := by
  unfold State.dutyPeriod
  split
  · exact .refl _
  · generalize (if s.mod.mgmt = true then s.pwr.nextDuty else (s.pwr.duty, s.pwr.calm)) = e
    dsimp only
    rw [clock_ite]
    exact (Moves.refl _).ite ((State.raiseHold_moves ..).since rfl)
/-- A job that stops runs no more. -/
theorem Moves.of_stop {a b : ClockState} (hn : b.1.now = a.1.now) (hh : b.1.hist = a.1.hist) (hs : b.2 = a.2) (hr : b.1.running = false) :
    Moves a b :=
  ⟨hn, hh, fun h => hs ▸ h, fun h => hs ▸ h, fun h => absurd h (by simp [hr])⟩
theorem State.stopJob_clock (s : State) :
    s.stopJob.clock = ({ s.time with running := false, reqs := s.time.reqs.filter fun r => !endCauses.contains r.cause }, s.clock.2) := by
  have h : s.cutSnapshot.clock = s.clock := s.cutSnapshot_clock
  simp only [State.stopJob]
  generalize s.cutSnapshot = u at *
  rw [clock_mk, State.abortRec_clock, State.abortRec_clock]
  exact congrArg (fun c : ClockState =>
    (({ c.1 with running := false, reqs := c.1.reqs.filter fun r => !endCauses.contains r.cause } : TimeState), c.2)) h
theorem State.stopJob_moves (s : State) : Moves s.clock s.stopJob.clock := by
  rw [s.stopJob_clock]
  exact .of_stop rfl rfl rfl rfl
theorem State.endFault_moves (s : State) : Moves s.clock s.endFault.clock := by
  simp only [State.endFault]
  exact (s.flush.stopJob_moves.since s.flush_clock).trans_eq rfl
theorem State.endNormal_moves (s : State) : Moves s.clock s.endNormal.clock := by
  have h (t : State) (ht : t.clock = ({ s.time with loaded := false }, s.clock.2)) : Moves s.clock t.stopJob.clock := by
    rw [t.stopJob_clock]
    have h1 : t.time = { s.time with loaded := false } := congrArg (·.1) ht
    have h2 : t.clock.2 = s.clock.2 := congrArg (·.2) ht
    rw [h1, h2]
    exact .of_stop rfl rfl rfl rfl
  simp only [State.endNormal]
  refine (h _ ?_).trans_eq (State.event_clock ..)
  exact State.freeMoves_clock _
theorem State.endOfJob_moves (s : State) : Moves s.clock s.endOfJob.clock := by
  unfold State.endOfJob
  split
  · exact .refl _
  split
  · exact s.endFault_moves
  split
  · exact s.endNormal_moves
  · exact .refl _

/-! ### What comes from outside -/

theorem State.scheduledArrival_moves (s : State) (p : Nat) (k : Packet) : Moves s.clock (s.scheduledArrival p k).clock := by
  simp only [State.scheduledArrival]
  split
  · exact .refl _
  split
  · exact .of_eq (State.faultFab_clock ..)
  split
  · refine .trans ?_ (State.dropHold_moves _ (by decide) _)
    refine (State.dropHold_moves _ (by decide) _).since ?_
    simp
  · exact .of_eq (by simp)
theorem State.dynArrival_moves (s : State) (p : Nat) (k : Packet) : Moves s.clock (s.dynArrival p k).clock := by
  simp only [State.dynArrival]
  split
  · exact (s.dynForMe_moves k).trans_eq (State.freeEntry_clock ..)
  · exact .of_eq (State.queueItem_clock ..)
theorem State.accept_moves (s : State) (p : Nat) (k : Packet) : Moves s.clock (s.accept p k).clock := by
  rw [State.accept, clock_ite]
  exact (s.scheduledArrival_moves p k).ite (s.dynArrival_moves p k)
theorem State.portHolds_moves (s : State) (p : Nat) : Moves s.clock (s.portHolds p).clock := by
  simp only [State.portHolds]
  split
  · exact (foldl_moves (fun u (e : Nat × Packet) => u.accept_moves p e.2) _ _).since (State.updPort_clock ..)
  · exact .refl _
theorem State.delayed_moves (s : State) : Moves s.clock s.delayed.clock := foldl_moves State.portHolds_moves _ s
theorem State.remoteWrite_moves (s : State) (dst : BitVec 15) (a : Nat) (data : List Byte) :
    Moves s.clock (s.remoteWrite dst a data).clock := by
  simp only [State.remoteWrite]
  exact (State.injectDue_moves _).since rfl
theorem State.bar4_moves (s : State) (p : HostId) (o : Nat) (write : Bool) (data : List Byte) (len : Nat) (bad : Option Nat) :
    Moves s.clock (s.bar4 p o write data len bad).clock := by
  simp only [State.bar4, clock_ite, State.unclaimed_clock, State.busError_clock, State.b4Error_clock, State.localAccess_clock, clock_mk]
  exact .ite (.refl _) <| .ite (.refl _) <| .ite (.refl _) <| .ite (.refl _) <| .ite (.refl _) <| .ite (.refl _) <| .ite (.refl _) <|
    .ite (.refl _) <| .ite (.ite (s.remoteWrite_moves ..) (.refl _)) (.refl _)
theorem State.hallWaits_moves (s : State) : Moves s.clock s.hallWaits.clock := by
  unfold State.hallWaits
  split
  · exact (foldl_moves (fun u (w : HallWait) => u.bar4_moves w.port w.offset w.write w.data w.len w.bad) _ _).since rfl
  · exact .refl _

end Sys2Proof.Machine
end

section
/-! SUPPORT. A cc of a running job: what comes before the count, the count, and the passage of time (R38 to R47). -/

namespace Sys2Proof.Machine

/-- What a cc does before its counters count. -/
def State.ccWork (s : State) : State :=
  let s := if s.live && !s.held then s.scEnd else s
  let s := if s.live then s.lookAhead else s
  let s := s.holdTimeout.cutBoundary.freeAccesses.snapCc.sendSlots.endOfJob
  s.dutyPeriod.ballastCc.countWaits.linksCc
theorem State.tick_eq {s : State} (h : s.dueBoundary = none) : s.tick = s.ccWork.countCc.endCc.passTime := by
  simp only [State.tick, h, Option.isSome_none, Bool.false_eq_true, if_false]
  rfl
theorem State.ccWork_moves (s : State) : Moves s.clock s.ccWork.clock := by
  have hs : Moves s.clock (if (s.live && !s.held) = true then s.scEnd else s).clock := by
    rw [clock_ite]
    exact s.scEnd_moves.ite (.refl _)
  simp only [State.ccWork]
  generalize (if (s.live && !s.held) = true then s.scEnd else s) = u at *
  have hl : Moves u.clock (if u.live = true then u.lookAhead else u).clock := by
    rw [clock_ite]
    exact u.lookAhead_moves.ite (.refl _)
  refine hs.trans (hl.trans ?_)
  generalize (if u.live = true then u.lookAhead else u) = v
  rw [State.linksCc_clock, State.countWaits_clock, State.ballastCc_clock]
  refine .trans ?_ (State.dutyPeriod_moves _)
  refine .trans ?_ (State.endOfJob_moves _)
  refine .trans ?_ (State.sendSlots_moves _)
  rw [State.snapCc_clock, State.freeAccesses_clock]
  exact (State.cutBoundary_moves _).since (State.holdTimeout_clock _)

/-! ### The count of a cc -/

/-- The counters of the causes of a held cc (R47). -/
theorem look_countCauses (m : BitVec 11) (t : Tbl Nat) {n : Nat} (hn : n < 11) :
    ((List.range 11).foldl (fun t n => if m.getLsbD n then t.upd n 0 fun v => wrap64 (v + 1) else t) t).look n 0 =
      if m.getLsbD n then wrap64 (t.look n 0 + 1) else t.look n 0 := by
  have key (l : List Nat) (hl : l.Nodup) (t : Tbl Nat) :
      (l.foldl (fun t n => if m.getLsbD n then t.upd n 0 fun v => wrap64 (v + 1) else t) t).look n 0 =
        if n ∈ l ∧ m.getLsbD n then wrap64 (t.look n 0 + 1) else t.look n 0 := by
    induction l generalizing t with
    | nil => simp
    | cons a l ih =>
      obtain ⟨ha, hl⟩ := List.nodup_cons.1 hl
      rw [List.foldl_cons, ih hl]
      by_cases e : a = n
      · subst e
        cases hm : m.getLsbD a <;> simp [ha, -BitVec.getLsbD_eq_getElem]
      · have e' : n ≠ a := fun h => e h.symm
        cases m.getLsbD a <;> simp [e, e', -BitVec.getLsbD_eq_getElem]
  rw [key _ List.nodup_range]
  simp [hn, -BitVec.getLsbD_eq_getElem]

/-- A count touches the counters of schedule time alone, and not those of the raises. -/
theorem State.countCc_clock (s : State) : ∃ c h l,
    s.countCc.clock = ({ s.time with cnt := c, curHold := h, limHold := l }, s.clock.2) ∧ c.hcEv = s.time.cnt.hcEv := by
  unfold State.countCc
  split
  · exact ⟨_, _, _, rfl, rfl⟩
  dsimp only
  split
  · exact ⟨_, _, _, rfl, rfl⟩
  · exact ⟨_, _, _, rfl, rfl⟩
theorem State.countCc_unheld {s : State} (hl : s.live = true) (hh : s.held = false) :
    s.countCc.time = { s.time with
      cnt := { s.time.cnt with cc := wrap64 (s.time.cnt.cc + 1), scc := wrap64 (s.time.cnt.scc + 1) }, curHold := 0, limHold := 0 } := by
  simp [State.countCc, hl, hh]
theorem State.countCc_held {s : State} (hl : s.live = true) (hh : s.held = true) : ∃ c l,
    s.countCc.time = { s.time with cnt := c, curHold := s.time.curHold + 1, limHold := l } ∧
    c.cc = wrap64 (s.time.cnt.cc + 1) ∧ c.scc = s.time.cnt.scc ∧ c.holdCc = wrap64 (s.time.cnt.holdCc + 1) ∧
    c.holdEv = (if s.time.curHold = 0 then sat32 (s.time.cnt.holdEv + 1) else s.time.cnt.holdEv) ∧
    c.holdMax = max s.time.cnt.holdMax (sat32 (s.time.curHold + 1)) ∧
    c.hcCc = (List.range 11).foldl (fun t n => if (s.time.hist.getD 7 0).getLsbD n then t.upd n 0 fun v => wrap64 (v + 1) else t)
      s.time.cnt.hcCc := by
  unfold State.countCc
  rw [hl, Bool.not_true, if_neg Bool.false_ne_true]
  dsimp only
  rw [if_pos hh]
  exact ⟨_, _, rfl, rfl, rfl, rfl, rfl, rfl, rfl⟩

/-! ### The passage of time -/

theorem State.time_of_clock {s t : State} (h : t.clock = s.clock) : t.time = s.time := congrArg (·.1) h
theorem State.causes_of_clock {s t : State} (h : t.clock = s.clock) : t.causes = s.causes := by
  simp only [State.causes, State.time_of_clock h]
/-- With no start that waits for its cc, time passes, and what comes from outside finds the next cc (R39). -/
theorem State.passTime_moves {s : State} (hc : s.job.coordWait = none) (ha : s.job.startAt = none) :
    Moves ({ s.time with
      now := s.time.now + 1, hist := s.causes :: s.time.hist.take 7
      reqs := s.time.reqs.filter fun r => r.active (s.time.now + 1) }, none, none) s.passTime.clock := by
  have hr (t : State) (hc : t.job.coordWait = none) (ha : t.job.startAt = none) : t.coordRelease.plainRelease = t := by
    simp [State.coordRelease, State.plainRelease, hc, ha]
  unfold State.passTime
  dsimp only
  rw [State.frameStart_clock]
  refine .trans ?_ (State.hallWaits_moves _)
  refine (State.delayed_moves _).since ?_
  rw [hr]
  · simp only [State.clock, State.expireHolds, hc, ha]
    rfl
  · exact hc
  · exact ha


/-! ### One cc of a running job -/

section
variable {s : State}

/-- The requests that the cc of a running job puts in the history (R39, R41, R47). -/
theorem State.causes_of_moves {a : State} (hl : s.live = true) (h : HoldsMove s.time a.time) (hn : a.time.now = s.time.now) :
    (∀ r ∈ s.time.reqs, r.cause < 11 → r.cause ∉ endCauses → r.active s.time.now = true → a.causes.getLsbD r.cause = true) ∧
    ∀ c, c < 11 → (∀ r ∈ s.time.reqs, r.cause = c → r.active s.time.now = false) →
      a.time.cnt.hcEv.look c 0 = s.time.cnt.hcEv.look c 0 → s.time.cnt.hcEv.look c 0 < 0xFFFFFFFF → a.causes.getLsbD c = false := by
  have hrel : s.time.release ≤ s.time.now := of_decide_eq_true (Bool.and_eq_true_iff.1 hl).2
  refine ⟨fun r hr hc hk ha => ?_, fun c hc hi he hm => ?_⟩
  · rw [a.getLsbD_causes hc, List.any_eq_true]
    exact ⟨r, h.kept r hr hk, by simp [hn, ha]⟩
  · rw [a.getLsbD_causes hc, List.any_eq_false]
    intro r hr hra
    obtain ⟨hra, hrc⟩ := Bool.and_eq_true_iff.1 hra
    have hrc := eq_of_beq hrc
    have := hi r (h.fresh hrel c he hm r hr hrc) hrc
    rw [hn, this] at hra
    exact Bool.false_ne_true hra
/-- What the counters of a running job read after a count (R37, R38, R41, R47). -/
theorem State.countCc_counts {a t : State} (hl : a.live = true) (h : HoldsMove s.time a.time) (hh : a.time.hist = s.time.hist)
    (ht : t.time.counted = a.countCc.time.counted) :
    t.time.cnt.cc = wrap64 (s.time.cnt.cc + 1) ∧
    (s.time.hist.getD 7 0 = 0 → t.time.cnt.scc = wrap64 (s.time.cnt.scc + 1) ∧ t.time.cnt.holdCc = s.time.cnt.holdCc ∧
      t.time.cnt.holdEv = s.time.cnt.holdEv ∧ t.time.cnt.holdMax = s.time.cnt.holdMax ∧ t.time.cnt.hcCc = s.time.cnt.hcCc ∧
      t.time.curHold = 0) ∧
    (s.time.hist.getD 7 0 ≠ 0 → t.time.cnt.scc = s.time.cnt.scc ∧ t.time.cnt.holdCc = wrap64 (s.time.cnt.holdCc + 1) ∧
      t.time.cnt.holdEv = (if s.time.curHold = 0 then sat32 (s.time.cnt.holdEv + 1) else s.time.cnt.holdEv) ∧
      t.time.cnt.holdMax = max s.time.cnt.holdMax (sat32 (s.time.curHold + 1)) ∧ t.time.curHold = s.time.curHold + 1 ∧
      ∀ n, n < 11 → t.time.cnt.hcCc.look n 0 =
        if (s.time.hist.getD 7 0).getLsbD n then wrap64 (s.time.cnt.hcCc.look n 0 + 1) else s.time.cnt.hcCc.look n 0) := by
  have hc := h.counted
  simp only [TimeState.counted, Prod.mk.injEq] at hc ht
  obtain ⟨⟨-, hcur⟩, ⟨hcc, hscc, hhcc, hev, hmax⟩, hhc⟩ := hc
  obtain ⟨⟨-, tcur⟩, ⟨tcc, tscc, thcc, tev, tmax⟩, thc⟩ := ht
  rw [tcc, tscc, thcc, tev, tmax, thc, tcur, ← hcc, ← hscc, ← hhcc, ← hev, ← hmax, ← hhc, ← hcur, ← hh]
  by_cases h0 : a.time.hist.getD 7 0 = 0
  · rw [State.countCc_unheld hl (by simp only [State.held, h0]; rfl)]
    exact ⟨rfl, fun _ => ⟨rfl, rfl, rfl, rfl, rfl, rfl⟩, fun hne => absurd h0 hne⟩
  · obtain ⟨c, l, e, h1, h2, h3, h4, h5, h6⟩ := State.countCc_held hl (by simpa only [State.held, bne_iff_ne] using h0)
    rw [e]
    refine ⟨h1, fun he => absurd he h0, fun _ => ⟨h2, h3, h4, h5, rfl, fun n hn => ?_⟩⟩
    rw [show ({ a.time with cnt := c, curHold := a.time.curHold + 1, limHold := l } : TimeState).cnt.hcCc = c.hcCc from rfl, h6]
    exact look_countCauses _ _ hn

/-- One cc of a running job: what its history takes in, and what its counters count. -/
theorem State.tick_live (hl : s.live = true) (hd : s.dueBoundary = none) (hc : s.job.coordWait = none) (ha : s.job.startAt = none) :
    s.tick.time.now = s.time.now + 1 ∧ (∃ m, s.tick.time.hist = m :: s.time.hist.take 7 ∧
      (s.tick.time.running = true →
        (∀ r ∈ s.time.reqs, r.cause < 11 → r.cause ∉ endCauses → r.active s.time.now = true → m.getLsbD r.cause = true) ∧
        ∀ c, c < 11 → (∀ r ∈ s.time.reqs, r.cause = c → r.active s.time.now = false) →
          s.tick.time.cnt.hcEv.look c 0 = s.time.cnt.hcEv.look c 0 → s.time.cnt.hcEv.look c 0 < 0xFFFFFFFF → m.getLsbD c = false)) ∧
    (s.tick.time.running = true → ∃ a : State, a.live = true ∧ HoldsMove s.time a.time ∧ a.time.hist = s.time.hist ∧
      s.tick.time.counted = a.countCc.time.counted) := by
  rw [State.tick_eq hd]
  have ham := s.ccWork_moves
  generalize s.ccWork = a at *
  obtain ⟨c, h, l, hk, hev⟩ := a.countCc_clock
  have hw : a.countCc.endCc.clock = ({ a.time with cnt := c, curHold := h, limHold := l }, a.clock.2) := (State.endCc_clock _).trans hk
  have hwt : a.countCc.endCc.time = _ := congrArg (·.1) hw
  have hct : a.countCc.endCc.time = a.countCc.time := State.time_of_clock (State.endCc_clock _)
  generalize a.countCc.endCc = w at *
  have hpm := State.passTime_moves (s := w) ((congrArg (·.2.1) hw).trans (ham.coord hc)) ((congrArg (·.2.2) hw).trans (ham.start ha))
  generalize w.passTime = t at *
  have hn : w.time.now = s.time.now := (congrArg (·.now) hwt).trans ham.now
  have hh : w.time.hist = s.time.hist := (congrArg (·.hist) hwt).trans ham.hist
  have hca : w.causes = a.causes := by simp only [State.causes, hwt]
  have hrun (hr : t.time.running = true) : HoldsMove s.time a.time ∧ s.time.release ≤ s.time.now ∧ a.time.running = true := by
    have hr : a.time.running = true := (congrArg (·.running) hwt).symm.trans (hpm.runs hr).1
    exact ⟨(ham.runs hr).2, of_decide_eq_true (Bool.and_eq_true_iff.1 hl).2, hr⟩
  refine ⟨hpm.now.trans (congrArg (· + 1) hn), ⟨a.causes, ?_, fun hr => ?_⟩, fun hr => ?_⟩
  · exact hpm.hist.trans (by rw [hca, hh])
  · obtain ⟨hm, -, -⟩ := hrun hr
    obtain ⟨hk, hi⟩ := State.causes_of_moves hl hm ham.now
    refine ⟨hk, fun c hc hi' he hx => hi c hc hi' ?_ hx⟩
    have h1 := hm.raised c
    have h2 : sat32 (w.time.cnt.hcEv.look c 0) ≤ sat32 (t.time.cnt.hcEv.look c 0) := (hpm.runs hr).2.raised c
    rw [hwt] at h2
    simp only [hev, he, sat32] at h1 h2
    omega
  · obtain ⟨hm, hrel, ha⟩ := hrun hr
    have hrel : a.time.release ≤ a.time.now := (congrArg (·.1.1) hm.counted).trans_le (hrel.trans_eq ham.now.symm)
    refine ⟨a, ?_, hm, ham.hist, ?_⟩
    · simp only [State.live, ha, Bool.true_and, decide_eq_true_eq]
      exact hrel
    · have hcw : w.time.counted = a.countCc.time.counted := congrArg TimeState.counted hct
      exact (hpm.runs hr).2.counted.trans hcw

end
end Sys2Proof.Machine
end

section
/-! SUPPORT. A cc without a job: the host's side, the links and the supplies move on, and nothing of a job does (R5, R38). -/

namespace Sys2Proof.Machine

/-- What a cc without a job leaves as it was: the job, its clock, its lines and memory, and what waits from outside. -/
def State.quiet (s : State) : (TimeState × HrvState × JobState) × (Tbl LineState × List Host.Cell × List UndefRange) ×
    List Instr × List HallWait × (Nat → List (Nat × Packet)) :=
  ((s.time, s.hrv, s.job), (s.lines, s.mem, s.undef), s.pending, s.host.hall, fun p => (s.port p).delay)

/-- The second state is as quiet. -/
def SameQuiet (s t : State) : Prop := t.quiet = s.quiet
@[simp] theorem sameQuiet_iff (s t : State) : SameQuiet s t ↔ t.quiet = s.quiet := ⟨id, id⟩
@[simp] theorem quiet_ite (c : Prop) [Decidable c] (a b : State) : (if c then a else b).quiet = if c then a.quiet else b.quiet :=
  apply_ite State.quiet c a b
@[simp] theorem foldl_quiet {α : Type} (f : State → α → State) (h : ∀ s a, SameQuiet s (f s a)) (l : List α) (s : State) :
    (l.foldl f s).quiet = s.quiet := foldl_keeps State.quiet f h l s

theorem State.time_of_quiet {s t : State} (h : t.quiet = s.quiet) : t.time = s.time := congrArg (·.1.1) h
theorem State.live_of_quiet {s t : State} (h : t.quiet = s.quiet) : t.live = s.live := by simp only [State.live, State.time_of_quiet h]

/-! #### A quiet cc under Machine/Ops -/

@[simp] theorem State.send_quiet (s : State) (m : Sent) : (s.send m).quiet = s.quiet := rfl

/-! #### A quiet cc under Machine/Power -/

@[simp] theorem State.updPwr_quiet (s : State) (b : Nat) (f : BayPower → BayPower) : (s.updPwr b f).quiet = s.quiet := rfl
@[simp] theorem State.keepExpire_quiet (s : State) : s.keepExpire.quiet = s.quiet := by
  unfold State.keepExpire
  split <;> rfl
/-- Without a job a cc steps the supplies of the bays alone. -/
theorem State.ballastCc_quiet {s : State} (h : s.live = false) : s.ballastCc.quiet = s.quiet := by
  have hk : s.keepExpire.quiet = s.quiet := s.keepExpire_quiet
  have hl := (State.live_of_quiet hk).trans h
  unfold State.ballastCc
  dsimp only
  generalize s.keepExpire = u at *
  generalize hv : List.foldl (α := State) (β := Nat) _ u _ = v
  have hv : v.quiet = u.quiet := by rw [← hv, foldl_quiet _ (by simp)]
  have hvl := (State.live_of_quiet hv).trans hl
  rw [hl, Bool.false_and, if_neg Bool.false_ne_true, if_neg]
  · exact hv.trans hk
  · change ¬ (v.live && !v.held) = true
    simp [hvl]

/-! #### A quiet cc under Machine/Mailbox -/

@[simp] theorem State.updHp_quiet (s : State) (p : Nat) (f : HostPort → HostPort) : (s.updHp p f).quiet = s.quiet := rfl
@[simp] theorem State.hostErr_quiet (s : State) (p n : Nat) : (s.hostErr p n).quiet = s.quiet := rfl
@[simp] theorem State.logAer_quiet (s : State) (p : Nat) (m : W32) : (s.logAer p m).quiet = s.quiet := rfl
@[simp] theorem State.unclaimed_quiet (s : State) (w : Requester) : (s.unclaimed w).quiet = s.quiet := by
  unfold State.unclaimed
  split <;> simp
@[simp] theorem State.msix_quiet (s : State) (p v : Nat) : (s.msix p v).quiet = s.quiet := by simp [State.msix]
@[simp] theorem State.updBox_quiet (s : State) (b : MailboxId) (f : Mailbox → Mailbox) : (s.updBox b f).quiet = s.quiet := rfl
@[simp] theorem State.interrupt_quiet (s : State) (b : MailboxId) (mgmt : Bool) : (s.interrupt b mgmt).quiet = s.quiet := by
  unfold State.interrupt
  (repeat' split) <;> simp
@[simp] theorem State.boxDrop_quiet (s : State) (b : MailboxId) : (s.boxDrop b).quiet = s.quiet := rfl
@[simp] theorem State.busError_quiet (s : State) (w : Requester) (write : Bool) : (s.busError w write).quiet = s.quiet := by
  unfold State.busError
  split <;> simp
@[simp] theorem State.noEnd_quiet (s : State) (w : Requester) : (s.noEnd w).quiet = s.quiet := by simp [State.noEnd]
@[simp] theorem State.boxAccess_quiet (s : State) (b : MailboxId) (w : Requester) (write : Bool) (f : State → Bool → State)
    (hf : ∀ u n, SameQuiet u (f u n)) :
    (s.boxAccess b w write f).quiet = s.quiet := by
  simp only [sameQuiet_iff] at *
  unfold State.boxAccess
  split <;> simp [*]
@[simp] theorem State.claimBox_quiet (s : State) (box : MailboxId) (who : Requester) : (s.claimBox box who).quiet = s.quiet := by
  simp [State.claimBox]
@[simp] theorem State.msgWrite_quiet (s : State) (box : MailboxId) (who : Requester) (w : Nat) (value : W32) :
    (s.msgWrite box who w value).quiet = s.quiet := by simp [State.msgWrite]
@[simp] theorem State.ring_quiet (s : State) (b : MailboxId) (sender : Bool) (v : W32) : (s.ring b sender v).quiet = s.quiet := by
  simp [State.ring]
@[simp] theorem State.dbset_quiet (s : State) (box : MailboxId) (who : Requester) (value : W32) :
    (s.dbset box who value).quiet = s.quiet := by simp [State.dbset]
@[simp] theorem State.drainBox_quiet (s : State) (b : MailboxId) (me : Bool) :
    (s.drainBox b me).quiet = s.quiet := by simp [State.drainBox]
@[simp] theorem State.postBox_quiet (s : State) (b : MailboxId) (m0 m1 : Nat) : (s.postBox b m0 m1).quiet = s.quiet := by
  simp [State.postBox]
@[simp] theorem State.allowOwner_quiet (s : State) : s.allowOwner.quiet = s.quiet := rfl

/-! #### A quiet cc under Machine/Rings -/

@[simp] theorem State.updCq_quiet (s : State) (p q : Nat) (f : ComRing → ComRing) : (s.updCq p q f).quiet = s.quiet := rfl
@[simp] theorem State.cqInterrupt_quiet (s : State) (p q : Nat) : (s.cqInterrupt p q).quiet = s.quiet := by simp [State.cqInterrupt]
@[simp] theorem State.cqTimes_quiet (s : State) : s.cqTimes.quiet = s.quiet := by simp [State.cqTimes]
@[simp] theorem State.event_quiet (s : State) (p : Nat) (c : Completion) : (s.event p c).quiet = s.quiet := by simp [State.event]
@[simp] theorem State.lockTap_quiet (s : State) : s.lockTap.quiet = s.quiet := rfl
@[simp] theorem State.changeOwner_quiet (s : State) (how : Nat) : (s.changeOwner how).quiet = s.quiet := by
  simp only [State.changeOwner]
  rw [State.event_quiet, State.event_quiet, State.lockTap_quiet, State.allowOwner_quiet]
  rfl
@[simp] theorem State.takeover_quiet (s : State) (by_ : Nat) : (s.takeover by_).quiet = s.quiet := by simp [State.takeover]

/-! #### A quiet cc under Machine/Security -/

@[simp] theorem State.bootNotice_quiet (s : State) : s.bootNotice.quiet = s.quiet := by
  unfold State.bootNotice
  split
  · rw [quiet_ite, State.postBox_quiet]
    exact ite_self _
  · rfl
@[simp] theorem State.emptyBox_quiet (s : State) (b : MailboxId) : (s.emptyBox b).quiet = s.quiet := by simp [State.emptyBox]
@[simp] theorem State.ownerUnknown_quiet (s : State) : s.ownerUnknown.quiet = s.quiet := by simp [State.ownerUnknown]

/-! #### A quiet cc under Machine/Tick -/

@[simp] theorem State.frameStart_quiet (s : State) : s.frameStart.quiet = s.quiet := by simp [State.frameStart]
@[simp] theorem State.endCc_quiet (s : State) : s.endCc.quiet = s.quiet := by
  have h (t : State) :
      (if (t.alertN == t.mod.alertLow) = true then t else { (t.send (.alert t.alertN)) with mod.alertLow := t.alertN }).quiet =
        t.quiet := by split <;> rfl
  simp only [State.endCc]
  refine Eq.trans rfl ((h _).trans ?_)
  simp

/-! ### The links -/

/-- A port's update that leaves its delayed packets. -/
theorem State.updPort_quiet (s : State) (p : Nat) {f : FabPort → FabPort} (h : ∀ P, (f P).delay = P.delay) :
    (s.updPort p f).quiet = s.quiet := by
  have hd : (fun q => ((s.updPort p f).port q).delay) = fun q => (s.port q).delay := by
    funext q
    show ((s.fab.ports.upd p default f).look q default).delay = (s.fab.ports.look q default).delay
    rw [Tbl.look_upd]
    split
    next e => rw [h, e]
    · rfl
  simp only [State.quiet, hd]
  rfl
theorem State.countIdle_quiet (s : State) (p : Nat) : (s.countIdle p).quiet = s.quiet := by
  rw [State.countIdle, quiet_ite, State.updPort_quiet, ite_self]
  exact fun _ => rfl
theorem State.launchControl_quiet (s : State) (p kind : Nat) : (s.launchControl p kind).quiet = s.quiet := by
  simp only [State.launchControl]
  split
  · rfl
  · exact (State.send_quiet ..).trans (s.updPort_quiet p fun _ => rfl)
theorem State.linkCc_quiet (s : State) (p : Nat) : (s.linkCc p).quiet = s.quiet := by
  simp only [State.linkCc]
  split
  · rfl
  · simp [State.countIdle_quiet, State.launchControl_quiet]
theorem State.linksCc_quiet (s : State) : s.linksCc.quiet = s.quiet := by
  rw [State.linksCc, quiet_ite, foldl_quiet _ State.linkCc_quiet, ite_self]
theorem State.countWaits_quiet (s : State) : s.countWaits.quiet = s.quiet := by
  refine foldl_quiet _ (fun u p => ?_) _ s
  rw [sameQuiet_iff, quiet_ite, State.updPort_quiet, ite_self]
  exact fun _ => rfl

/-! ### A cc without a job -/

/-- A fold whose every step leaves the value. -/
theorem foldl_fixed_of_mem {α β : Type} {f : α → β → α} {a : α} {l : List β} (h : ∀ b ∈ l, f a b = a) : l.foldl f a = a := by
  induction l with
  | nil => rfl
  | cons b l ih =>
    rw [List.foldl_cons, h b List.mem_cons_self]
    exact ih fun c hc => h c (List.mem_cons_of_mem _ hc)

section
variable {s : State}

/-- Without a job, and with nothing of a host, an engine or a snapshot in progress, a cc works on the supplies and the links
alone. -/
theorem State.ccWork_idle (hr : s.time.running = false) (ho : s.openBoundary = none) (hm : s.host.mem = []) (hf : s.free = [])
    (hg : s.gr.cur = none) (hn : s.rcv.snap = none) (hs : s.rcv.sends = []) : s.ccWork.quiet = s.quiet := by
  have hl : s.live = false := by simp [State.live, hr]
  have h1 : s.holdTimeout = s := by simp [State.holdTimeout, hl]
  have h2 : s.cutBoundary = s := by simp [State.cutBoundary, ho]
  have h3 : s.freeAccesses = s := by
    have hb (b : Nat) : s.bayRow b = s := by simp [State.bayRow, hm]
    have he : s.engineRows = s := by simp [State.engineRows, hg]
    have hu : ({ s with free := [] } : State) = s := by rw [← hf]
    simp only [State.freeAccesses, hf, List.filter_nil, List.foldl_nil, hu, he]
    exact List.foldl_fixed' hb _
  have h4 : s.snapCc = s := by simp [State.snapCc, hn]
  have h5 : s.sendSlots = s := by simp [State.sendSlots, hs]
  have h6 : s.endOfJob = s := by simp [State.endOfJob, hr]
  have h7 : s.dutyPeriod = s := by simp [State.dutyPeriod, hr]
  simp only [State.ccWork, hl, Bool.false_and, Bool.false_eq_true, if_false, h1, h2, h3, h4, h5, h6, h7]
  rw [State.linksCc_quiet, State.countWaits_quiet, State.ballastCc_quiet hl]

/-- With nothing on its way from outside, and no start that waits for its cc, time alone passes (R38, R39). -/
theorem State.passTime_idle (hc : s.job.coordWait = none) (ha : s.job.startAt = none) (hh : s.host.hall = [])
    (hd : ∀ p, p < 12 → (s.port p).delay = []) :
    s.passTime.time = { s.time with
      now := s.time.now + 1, hist := s.causes :: s.time.hist.take 7
      reqs := s.time.reqs.filter fun r => r.active (s.time.now + 1) } ∧
    s.passTime.hrv = { s.hrv with pendWas := s.hrv.pend, armedWas := s.hrv.armed } ∧ s.passTime.job = s.job ∧
    s.passTime.lines = s.lines ∧ s.passTime.mem = s.mem ∧ s.passTime.undef = s.undef ∧ s.passTime.pending = s.pending := by
  have key (t : State) (hc : t.job.coordWait = none) (ha : t.job.startAt = none) (hh : t.host.hall = [])
      (hd : ∀ p, p < 12 → (t.port p).delay = []) :
      (t.coordRelease.plainRelease.expireHolds.delayed.hallWaits).frameStart.quiet = t.expireHolds.quiet := by
    have h1 : t.coordRelease.plainRelease = t := by simp [State.coordRelease, State.plainRelease, hc, ha]
    have h2 : t.expireHolds.delayed = t.expireHolds := by
      have hp (p : Nat) (hp : p ∈ List.range 12) : t.expireHolds.portHolds p = t.expireHolds := by
        have : (t.expireHolds.port p).delay = [] := hd p (List.mem_range.1 hp)
        simp [State.portHolds, this]
      exact foldl_fixed_of_mem hp
    have h3 : t.expireHolds.hallWaits.quiet = t.expireHolds.quiet := by
      have : t.expireHolds.host.hall = [] := hh
      rw [State.hallWaits, quiet_ite, this, List.foldl_nil]
      split
      · simp only [State.quiet, this]
        rfl
      · rfl
    rw [h1, h2, State.frameStart_quiet, h3]
  have hq : s.passTime.quiet = _ := key _ hc ha hh hd
  simp only [State.quiet, Prod.mk.injEq] at hq
  obtain ⟨⟨ht, hv, hj⟩, ⟨hl, hm, hu⟩, hp, -⟩ := hq
  exact ⟨ht, hv, hj, hl, hm, hu, hp⟩

/-- A cc without a job, with nothing from outside in progress, is time alone. -/
theorem State.tick_idle (hr : s.time.running = false) (hc : s.job.coordWait = none) (ho : s.openBoundary = none) (hh : s.host.hall = [])
    (hm : s.host.mem = []) (hf : s.free = []) (hg : s.gr.cur = none) (hd : ∀ p, p < 12 → (s.port p).delay = [])
    (ha : s.job.startAt = none) (hn : s.rcv.snap = none) (hs : s.rcv.sends = []) :
    s.tick.time = { s.time with
      now := s.time.now + 1, hist := s.causes :: s.time.hist.take 7
      reqs := s.time.reqs.filter fun r => r.active (s.time.now + 1) } ∧
    s.tick.hrv = { s.hrv with pendWas := s.hrv.pend, armedWas := s.hrv.armed } ∧ s.tick.job = s.job ∧
    s.tick.lines = s.lines ∧ s.tick.mem = s.mem ∧ s.tick.undef = s.undef ∧ s.tick.pending = s.pending := by
  have hl : s.live = false := by simp [State.live, hr]
  have hw := State.ccWork_idle hr ho hm hf hg hn hs
  have hcc : s.ccWork.countCc = s.ccWork := by simp [State.countCc, State.live_of_quiet hw, hl]
  have hq : s.ccWork.endCc.quiet = s.quiet := (State.endCc_quiet _).trans hw
  rw [State.tick_eq (by simp [State.dueBoundary, hl]), hcc]
  generalize s.ccWork.endCc = w at *
  have hca : w.causes = s.causes := by simp only [State.causes, State.time_of_quiet hq]
  simp only [State.quiet, Prod.mk.injEq] at hq
  obtain ⟨⟨qt, qv, qj⟩, ⟨ql, qm, qu⟩, qp, qh, qd⟩ := hq
  have := State.passTime_idle (s := w) (qj ▸ hc) (qj ▸ ha) (qh ▸ hh) fun p hp => (congrFun qd p).trans (hd p hp)
  rwa [qt, qv, qj, ql, qm, qu, qp, hca] at this

end

/-- Settles O2. Without a job a cc is the passage of time alone; a cc of a running job moves the requests, counts, and passes. -/
theorem ccWithoutJobCountsNowhere : Obligations.CcWithoutJobCountsNowhere := by
  have hs {s : State} (hp : s.pending = []) : step s = .next s.tick := by simp [step, hp]
  refine ⟨fun s hp hr hc ho hh hm hf hg hd ha hn hse => ?_, fun s hp hl hd hc ha => ?_⟩
  · obtain ⟨ht, hv, hj, hl, hm, hu, hq⟩ := State.tick_idle hr hc ho hh hm hf hg hd ha hn hse
    exact ⟨_, hs hp, by rw [ht], by rw [ht], by rw [ht], hv, hj, hl, hm, hu, hq.trans hp⟩
  · obtain ⟨hn, hm, hk⟩ := State.tick_live hl hd hc ha
    refine ⟨_, hs hp, hn, hm, fun hr => ?_⟩
    obtain ⟨a, hla, hma, hh, hc⟩ := hk hr
    exact State.countCc_counts hla hma hh hc

end Sys2Proof.Machine
end

section
/-! SUPPORT. Instruction words (R92, Table 3-3): the fields of a word that one of the four formats encodes, and that decoding in the
instruction's own queue gives the instruction back. -/

namespace Sys2Proof

/-! ### The number that a word of joined fields spells -/

/-- Of two words joined the second is the low part. -/
theorem toNat_append_add {v w : Nat} (a : BitVec v) (b : BitVec w) : (a ++ b).toNat = 2 ^ w * a.toNat + b.toNat := by
  rw [BitVec.toNat_append, ← Nat.shiftLeft_add_eq_or_of_lt b.isLt, Nat.shiftLeft_eq, Nat.mul_comm]

theorem wBits_eq_iff (x : W64) (lo n : Nat) (v : BitVec n) : wBits x lo n = v ↔ x.toNat / 2 ^ lo % 2 ^ n = v.toNat := by
  rw [wBits, BitVec.toNat_eq, BitVec.extractLsb'_toNat, Nat.shiftRight_eq_div_pow]

/-! ### The fields of an encoded word -/

@[simp] theorem fmtO_encO (opc : BitVec 8) (x : FmtO) : fmtO (encO opc x) = x := by
  obtain ⟨a, b, c, d, e⟩ := x
  simp only [fmtO, FmtO.mk.injEq, wBits_eq_iff, encO, toNat_append_add]
  omega

@[simp] theorem fmtW_encW (opc : BitVec 8) (x : FmtW) : fmtW (encW opc x) = x := by
  obtain ⟨a, b, c, d⟩ := x
  simp only [fmtW, FmtW.mk.injEq, wBits_eq_iff, encW, toNat_append_add]
  omega

@[simp] theorem fmtC_encC (opc : BitVec 8) (x : FmtC) : fmtC (encC opc x) = x := by
  obtain ⟨a, b, c, d, e⟩ := x
  have h1 : wBits (encC opc ⟨a, b, c, d, e⟩) 44 4 = c.extractLsb' 2 4 := by
    simp only [wBits_eq_iff, encC, toNat_append_add]
    omega
  have h2 : wBits (encC opc ⟨a, b, c, d, e⟩) 48 2 = c.extractLsb' 0 2 := by
    simp only [wBits_eq_iff, encC, toNat_append_add]
    omega
  simp only [fmtC, FmtC.mk.injEq, h1, h2, BitVec.extractLsb'_append_extractLsb', true_and]
  simp only [wBits_eq_iff, encC, toNat_append_add]
  omega

@[simp] theorem fmtM_encM (opc : BitVec 8) (x : FmtM) : fmtM (encM opc x) = x := by
  obtain ⟨a, b, c, d, e, f, g⟩ := x
  have h : (encM opc ⟨a, b, c, d, e, f, g⟩).getLsbD 27 = e := by
    simp only [BitVec.getLsbD, Nat.testBit_eq_decide_div_mod_eq, encM, toNat_append_add]
    cases e <;> simp only [if_pos, Bool.false_eq_true, if_false, BitVec.toNat_ofNat, decide_eq_true_eq,
      decide_eq_false_iff_not] <;> omega
  simp only [fmtM, h, FmtM.mk.injEq, true_and]
  simp only [wBits_eq_iff, encM, toNat_append_add]
  omega

section
variable (opc : BitVec 8)

@[simp] theorem format_encO (x : FmtO) : wBits (encO opc x) 62 2 = 0#2 := by
  simp only [wBits_eq_iff, encO, toNat_append_add, BitVec.toNat_ofNat]
  omega
@[simp] theorem format_encM (x : FmtM) : wBits (encM opc x) 62 2 = 1#2 := by
  simp only [wBits_eq_iff, encM, toNat_append_add, BitVec.toNat_ofNat]
  omega
@[simp] theorem format_encC (x : FmtC) : wBits (encC opc x) 62 2 = 2#2 := by
  simp only [wBits_eq_iff, encC, toNat_append_add, BitVec.toNat_ofNat]
  omega
@[simp] theorem format_encW (x : FmtW) : wBits (encW opc x) 62 2 = 3#2 := by
  simp only [wBits_eq_iff, encW, toNat_append_add, BitVec.toNat_ofNat]
  omega
@[simp] theorem opcode_encO (x : FmtO) : wBits (encO opc x) 54 8 = opc := by
  simp only [wBits_eq_iff, encO, toNat_append_add]
  omega
@[simp] theorem opcode_encM (x : FmtM) : wBits (encM opc x) 54 8 = opc := by
  simp only [wBits_eq_iff, encM, toNat_append_add]
  omega
@[simp] theorem opcode_encC (x : FmtC) : wBits (encC opc x) 54 8 = opc := by
  simp only [wBits_eq_iff, encC, toNat_append_add]
  omega
@[simp] theorem opcode_encW (x : FmtW) : wBits (encW opc x) 54 8 = opc := by
  simp only [wBits_eq_iff, encW, toNat_append_add]
  omega

end

/-! ### Words that a field beside the opcode decides -/

/-- A CC.ELB word is decoded by its OP, which the loader has checked (R237). -/
theorem fld_of_wfCcElb {w : FmtO} {op : Nat} (h : wfCcElb op w = true) : w.fld 20 2 = op := by
  simp only [wfCcElb, Bool.and_eq_true, decide_eq_true_eq] at h
  exact h.1.2

/-- A CC.BR word is decoded by its MODE, which the loader has checked (R217). -/
theorem csrc_of_wfCcBrMode {w : FmtC} {m : Nat} (h : wfCcBrMode m w = true) : w.csrc.toNat = m := by
  simp only [wfCcBrMode, Bool.and_eq_true, decide_eq_true_eq] at h
  exact h.1.1.1.1

/-- Settles O3: the opcode table by cases of the instruction; a CC.BR and a CC.ELB are told apart by a field that the loader checks. -/
theorem decodeOfEncodeIsTheInstruction : Obligations.DecodeOfEncodeIsTheInstruction := by
  intro i st q w hw hh he
  cases i <;> cases hh <;> cases he <;> unfold decodeWord
  case ccBr x => simp [decodeCc, decodeBr, csrc_of_wfCcBrMode (m := 0) hw]
  case ccBrResolve x => simp [decodeCc, decodeBr, csrc_of_wfCcBrMode (m := 1) hw]
  case ccElbAdd x => simp [decodeCc, decodeElb, fld_of_wfCcElb (op := 0) hw]
  case ccElbRead x => simp [decodeCc, decodeElb, fld_of_wfCcElb (op := 1) hw]
  case ccElbReadv x => simp [decodeCc, decodeElb, fld_of_wfCcElb (op := 2) hw]
  all_goals simp [decodeCommon, decodePt, decodeLs, decodePx, decodeMx, decodeVx, decodeCc]

end Sys2Proof
end

section
/-! SUPPORT. One issue (R83 to R93, R97): what it leaves beside its own queue, the records that its faults leave, and the passage to the
next instruction. -/

namespace Sys2Proof

@[simp] theorem Tbl.put_put {α : Type} (t : Tbl α) (k : Nat) (v w : α) : (t.put k v).put k w = t.put k w := by
  induction t with
  | nil => simp [Tbl.put]
  | cons e t ih =>
    obtain ⟨j, u⟩ := e
    simp only [Tbl.put]
    split
    · simp [Tbl.put]
    · split
      · next h => subst h; simp [Tbl.put]
      · next h1 h2 => simp [Tbl.put, h1, h2, ih]

namespace Machine

/-! ### Updates of one line and of one queue -/

section
variable (s : State) (st : Station) (q : Queue)

@[simp] theorem State.updLine_updLine (l : Nat) (f g : LineState → LineState) :
    (s.updLine l f).updLine l g = s.updLine l fun L => g (f L) := by
  simp [State.updLine, State.setLine, State.line]

@[simp] theorem LineState.updQ_updQ (L : LineState) (t : Nat) (f g : QState → QState) :
    (L.updQ st t f).updQ st t g = L.updQ st t fun z => g (f z) := by
  simp [LineState.updQ, LineState.setQ, LineState.q]

@[simp] theorem State.updQ_updQ (f g : QState → QState) : (s.updQ st q f).updQ st q g = s.updQ st q fun z => g (f z) := by
  simp [State.updQ]

theorem State.updLine_congr {l : Nat} {f g : LineState → LineState} (h : f (s.line l) = g (s.line l)) : s.updLine l f = s.updLine l g := by
  rw [State.updLine, h, State.updLine]

theorem State.updQ_congr {f g : QState → QState} (h : f (s.q st q) = g (s.q st q)) : s.updQ st q f = s.updQ st q g :=
  s.updLine_congr <| by rw [LineState.updQ, LineState.updQ]; exact congrArg _ h

@[simp] theorem State.sc_updQ (f : QState → QState) : (s.updQ st q f).sc = s.sc := rfl

end

/-! ### What an issue leaves beside its queues -/

/-- `t` is `s` but for what every issue may change beside its own queue. -/
structure SameQueues (s t : State) (q : Queue) : Prop where
  frame : IssueFrame s t q.line
  line : LineFrame (s.line q.line) (t.line q.line)
  queues : (t.line q.line).queues = (s.line q.line).queues

section
variable {s t u : State} {q : Queue}

theorem SameQueues.refl (s : State) (q : Queue) : SameQueues s s q := ⟨.refl .., .refl .., rfl⟩
theorem SameQueues.trans (h : SameQueues s t q) (g : SameQueues t u q) : SameQueues s u q :=
  ⟨h.frame.trans g.frame, h.line.trans g.line, g.queues.trans h.queues⟩

theorem SameQueues.lineQ (h : SameQueues s t q) (st : Station) (t' : Nat) : (t.line q.line).q st t' = (s.line q.line).q st t' := by
  rw [LineState.q, LineState.q, h.queues]
theorem SameQueues.ownQ (h : SameQueues s t q) (st : Station) : t.q st q = s.q st q := h.lineQ st q.task
theorem SameQueues.sc (h : SameQueues s t q) : t.sc = s.sc := h.frame.sc
theorem SameQueues.ownQueueOnly (h : SameQueues s t q) (st : Station) : OwnQueueOnly s t st q (s.q st q) :=
  ⟨h.frame, h.line, fun _ _ _ => h.lineQ .., by rw [h.ownQ]; exact .refl _⟩

/-- The context of an issue is that of the state before its bookkeeping. -/
theorem SameQueues.ctx (h : SameQueues s t q) (st : Station) (c0 j : Nat) : t.ctx st q c0 j = s.ctx st q c0 j := by
  rw [State.ctx, State.ctx, h.sc, h.ownQ]

end

theorem IssueFrame.uses {s t : State} {l : Nat} (h : IssueFrame s t l) : t.uses = s.uses := by rw [h.1]
theorem IssueFrame.yield {s t : State} {l : Nat} (h : IssueFrame s t l) : t.time.yield = s.time.yield := by rw [h.1]
theorem IssueFrame.region {s t : State} {l : Nat} (h : IssueFrame s t l) (r : Nat) : t.region r = s.region r := by
  rw [State.region, State.region, h.img]
theorem LineFrame.cc {L M : LineState} (h : LineFrame L M) : M.cc = L.cc := by rw [h]
theorem LineFrame.unconf {L M : LineState} (h : LineFrame L M) (t x : Nat) : M.unconf t x = L.unconf t x := by
  rw [LineState.unconf, LineState.unconf, h.cc]

/-- A scalar register reads the same on a line that an issue has noted. -/
theorem LineFrame.scalar {s t : State} {k : Ctx} (h : LineFrame (s.line k.l) (t.line k.l)) (r : Nat) : t.scalar k r = s.scalar k r := by
  simp only [State.scalar, LineState.sregAt, LineState.broadcast, h.cc]

theorem State.faultAt_sameQueues (s : State) (f : Nat) (k : FaultKind) (d : Nat) {u : UnitRef} {q : Queue} (hu : u.line = q.line)
    (u2 : UnitRef) (addr aux e o : Nat) (r : Bool) : SameQueues s (s.faultAt f k d u u2 addr aux e o r) q :=
  ⟨hu ▸ s.faultAt_frame .., (s.noteFrame_faultAt ..).lineFrame, (s.noteFrame_faultAt ..).queues⟩

theorem State.faultQ_sameQueues (s : State) (st : Station) (q : Queue) (t : Nat) (k : FaultKind) (d addr aux e o : Nat) :
    SameQueues s (s.faultQ st q.line t k d addr aux e o) q := by
  exact s.faultAt_sameQueues _ _ _ rfl ..

theorem State.noteIssue_sameQueues (s : State) (st : Station) (q : Queue) : SameQueues s (s.noteIssue st q) q :=
  ⟨s.noteIssue_frame st q, (s.noteIssue_note st q q.line).lineFrame, (s.noteIssue_note st q q.line).queues⟩

theorem State.draws_sameQueues (s : State) (q : Queue) (i : Instr) : SameQueues s (s.draws q i) q := by
  obtain ⟨hf, hl, -⟩ := s.draws_frame q i
  refine ⟨hf, hl, ?_⟩
  simp only [State.draws, State.line_updLine, if_pos, LineState.drawn]
  split <;> rfl

/-- `t` is `s` but for one queue and what every issue may change. -/
structure OnlyQueue (s t : State) (st : Station) (q : Queue) : Prop where
  frame : IssueFrame s t q.line
  line : LineFrame (s.line q.line) (t.line q.line)
  others : OtherQueues (s.line q.line) (t.line q.line) st q.task

section
variable {s t u : State} {st : Station} {q : Queue}

theorem OnlyQueue.trans (h : OnlyQueue s t st q) (g : OnlyQueue t u st q) : OnlyQueue s u st q :=
  ⟨h.frame.trans g.frame, h.line.trans g.line, h.others.trans g.others⟩
theorem OnlyQueue.updQ (f : QState → QState) (h : OnlyQueue s t st q) : OnlyQueue s (t.updQ st q f) st q :=
  h.trans ⟨.updQ .., LineFrame.updQ .., OtherQueues.updQ t st q f⟩
theorem SameQueues.onlyQueue (h : SameQueues s t q) (st : Station) : OnlyQueue s t st q := ⟨h.frame, h.line, fun _ _ _ => h.lineQ ..⟩
theorem OwnQueueOnly.onlyQueue {a : QState} (h : OwnQueueOnly s t st q a) : OnlyQueue s t st q := ⟨h.1, h.2.1, h.2.2.1⟩
theorem OnlyQueue.advance (h : OnlyQueue s t st q) : OnlyQueue s (t.advance st q) st q := h.trans (t.advance_frame st q).onlyQueue
theorem OnlyQueue.sc (h : OnlyQueue s t st q) : t.sc = s.sc := h.frame.sc

end

/-- The state on which a fresh instruction without repeats has its effect (R83, R91, R421). -/
def State.issued (s : State) (st : Station) (q : Queue) (i : Instr) : State := (s.noteIssue st q).draws q i

theorem State.issued_sameQueues (s : State) (st : Station) (q : Queue) (i : Instr) : SameQueues s (s.issued st q i) q :=
  (s.noteIssue_sameQueues st q).trans (State.draws_sameQueues _ q i)

theorem State.issueOne_eq {s : State} {st : Station} {q : Queue} {i : Instr} (h : s.CanIssue st q i) (f : State → State) :
    s.issueOne st q i f = .next ((f (s.issued st q i)).advance st q) := by
  rw [State.issueOne, State.issueWith_eq s st q i _ h, State.issued]

/-! ### The passage to the next instruction (R84, R85, R100) -/

/-- No pass ends at an instruction that is the TARGET of no active loop. -/
theorem QState.pass_of_no_loop {z : QState} {x : Nat} (h : ∀ e ∈ z.loops, e.2.target ≠ x) (sc : Nat) :
    z.pass x sc = { z with pc := x + 1, notBefore := sc + 1 } := by
  have hf : (z.loops.filter fun e => e.2.target == x) = [] := List.filter_eq_nil_iff.2 fun e he => by simpa using h e he
  rw [QState.pass, loopsEnd, hf]
  rfl

section
variable {s : State} {st : Station} {q : Queue}

theorem State.advance_of_lt (hp : (s.q st q).pc < 4095) (hl : ∀ e ∈ (s.q st q).loops, e.2.target ≠ (s.q st q).pc) :
    s.advance st q = s.updQ st q fun z => { z with pc := z.pc + 1, notBefore := s.sc + 1 } := by
  have he : (s.updQ st q fun z => z.pass z.pc s.sc) = s.updQ st q fun z => { z with pc := z.pc + 1, notBefore := s.sc + 1 } :=
    s.updQ_congr st q (QState.pass_of_no_loop hl s.sc)
  simp only [State.advance, he, State.q_updQ_self]
  rw [if_neg (by omega)]

theorem State.advance_of_last (hp : (s.q st q).pc = 4095) (hl : ∀ e ∈ (s.q st q).loops, e.2.target ≠ (s.q st q).pc) :
    s.advance st q = (s.updQ st q fun z => { z with pc := 4095, notBefore := s.sc + 1 }).faultQ st q.line q.task .pcOverrun := by
  have he : (s.updQ st q fun z => z.pass z.pc s.sc) = s.updQ st q fun z => { z with pc := z.pc + 1, notBefore := s.sc + 1 } :=
    s.updQ_congr st q (QState.pass_of_no_loop hl s.sc)
  simp only [State.advance, he, State.q_updQ_self, State.updQ_updQ]
  rw [if_pos (by omega)]

theorem State.advance_sc : (s.advance st q).sc = s.sc := (s.advance_frame st q).1.sc
theorem State.advance_notBefore : ((s.advance st q).q st q).notBefore = s.sc + 1 := by
  simp only [State.advance]
  split <;> simp [QState.pass]

/-- An issue that ends by the passage to the next instruction passes on, when its effect has left pc and loops alone. -/
theorem PassesOn.advance {u : State} (hs : u.sc = s.sc) (hp : (u.q st q).pc = (s.q st q).pc)
    (hl : (u.q st q).loops = (s.q st q).loops) : PassesOn s (u.advance st q) st q := by
  intro hpc hno
  rw [State.advance_of_lt (hp ▸ hpc) (by rwa [hp, hl]), State.q_updQ_self]
  exact ⟨by rw [hp], hl, by rw [hs]⟩

/-- An instruction without repeats that changes its own queue alone completes with that change and passes on. -/
theorem State.issueOne_own {i : Instr} {f : State → State} (g : QState → QState) (h : s.CanIssue st q i)
    (hf : f (s.issued st q i) = (s.issued st q i).updQ st q g) (hp : (g (s.q st q)).pc = (s.q st q).pc)
    (hl : (g (s.q st q)).loops = (s.q st q).loops) :
    ∃ t, s.issueOne st q i f = .next t ∧ OwnQueueOnly s t st q (g (s.q st q)) ∧ PassesOn s t st q := by
  obtain ⟨t, ht, ho⟩ := s.issueOne_updQ st q i f g h hf
  refine ⟨t, ht, ho, ?_⟩
  have hi := s.issued_sameQueues st q i
  rw [State.issueOne_eq h, hf] at ht
  obtain rfl := Host.Outcome.next.inj ht
  apply PassesOn.advance <;> simp [hi.sc, hi.ownQ, hp, hl]

end

/-! ### Fault records of the current sc (R366, R367) -/

@[simp] theorem mem_insertFault {r x : FaultRec} {l : List FaultRec} : x ∈ insertFault r l ↔ x = r ∨ x ∈ l := by
  induction l with
  | nil => simp [insertFault]
  | cons y l ih =>
    rw [insertFault]
    split
    · rw [List.mem_cons, ih, List.mem_cons]
      tauto
    · simp

@[simp] theorem length_insertFault (r : FaultRec) (l : List FaultRec) : (insertFault r l).length = l.length + 1 := by
  induction l with
  | nil => rfl
  | cons y l ih =>
    rw [insertFault]
    split <;> simp [ih]

/-- A fault of the current sc is recorded, and at most `n` records are kept so far. -/
structure State.Room (s : State) (n : Nat) : Prop where
  running : s.time.running = true
  notOver : ∀ f, s.job.faultSc = some f → s.sc ≤ f
  length : s.job.faults.length ≤ n

/-- There is room for more records, and one of the current sc that `P` describes is kept. -/
structure State.Recorded (s : State) (P : FaultRec → Prop) (n : Nat) : Prop extends s.Room n where
  faultSc : s.job.faultSc = some s.sc
  found : ∃ r ∈ s.job.faults, P r

section
variable {s t : State} {n m : Nat} {P : FaultRec → Prop}

theorem State.Room.mono (h : s.Room n) (hn : n ≤ m) : s.Room m := ⟨h.running, h.notOver, h.length.trans hn⟩
theorem State.Room.of_eq (h : s.Room n) (hr : t.time.running = s.time.running) (hs : t.sc = s.sc) (hj : t.job = s.job) : t.Room n :=
  ⟨hr ▸ h.running, by rw [hs, hj]; exact h.notOver, hj ▸ h.length⟩
theorem State.Recorded.mono (h : s.Recorded P n) (hn : n ≤ m) : s.Recorded P m := ⟨h.toRoom.mono hn, h.faultSc, h.found⟩
theorem State.Recorded.imp {Q : FaultRec → Prop} (h : s.Recorded P n) (hPQ : ∀ r, P r → Q r) : s.Recorded Q n :=
  ⟨h.toRoom, h.faultSc, h.found.imp fun r hr => ⟨hr.1, hPQ r hr.2⟩⟩
theorem State.Recorded.of_eq (h : s.Recorded P n) (hr : t.time.running = s.time.running) (hs : t.sc = s.sc) (hj : t.job = s.job) :
    t.Recorded P n :=
  ⟨h.toRoom.of_eq hr hs hj, by rw [hs, hj]; exact h.faultSc, hj ▸ h.found⟩

theorem State.Room.updLine (h : s.Room n) (l : Nat) (f : LineState → LineState) : (s.updLine l f).Room n := h.of_eq rfl rfl rfl
theorem State.Recorded.updLine (h : s.Recorded P n) (l : Nat) (f : LineState → LineState) : (s.updLine l f).Recorded P n :=
  h.of_eq rfl rfl rfl
theorem State.Recorded.updQ (h : s.Recorded P n) (st : Station) (q : Queue) (f : QState → QState) : (s.updQ st q f).Recorded P n :=
  h.updLine ..

theorem State.Room.of_canIssue {st : Station} {q : Queue} {i : Instr} (h : s.CanIssue st q i) (hn : s.job.faults.length ≤ n) :
    s.Room n := by
  obtain ⟨-, hm, -⟩ := h
  simp only [State.mayStart, State.mayIssue, Bool.and_eq_true, State.live, Option.all_eq_true, decide_eq_true_eq] at hm
  exact ⟨by tauto, by tauto, hn⟩

variable (k : FaultKind) (d : Nat) (u u2 : UnitRef) (addr aux e o : Nat) (r : Bool)

theorem State.faultAt_time (f : Nat) : (s.faultAt f k d u u2 addr aux e o r).time = s.time :=
  State.time_of_clock (State.faultAt_clock ..)
theorem State.faultAt_sc (f : Nat) : (s.faultAt f k d u u2 addr aux e o r).sc = s.sc := by rw [State.sc, State.faultAt_time, State.sc]

/-- What recording a fault of the current sc makes of the records. -/
theorem State.Room.faultAt_job (h : s.Room n) : ∃ x, x.kind = k.code ∧ x.detail = d ∧ x.unit = u ∧ x.unit2 = u2 ∧ x.sc = s.sc ∧
    x.addr = addr ∧ x.aux = aux ∧ (s.faultAt s.sc k d u u2 addr aux e o r).job.faultSc = some s.sc ∧
    (s.faultAt s.sc k d u u2 addr aux e o r).job.faults =
      (insertFault x (if s.job.faultSc.any (fun g => s.sc < g) then [] else s.job.faults)).take 16 := by
  have hf : (s.job.faultSc.any fun g => decide (g < s.sc)) = false := by
    rw [Option.any_eq_false]
    exact fun f hf => by simpa using h.notOver f hf
  unfold State.faultAt
  simp only [h.running, hf, Bool.not_true, Bool.false_eq_true, if_false]
  split <;> exact ⟨_, rfl, rfl, rfl, rfl, rfl, rfl, rfl, rfl, rfl⟩

/-- A fault of the current sc that finds room is kept. -/
theorem State.Room.faultAt (h : s.Room n) (hn : n ≤ 15) : (s.faultAt s.sc k d u u2 addr aux e o r).Recorded
    (fun x => x.kind = k.code ∧ x.detail = d ∧ x.unit = u ∧ x.unit2 = u2 ∧ x.sc = s.sc ∧ x.addr = addr ∧ x.aux = aux)
    (n + 1) := by
  obtain ⟨x, hk, hd, hu, hu2, hsc, ha, hx, hs, hf⟩ := h.faultAt_job k d u u2 addr aux e o r
  have hlen := h.length
  have htake (l : List FaultRec) (hl : l.length ≤ n) : (insertFault x l).take 16 = insertFault x l :=
    List.take_of_length_le (by simp; omega)
  have hkept : (if s.job.faultSc.any (fun g => s.sc < g) then [] else s.job.faults).length ≤ n := by
    split
    · simp
    · exact hlen
  rw [htake _ hkept] at hf
  refine ⟨⟨by rw [State.faultAt_time, h.running], ?_, ?_⟩, by rw [hs, State.faultAt_sc], x, by simp [hf], hk, hd, hu, hu2, hsc, ha, hx⟩
  · intro f hfs
    rw [hs] at hfs
    rw [State.faultAt_sc]
    exact (Option.some.inj hfs).le
  · rw [hf, length_insertFault]
    omega

/-- A record of the current sc stays when another fault of it is recorded. -/
theorem State.Recorded.faultAt (h : s.Recorded P n) (hn : n ≤ 15) : (s.faultAt s.sc k d u u2 addr aux e o r).Recorded P (n + 1) := by
  obtain ⟨x, -, -, -, -, -, -, -, -, hf⟩ := h.toRoom.faultAt_job k d u u2 addr aux e o r
  have hr := h.toRoom.faultAt k d u u2 addr aux e o r hn
  obtain ⟨y, hy, hP⟩ := h.found
  refine ⟨hr.toRoom, hr.faultSc, y, ?_, hP⟩
  have hlen := h.length
  rw [hf, h.faultSc, List.take_of_length_le (by simp; omega)]
  simp [hy]

end

section
variable {s : State} {n : Nat} {P : FaultRec → Prop} (st : Station) (q : Queue)

theorem State.Room.countNdc (h : s.Room n) (hn : n ≤ 15) (u : UnitRef) : (s.countNdc .yield u).Room (n + 1) := by
  have h1 : State.Room { s with time.cnt.ndc := wrap64 (s.time.cnt.ndc + 1), time.cnt.ndcY := sat32 (s.time.cnt.ndcY + 1) } n :=
    h.of_eq rfl rfl rfl
  simp only [State.countNdc]
  split
  · exact (h1.faultAt _ _ _ _ _ _ _ _ _ hn).toRoom
  · exact h1.mono n.le_succ

/-- The note of an issue records one fault at most, that of the nondeterminism counter (R57). -/
theorem State.Room.noteIssue (h : s.Room n) (hn : n ≤ 15) : (s.noteIssue st q).Room (n + 1) := by
  simp only [State.noteIssue]
  split
  · exact (h.updLine ..).countNdc hn _
  · exact (h.updLine ..).mono n.le_succ

theorem State.Room.issued (h : s.Room n) (hn : n ≤ 15) (i : Instr) : (s.issued st q i).Room (n + 1) := by
  rw [State.issued, State.draws]
  exact (h.noteIssue st q hn).updLine ..

/-- A fault of the queue in the current sc, at its pc. -/
theorem State.Room.faultQ (h : s.Room n) (hn : n ≤ 15) (k : FaultKind) (d addr aux e o : Nat) :
    (s.faultQ st q.line q.task k d addr aux e o).Recorded (fun x => x.kind = k.code ∧ x.sc = s.sc ∧
      x.unit = ⟨q.line, st.code, q.task, true, (s.q st q).pc⟩) (n + 1) := by
  refine (h.faultAt k d ⟨q.line, st.code, q.task, true, ((s.line q.line).q st q.task).pc⟩ .none addr aux e o false hn).imp ?_
  rintro x ⟨hk, -, hu, -, hs, -⟩
  exact ⟨hk, hs, hu⟩

/-- The passage to the next instruction records one fault at most, PC_OVERRUN, and keeps what is recorded. -/
theorem State.Recorded.advance (h : s.Recorded P n) (hn : n ≤ 15) : (s.advance st q).Recorded P (n + 1) := by
  simp only [State.advance]
  split
  · exact ((h.updQ ..).updQ ..).faultAt _ _ _ _ _ _ _ _ _ hn
  · exact (h.updQ ..).mono n.le_succ

/-- Past index 4,095 the passage to the next instruction is PC_OVERRUN (R85). -/
theorem State.Room.advance_of_last {st : Station} {q : Queue} (h : s.Room n) (hn : n ≤ 15) (hp : (s.q st q).pc = 4095)
    (hl : ∀ e ∈ (s.q st q).loops, e.2.target ≠ (s.q st q).pc) : (s.advance st q).Recorded (fun x => x.kind = 2 ∧ x.sc = s.sc ∧
      x.unit = ⟨q.line, st.code, q.task, true, 4095⟩) (n + 1) := by
  rw [State.advance_of_last hp hl]
  refine (State.Room.faultQ (s := s.updQ st q _) st q (h.updLine ..) hn .pcOverrun 0 0 0 0 0).imp ?_
  rintro x ⟨hk, hs, hu⟩
  exact ⟨hk, hs, by rw [hu, State.q_updQ_self]⟩

end

end Machine
end Sys2Proof
end

section
/-! SUPPORT. The instructions that set a register of their queue, and the passage to the next instruction (Table 3-5, R85, R96, R97). -/

namespace Sys2Proof.Machine

/-! ### ARSET, ASTSET, ARADD, ARSC, LCSET, REP (Table 3-5, R97) -/

/-- The count operand of a word that the loader accepts, by its CSRC (R97, R98). -/
theorem State.countOf_eq {s t : State} {st : Station} {q : Queue} {w : FmtC} {lc n : Nat} (h : SameQueues s t q) (hw : w.csrc ≠ 3)
    (h0 : w.csrc = 0 → n = w.count.toNat) (h1 : w.csrc = 1 → n = ((s.q st q).lc.look lc 0).toNat)
    (h2 : w.csrc = 2 → n = (s.scalar (s.ctx st q s.sc 0) w.sreg.toNat).toNat % 2 ^ 32) : t.countOf st q w lc = n := by
  have hs : t.scalar (t.ctx st q t.sc 0) w.sreg.toNat = s.scalar (s.ctx st q s.sc 0) w.sreg.toNat := by
    rw [h.sc, h.ctx]
    exact LineFrame.scalar h.line w.sreg.toNat
  have hc : w.csrc.toNat = 0 ∨ w.csrc.toNat = 1 ∨ w.csrc.toNat = 2 := by bv_omega
  rcases hc with hc | hc | hc <;> simp only [State.countOf, hc, h.ownQ, hs]
  · exact (h0 (BitVec.eq_of_toNat_eq hc)).symm
  · exact (h1 (BitVec.eq_of_toNat_eq hc)).symm
  · exact (h2 (BitVec.eq_of_toNat_eq hc)).symm

section
variable {s : State} {st : Station} {q : Queue}

theorem exec_arset_eq (w : FmtW) : exec (.arset st q w) s = execArset st q w s := rfl
theorem exec_astset_eq (w : FmtW) : exec (.astset st q w) s = execAstset st q w s := rfl
theorem exec_aradd_eq (w : FmtW) : exec (.aradd st q w) s = execAradd st q w s := rfl
theorem exec_arsc_eq (w : FmtW) : exec (.arsc st q w) s = execArsc st q w s := rfl
theorem exec_lcset_eq (w : FmtW) : exec (.lcset st q w) s = execLcset st q w s := rfl
theorem exec_rep_eq (w : FmtC) : exec (.rep st q w) s = execRep st q w s := rfl

theorem exec_arsc {w : FmtW} (h : s.CanIssue st q (.arsc st q w)) : ∃ t, exec (.arsc st q w) s = .next t ∧
    OwnQueueOnly s t st q { s.q st q with
      ar := (s.q st q).ar.put w.reg.toNat ((s.scalar (s.ctx st q s.sc 0) w.imm.toNat).extractLsb' 0 40) } ∧
    PassesOn s t st q := by
  have hi := s.issued_sameQueues st q (.arsc st q w)
  have hw := h.1
  simp only [Instr.wf, wfArsc, Bool.and_eq_true, decide_eq_true_eq] at hw
  rw [exec_arsc_eq, execArsc]
  refine State.issueOne_own (fun z => { z with
    ar := z.ar.put w.reg.toNat ((s.scalar (s.ctx st q s.sc 0) w.imm.toNat).extractLsb' 0 40) }) h ?_ rfl rfl
  simp only [hi.sc, hi.ctx, Nat.mod_eq_of_lt hw.2, BitVec.setWidth_eq_extractLsb' (show 40 ≤ 64 by decide)]
  rw [LineFrame.scalar hi.line]

/-- LCSET, with the fields that the loader has checked. -/
theorem exec_lcset {w : FmtW} (h : s.CanIssue st q (.lcset st q w)) : exec (.lcset st q w) s =
    s.issueOne st q (.lcset st q w) fun u => u.updQ st q fun z =>
      { z with lc := z.lc.put w.reg.toNat (w.imm.extractLsb' 0 32) } := by
  have hw := h.1
  simp only [Instr.wf, wfLcset, Bool.and_eq_true, decide_eq_true_eq] at hw
  rw [exec_lcset_eq, execLcset]
  simp only [Nat.mod_eq_of_lt hw.2, BitVec.setWidth_eq_extractLsb' (show 32 ≤ 40 by decide)]

theorem exec_rep {w : FmtC} {n : Nat} (h : s.CanIssue st q (.rep st q w)) (h0 : w.csrc = 0 → n = w.count.toNat)
    (h1 : w.csrc = 1 → n = ((s.q st q).lc.look 0 0).toNat)
    (h2 : w.csrc = 2 → n = (s.scalar (s.ctx st q s.sc 0) w.sreg.toNat).toNat % 2 ^ 32) : ∃ t, exec (.rep st q w) s = .next t ∧
    OwnQueueOnly s t st q { s.q st q with repLatch := some n } ∧ PassesOn s t st q := by
  have hw := h.1
  simp only [Instr.wf, wfRep, Bool.and_eq_true, decide_eq_true_eq] at hw
  rw [exec_rep_eq, execRep]
  refine State.issueOne_own (fun z => { z with repLatch := some n }) h ?_ rfl rfl
  simp only [State.countOf_eq (s.issued_sameQueues st q (.rep st q w)) hw.1.1 h0 h1 h2]

end

/-- Settles O6: each of the five, and REP, is an issue that changes its own queue and passes on. -/
theorem addressCountAndRepeatRegisters : Obligations.AddressCountAndRepeatRegisters := by
  refine ⟨fun s st q w => ⟨fun h => ?_, fun h => ?_, fun h => ?_, exec_arsc, fun h => ?_⟩, fun s st q w n => exec_rep⟩
  · rw [exec_arset_eq, execArset]
    exact State.issueOne_own (fun z => { z with ar := z.ar.put w.reg.toNat w.imm }) h rfl rfl rfl
  · rw [exec_astset_eq, execAstset]
    exact State.issueOne_own (fun z => { z with stride := z.stride.put w.reg.toNat w.imm }) h rfl rfl rfl
  · rw [exec_aradd_eq, execAradd]
    exact State.issueOne_own (fun z => { z with ar := z.ar.put w.reg.toNat (z.ar.look w.reg.toNat 0 + w.imm) }) h rfl rfl rfl
  · rw [exec_lcset h]
    exact State.issueOne_own (fun z => { z with lc := z.lc.put w.reg.toNat (w.imm.extractLsb' 0 32) }) h rfl rfl rfl

/-- Settles O7: `State.advance` passes on or records PC_OVERRUN, and an LCSET ends by it. -/
theorem programCounterAdvances : Obligations.ProgramCounterAdvances := by
  refine ⟨fun s st q hr hf hl => ⟨fun hp => ?_, fun hp hn => ?_⟩, fun s st q w h hl => ?_⟩
  · rw [State.advance_of_lt hp hl]
    simp
  · have hrec := State.Room.advance_of_last ⟨hr, hf, hn⟩ le_rfl hp hl
    exact ⟨hrec.faultSc.trans (congrArg some State.advance_sc), hrec.found⟩
  · have hi := s.issued_sameQueues st q (.lcset st q w)
    rw [exec_lcset h, State.issueOne_eq h]
    generalize hu : State.updQ (s.issued st q (.lcset st q w)) st q _ = u
    have hsc : u.sc = s.sc := by rw [← hu, State.sc_updQ, hi.sc]
    have hpc : (u.q st q).pc = (s.q st q).pc := by rw [← hu, State.q_updQ_self, hi.ownQ]
    have hlo : (u.q st q).loops = (s.q st q).loops := by rw [← hu, State.q_updQ_self, hi.ownQ]
    refine ⟨_, rfl, by rw [State.advance_notBefore, hsc], fun hp => (PassesOn.advance hsc hpc hlo hp hl).1, fun hp hn => ?_⟩
    have hroom : u.Room 14 := hu ▸ ((State.Room.of_canIssue h hn).issued st q (by decide) _).updLine ..
    have hrec := hroom.advance_of_last (by decide) (hpc.trans hp) (by rwa [hlo, hpc])
    rw [hsc] at hrec
    exact ⟨hrec.faultSc.trans (by rw [State.advance_sc, hsc]), hrec.found⟩

end Sys2Proof.Machine
end

section
/-! SUPPORT. LOOP, END and BAR (Table 3-5, R86, R98 to R104). -/

namespace Sys2Proof.Machine

theorem OwnQueueOnly.of_queueFrame {s t : State} {st : Station} {q : Queue} {a b : QState} (h : OwnQueueOnly s t st q b)
    (g : QueueFrame a b) : OwnQueueOnly s t st q a := by
  obtain ⟨hf, hl, ho, hq⟩ := h
  exact ⟨hf, hl, ho, g.trans hq⟩

/-! ### LOOP (R98 to R101) -/

section
variable {s : State} {st : Station} {q : Queue} {w : FmtC}

theorem exec_loop_eq (w : FmtC) : exec (.loop st q w) s = execLoop st q w s := rfl

theorem exec_loop (h : s.CanIssue st q (.loop st q w)) (ht : (s.q st q).pc < w.target.toNat) :
    exec (.loop st q w) s = .next ((s.noteIssue st q).openLoop st q w) := by
  rw [exec_loop_eq, execLoop, if_neg (by omega), State.issueWith_eq s st q _ _ h]

theorem State.openLoop_nests (h : ∃ e ∈ (s.q st q).loops, w.level.toNat ≤ e.1) :
    s.openLoop st q w = (s.faultQ st q.line q.task .loopNest).advance st q := by
  simp only [State.openLoop]
  rw [if_pos (by simpa using h)]

theorem State.openLoop_opens (h : ∀ e ∈ (s.q st q).loops, e.1 < w.level.toNat) (hn : 0 < s.countOf st q w w.level.toNat) :
    s.openLoop st q w = s.updQ st q fun z => { z with
      loops := z.loops.put w.level.toNat ⟨z.pc + 1, w.target.toNat, s.countOf st q w w.level.toNat⟩
      pc := z.pc + 1, notBefore := s.sc + 1 } := by
  simp only [State.openLoop]
  rw [if_neg (by simpa using h), if_neg hn.ne']

theorem State.openLoop_skips (h : ∀ e ∈ (s.q st q).loops, e.1 < w.level.toNat ∧ e.2.target ≠ w.target.toNat)
    (hn : s.countOf st q w w.level.toNat = 0) (ht : w.target.toNat < 4095) :
    s.openLoop st q w = s.updQ st q fun z => { z with pc := w.target.toNat + 1, notBefore := s.sc + 1 } := by
  have he : (s.updQ st q fun z => z.pass w.target.toNat s.sc) =
      s.updQ st q fun z => { z with pc := w.target.toNat + 1, notBefore := s.sc + 1 } :=
    s.updQ_congr st q (QState.pass_of_no_loop (fun e he => (h e he).2) s.sc)
  simp only [State.openLoop, he, State.q_updQ_self]
  rw [if_neg (by simpa using fun a b hb => (h (a, b) hb).1), if_pos hn, if_neg (by omega)]

/-- A pc past index 4,095 goes back to it with PC_OVERRUN (R85). -/
theorem OwnQueueOnly.overrun (s : State) (st : Station) (q : Queue) : OwnQueueOnly s (if 4095 < (s.q st q).pc then
    (s.updQ st q fun z => { z with pc := 4095 }).faultQ st q.line q.task .pcOverrun else s) st q (s.q st q) := by
  split
  · have h := (State.faultQ_sameQueues (s.updQ st q fun z => { z with pc := 4095 }) st q q.task .pcOverrun 0 0 0 0 0).ownQueueOnly st
    exact (OwnQueueOnly.trans (.updQ s st q fun z => { z with pc := 4095 }) h).of_queueFrame rfl
  · exact (SameQueues.refl s q).ownQueueOnly st

/-- Whatever a LOOP does, it changes its own queue alone, and of it the pc, the loops and the earliest sc. -/
theorem State.openLoop_frame (s : State) (st : Station) (q : Queue) (w : FmtC) :
    OwnQueueOnly s (s.openLoop st q w) st q (s.q st q) := by
  simp only [State.openLoop]
  split
  · exact ((s.faultQ_sameQueues st q q.task .loopNest 0 0 0 0 0).ownQueueOnly st).trans (State.advance_frame ..)
  · split
    · exact (OwnQueueOnly.trans (.updQ s st q _) (.overrun ..)).of_queueFrame (QState.pass_frame ..)
    · exact (OwnQueueOnly.updQ s st q _).of_queueFrame rfl

end

/-- Settles O8: the three outcomes of `State.openLoop` on the state that the note of the issue leaves. -/
theorem loopOpensSkipsOrNests : Obligations.LoopOpensSkipsOrNests := by
  intro s st q w n h ht h0 h1 h2
  have hi := s.noteIssue_sameQueues st q
  have hw := h.1
  simp only [Instr.wf, wfLoop, decide_eq_true_eq] at hw
  have hn := State.countOf_eq hi hw h0 h1 h2
  obtain ⟨hf, hl, ho, hq⟩ := (hi.ownQueueOnly st).trans (State.openLoop_frame _ st q w)
  refine ⟨_, exec_loop h ht, hf, hl, ho, hq, fun hb hp => ?_, fun hb hz htl => ?_, fun hb hlen => ?_⟩
  · rw [State.openLoop_opens (by rwa [hi.ownQ]) (by rwa [hn]), State.q_updQ_self, hi.ownQ, hi.sc, hn]
  · rw [State.openLoop_skips (by rwa [hi.ownQ]) (by rw [hn, hz]) htl, State.q_updQ_self, hi.ownQ, hi.sc]
  · have hrec := ((State.Room.of_canIssue h hlen).noteIssue st q (by decide)).faultQ st q (by decide) .loopNest 0 0 0 0 0
    rw [State.openLoop_nests (by rwa [hi.ownQ])]
    obtain ⟨r, hr, hk, hs, -⟩ := (hrec.advance st q (by decide)).found
    exact ⟨r, hr, hk, hs.trans hi.sc⟩

/-! ### END (R86, R234) -/

section
variable {s : State} {st : Station} {q : Queue}

theorem exec_endQueue_eq (w : FmtC) : exec (.endQueue st q w) s = execEndQueue st q w s := rfl

/-- The line of a CC queue that ends discards words; that of another station's queue does not. -/
def State.discards (s : State) (st : Station) (q : Queue) : State :=
  if st = .cc then s.updLine q.line fun L => L.endCc q.task else s

theorem State.discards_frame (s : State) (st : Station) (q : Queue) : IssueFrame s (s.discards st q) q.line := by
  unfold State.discards
  split
  · exact .updLine ..
  · exact .refl ..

theorem State.discards_line (s : State) (st : Station) (q : Queue) : (s.discards st q).line q.line =
    if st = .cc then (s.line q.line).endCc q.task else s.line q.line := by
  unfold State.discards
  split <;> simp

theorem LineFrame.endCc {L M : LineState} (h : LineFrame L M) (t : Nat) : LineFrame (L.endCc t) (M.endCc t) := by
  rw [h]
  rfl

theorem exec_endQueue {w : FmtC} (h : s.CanIssue st q (.endQueue st q w)) : exec (.endQueue st q w) s =
    .next (((s.noteIssue st q).updQ st q fun z => { z with ended := true, notBefore := s.sc + 1 }).discards st q) := by
  rw [exec_endQueue_eq, execEndQueue, State.issueWith_eq s st q _ _ h, State.sc_noteIssue]
  rfl

/-- A queue that has ended, or waits at a barrier, may not issue (R86, R103). -/
theorem State.mayIssue_of_not_ready {i : Instr} {j : Nat} (h : (s.q st q).ended = true ∨ (s.q st q).barWait.isSome = true) :
    s.mayIssue st q i j = false := by
  have hr : (s.line q.line).queueReady st q.task s.sc = false := by
    rw [State.q] at h
    rcases h with h | h
    · simp [LineState.queueReady, h]
    · simp [LineState.queueReady, Option.isSome_iff_ne_none.1 h]
  simp [State.mayIssue, hr]

end

/-- Settles O9: the issue marks its queue as ended, and an ended queue is not ready. -/
theorem endStopsTheQueue : Obligations.EndStopsTheQueue := by
  intro s st q w h
  have hi := s.noteIssue_sameQueues st q
  have hv := (hi.onlyQueue st).updQ fun z => { z with ended := true, notBefore := s.sc + 1 }
  have hq : State.q ((s.noteIssue st q).updQ st q fun z => { z with ended := true, notBefore := s.sc + 1 }) st q =
      { s.q st q with ended := true, notBefore := s.sc + 1 } := by rw [State.q_updQ_self, hi.ownQ]
  rw [exec_endQueue h]
  generalize (s.noteIssue st q).updQ st q (fun z => { z with ended := true, notBefore := s.sc + 1 }) = v at *
  have hqs (st' : Station) (t' : Nat) : ((v.discards st q).line q.line).q st' t' = (v.line q.line).q st' t' := by
    rw [State.discards_line]
    split <;> rfl
  refine ⟨v.discards st q, rfl, hv.frame.trans (v.discards_frame st q), ?_, fun st' t' hne => ?_, ?_, fun u i j hu => ?_⟩
  · rw [State.discards_line]
    split
    · exact hv.line.endCc _
    · exact hv.line
  · exact (hqs st' t').trans (hv.others st' t' hne)
  · exact (hqs st q.task).trans hq
  · exact State.mayIssue_of_not_ready (.inl hu)

/-! ### BAR (R103, R104) -/

section
variable {s : State} {st : Station} {q : Queue} {w : FmtC}

theorem exec_bar_eq (w : FmtC) : exec (.bar st q w) s = execBar st q w s := rfl

theorem mem_maskStations {m : BitVec 6} {st : Station} : st ∈ maskStations m ↔ m.getLsbD st.code = true := by
  cases st <;> simp [maskStations]

/-- A queue of the task waits at the barrier's BID. -/
def QState.waitsAt (z : QState) (w : FmtC) : Bool := match z.barWait with | some (b, _) => b == w.bid | none => false

/-- Another queue of the task waits at the barrier's BID with another MASK (R104). -/
def State.mismatches (s : State) (st : Station) (q : Queue) (w : FmtC) : Bool :=
  [Station.pt, .ls, .px, .mx, .vx, .cc].any fun st' =>
    st' != st && (match ((s.line q.line).q st' q.task).barWait with | some (b, m) => b == w.bid && m != w.mask | none => false)

/-- The queue waits at the barrier; R104 may have been met. -/
def State.barWaiting (s : State) (st : Station) (q : Queue) (w : FmtC) : State :=
  (State.advance ((if s.mismatches st q w then s.faultQ st q.line q.task .barMismatch else s).updQ st q fun z =>
    { z with repLatch := none }) st q).updQ st q fun z => { z with barWait := some (w.bid, w.mask) }

/-- The queues of MASK go on from the next sc. -/
def LineState.released (L : LineState) (t : Nat) (w : FmtC) (x : Nat) : LineState :=
  (maskStations w.mask).foldl (fun L st' => L.updQ st' t fun z => { z with barWait := none, notBefore := x + 1 }) L

/-- The queues of MASK are released when all of them wait at the BID. -/
def State.releaseAll (s : State) (q : Queue) (w : FmtC) : State :=
  if (maskStations w.mask).all fun st' => ((s.line q.line).q st' q.task).waitsAt w then
    s.updLine q.line fun L => L.released q.task w s.sc
  else s

theorem State.barrier_eq : s.barrier st q w = (s.barWaiting st q w).releaseAll q w := by
  unfold State.barrier
  extract_lets s1 s2 s3 L
  have h1 : s1 = if s.mismatches st q w then s.faultQ st q.line q.task .barMismatch else s := rfl
  have h3 : s3 = s.barWaiting st q w := by rw [State.barWaiting, ← h1]
  rw [← h3]
  clear_value s1 s3
  rfl

theorem State.barWaiting_onlyQueue : OnlyQueue s (s.barWaiting st q w) st q := by
  refine ((OnlyQueue.updQ _ ?_).advance).updQ _
  split
  · exact (s.faultQ_sameQueues st q q.task .barMismatch 0 0 0 0 0).onlyQueue st
  · exact (SameQueues.refl s q).onlyQueue st

theorem State.barWaiting_barWait : ((s.barWaiting st q w).q st q).barWait = some (w.bid, w.mask) := by
  rw [State.barWaiting, State.q_updQ_self]

/-- A released queue waits no more and goes on from the next sc. -/
theorem foldl_release {t x : Nat} {st : Station} (l : List Station) (L : LineState)
    (h : st ∈ l ∨ (L.q st t).barWait = none ∧ (L.q st t).notBefore = x + 1) :
    let M := l.foldl (fun L st' => L.updQ st' t fun z => { z with barWait := none, notBefore := x + 1 }) L
    (M.q st t).barWait = none ∧ (M.q st t).notBefore = x + 1 := by
  induction l generalizing L with
  | nil => simpa using h
  | cons a l ih =>
    refine ih _ ?_
    by_cases ha : a = st
    · simp [ha]
    · simp only [LineState.q_updQ, ha, false_and, if_false]
      simpa [Ne.symm ha] using h

theorem LineState.released_line (L : LineState) (t : Nat) (x : Nat) : LineFrame L (L.released t w x) := by
  unfold LineState.released
  induction maskStations w.mask generalizing L with
  | nil => rfl
  | cons a l ih => exact LineFrame.trans (M := L.updQ a t _) rfl (ih _)

end

/-- Settles O10: the queue waits, and whether all of MASK do decides if they are released. -/
theorem barrierWaitsAndReleases : Obligations.BarrierWaitsAndReleases := by
  intro s st q w h
  have hi := s.noteIssue_sameQueues st q
  rw [exec_bar_eq, execBar, State.issueWith_eq s st q _ _ h, State.barrier_eq, State.releaseAll]
  have hv := (hi.onlyQueue st).trans (State.barWaiting_onlyQueue (w := w))
  have hb := State.barWaiting_barWait (s := s.noteIssue st q) (st := st) (q := q) (w := w)
  generalize (s.noteIssue st q).barWaiting st q w = v at *
  refine ⟨_, rfl, ?_, ?_, fun hall => ?_, fun ⟨st', hm, hne, hno⟩ => ?_⟩
  · split
    · exact hv.frame.trans (.updLine ..)
    · exact hv.frame
  · split
    · simpa using hv.line.trans (LineState.released_line ..)
    · exact hv.line
  · have hw := h.1
    simp only [Instr.wf, wfBar, Bool.and_eq_true] at hw
    have hwait (st' : Station) (hm : w.mask.getLsbD st'.code = true) : ((v.line q.line).q st' q.task).barWait = some (w.bid, w.mask) := by
      by_cases he : st' = st
      · exact he ▸ hb
      · rw [hv.others st' q.task (.inl he), hall st' hm he]
    rw [if_pos (List.all_eq_true.2 fun st' hm => by simp [QState.waitsAt, hwait st' (mem_maskStations.1 hm)])]
    intro st' hm
    rw [State.line_updLine, if_pos rfl, hv.sc]
    exact foldl_release _ _ (.inl (mem_maskStations.2 hm))
  · rw [if_neg]
    · exact ⟨hb, hv.others, fun i j => State.mayIssue_of_not_ready (.inr (by simp [hb]))⟩
    · rw [List.all_eq_true]
      intro hall
      have ha := hall st' (mem_maskStations.2 hm)
      rw [hv.others st' q.task (.inl hne), QState.waitsAt] at ha
      split at ha
      · next b m he => exact hno m (by rw [he, eq_of_beq ha])
      · cases ha

/-- Settles O11: the mismatch is recorded before the queue passes on, and the room left keeps it. -/
theorem barrierMaskMismatchIsAFault : Obligations.BarrierMaskMismatchIsAFault := by
  intro s st st' q w m h hne hb hm hlen
  have hi := s.noteIssue_sameQueues st q
  have hmis : (s.noteIssue st q).mismatches st q w = true := by
    refine List.any_eq_true.2 ⟨st', by cases st' <;> simp, ?_⟩
    simp [hi.lineQ, hb, hne, hm]
  have hw : ((s.noteIssue st q).barWaiting st q w).Recorded
      (fun x => x.kind = 4 ∧ x.sc = s.sc ∧ x.unit = ⟨q.line, st.code, q.task, true, (s.q st q).pc⟩) 15 := by
    have hf := ((State.Room.of_canIssue h hlen).noteIssue st q (by decide)).faultQ st q (by decide) .barMismatch 0 0 0 0 0
    rw [hi.sc, hi.ownQ] at hf
    rw [State.barWaiting, if_pos hmis]
    exact ((hf.updQ ..).advance _ _ (by decide)).updQ ..
  have hv := (hi.onlyQueue st).trans (State.barWaiting_onlyQueue (w := w))
  rw [exec_bar_eq, execBar, State.issueWith_eq s st q _ _ h, State.barrier_eq, State.releaseAll]
  refine ⟨_, rfl, ?_⟩
  split
  · exact ⟨hw.faultSc.trans (congrArg some hv.sc), hw.found⟩
  · exact ⟨hw.faultSc.trans (congrArg some hv.sc), hw.found⟩

end Sys2Proof.Machine
end

section
/-! SUPPORT. Repeats (R89, R93, R97): the first repeat of an instruction, the later ones, and what a repeat keeps of the instruction
that is outstanding. -/

namespace Sys2Proof.Machine

/-! ### What a repeat keeps of its instruction -/

/-- The instruction that is outstanding, how many repeats it has and how many have been made, and its issue sc. -/
def Outst.plan (o : Outst) : Instr × Nat × Nat × Nat := (o.instr, o.total, o.done, o.c0)

@[simp] theorem snd_plan_ite (c : Prop) [Decidable c] (a b : State × Outst) :
    (if c then a else b).2.plan = if c then a.2.plan else b.2.plan := by split <;> rfl
@[simp] theorem plan_mk (o : Outst) (base stride base2 str2 : BitVec 40) (nums : List Nat) (buf buf2 : List BeatData) :
    Outst.plan ⟨o.instr, o.total, o.done, o.c0, base, stride, base2, str2, nums, buf, buf2⟩ = o.plan := rfl

section
variable (w : FmtO) (m : FmtM) (s : State) (k : Ctx) (o : Outst)

@[simp] theorem State.lwRep_plan : (State.lwRep w s k o).2.plan = o.plan := by simp [State.lwRep]
@[simp] theorem State.swapRep_plan : (State.swapRep s k o).2.plan = o.plan := by simp [State.swapRep]
@[simp] theorem State.anchorRep_plan : (State.anchorRep w s k o).2.plan = o.plan := rfl
@[simp] theorem State.rdregRep_plan : (State.rdregRep w s k o).2.plan = o.plan := rfl
@[simp] theorem State.mmRepeat_plan : (State.mmRepeat w s k o).2.plan = o.plan := by simp [State.mmRepeat]
@[simp] theorem State.aclrRepeat_plan : (State.aclrRepeat w s k o).2.plan = o.plan := by simp [State.aclrRepeat]
@[simp] theorem State.vxOpRep_plan : (State.vxOpRep w s k o).2.plan = o.plan := rfl
@[simp] theorem State.fmaRep_plan : (State.fmaRep w s k o).2.plan = o.plan := rfl
@[simp] theorem State.selRep_plan : (State.selRep w s k o).2.plan = o.plan := rfl
@[simp] theorem State.vxFnRep_plan : (State.vxFnRep w s k o).2.plan = o.plan := rfl
@[simp] theorem State.accrdRep_plan : (State.accrdRep w s k o).2.plan = o.plan := by simp [State.accrdRep]
@[simp] theorem State.cvtStep_plan : (State.cvtStep w s k o).2.plan = o.plan := by simp [State.cvtStep]
@[simp] theorem State.dropRep_plan : (State.dropRep w s k o).2.plan = o.plan := rfl
@[simp] theorem State.ropeRep_plan : (State.ropeRep w s k o).2.plan = o.plan := rfl
@[simp] theorem State.rclrRep_plan : (State.rclrRep w s k o).2.plan = o.plan := rfl
@[simp] theorem State.raccRep_plan : (State.raccRep w s k o).2.plan = o.plan := by simp [State.raccRep]
@[simp] theorem State.rrdRep_plan : (State.rrdRep w s k o).2.plan = o.plan := by
  unfold State.rrdRep
  split <;> simp
@[simp] theorem State.rfldRep_plan : (State.rfldRep w s k o).2.plan = o.plan := by simp [State.rfldRep]
@[simp] theorem State.summRep_plan : (State.summRep w s k o).2.plan = o.plan := by simp [State.summRep]
@[simp] theorem State.f64sRep_plan : (State.f64sRep w s k o).2.plan = o.plan := by simp [State.f64sRep]
@[simp] theorem State.trRep_plan : (State.trRep w s k o).2.plan = o.plan := by simp [State.trRep]
@[simp] theorem State.tldRep_plan : (State.tldRep w s k o).2.plan = o.plan := rfl
@[simp] theorem State.trdRep_plan : (State.trdRep w s k o).2.plan = o.plan := rfl
@[simp] theorem State.gathRep_plan : (State.gathRep w s k o).2.plan = o.plan := by simp [State.gathRep]
@[simp] theorem State.scatRep_plan : (State.scatRep w s k o).2.plan = o.plan := by simp [State.scatRep]
@[simp] theorem State.cmpxRep_plan : (State.cmpxRep w s k o).2.plan = o.plan := by simp [State.cmpxRep]
@[simp] theorem State.lpermRep_plan : (State.lpermRep w s k o).2.plan = o.plan := rfl
@[simp] theorem State.pk6Rep_plan : (State.pk6Rep w s k o).2.plan = o.plan := rfl
@[simp] theorem State.up6Rep_plan : (State.up6Rep w s k o).2.plan = o.plan := rfl
@[simp] theorem State.lsRdRep_plan : (State.lsRdRep m s k o).2.plan = o.plan := by
  unfold State.lsRdRep
  split <;> rfl
@[simp] theorem State.lsWrRep_plan : (State.lsWrRep m s k o).2.plan = o.plan := by
  unfold State.lsWrRep
  dsimp only
  split <;> rfl
@[simp] theorem State.lsFillRep_plan : (State.lsFillRep m s k o).2.plan = o.plan := by
  unfold State.lsFillRep
  dsimp only
  split <;> rfl
@[simp] theorem State.lsCopyRep_plan : (State.lsCopyRep m s k o).2.plan = o.plan := by
  unfold State.lsCopyRep
  dsimp only
  split <;> rfl
@[simp] theorem State.pgrpRep_plan : (State.pgrpRep w s k o).2.plan = o.plan := by
  unfold State.pgrpRep
  dsimp only
  split <;> rfl
@[simp] theorem State.ptGetRep_plan : (State.ptGetRep m s k o).2.plan = o.plan := by
  unfold State.ptGetRep
  split <;> rfl
@[simp] theorem State.ptPutRep_plan : (State.ptPutRep m s k o).2.plan = o.plan := by
  unfold State.ptPutRep
  dsimp only
  split
  · rfl
  · split <;> rfl
@[simp] theorem State.ptSendRep_plan : (State.ptSendRep w s k o).2.plan = o.plan := by simp [State.ptSendRep]
@[simp] theorem State.ptGmvRep_plan : (State.ptGmvRep m s k o).2.plan = o.plan := by simp [State.ptGmvRep]
@[simp] theorem State.ptFgetRep_plan : (State.ptFgetRep m s k o).2.plan = o.plan := by
  unfold State.ptFgetRep
  dsimp only
  split <;> simp
@[simp] theorem State.fput_plan (g : Region) (addr : Nat) (payload : BitVec 2048) :
    (State.fput s k g o addr payload).2.plan = o.plan := by simp [State.fput]
@[simp] theorem State.ptFputRep_plan : (State.ptFputRep m s k o).2.plan = o.plan := by
  unfold State.ptFputRep
  dsimp only
  split
  · rfl
  · split <;> simp

/-- Whatever the instruction, a repeat keeps which instruction is outstanding and how many repeats it has. -/
theorem repStep_plan (i : Instr) : (repStep i s k o).2.plan = o.plan := by
  unfold repStep
  split <;> simp

end

/-! ### The end of a repeat (R93, R96) -/

section
variable {s : State} {st : Station} {q : Queue} {o : Outst}

theorem QueueFrame.outst {a b : QState} (h : QueueFrame a b) : b.outst = a.outst := by rw [h]
theorem QueueFrame.repLatch {a b : QState} (h : QueueFrame a b) : b.repLatch = a.repLatch := by rw [h]
theorem State.advance_queueFrame : QueueFrame (s.q st q) ((s.advance st q).q st q) := (s.advance_frame st q).2.2.2

theorem State.endRepeat_more (h : o.done + 1 < o.total) : s.endRepeat st q o =
    s.updQ st q fun z => { z with outst := some { o with done := o.done + 1 }, notBefore := s.sc + 1 } := by
  rw [State.endRepeat, if_pos h]

theorem State.endRepeat_last (h : o.total ≤ o.done + 1) : s.endRepeat st q o =
    (s.updQ st q fun z => { (o.post z o.total) with outst := none }).advance st q := by
  rw [State.endRepeat, if_neg (by omega)]

theorem State.endRepeat_onlyQueue : OnlyQueue s (s.endRepeat st q o) st q := by
  rcases Nat.lt_or_ge (o.done + 1) o.total with h | h
  · rw [State.endRepeat_more h]
    exact ((SameQueues.refl s q).onlyQueue st).updQ _
  · rw [State.endRepeat_last h]
    exact (((SameQueues.refl s q).onlyQueue st).updQ _).advance

theorem Outst.post_repLatch (z : QState) (n : Nat) : (o.post z n).repLatch = z.repLatch := by
  unfold Outst.post
  split
  · split
    · dsimp only
      split <;> rfl
    · rfl
  · split
    · dsimp only
      split <;> rfl
    · rfl

theorem State.endRepeat_repLatch : ((s.endRepeat st q o).q st q).repLatch = (s.q st q).repLatch := by
  rcases Nat.lt_or_ge (o.done + 1) o.total with h | h
  · rw [State.endRepeat_more h, State.q_updQ_self]
  · rw [State.endRepeat_last h, State.advance_queueFrame.repLatch, State.q_updQ_self]
    exact Outst.post_repLatch ..

theorem State.endRepeat_outst_last (h : o.total ≤ o.done + 1) : ((s.endRepeat st q o).q st q).outst = none := by
  rw [State.endRepeat_last h, State.advance_queueFrame.outst, State.q_updQ_self]

theorem State.endRepeat_outst_more (h : o.done + 1 < o.total) :
    ((s.endRepeat st q o).q st q).outst = some { o with done := o.done + 1 } := by
  rw [State.endRepeat_more h, State.q_updQ_self]

end

/-! ### The first repeat (R93, R97) -/

section
variable {s : State} {st : Station} {q : Queue} {i : Instr}

/-- The state on which the first repeat has its effect: the count that REP latched is used up. -/
def State.begun (s : State) (st : Station) (q : Queue) (i : Instr) : State :=
  ((s.noteIssue st q).updQ st q fun z => { z with repLatch := none }).draws q i

theorem State.begun_onlyQueue : OnlyQueue s (s.begun st q i) st q :=
  (((s.noteIssue_sameQueues st q).onlyQueue st).updQ _).trans ((State.draws_sameQueues _ q i).onlyQueue st)

theorem State.q_begun : (s.begun st q i).q st q = { s.q st q with repLatch := none } := by
  rw [State.begun, (State.draws_sameQueues _ q i).ownQ, State.q_updQ_self, State.q_noteIssue]

theorem State.ctx_begun (c0 j : Nat) : (s.begun st q i).ctx st q c0 j = s.ctx st q c0 j := by
  rw [State.ctx, State.ctx, State.begun_onlyQueue.sc, State.q_begun]

theorem State.outstOf_noteIssue : (s.noteIssue st q).outstOf st q i = s.outstOf st q i := by
  simp only [State.outstOf, State.q_noteIssue, State.sc_noteIssue]

theorem State.outstOf_plan : (s.outstOf st q i).plan = (i, (s.q st q).repLatch.getD (i.repcnt + 1), 0, s.sc) := by
  simp only [State.outstOf, Outst.plan]
  cases (s.q st q).repLatch <;> cases i.fmtM? <;> rfl

/-- A latched count of zero takes one sc and performs nothing. -/
theorem State.issueRep_zero (h : s.CanIssue st q i) (hz : (s.q st q).repLatch = some 0)
    (step begin_ : State → Ctx → Outst → State × Outst) : s.issueRep st q i step begin_ =
    .next (((s.noteIssue st q).updQ st q fun z => { z with repLatch := none }).advance st q) := by
  have ht : (s.outstOf st q i).total = 0 := by
    have hp := congrArg (·.2.1) (s.outstOf_plan (st := st) (q := q) (i := i))
    rwa [hz] at hp
  rw [State.issueRep, State.issueWith_eq s st q _ _ h]
  dsimp only
  rw [State.outstOf_noteIssue, if_pos ht]

/-- The first repeat by `step`. -/
theorem State.issueRep_eq (h : s.CanIssue st q i) (hr : s.Repeats st q) (step : State → Ctx → Outst → State × Outst) :
    s.issueRep st q i step =
      .next ((step (s.begun st q i) (s.ctx st q s.sc 0) (s.outstOf st q i)).1.endRepeat st q
        (step (s.begun st q i) (s.ctx st q s.sc 0) (s.outstOf st q i)).2) := by
  have hp := s.outstOf_plan (st := st) (q := q) (i := i)
  have hc : (s.outstOf st q i).c0 = s.sc := congrArg (·.2.2.2) hp
  have ht : (s.outstOf st q i).total ≠ 0 := by
    rw [show (s.outstOf st q i).total = _ from congrArg (·.2.1) hp]
    cases hl : (s.q st q).repLatch with
    | none => simp
    | some n => exact fun hn => hr (by rw [hl, ← hn]; rfl)
  rw [State.issueRep, State.issueWith_eq s st q _ _ h]
  dsimp only
  rw [State.outstOf_noteIssue, if_neg ht, ← State.begun, hc, State.ctx_begun]

end

end Sys2Proof.Machine
end

section
/-! SUPPORT. NOP, REPEAT_ISSUE, and the task that a station issues for (R87, R89, R91, R93, R97). -/

namespace Sys2Proof.Machine

/-! ### NOP (Table 3-5, R97) -/

section
variable {s : State} {st : Station} {q : Queue}

theorem exec_nop_eq (w : FmtO) : exec (.nop st q w) s = execNop st q w s := rfl

/-- A NOP is the end of its first repeat, or the passage that a latched count of zero takes. -/
theorem exec_nop {w : FmtO} (h : s.CanIssue st q (.nop st q w)) : exec (.nop st q w) s = .next
    (if (s.q st q).repLatch = some 0 then
      ((s.noteIssue st q).updQ st q fun z => { z with repLatch := none }).advance st q
    else (s.begun st q (.nop st q w)).endRepeat st q (s.outstOf st q (.nop st q w))) := by
  rw [exec_nop_eq, execNop]
  split
  · next hz => exact State.issueRep_zero h hz _ _
  · next hz => exact State.issueRep_eq h hz _

theorem State.outst_none_of_mayStart {i : Instr} (h : s.CanIssue st q i) : (s.q st q).outst = none := by
  obtain ⟨-, hm, -⟩ := h
  simp only [State.mayStart, Bool.and_eq_true, Option.isNone_iff_eq_none] at hm
  exact hm.2

theorem nop_repeats {w : FmtO} {n : Nat} (h : s.CanIssue st q (.nop st q w))
    (hn : n = (s.q st q).repLatch.getD (w.repcnt.toNat + 1)) :
    ∃ t, exec (.nop st q w) s = .next t ∧ IssueFrame s t q.line ∧ LineFrame (s.line q.line) (t.line q.line) ∧
      OtherQueues (s.line q.line) (t.line q.line) st q.task ∧ (t.q st q).repLatch = none ∧
      (n ≤ 1 → (t.q st q).outst = none) ∧
      (1 < n → (t.q st q).pc = (s.q st q).pc ∧ (t.q st q).notBefore = s.sc + 1 ∧
        ∃ o, (t.q st q).outst = some o ∧ o.instr = .nop st q w ∧ o.done = 1 ∧ o.total = n) := by
  rw [exec_nop h]
  by_cases hz : (s.q st q).repLatch = some 0
  · have hf := (((s.noteIssue_sameQueues st q).onlyQueue st).updQ fun z => { z with repLatch := none }).advance
    rw [if_pos hz]
    refine ⟨_, rfl, hf.frame, hf.line, hf.others, ?_, fun _ => ?_, fun h1 => ?_⟩
    · rw [State.advance_queueFrame.repLatch, State.q_updQ_self]
    · rw [State.advance_queueFrame.outst, State.q_updQ_self, State.q_noteIssue, State.outst_none_of_mayStart h]
    · rw [hn, hz] at h1
      exact absurd h1 (by simp)
  · have hf := (State.begun_onlyQueue (s := s) (st := st) (q := q) (i := .nop st q w)).trans
      (State.endRepeat_onlyQueue (o := s.outstOf st q (.nop st q w)))
    have hp : (s.outstOf st q (.nop st q w)).plan = (.nop st q w, n, 0, s.sc) := by rw [State.outstOf_plan, hn]; rfl
    generalize s.outstOf st q (.nop st q w) = o at *
    obtain ⟨hoi, hot, hod, -⟩ : o.instr = _ ∧ o.total = n ∧ o.done = 0 ∧ o.c0 = _ := by simpa [Outst.plan] using hp
    rw [if_neg hz]
    refine ⟨_, rfl, hf.frame, hf.line, hf.others, ?_, fun h1 => ?_, fun h1 => ?_⟩
    · rw [State.endRepeat_repLatch, State.q_begun]
    · exact State.endRepeat_outst_last (by omega)
    · rw [State.endRepeat_more (by omega), State.q_updQ_self, State.q_begun, State.begun_onlyQueue.sc]
      exact ⟨rfl, rfl, _, rfl, hoi, by rw [hod], hot⟩

end

/-! ### REPEAT_ISSUE (R89, R93) -/

section
variable {s : State} {st : Station} {q : Queue}

theorem exec_repeatIssue_eq : exec (.repeatIssue st q) s = execRepeatIssue st q s := rfl

theorem exec_repeatIssue {o : Outst} (ho : (s.q st q).outst = some o) (hm : s.mayIssue st q o.instr o.done = true) :
    exec (.repeatIssue st q) s = .next (s.nextRep st q o (repStep o.instr)) := by
  rw [exec_repeatIssue_eq, execRepeatIssue, ho]
  simp only [hm, if_true]

/-- A later repeat ends with the same plan as it began. -/
theorem State.nextRep_eq (s : State) (st : Station) (q : Queue) (o : Outst) :
    ∃ (u : State) (o' : Outst), s.nextRep st q o (repStep o.instr) = u.endRepeat st q o' ∧ o'.plan = o.plan :=
  ⟨_, _, rfl, repStep_plan ..⟩

theorem repeatIssue_counts {o : Outst} (ho : (s.q st q).outst = some o) (hm : s.mayIssue st q o.instr o.done = true) :
    ∃ t, exec (.repeatIssue st q) s = .next t ∧
      (o.done + 1 < o.total →
        ∃ o', (t.q st q).outst = some o' ∧ o'.instr = o.instr ∧ o'.total = o.total ∧ o'.done = o.done + 1) ∧
      (o.total ≤ o.done + 1 → (t.q st q).outst = none) := by
  obtain ⟨u, o', hu, hp⟩ := s.nextRep_eq st q o
  obtain ⟨hi, ht, hd, -⟩ : o'.instr = o.instr ∧ o'.total = o.total ∧ o'.done = o.done ∧ o'.c0 = o.c0 := by
    simpa [Outst.plan] using hp
  refine ⟨_, (exec_repeatIssue ho hm).trans (congrArg _ hu), fun h => ?_, fun h => ?_⟩
  · exact ⟨_, State.endRepeat_outst_more (by omega), hi, ht, congrArg (· + 1) hd⟩
  · exact State.endRepeat_outst_last (by omega)

end

/-! ### The task that a station issues for (R87, R91) -/

section
variable {s : State} {st : Station} {q : Queue} {n : Nat}

theorem State.slotFor_eq {l t : Nat} (hr : (s.line l).rotTask st s.sc = some n) : s.slotFor st l t =
    if n = t then (true, false)
    else if s.time.yield && s.dqNext st l n == some false && s.yieldPick st l n == some t then (true, true)
    else (false, false) := by
  simp only [State.slotFor, hr]

theorem State.slotFor_of_mayIssue {i : Instr} {j : Nat} (h : s.mayIssue st q i j = true) : (s.slotFor st q.line q.task).1 = true := by
  simp only [State.mayIssue, Bool.and_eq_true] at h
  tauto

theorem State.mayIssue_of_not_dqFree {i : Instr} {j : Nat} (hy : s.time.yield = true)
    (hd : s.dqFree st q.line q.task i j = false) : s.mayIssue st q i j = false := by
  simp [State.mayIssue, hy, hd]

/-- The task that stands in is the first of the three after the named one that can issue. -/
theorem State.yieldPick_spec {l t : Nat} (h : s.yieldPick st l n = some t) : ∃ d, 1 ≤ d ∧ d ≤ 3 ∧ t = (n + d) % 4 ∧
    s.dqNext st l t = some true ∧ ∀ e, 1 ≤ e → e < d → s.dqNext st l ((n + e) % 4) ≠ some true := by
  have hp : s.dqNext st l t = some true := by simpa using List.find?_some h
  simp only [State.yieldPick, List.map_cons, List.map_nil, List.find?_cons, List.find?_nil] at h
  split at h
  · exact ⟨1, le_rfl, by decide, (Option.some.inj h).symm, hp, fun e h1 h2 => by omega⟩
  next h1 =>
  split at h
  · refine ⟨2, by decide, by decide, (Option.some.inj h).symm, hp, fun e he hlt => ?_⟩
    obtain rfl : e = 1 := by omega
    simpa using h1
  next h2 =>
  split at h
  · refine ⟨3, by decide, le_rfl, (Option.some.inj h).symm, hp, fun e he hlt => ?_⟩
    obtain rfl | rfl : e = 1 ∨ e = 2 := by omega
    · simpa using h1
    · simpa using h2
  · cases h

/-- An issue for a task that the rotation does not name stands in for the named one. -/
theorem State.standsIn (hr : (s.line q.line).rotTask st s.sc = some n) (hn : n ≠ q.task) {i : Instr} {j : Nat}
    (h : s.mayIssue st q i j = true) : (s.slotFor st q.line q.task).2 = true ∧ s.time.yield = true ∧
      s.dqNext st q.line n = some false ∧ s.yieldPick st q.line n = some q.task.val := by
  have hs := State.slotFor_of_mayIssue h
  rw [State.slotFor_eq hr, if_neg hn] at hs ⊢
  split at hs
  · next hc =>
    rw [if_pos hc]
    simp only [Bool.and_eq_true, beq_iff_eq] at hc
    exact ⟨rfl, hc.1.1, hc.1.2, hc.2⟩
  · cases hs

theorem State.noteIssue_time_of_named (h : (s.slotFor st q.line q.task).2 = false) : (s.noteIssue st q).time = s.time := by
  simp [State.noteIssue, h]

theorem State.countNdc_yield_cnt (u : UnitRef) : (s.countNdc .yield u).time.cnt.ndc = wrap64 (s.time.cnt.ndc + 1) ∧
    (s.countNdc .yield u).time.cnt.ndcY = sat32 (s.time.cnt.ndcY + 1) := by
  simp only [State.countNdc]
  split
  · rw [State.faultAt_time]
    exact ⟨rfl, rfl⟩
  · exact ⟨rfl, rfl⟩

theorem State.noteIssue_cnt_of_standIn (h : (s.slotFor st q.line q.task).2 = true) :
    (s.noteIssue st q).time.cnt.ndc = wrap64 (s.time.cnt.ndc + 1) ∧
    (s.noteIssue st q).time.cnt.ndcY = sat32 (s.time.cnt.ndcY + 1) := by
  simp only [State.noteIssue, h, if_true]
  exact State.countNdc_yield_cnt _

theorem State.advance_time : (s.advance st q).time = s.time := by
  simp only [State.advance]
  split
  · exact State.faultAt_time ..
  · rfl

/-- An LCSET counts in the nondeterminism counters when it stands in for the named task, and only then. -/
theorem exec_lcset_cnt {w : FmtW} (h : s.CanIssue st q (.lcset st q w)) : ∃ t, exec (.lcset st q w) s = .next t ∧
    t.time = (s.noteIssue st q).time := by
  rw [exec_lcset h, State.issueOne_eq h]
  exact ⟨_, rfl, State.advance_time⟩

end

/-- Settles O12: NOP and REPEAT_ISSUE by the end of a repeat, the rest by the task that the station issues for. -/
theorem repeatsAreIssuedAndCounted : Obligations.RepeatsAreIssuedAndCounted := by
  refine ⟨fun s st q w n => nop_repeats, fun s st q o => repeatIssue_counts, fun s st q i j n hr =>
    ⟨State.mayIssue_of_not_dqFree, fun hn h => ?_⟩, fun s st q w n h hr => ?_⟩
  · obtain ⟨-, hy, hd, hp⟩ := State.standsIn hr hn h
    exact ⟨hy, hd, State.yieldPick_spec hp⟩
  · obtain ⟨t, ht, htime⟩ := exec_lcset_cnt h
    refine ⟨t, ht, fun hn => ?_, fun hn => ?_⟩
    · have hm : s.mayIssue st q (.lcset st q w) 0 = true := by
        have := h.2.1
        simp only [State.mayStart, Bool.and_eq_true] at this
        exact this.1
      rw [htime]
      exact State.noteIssue_cnt_of_standIn (State.standsIn hr hn hm).1
    · rw [htime, State.noteIssue_time_of_named]
      rw [State.slotFor_eq hr, if_pos hn]

end Sys2Proof.Machine
end

section
/-! SUPPORT. Results that are due (R74, R106, R184, R204), and the entries of a full data queue (R107). -/

namespace Sys2Proof.Machine

/-! ### A store that a reader of the same sc still finds as it was (R184, R204) -/

@[simp] theorem Stamped.at_write_next {α : Type} (v : Stamped α) (u : Nat) (a : α) : (v.write u a).at (u + 1) = a := by
  simp [Stamped.at, Stamped.write]

@[simp] theorem Stamped.at_write_self {α : Type} (v : Stamped α) (u : Nat) (a : α) : (v.write u a).at u = v.at u := by
  simp [Stamped.at, Stamped.write]

/-! ### A full data queue (R107) -/

section
variable {s : State} {l n : Nat} {e : DqEntry} {es : List DqEntry}

theorem State.dqFull_of_room (h : s.time.yield = true ∨ ((s.line l).dq.look n default).entries.length ≤ 32) : s.dqFull l n = s := by
  have hc : (s.time.yield || decide (((s.line l).dq.look n default).entries.length ≤ 32)) = true := by simpa using h
  simp only [State.dqFull, hc, if_true]

/-- One entry too many is lost, and the job records it. -/
theorem State.dqFull_of_one (he : ((s.line l).dq.look n default).entries = es ++ [e]) (hn : es.length = 32) (hy : s.time.yield = false) :
    s.dqFull l n = (s.updLine l fun L => { L with dq := L.dq.put n { L.dq.look n default with entries := es } }).faultAt e.at_
      .dqOverflow 0 ⟨l, e.st.code, e.task, true, e.pc⟩ UnitRef.none 0 (n + 256 * 32) := by
  have hd : (es ++ [e]).drop 32 = [e] := by rw [← hn, List.drop_left]
  have ht : (es ++ [e]).take 32 = es := by rw [← hn, List.take_left]
  have hc : (s.time.yield || decide ((es ++ [e]).length ≤ 32)) = false := by simp [hy, hn]
  simp only [State.dqFull, he, hc, hd, ht, Bool.false_eq_true, if_false, List.foldl_cons, List.foldl_nil]
  exact congrArg (State.faultAt · _ _ _ _ _ _ _ _ _ _) (s.updLine_congr rfl)

end

/-! ### The results of an sc -/

section
variable {s : State} {l : LineId} {o : PendOut}

theorem LineState.dueOuts_one {L : LineState} (h : L.outs = [o]) (hd : o.due = s.sc) : L.dueOuts o.st s.sc = ([o], []) := by
  simp [LineState.dueOuts, h, hd]

theorem State.vxEvent_zero {l : Nat} (h : o.ev = 0) : s.vxEvent l o = s := by rw [State.vxEvent, if_pos h]

/-- One result of the VX lands; the two write ports of the vector registers suffice for it. -/
theorem State.vxOutputs_one {l x : Nat} (h : (s.line l).dueOuts .vx x = ([o], [])) (hev : o.ev = 0) :
    s.vxOutputs l x = (s.updLine l fun L => { L with outs := [] }).land l o := by
  have hports : (([o] : List PendOut).filter PendOut.isVr).drop 2 = [] :=
    List.drop_eq_nil_of_le ((List.length_filter_le ..).trans one_le_two)
  unfold State.vxOutputs
  simp only [h, List.foldl_cons, List.foldl_nil, byIssue, State.vxEvent_zero hev]
  split
  · rfl
  · next he => simp [hports] at he

/-- The one result that is due leaves the pending list and lands, at every station that writes results. -/
theorem exec_outputs {c : Instr} (hc : c = .vxOutput l ∧ o.st = .vx ∨ c = .pxOutput l ∧ o.st = .px ∨ c = .ptReadReturn l ∧ o.st = .pt)
    (hl : s.live = true) (hh : s.held = false) (ho : (s.line l).outs = [o]) (hd : o.due = s.sc) (hev : o.ev = 0) :
    exec c s = .next ((s.updLine l fun L => { L with outs := [] }).land l o) := by
  have hdue := LineState.dueOuts_one ho hd
  obtain ⟨rfl, hst⟩ | ⟨rfl, hst⟩ | ⟨rfl, hst⟩ := hc <;> rw [hst] at hdue
  · show execVxOutput l s = _
    simp [execVxOutput, hl, hh, State.vxOutputs_one hdue hev]
  · show execPxOutput l s = _
    simp [execPxOutput, hl, hh, State.pxOutputs, hdue]
  · show execPtReadReturn l s = _
    simp [execPtReadReturn, hl, hh, State.readReturns, hdue]

section
variable (s : State) (l : LineId) {o : PendOut} (hv : o.valid = true) (hu : o.unconf = none)

/-- A line after the one result that was pending on it. -/
def LineState.landed (L : LineState) (o : PendOut) : LineState :=
  match o.dest with
  | .stream ch => { L with
      outs := []
      beats := { ch := ch, pos := Station.pos o.st, out := o.due, tag := BitVec.ofNat 6 o.issue, issue := o.issue
                 data := o.data.extractLsb' 0 1024, unconf := none, valid := true } :: L.beats.filter fun b => o.due ≤ b.out + 8 }
  | .dq n => { L with
      outs := []
      dq := L.dq.put n { L.dq.look n default with
        entries := (L.dq.look n default).entries ++
          [{ data := o.data.extractLsb' 0 1024, tag := BitVec.ofNat 6 o.issue, at_ := o.due, unconf := none
             st := o.st, task := o.task, pc := o.pc }] } }
  | .vreg r => { L with outs := [], vx.vr := L.vx.vr.put r ((L.vx.vr.look r default).write o.due o.data) }
  | .vpart r p => { L with
      outs := []
      vx.vr := L.vx.vr.put r ((L.vx.vr.look r default).write o.due
        (setPart ((L.vx.vr.look r default).at (o.due + 1)) p (o.data.setWidth 1024))) }
  | .tbRow tb row => { L with
      outs := []
      px.tb := L.px.tb.put (tb * 128 + row) ((L.px.tb.look (tb * 128 + row) default).write o.due (o.data.extractLsb' 0 1024)) }
  | .none => { L with outs := [] }

include hv hu in
theorem State.land_eq : (s.updLine l fun L => { L with outs := [] }).land l o = s.updLine l fun L => L.landed o := by
  have hw : o.data.setWidth 1024 = o.data.extractLsb' 0 1024 := BitVec.setWidth_eq_extractLsb' (by decide)
  cases hd : o.dest <;> simp [State.land, LineState.landed, hd, hv, hu, State.enqueue, LineState.setVreg, Tbl.upd, hw]

end

end

/-- Settles O20: a full queue loses its one entry too many, and the one result that is due lands alone. -/
theorem resultsReachTheirPlaces : Obligations.ResultsReachTheirPlaces := by
  refine ⟨fun s l n e es he => ⟨fun h => ?_, fun hn hy hr hs hf => ?_⟩, ?_⟩
  · refine State.dqFull_of_room (h.symm.imp_right fun hlt => ?_)
    simp only [he, List.length_append, List.length_singleton]
    omega
  · rw [State.dqFull_of_one he hn hy]
    obtain ⟨r, h1, h2, h3, h4, h5, -⟩ := State.faultAt_first
      (s.updLine l fun L => { L with dq := L.dq.put n { L.dq.look n default with entries := es } }) e.at_ .dqOverflow 0
      ⟨l, e.st.code, e.task, true, e.pc⟩ .none 0 (n + 256 * 32) 0 0 false hr hs hf
    exact ⟨by rw [State.line_faultAt]; simp, r, h1, h2, h4, h5, h3⟩
  · rintro s l c o L hc hl hh rfl ho hd hev hv hu
    rw [exec_outputs hc hl hh ho hd hev, State.land_eq s l hv hu]
    refine ⟨_, rfl, fun ch h => ⟨rfl, ?_⟩, fun n h => ⟨rfl, ?_⟩, fun r h => ⟨rfl, ?_⟩, fun tb row h => ⟨rfl, ?_⟩, fun k hk => ?_⟩
    · simp [LineState.landed, h, hd]
    · simp [LineState.landed, h, hd]
    · simp +contextual [LineState.landed, h, hd, eq_comm]
    · simp [LineState.landed, h, hd, LineState.tbRow]
    · simp [hk.symm]

end Sys2Proof.Machine
end

section
/-! SUPPORT. The ports of a local store: two uses of one port in one sc (R251, R476). -/

namespace Sys2Proof.Machine

/-! ### Two uses of a bank pair (R251, R476) -/

section
variable {s : State} {l x : Nat} {u v : MemUse}

/-- A use of a local store occupies its port: it is counted, and collides with an earlier user of the port. -/
theorem State.occupy_ls (h : u.owner = .ls l) (same : Option MemUse) : s.occupy x u same =
    same.elim (s.countUse u) fun v => (s.countUse u).collide x v u := by
  unfold State.occupy
  simp only [h]
  cases same <;> rfl

theorem State.countUse_ls (h : u.owner = .ls l) : ∃ f, s.countUse u = s.updLine l f ∨ s.countUse u = s := by
  unfold State.countUse
  simp only [h]
  split
  · exact ⟨_, .inl rfl⟩
  · exact ⟨_, .inl rfl⟩
  · exact ⟨_, .inl rfl⟩
  · exact ⟨id, .inr rfl⟩

/-- The count of a use of a local store leaves the job's records and the time. -/
theorem State.countUse_ls_job (h : u.owner = .ls l) : (s.countUse u).job = s.job ∧ (s.countUse u).time = s.time := by
  obtain ⟨f, he | he⟩ := s.countUse_ls h <;> rw [he] <;> exact ⟨rfl, rfl⟩

theorem MemUse.port_eq_iff (hu : u.owner = .ls l) (hv : v.owner = .ls l) :
    u.port = v.port ↔ u.write = v.write ∧ pairOf u.addr = pairOf v.addr := by
  simp only [MemUse.port, hu, hv, Prod.mk.injEq, true_and]
  cases u.write <;> cases v.write <;> simp <;> omega

/-- Two uses that are due: the second meets the first where both name one port. -/
theorem State.ports_two (hs : s.uses = [u, v]) (hu : u.due = s.sc) (hv : v.due = s.sc) (hus : u.slotted = false)
    (hvs : v.slotted = false) : s.ports s.sc (fun _ => true) =
      (({ s with uses := [{ u with slotted := true }, { v with slotted := true }] } : State).occupy s.sc u none).occupy s.sc v
        (if u.port = v.port then some u else none) := by
  simp only [State.ports, hs, List.filter_cons, List.filter_nil, hu, hv, hus, hvs, beq_self_eq_true, Bool.not_false, Bool.and_self,
    if_true, List.foldl_cons, List.foldl_nil, List.find?_nil, List.nil_append, List.find?_cons, List.map_cons, List.map_nil]
  split
  · next h => rw [if_pos (by simpa using h)]
  · next h => rw [if_neg (by simpa using h)]

/-- A collision at a local store is LS_BANK. -/
theorem State.Room.collide (h : s.Room 0) (hu : u.owner = .ls l) : ∃ r, (s.collide s.sc u v).job.faults = [r] ∧ r.kind = 0x30 ∧
    r.sc = s.sc ∧ r.detail = 2 * pairOf u.addr + (if u.write then 1 else 0) ∧ (r.unit, r.unit2) = orderUnits u.unit v.unit := by
  have hport : u.port.2.2 = 2 * pairOf u.addr + (if u.write then 1 else 0) := by simp [MemUse.port, hu]
  obtain ⟨r, hk, hd, hr1, hr2, hsc, -, -, -, hf⟩ := h.faultAt_job .lsBank u.port.2.2 (orderUnits u.unit v.unit).1
    (orderUnits u.unit v.unit).2 0 l 0 0 false
  have hnil : s.job.faults = [] := List.length_eq_zero_iff.1 (Nat.le_zero.1 h.length)
  refine ⟨r, ?_, hk, hsc, hd.trans hport, by rw [hr1, hr2]⟩
  unfold State.collide
  simp only [hu]
  rw [hnil, ite_self] at hf
  exact hf

theorem ports_localStore (hr : s.time.running = true) (hs : s.uses = [u, v]) (hu : u.owner = .ls l) (hv : v.owner = .ls l)
    (hud : u.due = s.sc) (hvd : v.due = s.sc) (hus : u.slotted = false) (hvs : v.slotted = false) :
    (u.write ≠ v.write ∨ pairOf u.addr ≠ pairOf v.addr → (s.ports s.sc fun _ => true).job = s.job) ∧
    (u.write = v.write → pairOf u.addr = pairOf v.addr → s.job.faultSc = none → s.job.faults = [] →
      ∃ r, (s.ports s.sc fun _ => true).job.faults = [r] ∧ r.kind = 0x30 ∧ r.sc = s.sc ∧
        r.detail = 2 * pairOf u.addr + (if u.write then 1 else 0) ∧ (r.unit, r.unit2) = orderUnits u.unit v.unit) := by
  have hport := MemUse.port_eq_iff hu hv
  rw [State.ports_two hs hud hvd hus hvs, State.occupy_ls hu, State.occupy_ls hv, Option.elim_none]
  generalize hm : (State.countUse _ u) = m
  obtain ⟨hmj, hmt⟩ := hm ▸ State.countUse_ls_job hu
  obtain ⟨hnj, hnt⟩ := m.countUse_ls_job hv
  refine ⟨fun h => ?_, fun hw hp hfs hf => ?_⟩
  · rw [if_neg (by rw [hport]; tauto), Option.elim_none, hnj, hmj]
  · rw [if_pos (hport.2 ⟨hw, hp⟩), Option.elim_some]
    have hroom : (m.countUse v).Room 0 := by
      refine State.Room.of_eq (s := s) ⟨hr, by simp [hfs], by simp [hf]⟩ ?_ ?_ ?_
      · rw [hnt, hmt]
      · rw [State.sc, hnt, hmt]; rfl
      · rw [hnj, hmj]
    have hsc : (m.countUse v).sc = s.sc := by rw [State.sc, hnt, hmt]; rfl
    rw [← hsc]
    exact hroom.collide hu

end

end Sys2Proof.Machine
end

section
/-! SUPPORT. A repeat of an LS instruction (Table 8-3): its address (R249, R357), the beat it reads (R75, R106), the access it places
(R254), and the faults it leaves in the records. -/

namespace Sys2Proof.Machine

/-! ### The end of a repeat that has recorded a fault, and one that has placed an access -/

section
variable {s t u : State} {st : Station} {q : Queue} {o : Outst} {n : Nat} {P : FaultRec → Prop}

theorem State.Recorded.endRepeat (h : s.Recorded P n) (hn : n ≤ 15) : (s.endRepeat st q o).Recorded P (n + 1) := by
  rcases Nat.lt_or_ge (o.done + 1) o.total with hd | hd
  · rw [State.endRepeat_more hd]
    exact (h.updQ ..).mono n.le_succ
  · rw [State.endRepeat_last hd]
    exact (h.updQ ..).advance st q hn

theorem State.Room.begun {i : Instr} (h : s.Room n) (hn : n ≤ 15) : (s.begun st q i).Room (n + 1) := by
  rw [State.begun, State.draws]
  exact ((h.noteIssue st q hn).updLine ..).updLine ..

theorem LineFrame.symm {L M : LineState} (h : LineFrame L M) : LineFrame M L := by
  rw [h]
  rfl

theorem IssueFrame.access {l : Nat} (h : IssueFrame s t l) (m : MemUse) :
    IssueFrame { s with uses := s.uses ++ [m] } (t.access m) l := by
  refine ⟨?_, h.2⟩
  rw [State.access, h.uses]
  exact congrArg (fun x : State => { x with uses := s.uses ++ [m] }) h.1

/-- A repeat places one access and ends. -/
theorem addsUse_endRepeat {B : LineState} (m : MemUse) (hf : IssueFrame s t q.line) (hl : LineFrame B (t.line q.line)) :
    AddsUse s ((t.access m).endRepeat st q o) q B m :=
  ⟨(hf.access m).trans State.endRepeat_onlyQueue.frame, hl.trans (State.endRepeat_onlyQueue (s := t.access m)).line⟩

/-- A repeat that has recorded a fault and placed no access ends. -/
theorem recorded_endRepeat (hf : IssueFrame s t q.line) (hr : t.Recorded P n) (hn : n ≤ 15) :
    (t.endRepeat st q o).uses = s.uses ∧ ∃ r ∈ (t.endRepeat st q o).job.faults, P r :=
  ⟨State.endRepeat_onlyQueue.frame.uses.trans hf.uses, (hr.endRepeat hn).found⟩

end

/-! ### The address of an access (R249, R357) -/

/-- The fault of an access at offset `x` of a region of the local store, with its address. -/
def State.lsFault (s : State) (r : Nat) (write : Bool) (x : Nat) : Option (FaultKind × Nat) :=
  if (s.region r).allows 1 write x then
    if ((s.region r).base + x) % 128 = 0 then none else some (.lsAlign, (s.region r).base + x)
  else some (.region, x)

section
variable {s t : State} {k : Ctx} {r x n : Nat} {w : Bool} {q : Queue} {f : FaultKind} {a : Nat} {P : FaultRec → Prop}

theorem State.lsFault_region (h : (s.region r).allows 1 w x = false) : s.lsFault r w x = some (.region, x) := by
  simp [State.lsFault, h]
theorem State.lsFault_align (h : (s.region r).allows 1 w x = true) (ha : ((s.region r).base + x) % 128 ≠ 0) :
    s.lsFault r w x = some (.lsAlign, (s.region r).base + x) := by
  simp [State.lsFault, h, ha]
theorem State.lsFault_none (h : (s.region r).allows 1 w x = true) (ha : ((s.region r).base + x) % 128 = 0) :
    s.lsFault r w x = none := by
  simp [State.lsFault, h, ha]
theorem IssueFrame.lsFault {l : Nat} (h : IssueFrame s t l) : t.lsFault r w x = s.lsFault r w x := by
  rw [State.lsFault, State.lsFault, h.region]

theorem State.lsAddr_of_none (h : s.lsFault r w x = none) : s.lsAddr k r w x = (s, some ((s.region r).base + x)) := by
  unfold State.lsFault at h
  unfold State.lsAddr State.locate
  split at h
  · next hal =>
    split at h
    · next ha => simp [hal, ha]
    · cases h
  · cases h

theorem State.lsAddr_of_fault (h : s.lsFault r w x = some (f, a)) : ∃ d aux, s.lsAddr k r w x = (s.faultK k f d a aux, none) := by
  unfold State.lsFault at h
  unfold State.lsAddr State.locate
  split at h
  · next hal =>
    split at h
    · cases h
    · next ha =>
      cases h
      exact ⟨0, 0, by simp [hal, ha]⟩
  · next hal =>
    cases h
    exact ⟨r, r, by simp [hal]⟩

theorem State.faultK_sameQueues (s : State) (hk : k.l = q.line) (f : FaultKind) (d a aux e o : Nat) :
    SameQueues s (s.faultK k f d a aux e o) q :=
  s.faultAt_sameQueues _ _ _ hk ..

theorem State.lsAddr_sameQueues (s : State) (hk : k.l = q.line) (r x : Nat) (w : Bool) : SameQueues s (s.lsAddr k r w x).1 q := by
  cases h : s.lsFault r w x with
  | none => rw [State.lsAddr_of_none h]; exact .refl ..
  | some e =>
    obtain ⟨d, aux, he⟩ := State.lsAddr_of_fault (k := k) h
    rw [he]
    exact s.faultK_sameQueues hk ..

theorem State.Room.faultK (h : s.Room n) (hn : n ≤ 15) (hk : k.x = s.sc) (f : FaultKind) (d a aux e o : Nat) :
    (s.faultK k f d a aux e o).Recorded (fun y => y.kind = f.code ∧ y.sc = s.sc ∧ y.addr = a) (n + 1) := by
  rw [State.faultK, hk]
  refine (h.faultAt f d k.unit .none a aux e o false hn).imp ?_
  rintro y ⟨hkind, -, -, -, hsc, ha, -⟩
  exact ⟨hkind, hsc, ha⟩

theorem State.Room.lsAddr_of_fault (h : s.Room n) (hn : n ≤ 15) (hk : k.x = s.sc) (hf : s.lsFault r w x = some (f, a)) :
    (s.lsAddr k r w x).1.Recorded (fun y => y.kind = f.code ∧ y.sc = s.sc ∧ y.addr = a) (n + 1) := by
  obtain ⟨d, aux, he⟩ := State.lsAddr_of_fault (k := k) hf
  rw [he]
  exact h.faultK hn hk ..

theorem State.Room.lsAddr (h : s.Room n) (hn : n ≤ 15) (hk : k.x = s.sc) : (s.lsAddr k r w x).1.Room (n + 1) := by
  cases hf : s.lsFault r w x with
  | none => rw [State.lsAddr_of_none hf]; exact h.mono n.le_succ
  | some e => exact (h.lsAddr_of_fault hn hk hf).toRoom

theorem State.Recorded.lsAddr (h : s.Recorded P n) (hn : n ≤ 15) (hk : k.x = s.sc) : (s.lsAddr k r w x).1.Recorded P (n + 1) := by
  cases hf : s.lsFault r w x with
  | none => rw [State.lsAddr_of_none hf]; exact h.mono n.le_succ
  | some e =>
    obtain ⟨d, aux, he⟩ := State.lsAddr_of_fault (k := k) hf
    rw [he, State.faultK, hk]
    exact h.faultAt _ _ _ _ _ _ _ _ _ hn

end

/-! ### The beat that a repeat reads (R75, R80, R106) -/

/-- A line whose data queue `n` has lost its head. -/
def LineState.popped (L : LineState) (n : Nat) : LineState :=
  { L with dq := L.dq.put n { L.dq.look n default with entries := (L.dq.look n default).entries.tail } }

/-- A line once a selector has been read in sc `x`. -/
def LineState.consumed (L : LineState) (sel x : Nat) : LineState :=
  if sel < 4 then L else ((L.dq.look (sel - 8) default).ready x).elim L fun _ => L.popped (sel - 8)

/-- The beat that a station reads from a selector in sc `x`. -/
def LineState.beatRead (L : LineState) (st : Station) (sel x : Nat) : BeatData :=
  if sel < 4 then (L.beatAt sel (Station.pos st) x).elim 0 Beat.data
  else ((L.dq.look (sel - 8) default).ready x).elim 0 DqEntry.data

/-- The selector is a stream, or a queue that has an entry ready, or the job is not in yield mode: no free beat is taken. -/
def State.noFreeBeat (s : State) (l sel x : Nat) : Prop :=
  s.time.yield = true → 4 ≤ sel → (((s.line l).dq.look (sel - 8) default).ready x).isSome

section
variable {s t : State} {k : Ctx} {q : Queue} {sel x n : Nat} {toff : BitVec 6} {L M : LineState}

theorem LineFrame.consumed (h : LineFrame L M) : LineFrame (L.consumed sel x) (M.consumed sel x) := by
  have hdq : M.dq = L.dq := by rw [h]
  unfold LineState.consumed
  split
  · exact h
  · rw [hdq]
    cases (L.dq.look (sel - 8) default).ready x with
    | none => exact h
    | some e =>
      simp only [Option.elim_some]
      unfold LineState.popped LineFrame
      rw [h]

theorem LineState.consumed_cc : (L.consumed sel x).cc = L.cc := by
  unfold LineState.consumed
  split
  · rfl
  · cases (L.dq.look (sel - 8) default).ready x <;> rfl

theorem LineFrame.beatRead (h : LineFrame L M) (st : Station) : M.beatRead st sel x = L.beatRead st sel x := by
  have hdq : M.dq = L.dq := by rw [h]
  have hb : M.beats = L.beats := by rw [h]
  simp only [LineState.beatRead, LineState.beatAt, hdq, hb]

theorem State.checkBeat_sameQueues (s : State) (hk : k.l = q.line) (e : BitVec 6) (tagged : Bool) (b : Option Beat) :
    SameQueues s (s.checkBeat k sel e tagged b) q := by
  unfold State.checkBeat
  cases b with
  | none => exact s.faultK_sameQueues hk ..
  | some b =>
    dsimp only
    have hvis : SameQueues s (if b.unconf.any (fun u => u != k.t) then s.faultK k .specVis else s) q := by
      split
      · exact s.faultK_sameQueues hk ..
      · exact .refl ..
    split
    · exact hvis.trans (State.faultK_sameQueues _ hk ..)
    · split
      · exact hvis.trans (State.faultK_sameQueues _ hk ..)
      · exact hvis

theorem State.dequeue_of_ready {e : DqEntry} (h : ((s.line k.l).dq.look n default).ready k.x = some e) (tag : BitVec 6) :
    s.dequeue k n tag = ((s.updLine k.l fun L => L.popped n).checkBeat k (8 + n) tag (!s.time.yield)
      (some ⟨0, 0, 0, e.tag, 0, e.data, e.unconf, true⟩), e.data) := by
  unfold State.dequeue
  simp only [h]
  rfl

theorem State.dequeue_of_empty (h : ((s.line k.l).dq.look n default).ready k.x = none) (hy : ¬ s.time.yield = true) (tag : BitVec 6) :
    s.dequeue k n tag = (s.faultK k .dqUnderflow 0 0
      (n + 256 * (((s.line k.l).dq.look n default).entries.filter fun e => e.at_ < k.x).length), 0) := by
  unfold State.dequeue
  simp only [h]
  exact if_neg hy

/-- A beat that is read leaves its line but for a queue's head and what a fault changes. -/
theorem State.takeBeat_spec (hk : k.l = q.line) (hfree : s.noFreeBeat q.line sel k.x) :
    IssueFrame s (s.takeBeat k sel toff).1 q.line ∧
    LineFrame ((s.line q.line).consumed sel k.x) ((s.takeBeat k sel toff).1.line q.line) ∧
    (s.takeBeat k sel toff).2 = (s.line q.line).beatRead k.st sel k.x := by
  obtain ⟨st, l, task, x, c0, j, pc⟩ := k
  obtain rfl : l = q.line := hk
  unfold State.takeBeat LineState.consumed LineState.beatRead
  split
  · have hc := s.checkBeat_sameQueues (q := q) (k := ⟨st, q.line, task, x, c0, j, pc⟩) (sel := sel) rfl (expTag c0 toff) true
      ((s.line q.line).beatAt sel (Station.pos st) x)
    refine ⟨hc.frame, hc.line, ?_⟩
    cases (s.line q.line).beatAt sel (Station.pos st) x <;> rfl
  · next hs =>
    cases hr : ((s.line q.line).dq.look (sel - 8) default).ready x with
    | none =>
      have hy : ¬ s.time.yield = true := fun hy => by simpa [hr] using hfree hy (Nat.le_of_not_lt hs)
      rw [State.dequeue_of_empty hr hy]
      exact ⟨(s.faultK_sameQueues rfl ..).frame, (s.faultK_sameQueues rfl ..).line, rfl⟩
    | some e =>
      rw [State.dequeue_of_ready hr]
      have hc := State.checkBeat_sameQueues (q := q) (k := ⟨st, q.line, task, x, c0, j, pc⟩) (sel := 8 + (sel - 8))
        (s.updLine q.line fun L => L.popped (sel - 8)) rfl (expTag c0 toff) (!s.time.yield)
        (some ⟨0, 0, 0, e.tag, 0, e.data, e.unconf, true⟩)
      have hl := hc.line
      rw [State.line_updLine, if_pos rfl] at hl
      exact ⟨(IssueFrame.updLine ..).trans hc.frame, hl, rfl⟩

/-- A beat is the same one on a line that an issue has noted, and leaves it the same but for what an issue changes. -/
theorem OnlyQueue.takeBeat {st : Station} (h : OnlyQueue s t st q) (hk : k.l = q.line) (hfree : s.noFreeBeat q.line sel k.x) :
    IssueFrame s (t.takeBeat k sel toff).1 q.line ∧
    LineFrame ((s.takeBeat k sel toff).1.line q.line) ((t.takeBeat k sel toff).1.line q.line) ∧
    ((t.takeBeat k sel toff).1.line q.line).cc = (s.line q.line).cc ∧
    (t.takeBeat k sel toff).2 = (s.takeBeat k sel toff).2 := by
  have hdq : (t.line q.line).dq = (s.line q.line).dq := by rw [h.line]
  have hfree' : t.noFreeBeat q.line sel k.x := by
    rw [State.noFreeBeat, h.frame.yield, hdq]
    exact hfree
  obtain ⟨-, hl, hd⟩ := s.takeBeat_spec (toff := toff) hk hfree
  obtain ⟨hf', hl', hd'⟩ := t.takeBeat_spec (toff := toff) hk hfree'
  exact ⟨h.frame.trans hf', hl.symm.trans (h.line.consumed.trans hl'), by rw [hl'.cc, LineState.consumed_cc, h.line.cc],
    by rw [hd, hd', h.line.beatRead]⟩

theorem State.Room.checkBeat (h : s.Room n) (hn : n ≤ 14) (hk : k.x = s.sc) (e : BitVec 6) (tagged : Bool) (b : Option Beat) :
    (s.checkBeat k sel e tagged b).Room (n + 2) := by
  unfold State.checkBeat
  cases b with
  | none => exact (h.faultK (by omega) hk ..).toRoom.mono (n + 1).le_succ
  | some b =>
    dsimp only
    have hvis : (if b.unconf.any (fun u => u != k.t) then s.faultK k .specVis else s).Room (n + 1) := by
      split
      · exact (h.faultK (by omega) hk ..).toRoom
      · exact h.mono n.le_succ
    have hx : k.x = (if b.unconf.any (fun u => u != k.t) then s.faultK k .specVis else s).sc := by
      rw [hk]
      split
      · exact (State.faultAt_sc ..).symm
      · rfl
    split
    · exact (hvis.faultK (by omega) hx ..).toRoom
    · split
      · exact (hvis.faultK (by omega) hx ..).toRoom
      · exact hvis.mono (n + 1).le_succ

/-- A beat that is read records two faults at most. -/
theorem State.Room.takeBeat (h : s.Room n) (hn : n ≤ 14) (hk : k.x = s.sc) : (s.takeBeat k sel toff).1.Room (n + 2) := by
  unfold State.takeBeat
  split
  · exact h.checkBeat hn hk ..
  · cases hr : ((s.line k.l).dq.look (sel - 8) default).ready k.x with
    | none =>
      unfold State.dequeue
      simp only [hr]
      split
      · exact State.Room.mono (h.of_eq rfl rfl rfl) (Nat.le_add_right n 2)
      · exact (h.faultK (by omega) hk ..).toRoom.mono (n + 1).le_succ
    | some e =>
      rw [State.dequeue_of_ready hr]
      dsimp only
      exact (h.updLine ..).checkBeat hn hk ..

end

end Sys2Proof.Machine
end

section
/-! SUPPORT. The LS instructions on their first repeat (Table 8-2, Table 8-3, R93, R249, R254, R357), and LS.PGRP (R264, R265). -/

namespace Sys2Proof.Machine

/-! ### What a repeat does, by the verdict on its address -/

section
variable {s t : State} {k : Ctx} {o : Outst} {w : FmtM} {q : Queue} {L : LineState} {f : FaultKind} {a : Nat}

/-- The access that an LS instruction places, on a line with the predictions of `L`. -/
theorem State.lsUse_eq (h : (t.line k.l).cc = L.cc) (wr : Bool) (due : Nat) (d : BeatData) (ret : Option Ret) (kind : UseKind) :
    t.lsUse k wr a due d ret kind = t.access { unit := k.unit, kind := kind, owner := .ls k.l, write := wr, addr := a, order := due
                                               due := due, data := d, ret := ret, unconf := L.unconf k.t k.x, taken := false
                                               slotted := false } := by
  rw [State.lsUse, LineState.unconf, h, ← LineState.unconf]

theorem lsRdRep_of_none (h : s.lsFault w.region.toNat false (lsOffset w k o) = none) :
    (State.lsRdRep w s k o).1 = s.lsUse k false ((s.region w.region.toNat).base + lsOffset w k o) k.x 0
      (some (s.retOf k w.data (k.x + 2))) .own := by
  rw [State.lsRdRep, State.lsAddr_of_none h]

theorem lsRdRep_of_fault (h : s.lsFault w.region.toNat false (lsOffset w k o) = some (f, a)) :
    (State.lsRdRep w s k o).1 = (s.lsAddr k w.region.toNat false (lsOffset w k o)).1 := by
  obtain ⟨d, aux, he⟩ := State.lsAddr_of_fault (k := k) h
  rw [State.lsRdRep, he]

/-- The row that LS.FILL writes: zeros, or a scalar sixteen times. -/
def State.rowOfFill (s : State) (k : Ctx) (w : FmtM) : BeatData :=
  if w.data = 5 then BitVec.ofNat 1024 (ofLanes 64 (List.replicate 16 (s.scalar k w.toff.toNat))) else 0

theorem lsWrRep_of_none (h : (s.takeBeat k w.data.toNat w.toff).1.lsFault w.region.toNat true (lsOffset w k o) = none) :
    (State.lsWrRep w s k o).1 = (s.takeBeat k w.data.toNat w.toff).1.lsUse k true
      (((s.takeBeat k w.data.toNat w.toff).1.region w.region.toNat).base + lsOffset w k o) (k.x + 1)
      (s.takeBeat k w.data.toNat w.toff).2 none .own := by
  unfold State.lsWrRep
  dsimp only
  rw [State.lsAddr_of_none h]

theorem lsWrRep_of_fault (h : (s.takeBeat k w.data.toNat w.toff).1.lsFault w.region.toNat true (lsOffset w k o) = some (f, a)) :
    (State.lsWrRep w s k o).1 = ((s.takeBeat k w.data.toNat w.toff).1.lsAddr k w.region.toNat true (lsOffset w k o)).1 := by
  obtain ⟨d, aux, he⟩ := State.lsAddr_of_fault (k := k) h
  unfold State.lsWrRep
  dsimp only
  rw [he]

theorem lsFillRep_of_none (h : s.lsFault w.region.toNat true (lsOffset w k o) = none) :
    (State.lsFillRep w s k o).1 = s.lsUse k true ((s.region w.region.toNat).base + lsOffset w k o) (k.x + 1)
      (s.rowOfFill k w) none .own := by
  rw [State.lsFillRep, State.lsAddr_of_none h]
  rfl

theorem lsFillRep_of_fault (h : s.lsFault w.region.toNat true (lsOffset w k o) = some (f, a)) :
    (State.lsFillRep w s k o).1 = (s.lsAddr k w.region.toNat true (lsOffset w k o)).1 := by
  obtain ⟨d, aux, he⟩ := State.lsAddr_of_fault (k := k) h
  rw [State.lsFillRep, he]

/-- The offset that an LS.COPY writes to. -/
def copyOffset (k : Ctx) (o : Outst) : Nat := repOffset o.base2 o.str2 0 k.j

/-- The state once both accesses of an LS.COPY are judged. -/
def State.copyJudged (s : State) (k : Ctx) (o : Outst) (w : FmtM) : State :=
  ((s.lsAddr k w.region.toNat false (lsOffset w k o)).1.lsAddr k w.region.toNat true (copyOffset k o)).1

theorem lsCopyRep_of_none (hx : s.lsFault w.region.toNat false (lsOffset w k o) = none)
    (hy : s.lsFault w.region.toNat true (copyOffset k o) = none) :
    (State.lsCopyRep w s k o).1 = s.lsUse k false ((s.region w.region.toNat).base + lsOffset w k o) k.x 0 none
      (.copyTo ((s.region w.region.toNat).base + copyOffset k o)) := by
  unfold State.lsCopyRep
  rw [State.lsAddr_of_none hx]
  dsimp only
  rw [← copyOffset, State.lsAddr_of_none hy]

theorem lsCopyRep_of_read_fault (h : s.lsFault w.region.toNat false (lsOffset w k o) = some (f, a)) :
    (State.lsCopyRep w s k o).1 = s.copyJudged k o w := by
  obtain ⟨d, aux, he⟩ := State.lsAddr_of_fault (k := k) h
  unfold State.lsCopyRep State.copyJudged copyOffset
  rw [he]

theorem lsCopyRep_of_write_fault (h : (s.lsAddr k w.region.toNat false (lsOffset w k o)).1.lsFault w.region.toNat true
    (copyOffset k o) = some (f, a)) : (State.lsCopyRep w s k o).1 = s.copyJudged k o w := by
  obtain ⟨d, aux, he⟩ := State.lsAddr_of_fault (k := k) h
  unfold State.lsCopyRep State.copyJudged
  dsimp only
  rw [← copyOffset, he]
  split
  · next hb => cases hb
  · rfl

end

/-! ### The operands of the first repeat -/

section
variable {s : State} {q : Queue} {w : FmtM} {i : Instr}

theorem lsOffset_first (h : i.fmtM? = some w) : lsOffset w (s.ctx .ls q s.sc 0) (s.outstOf .ls q i) = s.firstOffset .ls q w := by
  simp [lsOffset, repOffset, State.outstOf, h, State.ctx, State.firstOffset, QState.arOf]

theorem copyOffset_first (h : i.fmtM? = some w) :
    copyOffset (s.ctx .ls q s.sc 0) (s.outstOf .ls q i) = ((s.q .ls q).ar.look w.toff.toNat 0).toNat := by
  simp [copyOffset, repOffset, State.outstOf, h, State.ctx, QState.arOf]

theorem DataQueue.ready_of_takeWhile {d : DataQueue} {x : Nat} (h : 1 ≤ (d.entries.takeWhile fun e => e.at_ + 2 ≤ x).length) :
    (d.ready x).isSome := by
  unfold DataQueue.ready
  cases hd : d.entries with
  | nil => simp [hd] at h
  | cons e es =>
    by_cases he : e.at_ + 2 ≤ x
    · simp [he]
    · simp [hd, he] at h

/-- An LS.WR that may issue takes no free beat: in yield mode it waits for the entry of its queue (R91). -/
theorem noFreeBeat_of_lsWr (h : s.CanIssue .ls q (.lsWr q w)) (hr : s.Repeats .ls q) : s.noFreeBeat q.line w.data.toNat s.sc := by
  intro hy hs
  obtain ⟨hwf, hm, -⟩ := h
  have hsel : 8 ≤ w.data.toNat := by
    have : selIsChan w.data = true := hwf
    simp only [selIsChan, Bool.or_eq_true, decide_eq_true_eq] at this
    omega
  have hsrc : (Instr.lsWr q w).dqSrc 0 = [w.data.toNat - 8] := by simp [Instr.dqSrc, selDq, hsel, w.data.isLt]
  have hlatch : (((s.line q.line).q .ls q.task).repLatch == some 0) = false := beq_eq_false_iff_ne.2 hr
  simp only [State.mayStart, State.mayIssue, Bool.and_eq_true, hy, Bool.not_true, Bool.false_or, State.dqFree, hsrc, hlatch,
    Bool.and_false, List.all_cons, List.all_nil, Bool.and_true, List.count_singleton_self, decide_eq_true_eq] at hm
  exact DataQueue.ready_of_takeWhile hm.1.2.1

end

end Sys2Proof.Machine
end

section
/-! SUPPORT. LS.RD, LS.WR, LS.FILL and LS.COPY as whole instructions (R93, R249, R254, R357), LS.PGRP (R264, R265). -/

namespace Sys2Proof.Machine

/-- The instruction issues, places no access, and leaves a record of fault `f` with address `a` in its sc. -/
def State.FaultsAt (s : State) (i : Instr) (f : FaultKind) (a : Nat) : Prop :=
  ∃ t, exec i s = .next t ∧ t.uses = s.uses ∧ ∃ r ∈ t.job.faults, r.kind = f.code ∧ r.sc = s.sc ∧ r.addr = a

/-- The instruction issues and places one access, on a line that its operands have left as `B`. -/
def State.Places (s : State) (i : Instr) (q : Queue) (B : LineState) (u : MemUse) : Prop :=
  ∃ t, exec i s = .next t ∧ AddsUse s t q B u

section
variable {s t u : State} {q : Queue} {w : FmtM} {i : Instr} {f : FaultKind} {a n : Nat}

theorem State.FaultsAt.of_recorded {o : Outst} (he : exec i s = .next (u.endRepeat .ls q o)) (hs : SameQueues t u q)
    (ht : IssueFrame s t q.line) (hr : u.Recorded (fun r => r.kind = f.code ∧ r.sc = t.sc ∧ r.addr = a) n) (hn : n ≤ 15) :
    s.FaultsAt i f a := by
  rw [ht.sc] at hr
  exact ⟨_, he, recorded_endRepeat (ht.trans hs.frame) hr hn⟩

theorem State.Places.of_access {o : Outst} {B : LineState} {m : MemUse} (he : exec i s = .next (u.endRepeat .ls q o))
    (hu : u = t.access m) (ht : IssueFrame s t q.line) (hl : LineFrame B (t.line q.line)) : s.Places i q B m := by
  rw [hu] at he
  exact ⟨_, he, addsUse_endRepeat m ht hl⟩

/-- The first repeat of an LS instruction: the state it leaves before it ends, and what stays outstanding. -/
def State.firstRep (s : State) (q : Queue) (i : Instr) (step : State → Ctx → Outst → State × Outst) : State × Outst :=
  step (s.begun .ls q i) (s.ctx .ls q s.sc 0) (s.outstOf .ls q i)

theorem exec_firstRep {step : State → Ctx → Outst → State × Outst} (h : s.CanIssue .ls q i) (hr : s.Repeats .ls q)
    (he : exec i s = s.issueRep .ls q i step) :
    exec i s = .next ((s.firstRep q i step).1.endRepeat .ls q (s.firstRep q i step).2) := by
  rw [he, State.issueRep_eq h hr, State.firstRep]

theorem State.begun_room (h : s.CanIssue .ls q i) (hn : s.job.faults.length ≤ n) (hn' : n ≤ 15) : (s.begun .ls q i).Room (n + 1) :=
  (State.Room.of_canIssue h hn).begun hn'

/-- The verdict on the address of the first repeat is that of the state before the issue. -/
theorem lsFault_first (hi : i.fmtM? = some w) (ht : IssueFrame s t q.line) (wr : Bool) :
    t.lsFault w.region.toNat wr (lsOffset w (s.ctx .ls q s.sc 0) (s.outstOf .ls q i)) =
      s.lsFault w.region.toNat wr (s.firstOffset .ls q w) := by
  rw [ht.lsFault, lsOffset_first hi]

/-! ### LS.RD -/

theorem exec_lsRd (h : s.CanIssue .ls q (.lsRd q w)) (hr : s.Repeats .ls q) : exec (.lsRd q w) s =
    .next ((s.firstRep q (.lsRd q w) (State.lsRdRep w)).1.endRepeat .ls q (s.firstRep q (.lsRd q w) (State.lsRdRep w)).2) :=
  exec_firstRep h hr rfl

theorem lsRd_faultsAt (h : s.CanIssue .ls q (.lsRd q w)) (hr : s.Repeats .ls q)
    (hf : s.lsFault w.region.toNat false (s.firstOffset .ls q w) = some (f, a)) (hn : s.job.faults.length ≤ 12) :
    s.FaultsAt (.lsRd q w) f a := by
  have he := exec_lsRd h hr
  have hb := State.begun_onlyQueue (s := s) (st := .ls) (q := q) (i := .lsRd q w)
  have hfb := (lsFault_first (i := .lsRd q w) rfl hb.frame false).trans hf
  rw [State.firstRep, lsRdRep_of_fault hfb] at he
  exact .of_recorded he (State.lsAddr_sameQueues _ rfl ..) hb.frame
    ((State.begun_room h hn (by decide)).lsAddr_of_fault (by decide) hb.sc.symm hfb) (by decide)

theorem lsRd_places (h : s.CanIssue .ls q (.lsRd q w)) (hr : s.Repeats .ls q)
    (hf : s.lsFault w.region.toNat false (s.firstOffset .ls q w) = none) : s.Places (.lsRd q w) q (s.line q.line)
      { unit := (s.ctx .ls q s.sc 0).unit, kind := .own, owner := .ls q.line, write := false
        addr := (s.region w.region.toNat).base + s.firstOffset .ls q w, order := s.sc, due := s.sc, data := 0
        unconf := (s.line q.line).unconf q.task s.sc, taken := false, slotted := false
        ret := some { line := q.line, st := .ls, dest := destOf w.data 0, out := s.sc + 2, issue := s.sc, rep := 0
                      unconf := (s.line q.line).unconf q.task s.sc, valid := true } } := by
  have hb := State.begun_onlyQueue (s := s) (st := .ls) (q := q) (i := .lsRd q w)
  have hfb := (lsFault_first (i := .lsRd q w) rfl hb.frame false).trans hf
  refine .of_access (exec_lsRd h hr) ?_ hb.frame hb.line
  rw [State.firstRep, lsRdRep_of_none hfb, State.lsUse_eq (L := s.line q.line) hb.line.cc, hb.frame.region, lsOffset_first rfl,
    State.retOf, LineFrame.unconf]
  · rfl
  · exact hb.line

/-! ### LS.WR -/

theorem exec_lsWr (h : s.CanIssue .ls q (.lsWr q w)) (hr : s.Repeats .ls q) : exec (.lsWr q w) s =
    .next ((s.firstRep q (.lsWr q w) (State.lsWrRep w)).1.endRepeat .ls q (s.firstRep q (.lsWr q w) (State.lsWrRep w)).2) :=
  exec_firstRep h hr rfl

theorem lsWr_faultsAt (h : s.CanIssue .ls q (.lsWr q w)) (hr : s.Repeats .ls q)
    (hf : s.lsFault w.region.toNat true (s.firstOffset .ls q w) = some (f, a)) (hn : s.job.faults.length ≤ 11) :
    s.FaultsAt (.lsWr q w) f a := by
  have he := exec_lsWr h hr
  have hb := State.begun_onlyQueue (s := s) (st := .ls) (q := q) (i := .lsWr q w)
  obtain ⟨hd, -⟩ := hb.takeBeat (k := s.ctx .ls q s.sc 0) (toff := w.toff) rfl (noFreeBeat_of_lsWr h hr)
  have hfb := (lsFault_first (i := .lsWr q w) rfl hd true).trans hf
  rw [State.firstRep, lsWrRep_of_fault hfb] at he
  have hroom := (State.begun_room h hn (by decide)).takeBeat (k := s.ctx .ls q s.sc 0) (sel := w.data.toNat) (toff := w.toff)
    (by decide) hb.sc.symm
  exact .of_recorded he (State.lsAddr_sameQueues _ rfl ..) hd (hroom.lsAddr_of_fault (by decide) hd.sc.symm hfb) (by decide)

theorem lsWr_places (h : s.CanIssue .ls q (.lsWr q w)) (hr : s.Repeats .ls q)
    (hf : s.lsFault w.region.toNat true (s.firstOffset .ls q w) = none) :
    s.Places (.lsWr q w) q ((s.takeBeat (s.ctx .ls q s.sc 0) w.data.toNat w.toff).1.line q.line)
      { unit := (s.ctx .ls q s.sc 0).unit, kind := .own, owner := .ls q.line, write := true
        addr := (s.region w.region.toNat).base + s.firstOffset .ls q w, order := s.sc + 1, due := s.sc + 1
        data := (s.takeBeat (s.ctx .ls q s.sc 0) w.data.toNat w.toff).2
        unconf := (s.line q.line).unconf q.task s.sc, taken := false, slotted := false, ret := none } := by
  have hb := State.begun_onlyQueue (s := s) (st := .ls) (q := q) (i := .lsWr q w)
  obtain ⟨hd, hl, hcc, hdata⟩ := hb.takeBeat (k := s.ctx .ls q s.sc 0) (toff := w.toff) rfl (noFreeBeat_of_lsWr h hr)
  have hfb := (lsFault_first (i := .lsWr q w) rfl hd true).trans hf
  refine .of_access (exec_lsWr h hr) ?_ hd hl
  rw [State.firstRep, lsWrRep_of_none hfb, State.lsUse_eq (L := s.line q.line) hcc, hd.region, lsOffset_first rfl, hdata]
  rfl

/-! ### LS.FILL -/

theorem exec_lsFill (h : s.CanIssue .ls q (.lsFill q w)) (hr : s.Repeats .ls q) : exec (.lsFill q w) s =
    .next ((s.firstRep q (.lsFill q w) (State.lsFillRep w)).1.endRepeat .ls q (s.firstRep q (.lsFill q w) (State.lsFillRep w)).2) :=
  exec_firstRep h hr rfl

theorem lsFill_faultsAt (h : s.CanIssue .ls q (.lsFill q w)) (hr : s.Repeats .ls q)
    (hf : s.lsFault w.region.toNat true (s.firstOffset .ls q w) = some (f, a)) (hn : s.job.faults.length ≤ 12) :
    s.FaultsAt (.lsFill q w) f a := by
  have he := exec_lsFill h hr
  have hb := State.begun_onlyQueue (s := s) (st := .ls) (q := q) (i := .lsFill q w)
  have hfb := (lsFault_first (i := .lsFill q w) rfl hb.frame true).trans hf
  rw [State.firstRep, lsFillRep_of_fault hfb] at he
  exact .of_recorded he (State.lsAddr_sameQueues _ rfl ..) hb.frame
    ((State.begun_room h hn (by decide)).lsAddr_of_fault (by decide) hb.sc.symm hfb) (by decide)

theorem lsFill_places (h : s.CanIssue .ls q (.lsFill q w)) (hr : s.Repeats .ls q)
    (hf : s.lsFault w.region.toNat true (s.firstOffset .ls q w) = none) : s.Places (.lsFill q w) q (s.line q.line)
      { unit := (s.ctx .ls q s.sc 0).unit, kind := .own, owner := .ls q.line, write := true
        addr := (s.region w.region.toNat).base + s.firstOffset .ls q w, order := s.sc + 1, due := s.sc + 1
        data := s.rowOfFill (s.ctx .ls q s.sc 0) w
        unconf := (s.line q.line).unconf q.task s.sc, taken := false, slotted := false, ret := none } := by
  have hb := State.begun_onlyQueue (s := s) (st := .ls) (q := q) (i := .lsFill q w)
  have hfb := (lsFault_first (i := .lsFill q w) rfl hb.frame true).trans hf
  have hrow : (s.begun .ls q (.lsFill q w)).rowOfFill (s.ctx .ls q s.sc 0) w = s.rowOfFill (s.ctx .ls q s.sc 0) w := by
    rw [State.rowOfFill, State.rowOfFill, LineFrame.scalar hb.line]
  refine .of_access (exec_lsFill h hr) ?_ hb.frame hb.line
  rw [State.firstRep, lsFillRep_of_none hfb, State.lsUse_eq (L := s.line q.line) hb.line.cc, hb.frame.region, lsOffset_first rfl, hrow]
  rfl

theorem ofLanes_lt {m : Nat} (ls : List (BitVec m)) : ofLanes m ls < 2 ^ (m * ls.length) := by
  induction ls with
  | nil => simp [ofLanes]
  | cons x ls ih =>
    have hx := x.isLt
    rw [ofLanes, List.length_cons, Nat.mul_succ, Nat.add_comm (m * _), Nat.pow_add]
    calc x.toNat + 2 ^ m * ofLanes m ls < 2 ^ m * (ofLanes m ls + 1) := by rw [Nat.mul_succ]; omega
      _ ≤ 2 ^ m * 2 ^ (m * ls.length) := Nat.mul_le_mul_left _ ih

theorem ofLanes_div_mod {m : Nat} (ls : List (BitVec m)) (i : Nat) (hi : i < ls.length) :
    ofLanes m ls / 2 ^ (m * i) % 2 ^ m = ls[i].toNat := by
  induction ls generalizing i with
  | nil => cases hi
  | cons x ls ih =>
    cases i with
    | zero => simp [ofLanes, Nat.mod_eq_of_lt x.isLt]
    | succ i =>
      rw [ofLanes, Nat.mul_succ, Nat.add_comm (m * i), Nat.pow_add, ← Nat.div_div_eq_div_mul,
        Nat.add_mul_div_left _ _ (Nat.two_pow_pos m), Nat.div_eq_of_lt x.isLt, Nat.zero_add]
      exact ih i (Nat.lt_of_succ_lt_succ hi)

/-- Lane `i` of a value that is made from its lanes. -/
theorem laneOf_ofLanes {n m : Nat} (ls : List (BitVec m)) (i : Nat) (hi : i < ls.length) (hn : m * ls.length ≤ n) :
    laneOf m (BitVec.ofNat n (ofLanes m ls)) i = ls[i] := by
  have hlt : ofLanes m ls < 2 ^ n := (ofLanes_lt ls).trans_le (Nat.pow_le_pow_right (by decide) hn)
  apply BitVec.eq_of_toNat_eq
  rw [laneOf, BitVec.extractLsb'_toNat, BitVec.toNat_ofNat, Nat.mod_eq_of_lt hlt, Nat.shiftRight_eq_div_pow, ofLanes_div_mod ls i hi]

/-- A row that LS.FILL makes of a scalar holds it in each of its 16 lanes. -/
theorem laneOf_rowOfFill {k : Ctx} (h : w.data = 5) (i : Nat) (hi : i < 16) :
    laneOf 64 (s.rowOfFill k w) i = s.scalar k w.toff.toNat := by
  rw [State.rowOfFill, if_pos h, laneOf_ofLanes _ _ (by simpa using hi) (by simp), List.getElem_replicate]

theorem rowOfFill_zero {k : Ctx} (h : w.data = 4) : s.rowOfFill k w = 0 := by
  rw [State.rowOfFill, if_neg (by rw [h]; decide)]

/-! ### LS.COPY -/

theorem exec_lsCopy (h : s.CanIssue .ls q (.lsCopy q w)) (hr : s.Repeats .ls q) : exec (.lsCopy q w) s =
    .next ((s.firstRep q (.lsCopy q w) (State.lsCopyRep w)).1.endRepeat .ls q (s.firstRep q (.lsCopy q w) (State.lsCopyRep w)).2) :=
  exec_firstRep h hr rfl

/-- The offset that an LS.COPY of this word writes to. -/
def State.copyTarget (s : State) (q : Queue) (w : FmtM) : Nat := ((s.q .ls q).ar.look w.toff.toNat 0).toNat

theorem copyFault_first (hi : i.fmtM? = some w) (ht : IssueFrame s t q.line) :
    t.lsFault w.region.toNat true (copyOffset (s.ctx .ls q s.sc 0) (s.outstOf .ls q i)) =
      s.lsFault w.region.toNat true (s.copyTarget q w) := by
  rw [ht.lsFault, copyOffset_first hi, State.copyTarget]

theorem State.copyJudged_sameQueues {k : Ctx} {o : Outst} (s : State) (hk : k.l = q.line) : SameQueues s (s.copyJudged k o w) q :=
  (s.lsAddr_sameQueues hk ..).trans (State.lsAddr_sameQueues _ hk ..)

/-- Each access of an LS.COPY is judged by itself: the fault of either one is recorded, whatever the other's verdict. -/
theorem lsCopy_faultsAt (h : s.CanIssue .ls q (.lsCopy q w)) (hr : s.Repeats .ls q)
    (hf : s.lsFault w.region.toNat false (s.firstOffset .ls q w) = some (f, a) ∨
      s.lsFault w.region.toNat true (s.copyTarget q w) = some (f, a)) (hn : s.job.faults.length ≤ 12) :
    s.FaultsAt (.lsCopy q w) f a := by
  have he := exec_lsCopy h hr
  have hb := State.begun_onlyQueue (s := s) (st := .ls) (q := q) (i := .lsCopy q w)
  have hread := lsFault_first (i := .lsCopy q w) rfl hb.frame false
  have hm := (s.begun .ls q (.lsCopy q w)).lsAddr_sameQueues (k := s.ctx .ls q s.sc 0) (q := q) rfl w.region.toNat
    (lsOffset w (s.ctx .ls q s.sc 0) (s.outstOf .ls q (.lsCopy q w))) false
  have hmf := hb.frame.trans hm.frame
  have hwrite := copyFault_first (i := .lsCopy q w) rfl hmf
  have hroom := State.begun_room h hn (by decide)
  have hj := State.copyJudged_sameQueues (q := q) (w := w) (k := s.ctx .ls q s.sc 0) (o := s.outstOf .ls q (.lsCopy q w))
    (s.begun .ls q (.lsCopy q w)) rfl
  obtain hf | hf := hf
  · have hfb := hread.trans hf
    rw [State.firstRep, lsCopyRep_of_read_fault hfb] at he
    exact .of_recorded he hj hb.frame
      ((hroom.lsAddr_of_fault (by decide) hb.sc.symm hfb).lsAddr (by decide) hmf.sc.symm) (by decide)
  · have hfm := hwrite.trans hf
    rw [State.firstRep, lsCopyRep_of_write_fault hfm] at he
    exact .of_recorded he (State.lsAddr_sameQueues _ rfl ..) hmf
      ((hroom.lsAddr (by decide) hb.sc.symm).lsAddr_of_fault (by decide) hmf.sc.symm hfm) (by decide)

theorem lsCopy_places (h : s.CanIssue .ls q (.lsCopy q w)) (hr : s.Repeats .ls q)
    (hx : s.lsFault w.region.toNat false (s.firstOffset .ls q w) = none) (hy : s.lsFault w.region.toNat true (s.copyTarget q w) = none) :
    s.Places (.lsCopy q w) q (s.line q.line)
      { unit := (s.ctx .ls q s.sc 0).unit, kind := .copyTo ((s.region w.region.toNat).base + s.copyTarget q w)
        owner := .ls q.line, write := false, addr := (s.region w.region.toNat).base + s.firstOffset .ls q w
        order := s.sc, due := s.sc, data := 0, unconf := (s.line q.line).unconf q.task s.sc, taken := false, slotted := false
        ret := none } := by
  have hb := State.begun_onlyQueue (s := s) (st := .ls) (q := q) (i := .lsCopy q w)
  have hfx := (lsFault_first (i := .lsCopy q w) rfl hb.frame false).trans hx
  have hfy := (copyFault_first (i := .lsCopy q w) rfl hb.frame).trans hy
  refine .of_access (exec_lsCopy h hr) ?_ hb.frame hb.line
  rw [State.firstRep, lsCopyRep_of_none hfx hfy, State.lsUse_eq (L := s.line q.line) hb.line.cc, hb.frame.region, lsOffset_first rfl,
    copyOffset_first rfl]
  rfl

end

end Sys2Proof.Machine
end

section
/-! SUPPORT. LS.PGRP (R264, R265), and the statement about the local store. -/

namespace Sys2Proof.Machine

/-! ### LS.PGRP -/

/-- A line on which LS.PGRP has recorded its request. -/
def LineState.pgrpRequested (L : LineState) (on : BitVec 4) (x : Nat) : LineState :=
  { L with ls := { L.ls with pgReq := on, pgReqValid := true, pgReqSc := x } }

/-- A line on which the prediction `p` of task `t` keeps the request. -/
def LineState.pgrpDeferred (L : LineState) (t : Nat) (p : Pred) (on : BitVec 4) : LineState :=
  { L with cc.preds := L.cc.preds.put t { p with pgrp := some on } }

theorem IssueFrame.requestGroups {s t : State} {l : Nat} (h : IssueFrame s t l) (on : BitVec 4) (x : Nat) :
    IssueFrame { s with hrv.pend := s.hrv.pend ||| 8 } (t.requestGroups l on x) l := by
  have ht : t.requestGroups l on x =
      { t.updLine l fun L => L.pgrpRequested on x with hrv := { s.hrv with pend := s.hrv.pend ||| 8 } } := by
    rw [← h.hrv]
    rfl
  rw [ht]
  exact (h.trans (.updLine ..)).withHrv _

theorem LineFrame.requestGroups {L : LineState} {t : State} {l : Nat} (h : LineFrame L (t.line l)) (on : BitVec 4) (x : Nat) :
    LineFrame (L.pgrpRequested on x) ((t.requestGroups l on x).line l) := by
  show LineFrame _ ((t.updLine l fun L => L.pgrpRequested on x).line l)
  rw [State.line_updLine, if_pos rfl]
  unfold LineFrame LineState.pgrpRequested
  rw [h]

theorem LineFrame.pgrpDeferred {L : LineState} {s : State} {l : Nat} (h : LineFrame L (s.line l)) (t : Nat) (p : Pred)
    (on : BitVec 4) : LineFrame (L.pgrpDeferred t p on) ((s.updLine l fun L => L.pgrpDeferred t p on).line l) := by
  rw [State.line_updLine, if_pos rfl]
  unfold LineFrame LineState.pgrpDeferred
  rw [h]

section
variable {s : State} {q : Queue} {w : FmtO}

theorem exec_lsPgrp (h : s.CanIssue .ls q (.lsPgrp q w)) (hr : s.Repeats .ls q) : exec (.lsPgrp q w) s =
    .next ((s.firstRep q (.lsPgrp q w) (State.pgrpRep w)).1.endRepeat .ls q (s.firstRep q (.lsPgrp q w) (State.pgrpRep w)).2) :=
  exec_firstRep h hr rfl

/-- The groups that an LS.PGRP names. -/
theorem pgrp_groups : BitVec.ofNat 4 (w.fld 0 4) = w.opnd.extractLsb' 0 4 := by
  apply BitVec.eq_of_toNat_eq
  simp [FmtO.fld]

variable {k : Ctx} {o : Outst} {p : Pred}

theorem pgrpRep_of_none (h : (s.line k.l).cc.preds.find k.t = none) :
    (State.pgrpRep w s k o).1 = s.requestGroups k.l (w.opnd.extractLsb' 0 4) k.x := by
  unfold State.pgrpRep
  simp only [LineState.unconf, h, pgrp_groups]

theorem pgrpRep_of_pred (h : (s.line k.l).cc.preds.find k.t = some p) (hp : p.p < k.x) :
    (State.pgrpRep w s k o).1 = s.updLine k.l fun L => L.pgrpDeferred k.t p (w.opnd.extractLsb' 0 4) := by
  unfold State.pgrpRep
  simp only [LineState.unconf, h, hp, if_true, pgrp_groups]
  rfl

/-- A repeat that ends passes on what it has made of the state and of its line. -/
theorem exec_endRepeat_frame {s' u : State} {L : LineState} {i : Instr} (he : exec i s = .next (u.endRepeat .ls q o))
    (hf : IssueFrame s' u q.line) (hl : LineFrame L (u.line q.line)) :
    ∃ t, exec i s = .next t ∧ IssueFrame s' t q.line ∧ LineFrame L (t.line q.line) :=
  ⟨_, he, hf.trans State.endRepeat_onlyQueue.frame, hl.trans State.endRepeat_onlyQueue.line⟩

theorem lsPgrp_requests (h : s.CanIssue .ls q (.lsPgrp q w)) (hr : s.Repeats .ls q)
    (hp : (s.line q.line).cc.preds.find q.task = none) : ∃ t, exec (.lsPgrp q w) s = .next t ∧
      IssueFrame { s with hrv.pend := s.hrv.pend ||| 8 } t q.line ∧
      LineFrame ((s.line q.line).pgrpRequested (w.opnd.extractLsb' 0 4) s.sc) (t.line q.line) := by
  have he := exec_lsPgrp h hr
  have hb := State.begun_onlyQueue (s := s) (st := .ls) (q := q) (i := .lsPgrp q w)
  rw [← hb.line.cc] at hp
  rw [State.firstRep, pgrpRep_of_none hp] at he
  exact exec_endRepeat_frame he (hb.frame.requestGroups ..) (hb.line.requestGroups ..)

theorem lsPgrp_defers {p : Pred} (h : s.CanIssue .ls q (.lsPgrp q w)) (hr : s.Repeats .ls q)
    (hp : (s.line q.line).cc.preds.find q.task = some p) (hx : p.p < s.sc) : ∃ t, exec (.lsPgrp q w) s = .next t ∧
      IssueFrame s t q.line ∧ LineFrame ((s.line q.line).pgrpDeferred q.task p (w.opnd.extractLsb' 0 4)) (t.line q.line) := by
  have he := exec_lsPgrp h hr
  have hb := State.begun_onlyQueue (s := s) (st := .ls) (q := q) (i := .lsPgrp q w)
  rw [← hb.line.cc] at hp
  rw [State.firstRep, pgrpRep_of_pred hp hx] at he
  exact exec_endRepeat_frame he (hb.frame.trans (.updLine ..)) (hb.line.pgrpDeferred ..)

end

/-- Settles O22: the two uses of a port, then each instruction by the verdict on its address, then the request for power groups. -/
theorem localStoreAndPowerGroups : Obligations.LocalStoreAndPowerGroups := by
  refine ⟨⟨fun s l u v => ports_localStore, ?_⟩, ?_⟩
  · rintro s q w k L g x rfl hr rfl rfl rfl
    refine ⟨fun h => ⟨fun hx ha => ?_, fun hx hn => ?_, fun hx ha hn => ?_⟩, fun h hx ha d hd => ?_, fun h hx ha => ?_,
      fun h hx ha y hy hyw hya => ?_, fun i hi h hn => ⟨fun hx => ?_, fun hx ha => ?_⟩, fun y hy h hn => ⟨fun z hz => ?_, fun z hz => ?_⟩⟩
    · exact lsRd_places h hr (State.lsFault_none hx ha)
    · exact lsRd_faultsAt h hr (State.lsFault_region hx) hn
    · exact lsRd_faultsAt h hr (State.lsFault_align hx ha) hn
    · subst hd
      exact lsWr_places h hr (State.lsFault_none hx ha)
    · obtain ⟨t, ht, hu⟩ := lsFill_places h hr (State.lsFault_none hx ha)
      exact ⟨t, _, ht, hu, rfl, rfl, rfl, rfl, rfl, rfl, rowOfFill_zero, laneOf_rowOfFill⟩
    · subst hy
      exact lsCopy_places h hr (State.lsFault_none hx ha) (State.lsFault_none hyw hya)
    · obtain rfl | rfl := hi
      · exact lsWr_faultsAt h hr (State.lsFault_region hx) hn
      · exact lsFill_faultsAt h hr (State.lsFault_region hx) (hn.trans (by decide))
    · obtain rfl | rfl := hi
      · exact lsWr_faultsAt h hr (State.lsFault_align hx ha) hn
      · exact lsFill_faultsAt h hr (State.lsFault_align hx ha) (hn.trans (by decide))
    · subst hy
      obtain ⟨hx, rfl⟩ | ⟨hx, rfl⟩ := hz
      · exact lsCopy_faultsAt h hr (.inl (State.lsFault_region hx)) hn
      · exact lsCopy_faultsAt h hr (.inr (State.lsFault_region hx)) hn
    · subst hy
      obtain ⟨hx, ha, rfl⟩ | ⟨hx, ha, rfl⟩ := hz
      · exact lsCopy_faultsAt h hr (.inl (State.lsFault_align hx ha)) hn
      · exact lsCopy_faultsAt h hr (.inr (State.lsFault_align hx ha)) hn
  · rintro s q w L rfl h hr
    cases hp : (s.line q.line).cc.preds.find q.task with
    | none =>
      obtain ⟨t, ht, hf, hl⟩ := lsPgrp_requests h hr hp
      refine ⟨t, ht, fun _ => ⟨hf, hl, ?_⟩, fun p hp' => absurd hp' (Option.some_ne_none p).symm⟩
      rw [hf.hrv]
      simp
    | some p =>
      by_cases hx : p.p < s.sc
      · obtain ⟨t, ht, hf, hl⟩ := lsPgrp_defers h hr hp hx
        refine ⟨t, ht, fun hn => absurd hn (Option.some_ne_none p), fun p' hp' _ => ?_⟩
        obtain rfl := Option.some.inj hp'
        exact ⟨hf, hl⟩
      · refine ⟨_, exec_lsPgrp h hr, fun hn => absurd hn (Option.some_ne_none p), fun p' hp' hx' => ?_⟩
        obtain rfl := Option.some.inj hp'
        exact absurd hx' hx

end Sys2Proof.Machine
end

section
/-! SUPPORT. The operands that an issue reads (R75, R91, R106) and the result that it puts on its way (R184, R204), with the counters
of its line moved on. -/

namespace Sys2Proof.Machine

/-! ### The bookkeeping of an issue, and the counters of its line -/

theorem IssueFrame.symm {s t : State} {l : Nat} (h : IssueFrame s t l) : IssueFrame t s l := by
  obtain ⟨h, hl⟩ := h
  refine ⟨?_, fun k hk => (hl k hk).symm⟩
  rw [h]

theorem IssueFrame.freeIx {s t : State} {l : Nat} (h : IssueFrame s t l) : t.freeIx = s.freeIx := by rw [h.1]
theorem IssueFrame.part {s t : State} {l : Nat} (h : IssueFrame s t l) : t.part = s.part := by rw [h.1]

/-- `t` is `s` but for what every issue may change and the counters of the line. -/
structure Follows (s t : State) (q : Queue) : Prop where
  frame : IssueFrame s t q.line
  line : LineFrame { s.line q.line with cnt := (t.line q.line).cnt } (t.line q.line)

/-- `t` is `s` but for what every issue may change and the data queues of the line. -/
structure Reads (s t : State) (q : Queue) : Prop where
  frame : IssueFrame s t q.line
  line : LineFrame { s.line q.line with dq := (t.line q.line).dq } (t.line q.line)

section
variable {s t u : State} {q : Queue} {st : Station} {L M : LineState}

theorem LineFrame.withCnt (h : LineFrame L M) (c : Tbl Nat) : LineFrame { L with cnt := c } { M with cnt := c } := by
  rw [h]
  rfl
theorem LineFrame.cnt (h : LineFrame L M) : M.cnt = L.cnt := by rw [h]
theorem LineFrame.outs (h : LineFrame L M) : M.outs = L.outs := by rw [h]

theorem Follows.of_lineFrame (hf : IssueFrame s t q.line) (hl : LineFrame (s.line q.line) (t.line q.line)) : Follows s t q :=
  ⟨hf, by rw [hl.cnt]; exact hl⟩
theorem SameQueues.follows (h : SameQueues s t q) : Follows s t q := Follows.of_lineFrame h.frame h.line
theorem OnlyQueue.follows (h : OnlyQueue s t st q) : Follows s t q := Follows.of_lineFrame h.frame h.line

theorem Follows.trans (h : Follows s t q) (g : Follows t u q) : Follows s u q :=
  ⟨h.frame.trans g.frame, (h.line.withCnt _).trans g.line⟩
theorem Follows.countLine (h : Follows s t q) (c : LineCnt) (n : Nat) : Follows s (t.countLine q.line c n) q := by
  refine h.trans ⟨.updLine .., ?_⟩
  rw [State.countLine, State.line_updLine, if_pos rfl]
  rfl
theorem Follows.dq (h : Follows s t q) : (t.line q.line).dq = (s.line q.line).dq := by rw [h.line]
theorem Follows.outs (h : Follows s t q) : (t.line q.line).outs = (s.line q.line).outs := by rw [h.line]
theorem Follows.px (h : Follows s t q) : (t.line q.line).px = (s.line q.line).px := by rw [h.line]

theorem Reads.trans (h : Reads s t q) (g : Reads t u q) : Reads s u q := by
  refine ⟨h.frame.trans g.frame, ?_⟩
  have hl := g.line
  rw [h.line] at hl
  rw [hl]
  rfl
theorem Reads.outs (h : Reads s t q) : (t.line q.line).outs = (s.line q.line).outs := by rw [h.line]
theorem Reads.px (h : Reads s t q) : (t.line q.line).px = (s.line q.line).px := by rw [h.line]

theorem State.pxLat_congr (hp : t.part = s.part) (hx : (t.line q.line).px = (s.line q.line).px) (e : Nat) :
    t.pxLat q.line e = s.pxLat q.line e := by
  unfold State.pxLat State.lat State.isC0
  rw [hp, hx]

end

/-! ### The beats that an issue reads -/

section
variable {s t : State} {q : Queue} {k : Ctx} {sel x : Nat} {toff : BitVec 6} {L : LineState}

theorem LineState.consumed_withCnt (L : LineState) (c : Tbl Nat) :
    LineState.consumed { L with cnt := c } sel x = { L.consumed sel x with cnt := c } := by
  unfold LineState.consumed
  split
  · rfl
  · cases (L.dq.look (sel - 8) default).ready x <;> rfl

theorem LineState.consumed_eq (L : LineState) : L.consumed sel x = { L with dq := (L.consumed sel x).dq } := by
  unfold LineState.consumed
  split
  · rfl
  · cases (L.dq.look (sel - 8) default).ready x <;> rfl

theorem State.takeBeat_reads (hk : k.l = q.line) (h : s.noFreeBeat q.line sel k.x) : Reads s (s.takeBeat k sel toff).1 q := by
  obtain ⟨hf, hl, -⟩ := s.takeBeat_spec (toff := toff) hk h
  refine ⟨hf, ?_⟩
  rw [LineState.consumed_eq] at hl
  have hdq : ((s.takeBeat k sel toff).1.line q.line).dq = ((s.line q.line).consumed sel k.x).dq := by rw [hl]
  rwa [hdq]

theorem Follows.noFreeBeat (g : Follows s t q) (h : s.noFreeBeat q.line sel x) : t.noFreeBeat q.line sel x := by
  rw [State.noFreeBeat, g.frame.yield, g.dq]
  exact h

/-- The beat is the same one on a state that follows, and what it leaves follows too. -/
theorem Follows.takeBeat (g : Follows s t q) (hk : k.l = q.line) (h : s.noFreeBeat q.line sel k.x) :
    Follows (s.takeBeat k sel toff).1 (t.takeBeat k sel toff).1 q ∧ (t.takeBeat k sel toff).2 = (s.takeBeat k sel toff).2 := by
  obtain ⟨hf, hl, hd⟩ := s.takeBeat_spec (toff := toff) hk h
  obtain ⟨hf', hl', hd'⟩ := t.takeBeat_spec (toff := toff) hk (g.noFreeBeat h)
  have hc := g.line.consumed.trans hl'
  rw [LineState.consumed_withCnt] at hc
  have hcnt : ((t.takeBeat k sel toff).1.line q.line).cnt = (t.line q.line).cnt := by rw [hc]
  refine ⟨⟨(hf.symm.trans g.frame).trans hf', ?_⟩, ?_⟩
  · rw [hcnt]
    exact (hl.symm.withCnt _).trans hc
  · rw [hd, hd', g.line.beatRead]
    rfl

end

/-! ### No operand of an issue is a free beat (R91) -/

/-- How many entries of data queue `n` can be taken in sc `x`. -/
def LineState.readyCount (L : LineState) (n x : Nat) : Nat :=
  ((L.dq.look n default).entries.takeWhile fun e => e.at_ + 2 ≤ x).length

section
variable {s : State} {st : Station} {q : Queue} {k : Ctx} {sel sel' n x j : Nat} {toff : BitVec 6} {L : LineState} {i : Instr}

/-- A repeat that may issue in yield mode finds an entry for each of its operands. -/
theorem State.readyCount_of_mayIssue (h : s.mayIssue st q i j = true) (hr : j = 0 → s.Repeats st q) (hy : s.time.yield = true)
    (hn : n ∈ i.dqSrc j) : (i.dqSrc j).count n ≤ (s.line q.line).readyCount n s.sc := by
  have hlatch : (j == 0 && ((s.line q.line).q st q.task).repLatch == some 0) = false :=
    Bool.and_eq_false_imp.2 fun hj => beq_eq_false_iff_ne.2 (hr (beq_iff_eq.1 hj))
  simp only [State.mayIssue, State.dqFree, hy, hlatch, Bool.and_eq_true, Bool.not_true, Bool.false_or, List.all_eq_true,
    decide_eq_true_eq] at h
  exact h.2.1 n hn

theorem DataQueue.ready_isSome_of_count (h : 1 ≤ L.readyCount n x) : ((L.dq.look n default).ready x).isSome :=
  DataQueue.ready_of_takeWhile h

theorem mem_selDq (h : 8 ≤ sel) (hlt : sel < 16) : sel - 8 ∈ selDq sel := by simp [selDq, h, hlt]

theorem State.noFreeBeat_of_mayIssue (h : s.mayIssue st q i j = true) (hr : j = 0 → s.Repeats st q) (hs : sel < 4 ∨ 8 ≤ sel)
    (hlt : sel < 16) (hsub : selDq sel ⊆ i.dqSrc j) : s.noFreeBeat q.line sel s.sc := by
  intro hy h4
  have hmem := hsub (mem_selDq (by omega) hlt)
  exact DataQueue.ready_isSome_of_count ((List.one_le_count_iff.2 hmem).trans (State.readyCount_of_mayIssue h hr hy hmem))

theorem length_takeWhile_le_tail {α : Type} (p : α → Bool) (l : List α) :
    (l.takeWhile p).length ≤ (l.tail.takeWhile p).length + 1 := by
  cases l with
  | nil => exact Nat.zero_le _
  | cons a l =>
    rw [List.takeWhile_cons, List.tail_cons]
    split
    · exact le_rfl
    · exact Nat.zero_le _

/-- A beat that is read takes one entry from its own queue at most. -/
theorem LineState.readyCount_consumed (h : sel < 4 ∨ 8 ≤ sel) (hlt : sel < 16) :
    L.readyCount n x ≤ (L.consumed sel x).readyCount n x + (selDq sel).count n := by
  unfold LineState.consumed
  split
  · exact Nat.le_add_right ..
  · cases hr : (L.dq.look (sel - 8) default).ready x with
    | none => exact Nat.le_add_right ..
    | some e =>
      by_cases hn : sel - 8 = n
      · subst hn
        have hc : (selDq sel).count (sel - 8) = 1 := by simp [selDq, show 8 ≤ sel by omega, hlt]
        rw [hc]
        simp only [LineState.readyCount, Option.elim_some, LineState.popped, Tbl.look_put, if_true]
        exact length_takeWhile_le_tail ..
      · simp only [LineState.readyCount, Option.elim_some, LineState.popped, Tbl.look_put, hn, if_false]
        exact Nat.le_add_right ..

theorem LineFrame.readyCount {M : LineState} (h : LineFrame L M) : M.readyCount n x = L.readyCount n x := by
  have hdq : M.dq = L.dq := by rw [h]
  rw [LineState.readyCount, LineState.readyCount, hdq]

/-- With two operands in one repeat, the entry of the second is there once the first is taken. -/
theorem State.noFreeBeat_second (h : s.mayIssue st q i j = true) (hr : j = 0 → s.Repeats st q) (hk : k.l = q.line) (hx : k.x = s.sc)
    (hs : sel < 4 ∨ 8 ≤ sel) (hlt : sel < 16) (hs' : sel' < 4 ∨ 8 ≤ sel') (hlt' : sel' < 16)
    (hsrc : i.dqSrc j = selDq sel ++ selDq sel') : (s.takeBeat k sel toff).1.noFreeBeat q.line sel' s.sc := by
  have hfree : s.noFreeBeat q.line sel k.x :=
    hx ▸ State.noFreeBeat_of_mayIssue h hr hs hlt (hsrc ▸ List.subset_append_left ..)
  obtain ⟨hf, hl, -⟩ := s.takeBeat_spec (toff := toff) hk hfree
  intro hy h4
  have hmem : sel' - 8 ∈ selDq sel' := mem_selDq (by omega) hlt'
  have hn := State.readyCount_of_mayIssue h hr (hf.yield ▸ hy) (hsrc ▸ List.mem_append_right _ hmem)
  have hc := LineState.readyCount_consumed (L := s.line q.line) (n := sel' - 8) (x := s.sc) hs hlt
  have h1 := List.one_le_count_iff.2 hmem
  rw [hsrc, List.count_append] at hn
  refine DataQueue.ready_isSome_of_count ?_
  rw [hl.readyCount, hx]
  omega

end

end Sys2Proof.Machine
end

section
/-! SUPPORT. The result that an issue puts on its way (R78, R204), and the end of the repeat that does. -/

namespace Sys2Proof.Machine

section
variable {s t u b : State} {st : Station} {q : Queue} {k : Ctx} {due : Nat} {dest : Dest} {d : VecReg} {ev : BitVec 3} {B : LineState}
  {i : Instr}

/-- What is put on its way by an issue of the current state of a line. -/
def LineState.pend (L : LineState) (k : Ctx) (due : Nat) (dest : Dest) (d : VecReg) (ev : BitVec 3) : PendOut :=
  { st := k.st, due := due, issue := k.c0, rep := k.j, task := k.t, pc := (L.q k.st k.t).pc, unconf := L.unconf k.t k.x
    dest := dest, data := d, ev := ev, valid := true }

theorem State.line_emit (hk : k.l = q.line) : (s.emit k due dest d ev).line q.line =
    { s.line q.line with outs := (s.line q.line).outs ++ [(s.line q.line).pend k due dest d ev] } := by
  rw [State.emit, State.line_updLine, if_pos hk, hk]
  rfl

theorem IssueFrame.emit (hk : k.l = q.line) : IssueFrame s (s.emit k due dest d ev) q.line := hk ▸ .updLine ..

/-- A state that follows the operands puts a result on its way. -/
theorem Follows.emits (h : Follows b u q) (hb : IssueFrame s b q.line) (ho : (b.line q.line).outs = (s.line q.line).outs) :
    Emits s (u.emit (s.ctx st q s.sc 0) due dest d ev) (b.line q.line) st q due dest d ev := by
  refine ⟨(hb.trans h.frame).trans (.emit rfl), ?_, (u.line q.line).pend (s.ctx st q s.sc 0) due dest d ev, ?_, rfl, rfl, rfl, rfl,
    rfl, rfl, rfl, rfl, rfl⟩
  · rw [State.line_emit rfl]
    have hl := h.line
    rw [hl]
    rfl
  · rw [State.line_emit rfl, h.outs, ho]

theorem Emits.onlyQueue (h : Emits s u B st q due dest d ev) (g : OnlyQueue u t st q) : Emits s t B st q due dest d ev := by
  obtain ⟨hf, hl, o, ho, hrest⟩ := h
  refine ⟨hf.trans g.frame, ?_, o, g.line.outs.trans ho, hrest⟩
  rw [g.line.outs, g.line.cnt]
  exact hl.trans g.line

theorem Emits.countLine (h : Emits s u B st q due dest d ev) (c : LineCnt) (n : Nat) :
    Emits s (u.countLine q.line c n) B st q due dest d ev := by
  have hline : (u.countLine q.line c n).line q.line = (u.line q.line).count c n := by
    rw [State.countLine, State.line_updLine, if_pos rfl]
  obtain ⟨hf, hl, o, ho, hrest⟩ := h
  refine ⟨hf.trans (.updLine ..), ?_, o, (congrArg LineState.outs hline).trans ho, hrest⟩
  rw [hline, hl]
  rfl

theorem Follows.pxCount (h : Follows s t q) (hk : k.l = q.line) : Follows s (t.pxCount k) q := by
  rw [State.pxCount, hk]
  exact h.countLine ..

end

/-! ### The first repeat, with a check before it -/

section
variable {s : State} {st : Station} {q : Queue} {i : Instr}

/-- The first repeat by `step`, after a check that may record faults. -/
theorem State.issueRep_checked (h : s.CanIssue st q i) (hr : s.Repeats st q) (step : State → Ctx → Outst → State × Outst)
    (g : State → Ctx → State) (hg : SameQueues (s.begun st q i) (g (s.begun st q i) (s.ctx st q s.sc 0)) q) :
    s.issueRep st q i step (fun s k o => (g s k, o)) =
      .next ((step (g (s.begun st q i) (s.ctx st q s.sc 0)) (s.ctx st q s.sc 0) (s.outstOf st q i)).1.endRepeat st q
        (step (g (s.begun st q i) (s.ctx st q s.sc 0)) (s.ctx st q s.sc 0) (s.outstOf st q i)).2) := by
  have hc : (s.outstOf st q i).c0 = s.sc := congrArg (·.2.2.2) s.outstOf_plan
  have hstep : s.issueRep st q i step (fun s k o => (g s k, o)) =
      s.issueRep st q i fun u k o => step (g u k) ((g u k).ctx st q o.c0 0) o := rfl
  rw [hstep, State.issueRep_eq h hr, hc, hg.ctx, State.ctx_begun]

theorem State.outstOf_instr : (s.outstOf st q i).instr = i := congrArg Prod.fst s.outstOf_plan
theorem State.outstOf_done : (s.outstOf st q i).done = 0 := congrArg (·.2.2.1) s.outstOf_plan

/-- After the first of several repeats the next is outstanding. -/
theorem State.outstOf_more (hn : 1 < (s.q st q).repLatch.getD (i.repcnt + 1)) :
    (s.outstOf st q i).done + 1 < (s.outstOf st q i).total := by
  have ht : (s.outstOf st q i).total = (s.q st q).repLatch.getD (i.repcnt + 1) := congrArg (·.2.1) s.outstOf_plan
  rwa [State.outstOf_done, ht]

theorem State.mayIssue_of_canIssue (h : s.CanIssue st q i) : s.mayIssue st q i 0 = true := by
  obtain ⟨-, hm, -⟩ := h
  simp only [State.mayStart, Bool.and_eq_true] at hm
  exact hm.1

end

end Sys2Proof.Machine
end

section
/-! SUPPORT. PX.CMPX, PX.LPERM, PX.PK6 and PX.UP6 (Table 6-11, R202, R203). -/

namespace Sys2Proof

theorem FmtO.ofNat_fld (w : FmtO) (lo n : Nat) : BitVec.ofNat n (w.fld lo n) = w.opnd.extractLsb' lo n := by
  apply BitVec.eq_of_toNat_eq
  simp [FmtO.fld, Nat.shiftRight_eq_div_pow]

theorem FmtO.fld_lt (w : FmtO) (lo n : Nat) : w.fld lo n < 2 ^ n := Nat.mod_lt _ (Nat.two_pow_pos n)

namespace Machine

/-! ### The operands of a word that the loader accepts -/

theorem selIsChan_iff {x : BitVec 4} : selIsChan x = true ↔ x.toNat < 4 ∨ 8 ≤ x.toNat := by simp [selIsChan]

theorem wfPxCmpx_operands {w : FmtO} (h : wfPxCmpx w = true) :
    (w.src.toNat < 4 ∨ 8 ≤ w.src.toNat) ∧ (w.fld 5 4 < 4 ∨ 8 ≤ w.fld 5 4) := by
  simp only [wfPxCmpx, Bool.and_eq_true, Bool.or_eq_true, selIsChan_iff, decide_eq_true_eq] at h
  exact h.1.1

theorem wfPxLperm_operands {w : FmtO} (h : wfPxLperm w = true) :
    (w.src.toNat < 4 ∨ 8 ≤ w.src.toNat) ∧ (w.fld 4 4 < 4 ∨ 8 ≤ w.fld 4 4) := by
  simp only [wfPxLperm, Bool.and_eq_true, Bool.or_eq_true, selIsChan_iff, decide_eq_true_eq] at h
  obtain ⟨⟨⟨⟨hsrc, -⟩, -⟩, hix⟩, -⟩ := h
  exact ⟨hsrc, hix⟩

theorem wfPxPk6_source {w : FmtO} (h : wfPxPk6 w = true) : w.src.toNat < 4 ∨ 8 ≤ w.src.toNat := by
  simp only [wfPxPk6, Bool.and_eq_true, selIsChan_iff] at h
  exact h.1.1

section
variable {s u : State} {q : Queue} {w : FmtO} {k : Ctx} {i : Instr} {j sel sel' : Nat} {toff toff' : BitVec 6}

/-- Both operands of a repeat, on the state before the issue and on one that follows it. -/
theorem Follows.takeBeats (g : Follows s u q) (h : s.mayIssue .px q i j = true) (hr : j = 0 → s.Repeats .px q) (hk : k.l = q.line)
    (hx : k.x = s.sc) (hs : sel < 4 ∨ 8 ≤ sel) (hlt : sel < 16) (hs' : sel' < 4 ∨ 8 ≤ sel') (hlt' : sel' < 16)
    (hsrc : i.dqSrc j = selDq sel ++ selDq sel') :
    (u.takeBeat k sel toff).2 = (s.takeBeat k sel toff).2 ∧
    Follows ((s.takeBeat k sel toff).1.takeBeat k sel' toff').1 ((u.takeBeat k sel toff).1.takeBeat k sel' toff').1 q ∧
    ((u.takeBeat k sel toff).1.takeBeat k sel' toff').2 = ((s.takeBeat k sel toff).1.takeBeat k sel' toff').2 ∧
    Reads s ((s.takeBeat k sel toff).1.takeBeat k sel' toff').1 q := by
  have h1 : s.noFreeBeat q.line sel k.x := hx ▸ State.noFreeBeat_of_mayIssue h hr hs hlt (hsrc ▸ List.subset_append_left ..)
  have h2 := State.noFreeBeat_second (toff := toff) h hr hk hx hs hlt hs' hlt' hsrc
  rw [← hx] at h2
  obtain ⟨g1, hd1⟩ := g.takeBeat (toff := toff) hk h1
  obtain ⟨g2, hd2⟩ := g1.takeBeat (toff := toff') hk h2
  exact ⟨hd1, g2, hd2, (State.takeBeat_reads hk h1).trans (State.takeBeat_reads hk h2)⟩

/-- The one operand of PX.PK6 or PX.UP6, on the state before the issue and on one that follows it. -/
theorem Follows.takeOne (g : Follows s u q) (h : s.mayIssue .px q i j = true) (hr : j = 0 → s.Repeats .px q) (hk : k.l = q.line)
    (hx : k.x = s.sc) (hs : sel < 4 ∨ 8 ≤ sel) (hlt : sel < 16) (hsrc : i.dqSrc j = selDq sel) :
    Follows (s.takeBeat k sel toff).1 (u.takeBeat k sel toff).1 q ∧ (u.takeBeat k sel toff).2 = (s.takeBeat k sel toff).2 ∧
    Reads s (s.takeBeat k sel toff).1 q := by
  have h1 : s.noFreeBeat q.line sel k.x := hx ▸ State.noFreeBeat_of_mayIssue h hr hs hlt (hsrc ▸ List.Subset.refl _)
  exact ⟨(g.takeBeat hk h1).1, (g.takeBeat hk h1).2, State.takeBeat_reads hk h1⟩

/-- The latencies of the PX stay while a repeat reads its operands. -/
theorem Follows.pxLat {a b : State} (g : Follows a b q) (hr : Reads s a q) (e : Nat) : b.pxLat q.line e = s.pxLat q.line e :=
  State.pxLat_congr (hr.frame.trans g.frame).part (g.px.trans hr.px) e

theorem Follows.pxEmit_eq {a b : State} {e : Nat} {dst : BitVec 4} {d : BeatData} (g : Follows a b q) (hr : Reads s a q)
    (hk : k.l = q.line) (hx : k.x = s.sc) :
    b.pxEmit k e dst d = b.emit k (s.sc + s.pxLat q.line e) (destOf dst 0) (d.setWidth 4096) := by
  rw [State.pxEmit, hk, hx, g.pxLat hr]

/-- A repeat that has read its operands emits at a latency of the PX and ends. -/
theorem Follows.pxEmits {a b : State} {o : Outst} {e : Nat} {dst : BitVec 4} {d : BeatData} (g : Follows a b q) (hr : Reads s a q) :
    Emits s ((b.pxEmit (s.ctx .px q s.sc 0) e dst d).endRepeat .px q o) (a.line q.line) .px q (s.sc + s.pxLat q.line e) (destOf dst 0)
      (d.setWidth 4096) 0 := by
  rw [g.pxEmit_eq hr rfl rfl]
  exact (g.emits hr.frame hr.outs).onlyQueue State.endRepeat_onlyQueue

/-- The result of a repeat that has read its operands, at a latency of the PX. -/
theorem Follows.pxEmit_outs {a b : State} {e : Nat} {dst : BitVec 4} {d : BeatData} (g : Follows a b q) (hr : Reads s a q)
    (hk : k.l = q.line) (hx : k.x = s.sc) : ∃ p, ((b.pxEmit k e dst d).line q.line).outs = (s.line q.line).outs ++ [p] ∧
      p.due = s.sc + s.pxLat q.line e ∧ p.dest = destOf dst 0 ∧ p.data = d.setWidth 4096 := by
  rw [g.pxEmit_eq hr hk hx, State.line_emit hk, g.outs, hr.outs]
  exact ⟨_, rfl, rfl, rfl, rfl⟩

/-! ### The first repeat -/

theorem dqSrc_pxCmpx_first : (Instr.pxCmpx q w).dqSrc 0 = selDq w.src.toNat ++ selDq (w.fld 5 4) := by simp [Instr.dqSrc]

theorem cmpxRep_lane {o : Outst} (hl : w.fld 4 1 = 1) : State.cmpxRep w u k o =
    let a := (u.pxCount k).takeBeat k w.src.toNat w.toff
    let b := a.1.takeBeat k (w.fld 5 4) (w.opnd.extractLsb' 9 6)
    (b.1.pxEmit k 4 w.dst (compact (2 ^ w.fld 2 2) b.2 a.2), o) := by
  simp only [State.cmpxRep, hl, if_true, w.ofNat_fld]

theorem cmpxRep_row_first {o : Outst} (hl : w.fld 4 1 = 0) (hj : k.j = 0) (hn : o.nums = []) (ht : 1 < o.total) :
    State.cmpxRep w u k o =
    let a := (u.pxCount k).takeBeat k w.src.toNat w.toff
    let b := a.1.takeBeat k (w.fld 5 4) (w.opnd.extractLsb' 9 6)
    if laneOf 8 b.2 0 = 0 then (b.1, { o with buf := [b.2], nums := [0] })
    else ((b.1.tbWrite k (w.fld 0 2) 0 (k.x + b.1.pxLat k.l 1) a.2).countLine k.l .pxKept, { o with buf := [b.2], nums := [1] }) := by
  have h1 : ¬ (0 : Nat) = 1 := by decide
  have h2 : ¬ 0 + 1 = o.total := by omega
  simp only [State.cmpxRep, hl, hj, hn, h1, h2, if_true, if_false, w.ofNat_fld, Nat.zero_le, List.headD_nil, ne_eq, ite_not]
  split
  · rfl
  · rfl

theorem lpermRep_first {o : Outst} (hj : k.j = 0) : State.lpermRep w u k o =
    let a := (u.pxCount k).takeBeat k w.src.toNat w.toff
    let b := a.1.takeBeat k (w.fld 4 4) (w.opnd.extractLsb' 8 6)
    (b.1.pxEmit k 4 w.dst (lanePerm (2 ^ w.fld 2 2) b.2 a.2), { o with buf := [b.2] }) := by
  simp only [State.lpermRep, hj, if_true, w.ofNat_fld]

theorem pk6Rep_first {o : Outst} (hj : k.j = 0) : State.pk6Rep w u k o =
    let a := (u.pxCount k).takeBeat k w.src.toNat w.toff
    (a.1, { o with buf := [a.2] }) := by
  rw [State.pk6Rep, hj]
  rfl

theorem up6Rep_first {o : Outst} (hj : k.j = 0) : State.up6Rep w u k o =
    let a := (u.pxCount k).takeBeat k w.src.toNat w.toff
    (a.1.pxEmit k 4 w.dst (containerBeat [a.2] 0), { o with buf := [a.2] }) := by
  rw [State.up6Rep, hj]
  rfl

theorem exec_pxCmpx_eq : exec (.pxCmpx q w) s = execPxCmpx q w s := rfl
theorem exec_pxLperm_eq : exec (.pxLperm q w) s = execPxLperm q w s := rfl
theorem exec_pxPk6_eq : exec (.pxPk6 q w) s = execPxPk6 q w s := rfl
theorem exec_pxUp6_eq : exec (.pxUp6 q w) s = execPxUp6 q w s := rfl

/-- The state on which the first repeat of a PX instruction reads its operands follows the one before the issue. -/
theorem State.begun_pxCount_follows : Follows s ((s.begun .px q i).pxCount (s.ctx .px q s.sc 0)) q :=
  (State.begun_onlyQueue (st := .px)).follows.pxCount rfl

/-- The first repeat of PX.LPERM permutes the lanes of its beat by the index beat, which it takes after it. -/
theorem pxLperm_emits (h : s.CanIssue .px q (.pxLperm q w)) (hr : s.Repeats .px q) :
    let k := s.ctx .px q s.sc 0
    let a := s.takeBeat k w.src.toNat w.toff
    let b := a.1.takeBeat k (w.fld 4 4) (w.opnd.extractLsb' 8 6)
    ∃ t, exec (.pxLperm q w) s = .next t ∧ Emits s t (b.1.line q.line) .px q (s.sc + s.pxLat q.line 4) (destOf w.dst 0)
      ((lanePerm (2 ^ w.fld 2 2) b.2 a.2).setWidth 4096) 0 := by
  intro k a b
  obtain ⟨hsrc, hix⟩ := wfPxLperm_operands h.1
  obtain ⟨ha, hfol, hb, hreads⟩ := (State.begun_pxCount_follows (i := .pxLperm q w)).takeBeats (toff := w.toff)
    (toff' := w.opnd.extractLsb' 8 6) (State.mayIssue_of_canIssue h) (fun _ => hr) (k := s.ctx .px q s.sc 0) rfl rfl hsrc
    w.src.isLt hix (w.fld_lt 4 4) rfl
  rw [exec_pxLperm_eq, execPxLperm, State.issueRep_eq h hr]
  refine ⟨_, rfl, ?_⟩
  rw [lpermRep_first rfl]
  dsimp only
  rw [ha, hb]
  exact hfol.pxEmits hreads

/-- PX.CMPX with LANE = 1 compacts the lanes of its beat by the mask beat. -/
theorem pxCmpx_emits (h : s.CanIssue .px q (.pxCmpx q w)) (hr : s.Repeats .px q) (hl : w.fld 4 1 = 1) :
    let k := s.ctx .px q s.sc 0
    let a := s.takeBeat k w.src.toNat w.toff
    let b := a.1.takeBeat k (w.fld 5 4) (w.opnd.extractLsb' 9 6)
    ∃ t, exec (.pxCmpx q w) s = .next t ∧ Emits s t (b.1.line q.line) .px q (s.sc + s.pxLat q.line 4) (destOf w.dst 0)
      ((compact (2 ^ w.fld 2 2) b.2 a.2).setWidth 4096) 0 := by
  intro k a b
  obtain ⟨hsrc, hm⟩ := wfPxCmpx_operands h.1
  obtain ⟨ha, hfol, hb, hreads⟩ := (State.begun_pxCount_follows (i := .pxCmpx q w)).takeBeats (toff := w.toff)
    (toff' := w.opnd.extractLsb' 9 6) (State.mayIssue_of_canIssue h) (fun _ => hr) (k := s.ctx .px q s.sc 0) rfl rfl
    hsrc w.src.isLt hm (w.fld_lt 5 4) dqSrc_pxCmpx_first
  rw [exec_pxCmpx_eq, execPxCmpx]
  simp only [hl, if_true]
  rw [State.issueRep_eq h hr]
  refine ⟨_, rfl, ?_⟩
  rw [cmpxRep_lane hl]
  dsimp only
  rw [ha, hb]
  exact hfol.pxEmits hreads

/-- The first repeat of PX.UP6 unpacks the first container beat of the group. -/
theorem pxUp6_emits (h : s.CanIssue .px q (.pxUp6 q w)) (hr : s.Repeats .px q) :
    let a := s.takeBeat (s.ctx .px q s.sc 0) w.src.toNat w.toff
    ∃ t, exec (.pxUp6 q w) s = .next t ∧ Emits s t (a.1.line q.line) .px q (s.sc + s.pxLat q.line 4) (destOf w.dst 0)
      ((containerBeat [a.2] 0).setWidth 4096) 0 := by
  intro a
  obtain ⟨hfol, ha, hreads⟩ := (State.begun_pxCount_follows (i := .pxUp6 q w)).takeOne (toff := w.toff)
    (State.mayIssue_of_canIssue h) (fun _ => hr) (k := s.ctx .px q s.sc 0) rfl rfl (wfPxPk6_source h.1) w.src.isLt rfl
  rw [exec_pxUp6_eq, execPxUp6, State.issueRep_eq h hr]
  refine ⟨_, rfl, ?_⟩
  rw [up6Rep_first rfl]
  dsimp only
  rw [ha]
  exact hfol.pxEmits hreads

/-- The first repeat of PX.PK6 keeps its beat for the next one and puts no result on its way. -/
theorem pxPk6_begins (h : s.CanIssue .px q (.pxPk6 q w)) (hr : s.Repeats .px q)
    (hn : 1 < (s.q .px q).repLatch.getD (w.repcnt.toNat + 1)) :
    let a := s.takeBeat (s.ctx .px q s.sc 0) w.src.toNat w.toff
    ∃ t o, exec (.pxPk6 q w) s = .next t ∧ IssueFrame s t q.line ∧
      LineFrame { a.1.line q.line with cnt := (t.line q.line).cnt } (t.line q.line) ∧
      (t.q .px q).outst = some o ∧ o.instr = .pxPk6 q w ∧ o.done = 1 ∧ o.buf = [a.2] := by
  intro a
  obtain ⟨hfol, ha, hreads⟩ := (State.begun_pxCount_follows (i := .pxPk6 q w)).takeOne (toff := w.toff)
    (State.mayIssue_of_canIssue h) (fun _ => hr) (k := s.ctx .px q s.sc 0) rfl rfl (wfPxPk6_source h.1) w.src.isLt rfl
  rw [exec_pxPk6_eq, execPxPk6, State.issueRep_eq h hr, pk6Rep_first rfl]
  dsimp only
  rw [ha]
  exact ⟨_, _, rfl, hreads.frame.trans (hfol.frame.trans State.endRepeat_onlyQueue.frame),
    (hfol.trans (State.endRepeat_onlyQueue (st := .px)).follows).line, State.endRepeat_outst_more (State.outstOf_more hn),
    State.outstOf_instr, congrArg (· + 1) State.outstOf_done, rfl⟩

/-! ### A compaction of rows -/

theorem State.namesTb_sameQueues (s : State) (hk : k.l = q.line) (tb : Nat) (reads : Bool) : SameQueues s (s.namesTb k tb reads) q := by
  unfold State.namesTb
  dsimp only
  split
  · exact s.faultK_sameQueues hk ..
  · split
    · exact s.faultK_sameQueues hk ..
    · exact .refl ..

theorem Emits.updWrote {t : State} {B : LineState} {due : Nat} {dest : Dest} {d : VecReg} {ev : BitVec 3}
    (h : Emits s t B .px q due dest d ev) (f : LineState → Tbl (BitVec 3)) :
    Emits s (t.updLine q.line fun L => { L with px.wrote := f L }) { B with px.wrote := f (t.line q.line) } .px q due dest d ev := by
  obtain ⟨hf, hl, o, ho, hrest⟩ := h
  have hline : (t.updLine q.line fun L => { L with px.wrote := f L }).line q.line =
      { t.line q.line with px.wrote := f (t.line q.line) } := by rw [State.line_updLine, if_pos rfl]
  refine ⟨hf.trans (.updLine ..), ?_, o, (congrArg LineState.outs hline).trans ho, hrest⟩
  rw [hline]
  generalize f (t.line q.line) = v
  rw [hl]
  rfl

/-- The first row of a tile buffer is put on its way; a prediction notes the buffer (Table 6-13). -/
theorem Follows.tbWrites {a b : State} {tb due : Nat} {d : BeatData} (g : Follows a b q) (hr : Reads s a q) :
    ∃ v, Emits s (b.tbWrite (s.ctx .px q s.sc 0) tb 0 due d) { a.line q.line with px.wrote := v } .px q due (.tbRow tb 0)
      (d.setWidth 4096) 0 := by
  have h := g.emits (st := .px) (due := due) (dest := .tbRow tb 0) (d := d.setWidth 4096) (ev := 0) hr.frame hr.outs
  rw [State.tbWrite, if_neg (by decide)]
  dsimp only
  split
  · exact ⟨_, h.updWrote _⟩
  · exact ⟨(a.line q.line).px.wrote, h⟩

theorem Emits.wrote {t : State} {B : LineState} {due : Nat} {dest : Dest} {d : VecReg} {ev : BitVec 3}
    (h : Emits s t B .px q due dest d ev) : Emits s t { B with px.wrote := (t.line q.line).px.wrote } .px q due dest d ev := by
  obtain ⟨hf, hl, hrest⟩ := h
  refine ⟨hf, ?_, hrest⟩
  have hx : (t.line q.line).px.wrote = B.px.wrote := by rw [hl]
  rw [hx]
  exact hl

/-- The first repeat of PX.CMPX with LANE = 0 writes row 0 of the tile buffer when lane 0 of the mask keeps it. -/
theorem pxCmpx_writes_row (h : s.CanIssue .px q (.pxCmpx q w)) (hr : s.Repeats .px q) (hl : w.fld 4 1 = 0)
    (hn : 1 < (s.q .px q).repLatch.getD (w.repcnt.toNat + 1)) :
    let k := s.ctx .px q s.sc 0
    let a := s.takeBeat k w.src.toNat w.toff
    let b := a.1.takeBeat k (w.fld 5 4) (w.opnd.extractLsb' 9 6)
    ∃ t o, exec (.pxCmpx q w) s = .next t ∧ (t.q .px q).outst = some o ∧ o.buf = [b.2] ∧
      (laneOf 8 b.2 0 ≠ 0 → o.nums = [1] ∧
        Emits s t { b.1.line q.line with px.wrote := (t.line q.line).px.wrote } .px q (s.sc + s.pxLat q.line 1)
          (.tbRow (w.fld 0 2) 0) (a.2.setWidth 4096) 0) ∧
      (laneOf 8 b.2 0 = 0 → o.nums = [0] ∧ (t.line q.line).outs = (s.line q.line).outs) := by
  intro k a b
  obtain ⟨hsrc, hm⟩ := wfPxCmpx_operands h.1
  have hnames := (s.begun .px q (.pxCmpx q w)).namesTb_sameQueues (k := s.ctx .px q s.sc 0) (q := q) rfl (w.fld 0 2) false
  obtain ⟨ha, hfol, hb, hreads⟩ := (((State.begun_onlyQueue (st := .px)).follows.trans hnames.follows).pxCount
    (k := s.ctx .px q s.sc 0) rfl).takeBeats (toff := w.toff) (toff' := w.opnd.extractLsb' 9 6)
    (State.mayIssue_of_canIssue h) (fun _ => hr) (k := s.ctx .px q s.sc 0) rfl rfl hsrc w.src.isLt hm (w.fld_lt 5 4) dqSrc_pxCmpx_first
  have hmore := State.outstOf_more (s := s) (st := .px) (q := q) (i := .pxCmpx q w) hn
  have hne : ¬ w.fld 4 1 = 1 := by omega
  rw [exec_pxCmpx_eq, execPxCmpx]
  simp only [hne, if_false]
  rw [State.issueRep_checked h hr _ (fun s k => s.namesTb k (w.fld 0 2) false) hnames, cmpxRep_row_first hl rfl rfl (by omega)]
  dsimp only
  rw [ha, hb]
  by_cases hz : laneOf 8 b.2 0 = 0
  · rw [if_pos hz]
    refine ⟨_, _, rfl, State.endRepeat_outst_more hmore, rfl, fun hnz => absurd hz hnz, fun _ => ⟨rfl, ?_⟩⟩
    rw [State.endRepeat_onlyQueue.line.outs, hfol.outs, hreads.outs]
  · rw [if_neg hz]
    obtain ⟨v, hv⟩ := hfol.tbWrites (tb := w.fld 0 2) (due := s.sc + s.pxLat q.line 1) (d := a.2) hreads
    rw [← hfol.pxLat hreads 1] at hv ⊢
    exact ⟨_, _, rfl, State.endRepeat_outst_more hmore, rfl,
      fun _ => ⟨rfl, ((hv.countLine .pxKept 1).onlyQueue State.endRepeat_onlyQueue).wrote⟩, fun h0 => absurd h0 hz⟩

/-! ### A later repeat of PX.PK6 -/

theorem State.nextRep_issued (st : Station) (o : Outst) (step : State → Ctx → Outst → State × Outst) : s.nextRep st q o step =
    (step (s.issued st q o.instr) (s.ctx st q o.c0 o.done) o).1.endRepeat st q
      (step (s.issued st q o.instr) (s.ctx st q o.c0 o.done) o).2 := by
  rw [← (s.issued_sameQueues st q o.instr).ctx]
  rfl

theorem pk6Rep_later {o : Outst} (hj : k.j % 4 ≠ 0) : State.pk6Rep w u k o =
    let a := (u.pxCount k).takeBeat k w.src.toNat w.toff
    (a.1.pxEmit k 4 w.dst (packedBeat (o.buf ++ [a.2]) (k.j % 4 - 1)), { o with buf := o.buf ++ [a.2] }) := by
  simp only [State.pk6Rep, hj, if_false]

theorem exec_repeatIssue_pk6 {o : Outst} (ho : (s.q .px q).outst = some o) (hi : o.instr = .pxPk6 q w) (hd : o.done % 4 ≠ 0)
    (hm : s.mayIssue .px q o.instr o.done = true) :
    let x := s.ctx .px q o.c0 o.done
    let a := ((s.issued .px q o.instr).pxCount x).takeBeat x w.src.toNat w.toff
    exec (.repeatIssue .px q) s = .next ((a.1.pxEmit x 4 w.dst (packedBeat (o.buf ++ [a.2]) (o.done % 4 - 1))).endRepeat .px q
      { o with buf := o.buf ++ [a.2] }) := by
  intro x a
  have hstep : repStep o.instr = State.pk6Rep w := by rw [hi]; rfl
  rw [exec_repeatIssue ho hm, State.nextRep_issued, hstep, pk6Rep_later hd]
  rfl

/-- A later repeat of a group, of a word that the loader accepts, writes a packed beat of the beats so far. -/
theorem pxPk6_packs {o : Outst} (ho : (s.q .px q).outst = some o) (hi : o.instr = .pxPk6 q w) (hwf : o.instr.wf = true)
    (hd : o.done % 4 ≠ 0) (hm : s.mayIssue .px q o.instr o.done = true) :
    let b := s.takeBeat (s.ctx .px q o.c0 o.done) w.src.toNat w.toff
    ∃ t e, exec (.repeatIssue .px q) s = .next t ∧ IssueFrame s t q.line ∧ (t.line q.line).outs = (s.line q.line).outs ++ [e] ∧
      e.due = s.sc + s.pxLat q.line 4 ∧ e.dest = destOf w.dst 0 ∧
      e.data = (packedBeat (o.buf ++ [b.2]) (o.done % 4 - 1)).setWidth 4096 := by
  intro b
  rw [hi] at hwf
  obtain ⟨hfol, hb, hreads⟩ := ((s.issued_sameQueues .px q o.instr).follows.pxCount (k := s.ctx .px q o.c0 o.done) rfl).takeOne
    (toff := w.toff) hm (fun h0 => absurd (by rw [h0]) hd) (k := s.ctx .px q o.c0 o.done) rfl rfl
    (wfPxPk6_source hwf) w.src.isLt (by rw [hi]; rfl)
  obtain ⟨e, he, hrest⟩ := hfol.pxEmit_outs (e := 4) (dst := w.dst) (d := packedBeat (o.buf ++ [b.2]) (o.done % 4 - 1))
    (k := s.ctx .px q o.c0 o.done) hreads rfl rfl
  have hexec := exec_repeatIssue_pk6 ho hi hd hm
  dsimp only at hexec
  rw [hb] at hexec
  exact ⟨_, e, hexec, ((hreads.frame.trans hfol.frame).trans (.emit rfl)).trans State.endRepeat_onlyQueue.frame,
    State.endRepeat_onlyQueue.line.outs.trans he, hrest⟩

end

end Machine
end Sys2Proof
end

section
/-! SUPPORT. The statement about PX.CMPX, PX.LPERM, PX.PK6 and PX.UP6. Each of its clauses holds of the words that the loader accepts
(`pxCmpx_emits`, `pxCmpx_writes_row`, `pxLperm_emits`, `pxPk6_begins`, `pxPk6_packs`, `pxUp6_emits`). Its clause for a later repeat of
PX.PK6 is about any outstanding word, and fails of one whose source is neither a stream nor a data queue. -/

namespace Sys2Proof.Machine

/-- In yield mode an empty queue gives a free beat under a fresh stamp (log entry 84). -/
theorem State.takeBeat_freeIx {s : State} {k : Ctx} {sel : Nat} {toff : BitVec 6} (hy : s.time.yield = true) (hs : 4 ≤ sel)
    (hd : ((s.line k.l).dq.look (sel - 8) default).ready k.x = none) : (s.takeBeat k sel toff).1.freeIx = s.freeIx + 1 := by
  simp [State.takeBeat, State.dequeue, State.freeBeat, Nat.not_lt.2 hs, hd, hy]

/-- A later repeat of PX.PK6 whose operand is a free beat moves the stamps on, which no `IssueFrame` allows. -/
theorem exec_repeatIssue_pk6_freeIx {s t : State} {q : Queue} {o : Outst} {w : FmtO} (ho : (s.q .px q).outst = some o)
    (hi : o.instr = .pxPk6 q w) (hd : o.done % 4 ≠ 0) (hm : s.mayIssue .px q o.instr o.done = true) (hy : s.time.yield = true)
    (hs : 4 ≤ w.src.toNat) (hq : ((s.line q.line).dq.look (w.src.toNat - 8) default).ready s.sc = none)
    (ht : exec (.repeatIssue .px q) s = .next t) : t.freeIx = s.freeIx + 1 := by
  have hfol := (s.issued_sameQueues .px q o.instr).follows.pxCount (k := s.ctx .px q o.c0 o.done) rfl
  rw [← hfol.dq] at hq
  rw [exec_repeatIssue_pk6 ho hi hd hm] at ht
  obtain rfl := Host.Outcome.next.inj ht
  rw [State.endRepeat_onlyQueue.frame.freeIx, State.pxEmit, (IssueFrame.emit rfl).freeIx,
    State.takeBeat_freeIx (hfol.frame.yield.trans hy) hs hq, hfol.frame.freeIx]

/-- A PX.PK6 of four repeats whose source is selector 4, which the loader refuses. -/
def pk6NoSource : FmtO := { toff := 0, src := 4, dst := 0, repcnt := 3, opnd := 0 }

/-- Task 0 of line 0. -/
def pk6Queue : Queue := ⟨0, 0⟩

/-- The first repeat of it is made. -/
def pk6Outst : Outst := { (default : Outst) with instr := .pxPk6 pk6Queue pk6NoSource, done := 1, total := 4 }

/-- It is outstanding in a running job in yield mode, on a line that issues for its task in every sc. -/
def pk6Yield : State :=
  { State.reset with
    time.running := true, time.yield := true
    lines := [(0, { LineState.idle with
      hasLine := true, rotLen := 1, rot := [(0, 0x24924)]
      queues := [(qKey .px 0, { (default : QState) with enabled := true, outst := some pk6Outst })] })] }

/-- Refutes O19: the selector 4 is no operand that R91 waits for, so the second repeat of a PX.PK6 that names it issues in yield mode and
takes a free beat from the empty data queue 0; the stamp of the free beat is a change outside the frame of the issue. -/
theorem not_compactionPermutationAndPacking : ¬ Obligations.CompactionPermutationAndPacking := by
  intro h
  have ho : (pk6Yield.q .px pk6Queue).outst = some pk6Outst := by decide
  have hm : pk6Yield.mayIssue .px pk6Queue pk6Outst.instr pk6Outst.done = true := by decide
  obtain ⟨-, -, -, hpack, -⟩ := h pk6Yield pk6Queue pk6NoSource _ _ rfl (by unfold State.Repeats; decide) rfl _ rfl
  obtain ⟨t, e, ht, hf, -⟩ := hpack pk6Outst _ _ ho rfl (by decide) hm rfl rfl
  have hfree := exec_repeatIssue_pk6_freeIx ho rfl (by decide) hm (by decide) (by decide) (by decide) ht
  rw [hf.freeIx] at hfree
  omega

end Sys2Proof.Machine
end

section
/-! SUPPORT. The commits of the matrix station (R154, R155, R165, R170): what one confirmed commit makes of its line, and the commits of
one sc one after the other. -/

namespace Sys2Proof.Machine

/-! ### One commit -/

/-- What a commit makes of the content of its row. -/
def MxCommit.applied (c : MxCommit) (a : List Sheaf) : List Sheaf :=
  ((if c.clear then clearedRow else a).zip c.sums).map fun p => p.1.add p.2

/-- How many sheafs of its row a commit adds to in their cold word (R165). -/
def MxCommit.colds (c : MxCommit) (a : List Sheaf) : Nat :=
  if c.isMm then (((if c.clear then clearedRow else a).zip c.sums).filter fun p => coldUpdate p.1.v p.2.v).length else 0

/-- The accumulator store after a commit. -/
def MxState.accAfter (m : MxState) (c : MxCommit) : Tbl (Stamped (List Sheaf)) :=
  m.acc.put c.row ((m.row c.row).write c.due (c.applied ((m.row c.row).at (c.due + 1))))

/-- A line after a commit that is confirmed, but for the report of its terms out of window. -/
def LineState.committed (L : LineState) (c : MxCommit) : LineState :=
  ({ L with mx.acc := L.mx.accAfter c } : LineState).count .mxCold (c.colds ((L.mx.row c.row).at (c.due + 1)))

section
variable {s : State} {l : Nat} {c : MxCommit} {L : LineState} {m : MxState}

/-- A confirmed commit changes its row, and reports the repeat when a term was out of window. -/
theorem State.commitRow_eq (hu : c.unconf = none) (hd : c.dead = false) : s.commitRow l c =
    if c.oow then ((s.updLine l (LineState.committed · c)).updLine l LineState.countOow).oowReport l c.row c.issue c.due c.task c.pc false
    else s.updLine l (LineState.committed · c) := by
  unfold State.commitRow
  simp only [hd, hu, Option.isSome_none, Bool.false_and, Bool.false_eq_true, if_false]
  have hline (f : LineState → LineState) (hf : f (s.line l) = (s.line l).committed c) :
      s.updLine l f = s.updLine l (LineState.committed · c) := s.updLine_congr hf
  rw [hline _ rfl]

theorem MxState.row_accAfter (r : Nat) : MxState.row { m with acc := m.accAfter c } r =
    if c.row = r then (m.row c.row).write c.due (c.applied ((m.row c.row).at (c.due + 1))) else m.row r := by
  simp only [MxState.row, MxState.accAfter, Tbl.look_put]

theorem LineState.mx_committed : (L.committed c).mx = { L.mx with acc := L.mx.accAfter c } := rfl

/-- The rows that a reader of the sc, and of the next one, gets after a commit. -/
theorem LineState.row_committed (r x : Nat) (hx : c.due = x) :
    ((L.committed c).mx.row r).at x = (L.mx.row r).at x ∧
    ((L.committed c).mx.row r).at (x + 1) = if c.row = r then c.applied ((L.mx.row r).at (x + 1)) else (L.mx.row r).at (x + 1) := by
  subst hx
  rw [LineState.mx_committed, MxState.row_accAfter]
  split
  · next h => rw [← h, Stamped.at_write_self, Stamped.at_write_next]; exact ⟨rfl, rfl⟩
  · exact ⟨rfl, rfl⟩

end

/-! ### The commits of one sc (R155) -/

section
variable {s : State} {l : LineId} {cs : List MxCommit}

/-- The commits that are due are all that the line has. -/
theorem exec_mxMmCommit (hl : s.live = true) (hh : s.held = false) (hc : (s.line l).mx.commits = cs) (hd : ∀ c ∈ cs, c.due = s.sc) :
    exec (.mxMmCommit l) s =
      .next ((cs.foldl (fun s c => s.commitRow l c) s).updLine l fun L =>
        { L with mx.commits := L.mx.commits.filter fun c => s.sc < c.due }) := by
  have hdue : cs.filter (fun c => decide (c.due ≤ s.sc)) = cs := List.filter_eq_self.2 fun c h => by simp [hd c h]
  show execMxMmCommit l s = _
  simp only [execMxMmCommit, hl, hh, Bool.not_false, Bool.and_self, if_true, State.mxCommits, hc, hdue]

/-- Nothing stays of commits that have all been due. -/
theorem filter_later_commits {x : Nat} (hd : ∀ c ∈ cs, c.due = x) : cs.filter (fun c => decide (x < c.due)) = [] :=
  List.filter_eq_nil_iff.2 fun c h => by simp [hd c h]

/-- The line of one confirmed commit without terms out of window, once it is made. -/
theorem exec_mxMmCommit_one {c : MxCommit} (hl : s.live = true) (hh : s.held = false) (hc : (s.line l).mx.commits = [c])
    (hd : c.due = s.sc) (ho : c.oow = false) (hu : c.unconf = none) (hdead : c.dead = false) :
    exec (.mxMmCommit l) s = .next (s.updLine l fun L => { L.committed c with mx.commits := [] }) := by
  rw [exec_mxMmCommit hl hh hc (by simpa using hd), List.foldl_cons, List.foldl_nil, State.commitRow_eq hu hdead, ho]
  simp only [Bool.false_eq_true, if_false, State.updLine_updLine]
  refine congrArg _ (s.updLine_congr ?_)
  have hlater := filter_later_commits (cs := [c]) (x := s.sc) (by simpa using hd)
  simp only [LineState.mx_committed, hc, hlater]

/-- The lines of confirmed commits of one sc without terms out of window, as each is made in turn. -/
theorem foldl_commitRow (x : Nat) (h : ∀ c ∈ cs, c.due = x ∧ c.oow = false ∧ c.unconf = none ∧ c.dead = false) :
    let t := cs.foldl (fun s c => s.commitRow l c) s
    t = { s with lines := t.lines } ∧ (t.line l).mx.commits = (s.line l).mx.commits ∧
    ∀ r, ((t.line l).mx.row r).at x = ((s.line l).mx.row r).at x ∧
      ((t.line l).mx.row r).at (x + 1) =
        (cs.filter fun c => c.row == r).foldl (fun a c => c.applied a) (((s.line l).mx.row r).at (x + 1)) := by
  induction cs generalizing s with
  | nil => exact ⟨rfl, rfl, fun r => ⟨rfl, rfl⟩⟩
  | cons c cs ih =>
    obtain ⟨hd, ho, hu, hdead⟩ := h c List.mem_cons_self
    have hstep : s.commitRow l c = s.updLine l (LineState.committed · c) := by
      rw [State.commitRow_eq hu hdead, ho]
      simp only [Bool.false_eq_true, if_false]
    obtain ⟨hs, hcommits, hrows⟩ := ih (s := s.updLine l (LineState.committed · c)) fun c hc => h c (List.mem_cons_of_mem _ hc)
    simp only [List.foldl_cons, hstep]
    refine ⟨hs.trans rfl, by rw [hcommits, State.line_updLine, if_pos rfl, LineState.mx_committed], fun r => ?_⟩
    obtain ⟨hnow, hnext⟩ := hrows r
    rw [State.line_updLine, if_pos rfl] at hnow hnext
    obtain ⟨hself, hone⟩ := (s.line l).row_committed r x hd
    refine ⟨hnow.trans hself, ?_⟩
    rw [hnext, hone, List.filter_cons]
    by_cases hr : c.row = r
    · simp [hr]
    · simp [hr]

end

/-! ### A term out of window (R170) -/

section
variable {s : State} {l : LineId} {c : MxCommit}

/-- What the report of a repeat with a term out of window leaves in its line. -/
def LineState.oowNoted (L : LineState) (row issue : Nat) : LineState :=
  { L with mx := { L.mx with oow := true
                             oowFirst := some (L.mx.oowFirst.getD row)
                             oowSc := if L.mx.oowFirst.isSome then L.mx.oowSc else issue } }

theorem State.oowReport_eq (s : State) (l row issue f task pc : Nat) (resolve : Bool) : s.oowReport l row issue f task pc resolve =
    if (s.line l).mx.cfg.getLsbD 0 then (s.updLine l (LineState.oowNoted · row issue)).faultAt f .arithOow 0 ⟨l, 3, task, true, pc⟩
      UnitRef.none 0 row 0 0 resolve
    else s.updLine l (LineState.oowNoted · row issue) := by
  have hn (f : LineState → LineState) (hf : f (s.line l) = (s.line l).oowNoted row issue) :
      s.updLine l f = s.updLine l (LineState.oowNoted · row issue) := s.updLine_congr hf
  unfold State.oowReport
  rw [hn]
  · simp only [State.line_updLine, if_true, LineState.oowNoted]
  · cases h : (s.line l).mx.oowFirst <;> simp [LineState.oowNoted, h]

/-- A line after a confirmed commit with a term out of window. -/
def LineState.oowCommitted (L : LineState) (c : MxCommit) : LineState := (L.committed c).countOow.oowNoted c.row c.issue

/-- The state after such a commit: under OOW_FAULT it records ARITH_OOW. -/
def State.oowCommit (s : State) (l : Nat) (c : MxCommit) : State :=
  if (s.line l).mx.cfg.getLsbD 0 then (s.updLine l (LineState.oowCommitted · c)).faultAt c.due .arithOow 0 ⟨l, 3, c.task, true, c.pc⟩
    UnitRef.none 0 c.row
  else s.updLine l (LineState.oowCommitted · c)

theorem State.commitRow_oow (ho : c.oow = true) (hu : c.unconf = none) (hd : c.dead = false) :
    s.commitRow l c = s.oowCommit l c := by
  rw [State.commitRow_eq hu hd, if_pos ho, State.oowReport_eq]
  simp only [State.updLine_updLine, State.line_updLine, if_true]
  rfl

/-- The commit leaves the other lines, and its own but for FAULT. -/
theorem State.line_oowCommit (k : Nat) : (s.oowCommit l c).line k =
    if k = l.val then { (s.line l).oowCommitted c with fault := ((s.oowCommit l c).line k).fault } else s.line k := by
  unfold State.oowCommit
  split
  · split
    · next hk => rw [State.line_faultAt, hk, State.line_updLine, if_pos rfl]
    · next hk =>
      rw [(State.faultAt_frame ..).2 k hk, State.line_updLine, if_neg (Ne.symm hk)]
  · split
    · next hk => rw [hk, State.line_updLine, if_pos rfl]
    · next hk => rw [State.line_updLine, if_neg (Ne.symm hk)]

theorem State.oowCommit_job_of_no_fault (h : (s.line l).mx.cfg.getLsbD 0 = false) : (s.oowCommit l c).job = s.job := by
  simp only [State.oowCommit, h, Bool.false_eq_true, if_false, State.updLine_job]

theorem State.oowCommit_faults (h : (s.line l).mx.cfg.getLsbD 0 = true) (hr : s.time.running = true) (hs : s.job.faultSc = none)
    (hf : s.job.faults = []) : ∃ r, (s.oowCommit l c).job.faults = [r] ∧ r.kind = 0x14 ∧ r.sc = c.due ∧ r.aux = c.row ∧
      r.unit = ⟨l, 3, c.task, true, c.pc⟩ := by
  obtain ⟨r, h1, h2, h3, h4, h5, -⟩ := State.faultAt_first (s.updLine l (LineState.oowCommitted · c)) c.due .arithOow 0
    ⟨l, 3, c.task, true, c.pc⟩ UnitRef.none 0 c.row 0 0 false hr hs hf
  rw [State.oowCommit, if_pos h]
  exact ⟨r, h1, h2, h4, h3, h5⟩

theorem LineState.mx_oowCommitted (L : LineState) : (L.oowCommitted c).mx =
    { L.mx with
      acc := L.mx.accAfter c, oow := true, oowCnt := min (L.mx.oowCnt + 1) 0xFFFFFFFF
      oowFirst := some (L.mx.oowFirst.getD c.row), oowSc := if L.mx.oowFirst.isSome then L.mx.oowSc else c.issue } := rfl

theorem LineState.oowRep_oowCommitted (L : LineState) :
    (L.oowCommitted c).cnt.look LineCnt.mxOowRep.ix 0 = min (L.cnt.look LineCnt.mxOowRep.ix 0 + 1) 0xFFFFFFFF := by
  simp [LineState.oowCommitted, LineState.oowNoted, LineState.countOow, LineState.committed, LineState.count, LineCnt.ix, LineCnt.wide,
    sat32, LineCnt.ctorIdx]

end

/-- A commit with a term out of window counts it, sets OOW, keeps the first row and its issue sc, and under OOW_FAULT records it. -/
theorem mxMmCommit_oow {s : State} {l : LineId} {c : MxCommit} (hl : s.live = true) (hh : s.held = false)
    (hc : (s.line l).mx.commits = [c]) (hd : c.due = s.sc) (ho : c.oow = true) (hu : c.unconf = none) (hdead : c.dead = false) :
    ∃ t, exec (.mxMmCommit l) s = .next t ∧ (∀ k, k ≠ l.val → t.line k = s.line k) ∧
      (t.line l).mx = { (s.line l).mx with
        acc := (s.line l).mx.accAfter c, commits := [], oow := true, oowCnt := min ((s.line l).mx.oowCnt + 1) 0xFFFFFFFF
        oowFirst := some ((s.line l).mx.oowFirst.getD c.row)
        oowSc := if (s.line l).mx.oowFirst.isSome then (s.line l).mx.oowSc else c.issue } ∧
      (t.line l).cnt = ((s.line l).oowCommitted c).cnt ∧ t.job = (s.oowCommit l c).job := by
  rw [exec_mxMmCommit hl hh hc (by simpa using hd), List.foldl_cons, List.foldl_nil, State.commitRow_oow ho hu hdead]
  have hlater := filter_later_commits (cs := [c]) (x := s.sc) (by simpa using hd)
  refine ⟨_, rfl, fun k hk => ?_, ?_, ?_, rfl⟩
  · rw [State.line_updLine, if_neg (Ne.symm hk), State.line_oowCommit, if_neg hk]
  · rw [State.line_updLine, if_pos rfl, State.line_oowCommit, if_pos rfl]
    simp only [LineState.mx_oowCommitted, hc, hlater]
  · rw [State.line_updLine, if_pos rfl, State.line_oowCommit, if_pos rfl]

/-- Settles O15: the one commit with a term out of window by its report, several by induction, the one without by its line. -/
theorem commitUpdatesItsRow : Obligations.CommitUpdatesItsRow := by
  refine ⟨fun s l c hl hh hc hd ho hu hdead M hM => ?_, fun s l cs hl hh hc hall => ?_, fun s l c hl hh hc hd ho hu hdead => ?_⟩
  · subst hM
    obtain ⟨t, ht, hlines, hmx, hcnt, hjob⟩ := mxMmCommit_oow hl hh hc hd ho hu hdead
    refine ⟨t, ht, hlines, by rw [hmx], by rw [hcnt, LineState.oowRep_oowCommitted], ?_, fun h => ?_, fun h hs hf => ?_⟩
    · obtain ⟨-, hnext⟩ := (s.line l).row_committed c.row s.sc hd
      rw [if_pos rfl] at hnext
      rw [hmx]
      exact hnext
    · rw [hjob, State.oowCommit_job_of_no_fault h]
    · obtain ⟨r, hr, hk, hsc, hx, hunit⟩ := State.oowCommit_faults (c := c) h (State.running_of_live hl) hs hf
      exact ⟨r, hjob ▸ hr, hk, hsc.trans hd, hx, hunit⟩
  · have hdue : ∀ c ∈ cs, c.due = s.sc := fun c h => (hall c h).1
    obtain ⟨hs, hcommits, hrows⟩ := foldl_commitRow (l := l) (s := s) s.sc hall
    rw [exec_mxMmCommit hl hh hc hdue]
    refine ⟨_, rfl, ?_, ?_, fun r => ?_⟩
    · rw [hs]
      rfl
    · rw [State.line_updLine, if_pos rfl]
      exact (congrArg (List.filter _) (hcommits.trans hc)).trans (filter_later_commits hdue)
    · rw [State.line_updLine, if_pos rfl]
      exact hrows r
  · obtain ⟨hnow, hnext⟩ := (s.line l).row_committed c.row s.sc hd
    rw [if_pos rfl] at hnext
    rw [exec_mxMmCommit_one hl hh hc hd ho hu hdead]
    refine ⟨_, rfl, rfl, fun k hk => by rw [State.line_updLine, if_neg (Ne.symm hk)], ?_⟩
    rw [State.line_updLine, if_pos rfl]
    refine ⟨rfl, hnext, hnow, fun r hr => ?_⟩
    show MxState.row { (s.line l).mx with acc := (s.line l).mx.accAfter c } r = _
    rw [MxState.row_accAfter, if_neg (Ne.symm hr)]

end Sys2Proof.Machine
end

section
/-! SUPPORT. A load of weights that completes (R157, R168), and the end of an issue of the matrix station that has changed its line. -/

namespace Sys2Proof.Machine

/-! ### The completion of a load (R157, R168) -/

section
variable {s t u : State} {st : Station} {q : Queue} {l : Nat} {p : LwProg} {L M : LineState}

theorem LineFrame.mx (h : LineFrame L M) : M.mx = L.mx := by rw [h]

/-- A load that completes, or does not, changes one line. -/
theorem State.lwComplete_lines (s : State) (l : Nat) : s.lwComplete l = { s with lines := (s.lwComplete l).lines } ∧
    ∀ k, k ≠ l → (s.lwComplete l).line k = s.line k := by
  unfold State.lwComplete
  split
  · exact ⟨rfl, fun _ _ => rfl⟩
  · split
    · exact ⟨rfl, fun k hk => by rw [State.line_updLine, if_neg (Ne.symm hk)]⟩
    · exact ⟨rfl, fun _ _ => rfl⟩

theorem State.lwComplete_frame (s : State) (l : Nat) : IssueFrame s (s.lwComplete l) l := by
  obtain ⟨hs, hl⟩ := s.lwComplete_lines l
  refine ⟨?_, hl⟩
  rw [hs]

theorem State.Room.lwComplete {n : Nat} (h : s.Room n) (l : Nat) : (s.lwComplete l).Room n := by
  obtain ⟨hs, -⟩ := s.lwComplete_lines l
  exact h.of_eq (by rw [hs]) (by rw [hs]; rfl) (by rw [hs])

/-- Of its line the completion changes the matrix station, what predictions have saved of it, and a counter. -/
theorem State.line_lwComplete (s : State) (l : Nat) : (s.lwComplete l).line l =
    { s.line l with
      mx := ((s.lwComplete l).line l).mx, cnt := ((s.lwComplete l).line l).cnt
      cc := { (s.line l).cc with preds := ((s.lwComplete l).line l).cc.preds } } := by
  unfold State.lwComplete
  split
  · rfl
  · split
    · simp only [State.line_updLine, if_true]
      rfl
    · rfl

theorem State.lwComplete_queues : ((s.lwComplete l).line l).queues = (s.line l).queues := by rw [State.line_lwComplete]
theorem State.lwComplete_dq : ((s.lwComplete l).line l).dq = (s.line l).dq := by rw [State.line_lwComplete]
theorem State.lwComplete_sreg : ((s.lwComplete l).line l).cc.sreg = (s.line l).cc.sreg := by rw [State.line_lwComplete]

theorem MxState.pad_setShadow (m : MxState) (b : WBuf) : (m.setShadow b).pad = m.pad := by
  unfold MxState.setShadow
  split <;> rfl

theorem State.lwComplete_pad : ((s.lwComplete l).line l).mx.pad = (s.line l).mx.pad := by
  unfold State.lwComplete
  split
  · rfl
  · split
    · simp only [State.line_updLine, if_true]
      exact MxState.pad_setShadow ..
    · rfl

/-- On a line that an issue has noted the same load completes. -/
theorem LineFrame.lwComplete (h : LineFrame (s.line l) (t.line l)) (hsc : t.sc = s.sc) :
    LineFrame ((s.lwComplete l).line l) ((t.lwComplete l).line l) := by
  unfold State.lwComplete
  rw [h.mx, hsc]
  cases (s.line l).mx.lw with
  | none => exact h
  | some p =>
    dsimp only
    split
    · simp only [State.line_updLine, if_true]
      rw [h]
      rfl
    · exact h

theorem OnlyQueue.lwComplete (h : OnlyQueue s u st q) : OnlyQueue (s.lwComplete q.line) (u.lwComplete q.line) st q := by
  refine ⟨((s.lwComplete_frame q.line).symm.trans h.frame).trans (u.lwComplete_frame q.line), h.line.lwComplete h.sc, ?_⟩
  intro st' t' hne
  rw [LineState.q, LineState.q, State.lwComplete_queues, State.lwComplete_queues]
  exact h.others st' t' hne

/-- A load that has read its 128 element beats is complete 128 sc after its issue. -/
theorem State.lwComplete_of_due (hp : (s.line l).mx.lw = some p) (ht : p.tile.length = 128) (hc : p.c + 128 ≤ s.sc) :
    ((s.lwComplete l).line l).mx = { (s.line l).mx.setShadow
        ⟨.loaded, p.wfmt, recordedScale p.wfmt.toNat p.scales, p.tile, p.scales⟩ with
      lw := none
      smax := if mxScaled p.wfmt.toNat && (s.line l).mx.smax < recordedScale p.wfmt.toNat p.scales
        then recordedScale p.wfmt.toNat p.scales else (s.line l).mx.smax } := by
  unfold State.lwComplete
  simp only [hp, ht, hc, decide_true, Bool.and_self, if_true, State.line_updLine]
  rfl

theorem MxState.setShadow_spec (m : MxState) (b : WBuf) :
    (m.setShadow b).activeBuf = m.activeBuf ∧ (m.setShadow b).shadowBuf = b ∧ (m.setShadow b).acc = m.acc := by
  unfold MxState.setShadow MxState.activeBuf MxState.shadowBuf
  cases m.active <;> exact ⟨rfl, rfl, rfl⟩

theorem smax_toNat (b : Bool) (x r : BitVec 8) :
    (if b && x < r then r else x).toNat = if b then max x.toNat r.toNat else x.toNat := by
  cases b with
  | false => rfl
  | true =>
    simp only [Bool.true_and, decide_eq_true_eq, if_true, BitVec.lt_def]
    split <;> omega

end

/-- A load that is complete leaves the shadow buffer LOADED, and SMAX the larger of the recorded scales. -/
theorem mxLwComplete_loads {s : State} {l : LineId} {p : LwProg} (hl : s.live = true) (hh : s.held = false)
    (hp : (s.line l).mx.lw = some p) (ht : p.tile.length = 128) (hc : p.c + 128 ≤ s.sc) :
    ∃ t, exec (.mxLwComplete l) s = .next t ∧ t = { s with lines := t.lines } ∧
      (∀ k, k ≠ l.val → t.line k = s.line k) ∧ (t.line l).mx.lw = none ∧ (t.line l).mx.acc = (s.line l).mx.acc ∧
      (t.line l).mx.activeBuf = (s.line l).mx.activeBuf ∧
      (t.line l).mx.shadowBuf = ⟨.loaded, p.wfmt, recordedScale p.wfmt.toNat p.scales, p.tile, p.scales⟩ ∧
      (t.line l).mx.smax.toNat =
        if mxScaled p.wfmt.toNat then max (s.line l).mx.smax.toNat (recordedScale p.wfmt.toNat p.scales).toNat
        else (s.line l).mx.smax.toNat := by
  obtain ⟨hs, hlines⟩ := s.lwComplete_lines l
  obtain ⟨hact, hshadow, hacc⟩ := (s.line l).mx.setShadow_spec
    ⟨.loaded, p.wfmt, recordedScale p.wfmt.toNat p.scales, p.tile, p.scales⟩
  have hexec : exec (.mxLwComplete l) s = .next (s.lwComplete l) := by
    show execMxLwComplete l s = _
    simp only [execMxLwComplete, hl, hh, Bool.not_false, Bool.and_self, if_true]
  refine ⟨_, hexec, hs, hlines, ?_⟩
  rw [State.lwComplete_of_due hp ht hc]
  exact ⟨rfl, hacc, hact, hshadow, smax_toNat ..⟩

end Sys2Proof.Machine
end

section
/-! SUPPORT. MX.LW, MX.SWAP, MX.ANCHOR and MX.RDREG on their first repeat (R157, R158, R166, R167, Table 5-9). -/

namespace Sys2Proof

/-- Consecutive keys of a table changed one after the other. -/
theorem Tbl.look_foldl_upd_range {α : Type} (t : Tbl α) (d : α) (f : α → α) (b n r : Nat) :
    ((List.range n).foldl (fun t i => t.upd (b + i) d f) t).look r d = if b ≤ r ∧ r < b + n then f (t.look r d) else t.look r d := by
  induction n with
  | zero => rw [if_neg (by omega)]; rfl
  | succ n ih =>
    simp only [List.range_succ, List.foldl_append, List.foldl_cons, List.foldl_nil, Tbl.look_upd]
    by_cases hr : b + n = r
    · subst hr
      rw [if_pos rfl, ih, if_neg (by omega), if_pos (by omega)]
    · rw [if_neg hr, ih]
      exact if_congr (by omega) rfl rfl

namespace Machine

/-! ### The end of an issue that has changed its line -/

section
variable {s t : State} {q : Queue} {k : Ctx} {i : Instr} {n : Nat} {B : LineState}

/-- The state on which the first repeat of a matrix instruction acts, once a complete load has completed. -/
def State.mxBegun (s : State) (q : Queue) (i : Instr) : State := (s.begun .mx q i).lwComplete q.line

theorem State.mxBegun_onlyQueue : OnlyQueue (s.lwComplete q.line) (s.mxBegun q i) .mx q := State.begun_onlyQueue.lwComplete

theorem State.mxBegun_frame : IssueFrame s (s.mxBegun q i) q.line :=
  (s.lwComplete_frame q.line).trans State.mxBegun_onlyQueue.frame

theorem State.mxBegun_mx : ((s.mxBegun q i).line q.line).mx = ((s.lwComplete q.line).line q.line).mx :=
  State.mxBegun_onlyQueue.line.mx

theorem State.mxBegun_sreg : ((s.mxBegun q i).line q.line).cc.sreg = (s.line q.line).cc.sreg := by
  rw [State.mxBegun_onlyQueue.line.cc, State.lwComplete_sreg]

theorem State.mxBegun_room (h : s.CanIssue .mx q i) (hn : s.job.faults.length ≤ n) (h15 : n ≤ 15) :
    (s.mxBegun q i).Room (n + 1) :=
  ((State.Room.of_canIssue h hn).begun (st := .mx) (q := q) (i := i) h15).lwComplete q.line

theorem State.lwComplete_begun : (s.begun .mx q i).lwComplete (s.ctx .mx q s.sc 0).l = s.mxBegun q i := rfl

/-- A first repeat that changes its line alone. -/
theorem State.issueRep_updLine (h : s.CanIssue .mx q i) (hr : s.Repeats .mx q) {step : State → Ctx → Outst → State × Outst}
    (f : LineState → LineState) (hstep : step (s.begun .mx q i) (s.ctx .mx q s.sc 0) (s.outstOf .mx q i) =
      ((s.mxBegun q i).updLine q.line f, s.outstOf .mx q i)) (hB : LineFrame B (f ((s.mxBegun q i).line q.line))) :
    ∃ t, s.issueRep .mx q i step = .next t ∧ IssueFrame s t q.line ∧ LineFrame B (t.line q.line) := by
  rw [State.issueRep_eq h hr, hstep]
  refine ⟨_, rfl, (s.mxBegun_frame.trans (.updLine ..)).trans State.endRepeat_onlyQueue.frame,
    LineFrame.trans ?_ State.endRepeat_onlyQueue.line⟩
  rwa [State.line_updLine, if_pos rfl]

/-- A scalar register reads the same on a line with the same histories. -/
theorem State.scalar_congr (h : (t.line k.l).cc.sreg = (s.line k.l).cc.sreg) (r : Nat) : t.scalar k r = s.scalar k r := by
  simp only [State.scalar, LineState.sregAt, LineState.broadcast, h]

/-- A fault of a unit in the current sc, with its detail. -/
theorem State.Room.faultAt_detail (h : s.Room n) (hn : n ≤ 15) (f : FaultKind) (d : Nat) (u : UnitRef) :
    (s.faultAt s.sc f d u).Recorded (fun x => x.kind = f.code ∧ x.detail = d ∧ x.sc = s.sc) (n + 1) := by
  refine (h.faultAt f d u .none 0 0 0 0 false hn).imp ?_
  rintro x ⟨hk, hd, -, -, hs, -⟩
  exact ⟨hk, hd, hs⟩

theorem State.Room.faultQ_detail (h : s.Room n) (hn : n ≤ 15) (st : Station) (l task : Nat) (f : FaultKind) (d : Nat) :
    (s.faultQ st l task f d).Recorded (fun x => x.kind = f.code ∧ x.detail = d ∧ x.sc = s.sc) (n + 1) :=
  h.faultAt_detail hn f d ⟨l, st.code, task, true, ((s.line l).q st task).pc⟩

end

/-! ### MX.LW (R157) -/

section
variable {s u : State} {q : Queue} {k : Ctx} {o : Outst} {w : FmtO}

/-- The load that an MX.LW starts on a line. -/
def LineState.loadOf (L : LineState) (w : FmtO) (k : Ctx) : LwProg :=
  { c := k.x, task := k.t, pc := (L.q .mx k.t).pc, src := w.src, toff := w.toff
    wfmt := BitVec.ofNat 4 (w.fld 0 4), ssel := BitVec.ofNat 4 (w.fld 4 4), toff2 := BitVec.ofNat 6 (w.fld 8 6)
    tile := [], scales := [], unconf := L.unconf k.t k.x }

/-- The line on which it has started; a prediction notes the buffer that it will write. -/
def LineState.loading (L : LineState) (w : FmtO) (k : Ctx) : LineState :=
  if (L.unconf k.t k.x).isSome then LineState.noteWrote { L with mx.lw := some (L.loadOf w k) } k.t
  else { L with mx.lw := some (L.loadOf w k) }

theorem LineState.noteWrote_mx (L : LineState) (t : Nat) : (L.noteWrote t).mx = L.mx := by
  unfold LineState.noteWrote
  split <;> rfl

theorem LineState.loading_mx (L : LineState) : (L.loading w k).mx = { L.mx with lw := some (L.loadOf w k) } := by
  unfold LineState.loading
  split
  · exact LineState.noteWrote_mx ..
  · rfl

theorem lwRep_of_idle (hu : s.lwComplete k.l = u) (h : (u.line k.l).mx.lw = none) :
    State.lwRep w s k o = (u.updLine k.l (LineState.loading · w k), o) := by
  unfold State.lwRep
  simp only [hu, h, Option.isSome_none, Bool.false_eq_true, if_false]
  rfl

theorem exec_mxLw_eq : exec (.mxLw q w) s = execMxLw q w s := rfl

theorem mxLw_starts (h : s.CanIssue .mx q (.mxLw q w)) (hr : s.Repeats .mx q)
    (hidle : ((s.lwComplete q.line).line q.line).mx.lw = none) :
    ∃ t p, exec (.mxLw q w) s = .next t ∧ IssueFrame s t q.line ∧
      (t.line q.line).mx = { ((s.lwComplete q.line).line q.line).mx with lw := some p } ∧ p.c = s.sc ∧ p.task = q.task ∧
      p.src = w.src ∧ p.toff = w.toff ∧ p.wfmt = w.opnd.extractLsb' 0 4 ∧ p.ssel = w.opnd.extractLsb' 4 4 ∧
      p.toff2 = w.opnd.extractLsb' 8 6 ∧ p.tile = [] ∧ p.scales = [] := by
  have hmx := s.mxBegun_mx (q := q) (i := .mxLw q w)
  rw [← hmx] at hidle
  obtain ⟨t, ht, hf, hl⟩ := State.issueRep_updLine h hr (LineState.loading · w (s.ctx .mx q s.sc 0))
    (lwRep_of_idle State.lwComplete_begun hidle) (.refl _)
  refine ⟨t, ((s.mxBegun q (.mxLw q w)).line q.line).loadOf w (s.ctx .mx q s.sc 0), ht, hf, ?_, rfl, rfl, rfl, rfl, w.ofNat_fld ..,
    w.ofNat_fld .., w.ofNat_fld .., rfl, rfl⟩
  rw [hl.mx, LineState.loading_mx, hmx]

end

/-! ### MX.SWAP (R158, R160) -/

section
variable {s u : State} {q : Queue} {k : Ctx} {o : Outst} {w : FmtO}

/-- A line whose weight buffers have changed places. -/
def LineState.swapped (L : LineState) : LineState := { L with mx.active := !L.mx.active }

theorem LineFrame.swapped {L M : LineState} (h : LineFrame L M) : LineFrame L.swapped M.swapped := by
  rw [h]
  rfl

theorem MxState.swapped_bufs (m : MxState) : MxState.activeBuf { m with active := !m.active } = m.shadowBuf ∧
    MxState.shadowBuf { m with active := !m.active } = m.activeBuf := by
  unfold MxState.activeBuf MxState.shadowBuf
  cases m.active <;> exact ⟨rfl, rfl⟩

theorem swapRep_of_loaded (hu : s.lwComplete k.l = u) (h : (u.line k.l).mx.lw = none)
    (hb : (u.line k.l).mx.shadowBuf.st = .loaded) : State.swapRep s k o = (u.updLine k.l LineState.swapped, o) := by
  unfold State.swapRep
  simp only [hu, h, hb, Option.isSome_none, ne_eq, not_true, decide_false, Bool.false_or, Bool.false_eq_true, if_false]
  rfl

theorem swapRep_of_not_loaded (hu : s.lwComplete k.l = u) (h : (u.line k.l).mx.lw = none)
    (hb : (u.line k.l).mx.shadowBuf.st ≠ .loaded) : State.swapRep s k o = (u.faultQ .mx k.l k.t .mxWbuf 2, o) := by
  unfold State.swapRep
  simp only [hu, h, hb, Option.isSome_none, ne_eq, not_false_eq_true, decide_true, Bool.false_or, if_true, Bool.false_eq_true, if_false]

theorem exec_mxSwap_eq : exec (.mxSwap q w) s = execMxSwap q w s := rfl

theorem mxSwap_exchanges (h : s.CanIssue .mx q (.mxSwap q w)) (hr : s.Repeats .mx q) {B : LineState}
    (hB : B = (s.lwComplete q.line).line q.line) (hidle : B.mx.lw = none) (hld : B.mx.shadowBuf.st = .loaded) :
    ∃ t, exec (.mxSwap q w) s = .next t ∧ IssueFrame s t q.line ∧
      LineFrame { B with mx.active := !B.mx.active } (t.line q.line) ∧
      (t.line q.line).mx.activeBuf = B.mx.shadowBuf ∧ (t.line q.line).mx.shadowBuf = B.mx.activeBuf := by
  subst hB
  rw [← s.mxBegun_mx (i := .mxSwap q w)] at hidle hld
  obtain ⟨t, ht, hf, hl⟩ := State.issueRep_updLine h hr LineState.swapped
    (swapRep_of_loaded State.lwComplete_begun hidle hld) State.mxBegun_onlyQueue.line.swapped
  refine ⟨t, ht, hf, hl, ?_⟩
  rw [hl.mx]
  exact MxState.swapped_bufs _

theorem mxSwap_faults (h : s.CanIssue .mx q (.mxSwap q w)) (hr : s.Repeats .mx q) {B : LineState}
    (hB : B = (s.lwComplete q.line).line q.line) (hidle : B.mx.lw = none) (hld : B.mx.shadowBuf.st ≠ .loaded)
    (hn : s.job.faults.length ≤ 12) : ∃ t, exec (.mxSwap q w) s = .next t ∧ LineFrame B (t.line q.line) ∧
      ∃ r ∈ t.job.faults, r.kind = 0x10 ∧ r.detail = 2 ∧ r.sc = s.sc := by
  subst hB
  rw [← s.mxBegun_mx (i := .mxSwap q w)] at hidle hld
  have hrec := ((s.mxBegun_room h hn (by decide)).faultQ_detail (by decide) .mx q.line q.task .mxWbuf 2).endRepeat (st := .mx) (q := q)
    (o := s.outstOf .mx q (.mxSwap q w)) (by decide)
  rw [s.mxBegun_frame.sc] at hrec
  rw [exec_mxSwap_eq, execMxSwap, State.issueRep_eq h hr, swapRep_of_not_loaded State.lwComplete_begun hidle hld]
  exact ⟨_, rfl, (s.mxBegun_onlyQueue.line.trans (State.faultQ_sameQueues _ .mx q q.task .mxWbuf 2 0 0 0 0).line).trans
    State.endRepeat_onlyQueue.line, hrec.found⟩

end

/-! ### MX.ANCHOR (R166, R167) -/

/-- A reader of a later sc gets what was written. -/
theorem Stamped.at_write_later {α : Type} (v : Stamped α) (a : α) {u x : Nat} (h : u < x) : (v.write u a).at x = a := by
  simp [Stamped.at, Stamped.write, h]

section
variable {s t u : State} {q : Queue} {k : Ctx} {o : Outst} {w : FmtO} {a : BitVec 12}

/-- The anchors after rows `b` to `b + n` took `a` in sc `x`. -/
def MxState.withAnchors (m : MxState) (b n x : Nat) (a : BitVec 12) : MxState :=
  { m with anchors := (List.range (n + 1)).foldl (fun t i => t.upd (b + i) (Stamped.of 0xFEE) fun v => v.write x a) m.anchors }

theorem MxState.anchorAt_withAnchors (m : MxState) (b n x r : Nat) (a : BitVec 12) :
    (m.withAnchors b n x a).anchorAt r x = m.anchorAt r x ∧
    ∀ y, x < y → (m.withAnchors b n x a).anchorAt r y = if b ≤ r ∧ r ≤ b + n then a else m.anchorAt r y := by
  unfold MxState.anchorAt MxState.withAnchors
  simp only [Tbl.look_foldl_upd_range, ← Nat.add_assoc, Nat.lt_succ_iff]
  split
  · exact ⟨Stamped.at_write_self .., fun y hy => Stamped.at_write_later _ _ hy⟩
  · exact ⟨rfl, fun _ _ => rfl⟩

/-- A line on which the rows of an MX.ANCHOR took `a`. -/
def LineState.anchored (L : LineState) (w : FmtO) (x : Nat) (a : BitVec 12) : LineState :=
  { L with mx := L.mx.withAnchors (w.fld 0 7) (w.fld 7 7) x a }

theorem LineFrame.anchored {L M : LineState} (h : LineFrame L M) (x : Nat) : LineFrame (L.anchored w x a) (M.anchored w x a) := by
  rw [h]
  rfl

theorem anchorRep_eq (hu : s.lwComplete k.l = u) (ha : u.anchorOf k w = a) :
    State.anchorRep w s k o = (u.updLine k.l (LineState.anchored · w k.x a), o) := by
  subst hu ha
  rfl

theorem wfMxAnchor_source (h : wfMxAnchor w = true) : w.fld 14 2 = 0 ∨ w.fld 14 2 = 1 ∨ w.fld 14 2 = 2 := by
  have hlt := w.fld_lt 14 2
  simp only [wfMxAnchor, Bool.and_eq_true, decide_eq_true_eq] at h
  obtain ⟨⟨-, h3⟩, -⟩ := h
  omega

/-- An anchor clamped to 12 bits is its number. -/
theorem eq_ofInt_of_clamped {x : Int} (h : a.toInt = max (-2048) (min 2047 x)) : BitVec.ofInt 12 (max (-2048) (min 2047 x)) = a := by
  rw [← h, BitVec.ofInt_toInt]

/-- The anchor by its source: the immediate, a scalar register, or the top-aligned one. -/
theorem State.anchorOf_eq (hw : wfMxAnchor w = true) (hs : (t.line k.l).cc.sreg = (s.line k.l).cc.sreg)
    (h0 : w.fld 14 2 = 0 → a = w.opnd.extractLsb' 16 12)
    (h1 : w.fld 14 2 = 1 → a = (s.scalar k (w.fld 16 6)).extractLsb' 0 12)
    (h2 : w.fld 14 2 = 2 → a.toInt = max (-2048) (min 2047
      ((w.fld 22 6 : Int) + (((s.scalar k (w.fld 16 6)).toNat % 256 : Nat) - 127) + ((t.line k.l).mx.smax.toNat - 127) - 119))) :
    t.anchorOf k w = a := by
  have hscalar := State.scalar_congr (k := k) hs (w.fld 16 6)
  rcases wfMxAnchor_source hw with h | h | h
  · rw [State.anchorOf, h0 h]
    simp only [h, w.ofNat_fld]
  · rw [State.anchorOf, h1 h]
    simp only [h, hscalar]
  · rw [State.anchorOf]
    simp only [h, hscalar]
    refine Eq.trans ?_ (eq_ofInt_of_clamped (h2 h))
    simp only [BitVec.extractLsb'_toNat, Nat.shiftRight_zero, Nat.reducePow]

theorem exec_mxAnchor_eq : exec (.mxAnchor q w) s = execMxAnchor q w s := rfl

theorem mxAnchor_sets (h : s.CanIssue .mx q (.mxAnchor q w)) (hr : s.Repeats .mx q) {B : LineState}
    (hB : B = (s.lwComplete q.line).line q.line)
    (h0 : w.fld 14 2 = 0 → a = w.opnd.extractLsb' 16 12)
    (h1 : w.fld 14 2 = 1 → a = (s.scalar (s.ctx .mx q s.sc 0) (w.fld 16 6)).extractLsb' 0 12)
    (h2 : w.fld 14 2 = 2 → a.toInt = max (-2048) (min 2047
      ((w.fld 22 6 : Int) + (((s.scalar (s.ctx .mx q s.sc 0) (w.fld 16 6)).toNat % 256 : Nat) - 127) +
        (B.mx.smax.toNat - 127) - 119))) :
    ∃ t, exec (.mxAnchor q w) s = .next t ∧ IssueFrame s t q.line ∧
      LineFrame (B.anchored w s.sc a) (t.line q.line) := by
  subst hB
  rw [← s.mxBegun_mx (i := .mxAnchor q w)] at h2
  have ha := State.anchorOf_eq (k := s.ctx .mx q s.sc 0) h.1 (s.mxBegun_sreg (q := q) (i := .mxAnchor q w)) h0 h1 h2
  exact State.issueRep_updLine h hr (LineState.anchored · w s.sc a) (anchorRep_eq State.lwComplete_begun ha)
    (State.mxBegun_onlyQueue.line.anchored _)

end

/-! ### MX.RDREG (Tables 5-8, 5-9) -/

/-- A station's write stands over every other write with the same readable sc. -/
theorem histRead_histInsert_station (h : SregHist) (u : Nat) (v : W64) : histRead (histInsert h (2 * u + 1) v) u = v := by
  have hu : (2 * u + 1) / 2 ≤ u := by omega
  induction h with
  | nil => simp [histInsert, histRead, hu]
  | cons e h ih =>
    obtain ⟨j, x⟩ := e
    simp only [histInsert]
    split
    · simp [histRead, hu]
    · split
      · simp [histRead, hu]
      · have hj : ¬ j / 2 ≤ u := by omega
        simp [histRead, hj, ih]

/-- A reader from the sc of a pruning on finds the same value. -/
theorem histRead_histPrune (h : SregHist) {y x : Nat} (hy : y ≤ x) : histRead (histPrune h y) x = histRead h x := by
  induction h with
  | nil => rfl
  | cons e h ih =>
    obtain ⟨j, v⟩ := e
    simp only [histPrune]
    split
    · next hj => simp [histRead, hj.trans hy]
    · simp [histRead, ih]

theorem LineState.sregAt_writeSreg_station (L : LineState) (t r : Nat) (v : W64) {x u : Nat} (hx : x ≤ u) :
    (L.writeSreg x t r u v true).sregAt t r u = v := by
  simp only [LineState.sregAt, LineState.writeSreg, Tbl.look_upd, if_true]
  rw [histRead_histPrune _ (by omega), histRead_histInsert_station]

section
variable {s t u : State} {q : Queue} {k : Ctx} {o : Outst} {w : FmtO}

/-- The register of the matrix station that MX.RDREG names. -/
def MxState.readReg (m : MxState) (n : Nat) : W64 :=
  match n with
  | 0 => m.smax.setWidth 64
  | 1 => m.activeBuf.scale.setWidth 64
  | 2 => m.shadowBuf.scale.setWidth 64
  | _ => BitVec.ofNat 64 m.oowCnt

/-- A line after an MX.RDREG whose value is readable in sc `u`. -/
def LineState.regRead (L : LineState) (w : FmtO) (x t u : Nat) (v : W64) : LineState :=
  { L.writeSreg x t (w.fld 0 6) u v true with mx.smax := if w.fld 8 1 = 1 then 0 else L.mx.smax }

theorem LineFrame.regRead {L M : LineState} (h : LineFrame L M) (x t u : Nat) (v : W64) :
    LineFrame (L.regRead w x t u v) (M.regRead w x t u v) := by
  rw [h]
  rfl

theorem rdregRep_eq {n : Nat} {v : W64} (hu : s.lwComplete k.l = u) (hn : u.rdLat k.l = n)
    (hv : (u.line k.l).mx.readReg (w.fld 6 2) = v) :
    State.rdregRep w s k o = (u.updLine k.l (LineState.regRead · w k.x k.t (k.x + n) v), o) := by
  subst hu hn hv
  unfold State.rdregRep LineState.regRead
  dsimp only
  congr 2
  funext L
  split <;> rfl

theorem State.rdLat_congr {l : Nat} (hp : t.part = s.part) (hx : (t.line l).mx.pad = (s.line l).mx.pad) : t.rdLat l = s.rdLat l := by
  unfold State.rdLat State.lat State.isC0
  rw [hp, hx]

theorem exec_mxRdreg_eq : exec (.mxRdreg q w) s = execMxRdreg q w s := rfl

theorem mxRdreg_reads (h : s.CanIssue .mx q (.mxRdreg q w)) (hr : s.Repeats .mx q) {B : LineState}
    (hB : B = (s.lwComplete q.line).line q.line) :
    ∃ t, exec (.mxRdreg q w) s = .next t ∧ IssueFrame s t q.line ∧
      LineFrame (B.regRead w s.sc q.task (s.sc + s.rdLat q.line) (B.mx.readReg (w.fld 6 2))) (t.line q.line) := by
  subst hB
  have hlat : (s.mxBegun q (.mxRdreg q w)).rdLat q.line = s.rdLat q.line :=
    State.rdLat_congr s.mxBegun_frame.part (by rw [State.mxBegun_mx, State.lwComplete_pad])
  exact State.issueRep_updLine h hr
    (LineState.regRead · w s.sc q.task (s.sc + s.rdLat q.line) (((s.lwComplete q.line).line q.line).mx.readReg (w.fld 6 2)))
    (rdregRep_eq State.lwComplete_begun hlat (congrArg (MxState.readReg · (w.fld 6 2)) State.mxBegun_mx))
    (State.mxBegun_onlyQueue.line.regRead ..)

/-- Of the scalar registers it writes the one that it names. -/
theorem LineState.regRead_otherScalars (B : LineState) (x t u : Nat) (v : W64) : OtherScalars B (B.regRead w x t u v) t (w.fld 0 6) := by
  intro key hkey
  simp [LineState.regRead, LineState.writeSreg, Ne.symm hkey]

end

/-- Settles O13: the completion of a load, and each of the four instructions on the line that it leaves. -/
theorem weightsAnchorsAndRegisterReads : Obligations.WeightsAnchorsAndRegisterReads := by
  refine ⟨⟨fun s q w B hB => ⟨fun h hr hidle => ?_, fun h hr hidle hld => mxSwap_exchanges h hr hB hidle hld,
    fun h hr hidle hld hn => mxSwap_faults h hr hB hidle hld hn⟩, fun s l p => mxLwComplete_loads⟩,
    fun s q w B hB => ⟨fun a h hr h0 h1 h2 => ?_, fun h hr => ?_⟩⟩
  · subst hB
    exact mxLw_starts h hr hidle
  · obtain ⟨t, ht, hf, hl⟩ := mxAnchor_sets h hr hB h0 h1 h2
    have hmx := hl.mx
    refine ⟨t, ht, hf, by rw [hmx]; exact hl, fun r => ?_⟩
    rw [hmx]
    exact B.mx.anchorAt_withAnchors ..
  · obtain ⟨t, ht, hf, hl⟩ := mxRdreg_reads h hr hB
    have hcc := hl.cc
    refine ⟨t, ht, hf, by rw [hcc]; exact hl, fun key hkey => ?_, ?_⟩
    · rw [hcc]
      exact B.regRead_otherScalars _ _ _ _ key hkey
    · rw [LineState.sregAt, hcc]
      exact (B.sregAt_writeSreg_station q.task (w.fld 0 6) _ (Nat.le_add_right ..)).trans rfl

end Machine
end Sys2Proof
end

section
/-! SUPPORT. MX.ACLR on its first repeat (R154, R164), and the check of a repeat count that REP has set (Table 5-7). -/

namespace Sys2Proof.Machine

/-! ### A repeat count that runs past row 127 (Table 5-7) -/

section
variable {s t : State} {st : Station} {q : Queue} {i : Instr} {w : FmtO} {k : Ctx} {o : Outst} {n : Nat}

/-- The state once the rows of an instruction are judged. -/
def State.rowJudged (s : State) (w : FmtO) (k : Ctx) (o : Outst) : State :=
  if 127 < w.fld 0 7 + o.total - 1 then s.faultK k .mxRow else s

theorem rowCheck_eq (w : FmtO) : State.rowCheck w = fun s k o => (s.rowJudged w k o, o) := by
  funext s k o
  unfold State.rowCheck State.rowJudged
  split <;> rfl

theorem State.rowJudged_sameQueues (hk : k.l = q.line) : SameQueues s (s.rowJudged w k o) q := by
  unfold State.rowJudged
  split
  · exact s.faultK_sameQueues hk ..
  · exact .refl ..

theorem State.Room.rowJudged (h : s.Room n) (hn : n ≤ 15) (hk : k.x = s.sc) : (s.rowJudged w k o).Room (n + 1) := by
  unfold State.rowJudged
  split
  · exact (h.faultK hn hk ..).toRoom
  · exact h.mono n.le_succ

/-- The state on which the first repeat of MX.MM or MX.ACLR acts. -/
def State.rowBegun (s : State) (q : Queue) (i : Instr) (w : FmtO) : State :=
  (s.begun .mx q i).rowJudged w (s.ctx .mx q s.sc 0) (s.outstOf .mx q i)

theorem State.rowBegun_onlyQueue : OnlyQueue s (s.rowBegun q i w) .mx q :=
  State.begun_onlyQueue.trans ((State.rowJudged_sameQueues rfl).onlyQueue .mx)

theorem State.rowBegun_room (h : s.CanIssue .mx q i) (hn : s.job.faults.length ≤ n) (h14 : n ≤ 14) :
    (s.rowBegun q i w).Room (n + 2) :=
  ((State.Room.of_canIssue h hn).begun (by omega)).rowJudged (by omega) State.begun_onlyQueue.sc.symm

/-- The first repeat by `step`, after the check of its rows. -/
theorem State.issueRep_rows (h : s.CanIssue .mx q i) (hr : s.Repeats .mx q) (step : State → Ctx → Outst → State × Outst) :
    s.issueRep .mx q i step (State.rowCheck w) =
      .next ((step (s.rowBegun q i w) (s.ctx .mx q s.sc 0) (s.outstOf .mx q i)).1.endRepeat .mx q
        (step (s.rowBegun q i w) (s.ctx .mx q s.sc 0) (s.outstOf .mx q i)).2) := by
  have hc : (s.outstOf .mx q i).c0 = s.sc := congrArg (·.2.2.2) s.outstOf_plan
  have hg : SameQueues (s.begun .mx q i) (s.rowBegun q i w) q := State.rowJudged_sameQueues rfl
  have hstep : s.issueRep .mx q i step (fun s k o => (s.rowJudged w k o, o)) =
      s.issueRep .mx q i fun u k o => step (u.rowJudged w k o) ((u.rowJudged w k o).ctx .mx q o.c0 0) o := rfl
  rw [rowCheck_eq, hstep, State.issueRep_eq h hr, hc, ← State.rowBegun, hg.ctx, State.ctx_begun]

end

/-! ### What enters the pipeline (R154) -/

section
variable {s t : State} {q : Queue} {w : FmtO} {k : Ctx} {o : Outst} {l : Nat} {L M : LineState}

/-- A line with one more commit in the pipeline. -/
def LineState.withCommit (L : LineState) (c : MxCommit) : LineState := { L with mx.commits := L.mx.commits ++ [c] }

theorem LineFrame.withCommit (h : LineFrame L M) (c : MxCommit) : LineFrame (L.withCommit c) (M.withCommit c) := by
  rw [h]
  rfl

/-- The line of a repeat that has put a commit in the pipeline and ended. -/
theorem State.withCommit_endRepeat (s : State) (q : Queue) (o : Outst) (c : MxCommit) : LineFrame ((s.line q.line).withCommit c)
    (((s.updLine q.line (LineState.withCommit · c)).endRepeat .mx q o).line q.line) := by
  refine LineFrame.trans ?_ State.endRepeat_onlyQueue.line
  rw [State.line_updLine, if_pos rfl]
  exact .refl _

/-- A commit that enters the pipeline after the operands are read and the repeat is counted. -/
theorem LineFrame.entered {N : LineState} {cs : List MxCommit} {c : MxCommit} (h : LineFrame { L with cnt := M.cnt } M)
    (hn : LineFrame (M.withCommit c) N) (hc : L.mx.commits = cs) :
    LineFrame { L with mx.commits := cs ++ [c], cnt := N.cnt } N := by
  subst hc
  rw [hn.cnt]
  exact (h.withCommit c).trans hn

theorem State.mxLat_congr (hp : t.part = s.part) (hx : (t.line l).mx.pad = (s.line l).mx.pad) : t.mxLat l = s.mxLat l := by
  unfold State.mxLat State.lat State.isC0
  rw [hp, hx]

theorem State.mxLat_pos (s : State) (l : Nat) : 0 < s.mxLat l := by
  unfold State.mxLat State.lat
  split <;> omega

/-- The commit of a row that an MX.ACLR clears. -/
def State.clearCommit (s : State) (k : Ctx) (row : Nat) : MxCommit :=
  { due := k.x + s.mxLat k.l - 1, issue := k.x, row := row, clear := true, isMm := false, sums := clearedRow
    oow := false, task := k.t, pc := ((s.line k.l).q .mx k.t).pc, unconf := (s.line k.l).unconf k.t k.x, dead := false }

theorem aclrRepeat_first (hj : k.j = 0) : State.aclrRepeat w s k o =
    (s.updLine k.l (LineState.withCommit · (s.clearCommit k (w.fld 0 7))), o) := by
  have hrow : ¬ 127 < w.fld 0 7 := by have := w.fld_lt 0 7; omega
  simp only [State.aclrRepeat, hj, Nat.add_zero, hrow, if_false]
  rfl

theorem exec_mxAclr_eq : exec (.mxAclr q w) s = execMxAclr q w s := rfl

theorem mxAclr_enters (h : s.CanIssue .mx q (.mxAclr q w)) (hr : s.Repeats .mx q) :
    ∃ t c, exec (.mxAclr q w) s = .next t ∧ IssueFrame s t q.line ∧ LineFrame ((s.line q.line).withCommit c) (t.line q.line) ∧
      c.issue = s.sc ∧ c.due + 1 = s.sc + s.mxLat q.line ∧ c.row = w.fld 0 7 ∧ c.clear = true ∧ c.isMm = false ∧ c.dead = false ∧
      c.sums = clearedRow := by
  have hb := s.rowBegun_onlyQueue (q := q) (i := .mxAclr q w) (w := w)
  have hlat : (s.rowBegun q (.mxAclr q w) w).mxLat q.line = s.mxLat q.line := State.mxLat_congr hb.frame.part (by rw [hb.line.mx])
  have hpos := s.mxLat_pos q.line
  rw [exec_mxAclr_eq, execMxAclr, State.issueRep_rows h hr, aclrRepeat_first rfl]
  refine ⟨_, (s.rowBegun q (.mxAclr q w) w).clearCommit (s.ctx .mx q s.sc 0) (w.fld 0 7), rfl,
    (hb.frame.trans (.updLine ..)).trans State.endRepeat_onlyQueue.frame, (hb.line.withCommit _).trans (State.withCommit_endRepeat ..), rfl,
    ?_, rfl, rfl, rfl, rfl, rfl⟩
  show s.sc + (s.rowBegun q (.mxAclr q w) w).mxLat q.line - 1 + 1 = _
  omega

end

end Sys2Proof.Machine
end

section
/-! SUPPORT. MX.MM on its first repeat (R152, R154, R160, R169): its operands, what enters the pipeline, and its faults. -/

namespace Sys2Proof.Machine

/-! ### The operands -/

section
variable {s t a b : State} {q : Queue} {w : FmtO} {k : Ctx} {sel x n : Nat} {toff : BitVec 6} {L M : LineState}

/-- A selector of a data queue dequeues. -/
theorem State.takeBeat_dq (hs : 4 ≤ sel) : s.takeBeat k sel toff = s.dequeue k (sel - 8) (expTag k.c0 toff) := by
  rw [State.takeBeat, if_neg (by omega)]

/-- The scale beat that the first repeat takes, when its format is scaled (R169). -/
def State.mmScale (s : State) (w : FmtO) (k : Ctx) : State × BeatData :=
  if mxScaled (w.fld 8 4) then s.dequeue k (w.fld 12 4 - 8) (expTag k.c0 (BitVec.ofNat 6 (w.fld 16 6))) else (s, 0)

theorem State.mmScale_scaled (hf : mxScaled (w.fld 8 4) = true) (hs : 8 ≤ w.fld 12 4) :
    s.mmScale w k = s.takeBeat k (w.fld 12 4) (BitVec.ofNat 6 (w.fld 16 6)) := by
  rw [State.mmScale, if_pos hf, State.takeBeat_dq (by omega)]

theorem State.mmScale_unscaled (hf : mxScaled (w.fld 8 4) = false) : s.mmScale w k = (s, 0) := by
  rw [State.mmScale, hf]
  rfl

theorem Reads.refl (s : State) (q : Queue) : Reads s s q := ⟨.refl .., .refl ..⟩
theorem Reads.mx (h : Reads s t q) : (t.line q.line).mx = (s.line q.line).mx := by rw [h.line]
theorem Follows.mx (h : Follows s t q) : (t.line q.line).mx = (s.line q.line).mx := by rw [h.line]

/-- The scale beat is the same one on a state that follows. -/
theorem Follows.mmScale (g : Follows a b q) (hk : k.l = q.line) (hs : mxScaled (w.fld 8 4) = true → 8 ≤ w.fld 12 4)
    (hfree : mxScaled (w.fld 8 4) = true → a.noFreeBeat q.line (w.fld 12 4) k.x) :
    Follows (a.mmScale w k).1 (b.mmScale w k).1 q ∧ (b.mmScale w k).2 = (a.mmScale w k).2 ∧ Reads a (a.mmScale w k).1 q := by
  cases hf : mxScaled (w.fld 8 4) with
  | false =>
    rw [State.mmScale_unscaled hf, State.mmScale_unscaled hf]
    exact ⟨g, rfl, .refl ..⟩
  | true =>
    rw [State.mmScale_scaled hf (hs hf), State.mmScale_scaled hf (hs hf)]
    obtain ⟨hfol, hd⟩ := g.takeBeat (toff := BitVec.ofNat 6 (w.fld 16 6)) hk (hfree hf)
    exact ⟨hfol, hd, State.takeBeat_reads hk (hfree hf)⟩

theorem State.Room.mmScale (h : s.Room n) (hn : n ≤ 14) (hk : k.x = s.sc) (hs : mxScaled (w.fld 8 4) = true → 8 ≤ w.fld 12 4) :
    (s.mmScale w k).1.Room (n + 2) := by
  cases hf : mxScaled (w.fld 8 4) with
  | false =>
    rw [State.mmScale_unscaled hf]
    exact h.mono (Nat.le_add_right ..)
  | true =>
    rw [State.mmScale_scaled hf (hs hf)]
    exact h.takeBeat hn hk

/-! ### No operand is a free beat (R91) -/

theorem State.noFreeBeat_of_dq {l : Nat} (h : s.noFreeBeat l sel x) (hy : t.time.yield = s.time.yield)
    (hdq : (t.line l).dq = (s.line l).dq) : t.noFreeBeat l sel x := by
  rw [State.noFreeBeat, hy, hdq]
  exact h

theorem LineState.consumed_dq (h : M.dq = L.dq) : (M.consumed sel x).dq = (L.consumed sel x).dq := by
  unfold LineState.consumed
  rw [h]
  split
  · exact h
  · cases (L.dq.look (sel - 8) default).ready x with
    | none => exact h
    | some e => simp only [Option.elim_some, LineState.popped, h]

theorem LineFrame.dq (h : LineFrame L M) : M.dq = L.dq := by rw [h]

theorem wfMxMm_operands (h : wfMxMm w = true) :
    (w.src.toNat < 4 ∨ 8 ≤ w.src.toNat) ∧ (mxScaled (w.fld 8 4) = true → 8 ≤ w.fld 12 4) := by
  simp only [wfMxMm, mxSselOk, Bool.and_eq_true, selIsChan_iff, decide_eq_true_eq] at h
  obtain ⟨⟨⟨⟨⟨hsrc, -⟩, -⟩, -⟩, hss⟩, -⟩ := h
  refine ⟨hsrc, fun hf => ?_⟩
  simpa [hf] using hss

theorem dqSrc_mxMm_scaled (hf : mxScaled (w.fld 8 4) = true) :
    (Instr.mxMm q w).dqSrc 0 = selDq w.src.toNat ++ selDq (w.fld 12 4) := by
  simp [Instr.dqSrc, hf]

/-- The activation beat of an MX.MM that may issue, and its scale beat after it, are there. -/
theorem mxMm_noFreeBeat (h : s.CanIssue .mx q (.mxMm q w)) (hr : s.Repeats .mx q) :
    (s.lwComplete q.line).noFreeBeat q.line w.src.toNat s.sc ∧
    (mxScaled (w.fld 8 4) = true →
      ((s.lwComplete q.line).takeBeat (s.ctx .mx q s.sc 0) w.src.toNat w.toff).1.noFreeBeat q.line (w.fld 12 4) s.sc) := by
  obtain ⟨hsrc, hscale⟩ := wfMxMm_operands h.1
  have hm := State.mayIssue_of_canIssue h
  have hy := (s.lwComplete_frame q.line).yield
  have hdq := s.lwComplete_dq (l := q.line)
  have h1 : s.noFreeBeat q.line w.src.toNat s.sc :=
    State.noFreeBeat_of_mayIssue hm (fun _ => hr) hsrc w.src.isLt (List.subset_append_left ..)
  have h1' := State.noFreeBeat_of_dq h1 hy hdq
  refine ⟨h1', fun hf => ?_⟩
  obtain ⟨hf1, hl1, -⟩ := s.takeBeat_spec (toff := w.toff) (k := s.ctx .mx q s.sc 0) rfl h1
  obtain ⟨hf2, hl2, -⟩ := (s.lwComplete q.line).takeBeat_spec (toff := w.toff) (k := s.ctx .mx q s.sc 0) rfl h1'
  have h2 := State.noFreeBeat_second (toff := w.toff) (k := s.ctx .mx q s.sc 0) hm (fun _ => hr) rfl rfl hsrc w.src.isLt
    (.inr (hscale hf)) (w.fld_lt 12 4) (dqSrc_mxMm_scaled hf)
  refine State.noFreeBeat_of_dq h2 ?_ ?_
  · rw [hf2.yield, hf1.yield, hy]
  · rw [hl2.dq, hl1.dq]
    exact LineState.consumed_dq hdq

end

/-! ### The products (R152) -/

section
variable {s t u : State} {q : Queue} {w : FmtO} {k : Ctx} {o : Outst} {buf : WBuf} {act scale : BeatData} {n : Nat}

/-- The commit of the row of a first repeat, with its column sums. -/
def State.productCommit (s : State) (w : FmtO) (k : Ctx) (buf : WBuf) (act scale : BeatData) : MxCommit :=
  let sums := (List.range 128).map fun n =>
    mxColumn buf (w.fld 8 4) act scale 0 ((s.line k.l).mx.anchorAt (w.fld 0 7) k.x).toInt n
  { due := k.x + s.mxLat k.l - 1, issue := k.x, row := w.fld 0 7, clear := w.fld 7 1 = 1, isMm := true, sums := sums
    oow := sums.any (·.oow), task := k.t, pc := ((s.line k.l).q .mx k.t).pc, unconf := (s.line k.l).unconf k.t k.x, dead := false }

/-- What a first repeat makes of a state on which its operands are read. -/
def State.multiplied (s : State) (w : FmtO) (k : Ctx) (buf : WBuf) (act scale : BeatData) : State :=
  if buf.st ≠ .loaded then s.faultK k .mxWbuf 3
  else if !mxPair (w.fld 8 4) buf.fmt.toNat then s.faultK k .mxFormat
  else s.updLine k.l (LineState.withCommit · (s.productCommit w k buf act scale))

/-- A pair whose first part alone depends on two cases. -/
theorem pair_ite_ite {α β : Type} (c d : Prop) [Decidable c] [Decidable d] (x y z : α) (o : β) :
    (if c then (x, o) else if d then (y, o) else (z, o)) = (if c then x else if d then y else z, o) := by
  split
  · rfl
  · split <;> rfl

theorem mmRepeat_first (hj : k.j = 0) (ho : o.buf = []) (hu : s.lwComplete k.l = u) : ∃ o', State.mmRepeat w s k o =
    (((((u.takeBeat k w.src.toNat w.toff).1.mmScale w k).1.countLine k.l .mxMm).multiplied w k (u.line k.l).mx.activeBuf
      (u.takeBeat k w.src.toNat w.toff).2 ((u.takeBeat k w.src.toNat w.toff).1.mmScale w k).2), o') := by
  have hrow : ¬ 127 < w.fld 0 7 := by have := w.fld_lt 0 7; omega
  unfold State.mmRepeat State.multiplied State.mmScale
  cases hf : mxScaled (w.fld 8 4) <;>
    simp only [hu, hj, Nat.add_zero, Nat.zero_mod, hrow, ho, hf, Bool.true_and, Bool.false_and, decide_true, if_true,
      Bool.false_eq_true, if_false, List.headD_nil, List.headD_cons] <;>
    exact ⟨_, pair_ite_ite ..⟩

theorem State.multiplied_of_pair (hl : buf.st = .loaded) (hp : mxPair (w.fld 8 4) buf.fmt.toNat = true) :
    s.multiplied w k buf act scale = s.updLine k.l (LineState.withCommit · (s.productCommit w k buf act scale)) := by
  simp only [State.multiplied, hl, hp, ne_eq, not_true, if_false, Bool.not_true, Bool.false_eq_true]

theorem State.multiplied_of_not_loaded (hl : buf.st ≠ .loaded) : s.multiplied w k buf act scale = s.faultK k .mxWbuf 3 := by
  rw [State.multiplied, if_pos hl]

theorem State.multiplied_of_no_pair (hl : buf.st = .loaded) (hp : mxPair (w.fld 8 4) buf.fmt.toNat = false) :
    s.multiplied w k buf act scale = s.faultK k .mxFormat := by
  simp only [State.multiplied, hl, hp, ne_eq, not_true, if_false, Bool.not_false, if_true]

/-- The state before an MX.MM issues, but for a load that completes, once its activation beat is read. -/
def State.mmAct (s : State) (q : Queue) (w : FmtO) : State × BeatData :=
  (s.lwComplete q.line).takeBeat (s.ctx .mx q s.sc 0) w.src.toNat w.toff

/-- The same once its scale beat is read. -/
def State.mmRead (s : State) (q : Queue) (w : FmtO) : State × BeatData := (s.mmAct q w).1.mmScale w (s.ctx .mx q s.sc 0)

theorem exec_mxMm_eq : exec (.mxMm q w) s = execMxMm q w s := rfl

/-- The first repeat of MX.MM acts on a state that follows the one on which the operands are read. -/
theorem mxMm_first (h : s.CanIssue .mx q (.mxMm q w)) (hr : s.Repeats .mx q) : ∃ u o',
    exec (.mxMm q w) s = .next ((u.multiplied w (s.ctx .mx q s.sc 0) ((s.lwComplete q.line).line q.line).mx.activeBuf
      (s.mmAct q w).2 (s.mmRead q w).2).endRepeat .mx q o') ∧
    Follows (s.mmRead q w).1 u q ∧ Reads (s.lwComplete q.line) (s.mmRead q w).1 q ∧
    (s.job.faults.length ≤ 8 → u.Room 14) := by
  obtain ⟨-, hscale⟩ := wfMxMm_operands h.1
  obtain ⟨hfree1, hfree2⟩ := mxMm_noFreeBeat h hr
  have hb : OnlyQueue (s.lwComplete q.line) ((s.rowBegun q (.mxMm q w) w).lwComplete q.line) .mx q :=
    State.rowBegun_onlyQueue.lwComplete
  have hsc : ((s.rowBegun q (.mxMm q w) w).lwComplete q.line).sc = s.sc := ((s.lwComplete_frame q.line).trans hb.frame).sc
  obtain ⟨g1, hact⟩ := hb.follows.takeBeat (toff := w.toff) (k := s.ctx .mx q s.sc 0) rfl hfree1
  obtain ⟨g2, hsc2, hread⟩ := g1.mmScale (w := w) (k := s.ctx .mx q s.sc 0) rfl hscale hfree2
  obtain ⟨o', hstep⟩ := mmRepeat_first (w := w) (k := s.ctx .mx q s.sc 0) (o := s.outstOf .mx q (.mxMm q w))
    (s := s.rowBegun q (.mxMm q w) w) rfl rfl rfl
  refine ⟨_, o', ?_, g2.countLine .mxMm 1, (State.takeBeat_reads rfl hfree1).trans hread, fun hn => ?_⟩
  · rw [exec_mxMm_eq, execMxMm, State.issueRep_rows h hr, hstep]
    simp only [State.mmRead, State.mmAct]
    rw [← congrArg MxState.activeBuf hb.line.mx, ← hact, ← hsc2]
    rfl
  · have hroom := (s.rowBegun_room (w := w) h hn (by decide)).lwComplete q.line
    have hact15 := hroom.takeBeat (sel := w.src.toNat) (toff := w.toff) (k := s.ctx .mx q s.sc 0) (by decide) hsc.symm
    refine (hact15.mmScale (by decide) ?_ hscale).updLine ..
    exact (((s.lwComplete_frame q.line).trans (State.takeBeat_reads rfl hfree1).frame).trans g1.frame).sc.symm

/-- With a LOADED buffer and a pair of formats that MX_FORMAT accepts, the column sums of the row enter the pipeline. -/
theorem mxMm_enters (h : s.CanIssue .mx q (.mxMm q w)) (hr : s.Repeats .mx q) {B : LineState}
    (hB : B = (s.lwComplete q.line).line q.line) (hl : B.mx.activeBuf.st = .loaded)
    (hp : mxPair (w.fld 8 4) B.mx.activeBuf.fmt.toNat = true) :
    ∃ t c, exec (.mxMm q w) s = .next t ∧ IssueFrame s t q.line ∧
      LineFrame { (s.mmRead q w).1.line q.line with mx.commits := B.mx.commits ++ [c], cnt := (t.line q.line).cnt } (t.line q.line) ∧
      c.due + 1 = s.sc + ((if s.isC0 then 20 else 22) + (B.mx.pad.extractLsb' 0 3).toNat) ∧
      c.issue = s.sc ∧ c.row = w.fld 0 7 ∧ c.clear = (w.fld 7 1 == 1) ∧ c.isMm = true ∧ c.dead = false ∧
      c.sums = (List.range 128).map fun n =>
        mxColumn B.mx.activeBuf (w.fld 8 4) (s.mmAct q w).2 (s.mmRead q w).2 0 (B.mx.anchorAt (w.fld 0 7) s.sc).toInt n := by
  subst hB
  obtain ⟨u, o', hexec, hfol, hread, -⟩ := mxMm_first h hr
  have hu : IssueFrame s u q.line := ((s.lwComplete_frame q.line).trans hread.frame).trans hfol.frame
  have hmx : (u.line q.line).mx = ((s.lwComplete q.line).line q.line).mx := hfol.mx.trans hread.mx
  have hpos := u.mxLat_pos q.line
  have hlat : u.mxLat q.line = (if s.isC0 then 20 else 22) + (((s.lwComplete q.line).line q.line).mx.pad.extractLsb' 0 3).toNat := by
    unfold State.mxLat State.lat State.isC0
    rw [hu.part, hmx]
  rw [hexec, State.multiplied_of_pair hl hp]
  refine ⟨_, u.productCommit w (s.ctx .mx q s.sc 0) ((s.lwComplete q.line).line q.line).mx.activeBuf (s.mmAct q w).2 (s.mmRead q w).2,
    rfl, (hu.trans (.updLine ..)).trans State.endRepeat_onlyQueue.frame,
    hfol.line.entered (u.withCommit_endRepeat ..) (congrArg MxState.commits hread.mx), ?_, rfl, rfl, ?_, rfl, rfl, ?_⟩
  · show s.sc + u.mxLat q.line - 1 + 1 = _
    omega
  · exact (beq_eq_decide ..).symm
  · show (List.range 128).map (fun n => mxColumn _ _ _ _ _ ((u.line q.line).mx.anchorAt _ _).toInt n) = _
    rw [hmx]
    rfl

/-- A fault of an MX.MM, of which nothing enters the pipeline. -/
theorem mxMm_faults (h : s.CanIssue .mx q (.mxMm q w)) (hr : s.Repeats .mx q) {B : LineState}
    (hB : B = (s.lwComplete q.line).line q.line) (hn : s.job.faults.length ≤ 8) {f : FaultKind} {d : Nat}
    (hm : ∀ u : State, u.multiplied w (s.ctx .mx q s.sc 0) B.mx.activeBuf (s.mmAct q w).2 (s.mmRead q w).2 =
      u.faultK (s.ctx .mx q s.sc 0) f d) :
    ∃ t, exec (.mxMm q w) s = .next t ∧ IssueFrame s t q.line ∧ (t.line q.line).mx = B.mx ∧
      ∃ r ∈ t.job.faults, r.kind = f.code ∧ r.detail = d ∧ r.sc = s.sc := by
  subst hB
  obtain ⟨u, o', hexec, hfol, hread, hroom⟩ := mxMm_first h hr
  have hu : IssueFrame s u q.line := ((s.lwComplete_frame q.line).trans hread.frame).trans hfol.frame
  have hfault := u.faultK_sameQueues (k := s.ctx .mx q s.sc 0) (q := q) rfl f d 0 0 0 0
  have hrec := ((hroom hn).faultAt_detail (by decide) f d (s.ctx .mx q s.sc 0).unit).endRepeat (st := .mx) (q := q) (o := o') (by decide)
  rw [hu.sc] at hrec
  rw [hexec, hm]
  refine ⟨_, rfl, (hu.trans hfault.frame).trans State.endRepeat_onlyQueue.frame, ?_, hrec.found⟩
  rw [State.endRepeat_onlyQueue.line.mx, hfault.line.mx, hfol.mx, hread.mx]

end

/-- Settles O14: MX.MM by its first repeat on a state on which its operands are read, MX.ACLR by its own. -/
theorem productsAndClearsEnterThePipeline : Obligations.ProductsAndClearsEnterThePipeline := by
  rintro s q w B hB
  refine ⟨?_, fun h hr => mxAclr_enters h hr⟩
  rintro k act scale rfl h hr rfl rfl
  refine ⟨fun hl hp => mxMm_enters h hr hB hl hp, fun hl hn => mxMm_faults h hr hB hn fun u => State.multiplied_of_not_loaded hl,
    fun hl hp hn => ?_⟩
  obtain ⟨t, ht, hf, hmx, r, hr, hk, -, hsc⟩ := mxMm_faults h hr hB hn fun u => State.multiplied_of_no_pair hl hp
  exact ⟨t, ht, hf, hmx, r, hr, hk, hsc⟩

end Sys2Proof.Machine
end

section
/-! SUPPORT. Tables of predictions and copies: an entry taken out, a table copied into another where its entries are of a task. -/

namespace Sys2Proof

section
variable {α β : Type}

theorem Tbl.look_eq_find (t : Tbl α) (k : Nat) (d : α) : t.look k d = (t.find k).getD d := by
  induction t with
  | nil => rfl
  | cons e t ih =>
    obtain ⟨j, v⟩ := e
    simp only [Tbl.look, Tbl.find, ih]
    split <;> rfl

theorem Tbl.find_of_not_mem (t : Tbl α) (k : Nat) (h : k ∉ t.map Prod.fst) : t.find k = none := by
  induction t with
  | nil => rfl
  | cons e t ih =>
    obtain ⟨j, v⟩ := e
    simp only [List.map_cons, List.mem_cons, not_or] at h
    simp only [Tbl.find, Ne.symm h.1, if_false, ih h.2]

/-- A lookup in a table whose values are changed with their keys. -/
theorem Tbl.find_map_entry (t : Tbl α) (g : Nat × α → β) (n : Nat) :
    Tbl.find (t.map fun e => (e.1, g e)) n = (t.find n).map fun v => g (n, v) := by
  induction t with
  | nil => rfl
  | cons e t ih =>
    obtain ⟨j, v⟩ := e
    simp only [List.map_cons, Tbl.find, ih]
    split
    · next h => rw [h]; rfl
    · rfl

/-- An entry that is taken out of a table of distinct keys is not listed any more. -/
theorem Tbl.find_del (t : Tbl α) (k : Nat) (h : (t.map Prod.fst).Nodup) : (t.del k).find k = none := by
  induction t with
  | nil => rfl
  | cons e t ih =>
    obtain ⟨j, v⟩ := e
    simp only [List.map_cons, List.nodup_cons] at h
    simp only [Tbl.del]
    split
    · next hj => exact Tbl.find_of_not_mem t k (hj ▸ h.1)
    · next hj => simp only [Tbl.find, hj, if_false, ih h.2]

theorem Tbl.mem_keys_put {t : Tbl α} {k x : Nat} {v : α} (h : x ∈ (t.put k v).map Prod.fst) : x = k ∨ x ∈ t.map Prod.fst := by
  induction t with
  | nil => simpa [Tbl.put] using h
  | cons e t ih =>
    obtain ⟨j, w⟩ := e
    simp only [Tbl.put] at h
    split at h
    · simpa using h
    · split at h
      · next hk => simp only [List.map_cons, List.mem_cons] at h ⊢; tauto
      · simp only [List.map_cons, List.mem_cons] at h ⊢; tauto

/-- Rising keys rise after a value is put in its place. -/
theorem Tbl.pairwise_put (t : Tbl α) (k : Nat) (v : α) (h : (t.map Prod.fst).Pairwise (· < ·)) :
    ((t.put k v).map Prod.fst).Pairwise (· < ·) := by
  induction t with
  | nil => simp [Tbl.put]
  | cons e t ih =>
    obtain ⟨j, w⟩ := e
    simp only [List.map_cons, List.pairwise_cons] at h
    simp only [Tbl.put]
    split
    · next hk =>
      simp only [List.map_cons, List.pairwise_cons, List.mem_cons, forall_eq_or_imp]
      exact ⟨⟨hk, fun x hx => hk.trans (h.1 x hx)⟩, h⟩
    · split
      · next hk => subst hk; exact List.pairwise_cons.2 h
      · simp only [List.map_cons, List.pairwise_cons]
        refine ⟨fun x hx => ?_, ih h.2⟩
        rcases Tbl.mem_keys_put hx with rfl | hx
        · omega
        · exact h.1 x hx

theorem Tbl.nodup_of_pairwise {t : Tbl α} (h : (t.map Prod.fst).Pairwise (· < ·)) : (t.map Prod.fst).Nodup :=
  h.imp fun hlt => hlt.ne

/-- A table of distinct keys copied into another where `p` says so. -/
theorem Tbl.look_foldl_put_if (c : Tbl α) (u : Tbl β) (p : Nat × α → Prop) [DecidablePred p] (g : Nat × α → β) (n : Nat) (d : β)
    (hc : (c.map Prod.fst).Nodup) : (c.foldl (fun u e => if p e then u.put e.1 (g e) else u) u).look n d =
      (c.find n).elim (u.look n d) fun v => if p (n, v) then g (n, v) else u.look n d := by
  induction c generalizing u with
  | nil => rfl
  | cons e c ih =>
    obtain ⟨j, v⟩ := e
    simp only [List.map_cons, List.nodup_cons] at hc
    simp only [List.foldl_cons, ih _ hc.2, Tbl.find]
    by_cases hj : j = n
    · subst hj
      rw [Tbl.find_of_not_mem c j hc.1, if_pos rfl]
      simp only [Option.elim_none, Option.elim_some]
      split <;> simp
    · have hu : (if p (j, v) then u.put j (g (j, v)) else u).look n d = u.look n d := by split <;> simp [hj]
      rw [hu, if_neg hj]

/-- Values by key put into a table for the keys of a list. -/
theorem Tbl.look_foldl_put_keys (l : List Nat) (u : Tbl β) (p : Nat → Bool) (g : Nat → β) (n : Nat) (d : β) :
    (l.foldl (fun u k => if p k then u.put k (g k) else u) u).look n d = if n ∈ l ∧ p n = true then g n else u.look n d := by
  induction l generalizing u with
  | nil => simp
  | cons k l ih =>
    have hu : (if p k = true then u.put k (g k) else u).look n d = if k = n ∧ p n = true then g n else u.look n d := by
      by_cases hk : k = n
      · subst hk; by_cases hp : p k = true <;> simp [hp]
      · split <;> simp [hk]
    rw [List.foldl_cons, ih, hu]
    grind

end

end Sys2Proof
end

section
/-! SUPPORT. What a prediction, its confirmation and its refutation make of a line (R239 to R243, Tables 5-6, 6-13). -/

namespace Sys2Proof.Machine

/-! ### Redirects and taken branches (R102, R216) -/

section
variable {L : LineState} {st st' : Station} {t t' e c x : Nat} {z : QState} {o : Outst}

theorem Outst.post_eq (o : Outst) (z : QState) (n : Nat) : o.post z n = { z with ar := (o.post z n).ar } := by
  unfold Outst.post
  split
  · split
    · dsimp only
      split <;> rfl
    · rfl
  · split
    · dsimp only
      split <;> rfl
    · rfl

/-- What a redirect leaves of a queue that has not ended. -/
theorem QState.redirect_spec (h : z.ended = false) (pc n : Nat) :
    (z.redirect pc n).pc = pc ∧ (z.redirect pc n).notBefore = n ∧ (z.redirect pc n).lc = z.lc ∧ (z.redirect pc n).stride = z.stride ∧
    (z.redirect pc n).ar = (match z.outst with | some o => (o.post z o.done).ar | none => z.ar) := by
  rw [QState.redirect, if_neg (by simp [h])]
  cases z.outst with
  | none => exact ⟨rfl, rfl, rfl, rfl, rfl⟩
  | some o =>
    have hlc : (o.post z o.done).lc = z.lc := by rw [Outst.post_eq]
    have hstride : (o.post z o.done).stride = z.stride := by rw [Outst.post_eq]
    exact ⟨rfl, rfl, hlc, hstride, rfl⟩

/-- A redirect of one station's queue leaves everything but the queues. -/
theorem LineState.redirectOne_eq (L : LineState) (t e n : Nat) (st : Station) :
    L.redirectOne t e n st = { L with queues := (L.redirectOne t e n st).queues } := by
  unfold LineState.redirectOne
  split <;> rfl

theorem LineState.q_redirectOne (L : LineState) (t e n : Nat) (st st' : Station) (t' : Nat) : (L.redirectOne t e n st).q st' t' =
    if st = st' ∧ t = t' then (L.target e st).elim (L.q st t) fun pc => (L.q st t).redirect pc n else L.q st' t' := by
  unfold LineState.redirectOne
  cases L.target e st with
  | none => simp only [Option.elim_none]; split <;> simp_all
  | some pc => rw [LineState.q_updQ]; rfl

theorem LineState.target_redirectOne (n : Nat) : (L.redirectOne t e n st).target e st' = L.target e st' := by
  rw [LineState.target, LineState.redirectOne_eq]
  rfl

/-- The stations redirected one after the other. -/
theorem LineState.foldl_redirectOne (l : List Station) (f : Station → Nat) (L : LineState) (hl : l.Nodup) :
    l.foldl (fun L st => L.redirectOne t e (f st) st) L =
      { L with queues := (l.foldl (fun L st => L.redirectOne t e (f st) st) L).queues } ∧
    ∀ st, (l.foldl (fun L st => L.redirectOne t e (f st) st) L).q st t =
      if st ∈ l then (L.target e st).elim (L.q st t) fun pc => (L.q st t).redirect pc (f st) else L.q st t := by
  induction l generalizing L with
  | nil => exact ⟨rfl, fun st => rfl⟩
  | cons st l ih =>
    obtain ⟨hst, hnd⟩ := List.nodup_cons.1 hl
    obtain ⟨heq, hq⟩ := ih (L.redirectOne t e (f st) st) hnd
    refine ⟨?_, fun st' => ?_⟩
    · rw [List.foldl_cons, heq, LineState.redirectOne_eq]
    · rw [List.foldl_cons, hq, LineState.target_redirectOne, LineState.q_redirectOne]
      by_cases hs : st = st'
      · subst hs; simp [hst]
      · simp [hs, Ne.symm hs]

/-- A VX.RFLD that is cut brings its entries into force, and leaves everything else but what predictions note of it. -/
theorem LineState.cutRfld_eq (L : LineState) (t x : Nat) :
    L.cutRfld t x = { L with vx.freq := (L.cutRfld t x).vx.freq, cc.preds := (L.cutRfld t x).cc.preds } := by
  unfold LineState.cutRfld
  split
  · split
    · unfold LineState.putFreq LineState.touch
      dsimp only
      split <;> rfl
    · rfl
  · rfl

/-- Without a prediction that stands nothing is noted. -/
theorem LineState.cutRfld_preds (h : L.unconf t x = none) : (L.cutRfld t x).cc.preds = L.cc.preds := by
  unfold LineState.cutRfld
  split
  · split
    · unfold LineState.putFreq LineState.touch
      dsimp only
      split
      · next hu _ => exact absurd (hu.symm.trans h) (by simp)
      · rfl
    · rfl
  · rfl

/-- The stations of a line. -/
def allStations : List Station := [.pt, .ls, .px, .mx, .vx, .cc]

theorem mem_allStations (st : Station) : st ∈ allStations := by cases st <;> decide

/-- A taken branch of a task whose prediction, if any, begins with it. -/
theorem LineState.takeBranch_spec (h : L.unconf t c = none) : (L.takeBranch t e c).cc.preds = L.cc.preds ∧
    ∀ st pc, L.target e st = some pc → (L.q st t).ended = false → ((L.takeBranch t e c).q st t).pc = pc ∧
      ((L.takeBranch t e c).q st t).notBefore = c + (if st = .cc then 1 else 3) := by
  have hcut : ∃ M : LineState, (if (L.target e .vx).isSome then L.cutRfld t c else L) = M ∧ M.cc = L.cc ∧ M.queues = L.queues := by
    refine ⟨_, rfl, ?_⟩
    split
    · rw [LineState.cutRfld_eq, LineState.cutRfld_preds h]
      exact ⟨rfl, rfl⟩
    · exact ⟨rfl, rfl⟩
  obtain ⟨M, hM, hcc, hqs⟩ := hcut
  obtain ⟨heq, hq⟩ := LineState.foldl_redirectOne (t := t) (e := e) allStations (fun st => if st = .cc then c + 1 else c + 3) M (by decide)
  have hbranch : L.takeBranch t e c =
      allStations.foldl (fun M st => M.redirectOne t e (if st = .cc then c + 1 else c + 3) st) M := by rw [← hM]; rfl
  have htarget (st : Station) : M.target e st = L.target e st := by rw [LineState.target, LineState.target, hcc]
  rw [hbranch]
  refine ⟨by rw [heq]; exact congrArg CcState.preds hcc, fun st pc hpc hend => ?_⟩
  have hz : M.q st t = L.q st t := by rw [LineState.q, LineState.q, hqs]
  rw [hq, if_pos (mem_allStations st), htarget, hpc, hz]
  obtain ⟨h1, h2, -⟩ := QState.redirect_spec hend pc (if st = .cc then c + 1 else c + 3)
  refine ⟨h1, h2.trans ?_⟩
  split <;> rfl

end

/-! ### Confirmation (R241, R243) -/

section
variable {L : LineState} {t r : Nat}

theorem LineState.confirm_preds : (L.confirm t r).cc.preds = L.cc.preds.del t := rfl
theorem LineState.confirm_queues : (L.confirm t r).queues = L.queues := rfl

/-- No row that the task holds is unconfirmed any more. -/
theorem LineState.confirm_held : ∀ e ∈ (L.confirm t r).ls.held, e.2.task = t → e.2.confirmed = true := by
  intro e he ht
  simp only [LineState.confirm, List.mem_map] at he
  obtain ⟨e', -, rfl⟩ := he
  by_cases hc : (!e'.2.confirmed && decide (e'.2.task = t)) = true
  · simp [hc]
  · rw [if_neg hc] at ht ⊢
    simpa [ht] using hc

end

/-! ### Refutation (R240, R241, Tables 5-6, 6-13) -/

section
variable {L : LineState} {t r e : Nat} {p : Pred}

/-- Queues of one task set one after the other leave everything else of their line. -/
theorem LineState.foldl_setQ (f : LineState → Station × QState → QState) (xs : List (Station × QState)) (L : LineState) :
    xs.foldl (fun L x => L.setQ x.1 t (f L x)) L = { L with queues := (xs.foldl (fun L x => L.setQ x.1 t (f L x)) L).queues } := by
  induction xs generalizing L with
  | nil => rfl
  | cons x xs ih => rw [List.foldl_cons, ih]; rfl

theorem LineState.refute_mx : (L.refute t r e p).mx = L.mx.refute t p.mx := by
  unfold LineState.refute
  exact congrArg LineState.mx (LineState.foldl_setQ ..)
theorem LineState.refute_vx : (L.refute t r e p).vx = L.vx.refute t p.vx := by
  unfold LineState.refute
  exact congrArg LineState.vx (LineState.foldl_setQ ..)
theorem LineState.refute_held : (L.refute t r e p).ls.held = L.ls.held.filter fun x => x.2.confirmed || x.2.task ≠ t := by
  unfold LineState.refute
  exact congrArg (·.ls.held) (LineState.foldl_setQ ..)
theorem LineState.refute_preds : (L.refute t r e p).cc.preds = L.cc.preds.del t := by
  unfold LineState.refute
  exact congrArg (·.cc.preds) (LineState.foldl_setQ ..)
theorem LineState.refute_sreg : (L.refute t r e p).cc.sreg =
    p.sregs.foldl (fun a x => Tbl.put a x.1 x.2) (L.cc.sreg.filter fun x => x.1 / 64 ≠ t) := by
  unfold LineState.refute
  exact congrArg (·.cc.sreg) (LineState.foldl_setQ ..)
theorem LineState.refute_iw : (L.refute t r e p).cc.iw = L.cc.iw.map fun x =>
    (x.1, { x.2 with words := ((p.taken.filter fun y => y.1 == x.1).map fun y => (y.2, 0)) ++ x.2.words }) := by
  unfold LineState.refute
  exact congrArg (·.cc.iw) (LineState.foldl_setQ ..)

theorem LineState.q_setQ (L : LineState) (st st' : Station) (t t' : Nat) (z : QState) :
    (L.setQ st t z).q st' t' = if st = st' ∧ t = t' then z else L.q st' t' := by
  simp [LineState.setQ, LineState.q, qKey_inj]

/-- The queues of a task restored one after the other: each stands at the arm that its station issues. -/
theorem LineState.foldl_setQ_redirect (n : Nat) (xs : List (Station × QState)) (L : LineState) (st : Station)
    (hnd : (xs.map Prod.fst).Nodup) :
    (xs.foldl (fun L x => L.setQ x.1 t (x.2.redirect ((L.target e x.1).getD 0) n)) L).q st t =
      (xs.find? fun x => x.1 == st).elim (L.q st t) fun x => x.2.redirect ((L.target e st).getD 0) n := by
  induction xs generalizing L with
  | nil => rfl
  | cons x xs ih =>
    obtain ⟨hx, hnd⟩ := List.nodup_cons.1 hnd
    have htarget : (L.setQ x.1 t (x.2.redirect ((L.target e x.1).getD 0) n)).target e st = L.target e st := rfl
    rw [List.foldl_cons, ih _ hnd, htarget, LineState.q_setQ, List.find?_cons]
    by_cases hs : x.1 = st
    · have hnone : xs.find? (fun x => x.1 == st) = none :=
        List.find?_eq_none.2 fun y hy hb => hx (List.mem_map.2 ⟨y, hy, (beq_iff_eq.1 hb).trans hs.symm⟩)
      simp [hs, hnone]
    · simp [hs, beq_false_of_ne hs]

/-- The queue of a station stands in a checkpoint at the code of the station. -/
theorem find_zip_allStations (zs : List QState) (st : Station) :
    (allStations.zip zs).find? (fun x => x.1 == st) = zs[st.code]?.map fun z => (st, z) := by
  rcases zs with _ | ⟨z0, _ | ⟨z1, _ | ⟨z2, _ | ⟨z3, _ | ⟨z4, _ | ⟨z5, zs⟩⟩⟩⟩⟩⟩ <;> cases st <;> rfl

theorem zip_fst_sublist {α β : Type} (l : List α) (m : List β) : ((l.zip m).map Prod.fst).Sublist l := by
  induction l generalizing m with
  | nil => exact .slnil
  | cons a l ih =>
    cases m with
    | nil => exact List.nil_sublist _
    | cons b m => exact (ih m).cons_cons a

theorem nodup_zip_allStations (zs : List QState) : ((allStations.zip zs).map Prod.fst).Nodup :=
  (show allStations.Nodup by decide).sublist (zip_fst_sublist ..)

/-- Each queue of the checkpoint is restored, and stands at its target of the entry. -/
theorem LineState.refute_q {st : Station} {z : QState} {pc : Nat} (hz : p.queues[st.code]? = some z) (hpc : L.target e st = some pc) :
    (L.refute t r e p).q st t = z.redirect pc (r + 7) := by
  unfold LineState.refute
  refine (LineState.foldl_setQ_redirect (r + 7) (allStations.zip p.queues) _ st (nodup_zip_allStations _)).trans ?_
  rw [find_zip_allStations, hz]
  exact congrArg (fun o => z.redirect (o.getD 0) (r + 7)) hpc

/-- The scalar registers of the task are those of the checkpoint. -/
theorem LineState.refute_sreg_look {key : Nat} (hk : key / 64 = t) (hp : (p.sregs.map Prod.fst).Nodup) :
    (L.refute t r e p).cc.sreg.look key [] = p.sregs.look key [] := by
  have hnone : Tbl.look (L.cc.sreg.filter fun x => x.1 / 64 ≠ t) key [] = [] := by
    rw [Tbl.look_filter_key L.cc.sreg (fun k => k / 64 ≠ t)]
    simp [hk]
  rw [LineState.refute_sreg, Tbl.look_foldl_put _ _ _ _ hp, hnone]
  split
  · rfl
  · next h => exact (Tbl.look_of_not_mem _ _ _ h).symm

/-- The words taken from an inbound queue stand before those that have come meanwhile. -/
theorem LineState.refute_iw_find {n : Nat} {z : InQueue} (h : L.cc.iw.find n = some z) : (L.refute t r e p).cc.iw.find n =
    some { z with words := ((p.taken.filter fun y => y.1 == n).map fun y => (y.2, 0)) ++ z.words } := by
  rw [LineState.refute_iw]
  refine (Tbl.find_map_entry L.cc.iw _ n).trans ?_
  rw [h]
  rfl

end

/-! #### The vector station (Table 6-13) -/

section
variable {v : VxState} {t : Nat} {p : VxSaved}

/-- The registers that the task wrote under the prediction have the content saved of them. -/
theorem VxState.refute_vr {r : Nat} {old : VecReg} (hc : (v.copies.map Prod.fst).Nodup) (hr : v.copies.find r = some (t, old)) (x : Nat) :
    ((v.refute t p).vr.look r default).at x = old := by
  have hl := Tbl.look_foldl_put_if v.copies v.vr (fun e => e.2.1 = t) (fun e => Stamped.of e.2.2) r default hc
  rw [hr] at hl
  refine (congrArg (Stamped.at · x) hl).trans ?_
  simp [Stamped.at, Stamped.of]

/-- Every other register stays. -/
theorem VxState.refute_vr_other {r : Nat} (hc : (v.copies.map Prod.fst).Nodup) (hr : ∀ old, v.copies.find r ≠ some (t, old)) :
    (v.refute t p).vr.look r default = v.vr.look r default := by
  refine (Tbl.look_foldl_put_if v.copies v.vr (fun e => e.2.1 = t) (fun e => Stamped.of e.2.2) r default hc).trans ?_
  cases hf : v.copies.find r with
  | none => rfl
  | some e =>
    have he : e.1 ≠ t := fun he => hr e.2 (by rw [hf, ← he])
    simp [he]

/-- The running rows written under the prediction come back. -/
theorem VxState.refute_rr {n : Nat} (hn : n < 4) : (v.refute t p).rr.look n RunRow.noKind =
    if p.rows.getLsbD n then p.rr.look n RunRow.noKind else v.rr.look n RunRow.noKind := by
  refine (Tbl.look_foldl_put_keys (List.range 4) v.rr (p.rows.getLsbD ·) (fun n => p.rr.look n RunRow.noKind) n RunRow.noKind).trans ?_
  simp only [List.mem_range, hn, true_and]

/-- The summary states of the task come back. -/
theorem VxState.refute_summ {key : Nat} (d : Summ) (hk : key / 8 = t) (hp : (p.summ.map Prod.fst).Nodup) :
    (v.refute t p).summ.look key d = p.summ.look key d := by
  have hnone : Tbl.look (v.summ.filter fun e => e.1 / 8 ≠ t) key d = d := by
    rw [Tbl.look_filter_key v.summ (fun k => k / 8 ≠ t)]
    simp [hk]
  refine (Tbl.look_foldl_put_if p.summ _ (fun e => e.1 / 8 = t) (fun e => e.2) key d hp).trans ?_
  rw [hnone, Tbl.look_eq_find p.summ]
  cases p.summ.find key with
  | none => rfl
  | some s => simp [hk]

end

end Sys2Proof.Machine
end

section
/-! SUPPORT. CC.PREDICT and the resolving CC.BR as whole instructions (R239 to R243). -/

namespace Sys2Proof.Machine

/-! ### The issue of a branch -/

section
variable {s t : State} {q : Queue} {i : Instr} {w : FmtC} {e : Nat} {L M : LineState} {p : Pred}

/-- The state on which a branch of the CC has its effect. -/
def State.ccBegun (s : State) (q : Queue) (i : Instr) : State := (s.issued .cc q i).countLine q.line .ccIss

theorem State.ccBegun_follows : Follows s (s.ccBegun q i) q := (s.issued_sameQueues .cc q i).follows.countLine ..

theorem State.ccBegun_queues : ((s.ccBegun q i).line q.line).queues = (s.line q.line).queues := by
  rw [State.ccBegun, State.countLine, State.line_updLine, if_pos rfl]
  exact (s.issued_sameQueues .cc q i).queues

theorem State.ccBegun_cc : ((s.ccBegun q i).line q.line).cc = (s.line q.line).cc := by rw [State.ccBegun_follows.line.cc]

theorem State.ccBegun_ctx (c0 j : Nat) : (s.ccBegun q i).ctx .cc q c0 j = s.ctx .cc q c0 j := by
  have hq : (s.ccBegun q i).q .cc q = s.q .cc q := by rw [State.q, State.q, LineState.q, LineState.q, State.ccBegun_queues]
  rw [State.ctx, State.ctx, State.ccBegun_follows.frame.sc, hq]

theorem State.issueCcBranch_eq (h : s.CanIssue .cc q i) (f : State → Ctx → State) :
    s.issueCcBranch q i f = .next (f (s.ccBegun q i) (s.ctx .cc q s.sc 0)) := by
  have hsc : (s.ccBegun q i).sc = s.sc := State.ccBegun_follows.frame.sc
  rw [State.issueCcBranch, State.issueWith_eq s .cc q i _ h, ← State.ccBegun_ctx (i := i), ← hsc]
  rfl

theorem LineState.target_congr (h : M.cc.branch = L.cc.branch) (e : Nat) (st : Station) : M.target e st = L.target e st := by
  rw [LineState.target, LineState.target, h]

theorem LineState.fullEntry_congr (h : M.cc.branch = L.cc.branch) (e : Nat) : M.fullEntry e = L.fullEntry e := by
  simp only [LineState.fullEntry, LineState.target_congr h]

/-- With a target for every station a branch moves the CC too. -/
theorem State.branchTo_full (h : (s.line q.line).fullEntry e = true) :
    s.branchTo q e = s.updLine q.line fun L => (L.count .ccBr).takeBranch q.task e s.sc := by
  have hcc : ((s.line q.line).target e .cc).isSome = true := by
    simp only [LineState.fullEntry, List.all_cons, Bool.and_eq_true] at h
    tauto
  rw [State.branchTo, hcc, if_pos rfl, State.countLine, State.updLine_updLine]

/-! ### CC.PREDICT (R239, R240) -/

/-- A line that keeps a checkpoint. -/
def LineState.withPrediction (L : LineState) (t e x : Nat) : LineState :=
  { L with cc.preds := L.cc.preds.put t ((L.cutRfld t x).checkpoint t e x) }

/-- A line after a prediction and its branch. -/
def LineState.predicted (L : LineState) (t e x : Nat) : LineState :=
  (((L.count .ccPred).withPrediction t e x).count .ccBr).takeBranch t e x

/-- The prediction that a line keeps then. -/
def LineState.predictionOf (L : LineState) (t e x : Nat) : Pred := ((L.count .ccPred).cutRfld t x).checkpoint t e x

theorem LineState.predicted_spec (L : LineState) (t e x : Nat) :
    (L.predicted t e x).cc.preds.look t default = L.predictionOf t e x ∧
    ∀ st pc, L.target e st = some pc → (L.q st t).ended = false → ((L.predicted t e x).q st t).pc = pc ∧
      ((L.predicted t e x).q st t).notBefore = x + (if st = .cc then 1 else 3) := by
  have hu : (((L.count .ccPred).withPrediction t e x).count .ccBr).unconf t x = none := by
    show (match (L.cc.preds.put t _).find t with | some p => if p.p < x then some t else none | none => none) = none
    rw [Tbl.find_put_self]
    exact if_neg (Nat.lt_irrefl x)
  obtain ⟨hp, hq⟩ := LineState.takeBranch_spec (e := e) hu
  refine ⟨?_, hq⟩
  rw [LineState.predicted, hp]
  exact Tbl.look_put_self ..

theorem LineState.predictionOf_spec (L : LineState) (t e x : Nat) : (L.predictionOf t e x).entry = e ∧ (L.predictionOf t e x).p = x ∧
    (L.predictionOf t e x).queues = [Station.pt, .ls, .px, .mx, .vx, .cc].map (fun st => L.q st t) ∧
    (L.predictionOf t e x).mx.active = L.mx.active ∧ (L.predictionOf t e x).mx.anchors = L.mx.anchors ∧
    (L.predictionOf t e x).mx.smax = L.mx.smax ∧ (L.predictionOf t e x).flags = [] ∧ (L.predictionOf t e x).words = [] := by
  unfold LineState.predictionOf
  rw [LineState.cutRfld_eq]
  exact ⟨rfl, rfl, rfl, rfl, rfl, rfl, rfl, rfl⟩

theorem State.predict_eq (s : State) (q : Queue) {e x : Nat} (hx : s.sc = x) (h : (s.line q.line).fullEntry e = true) :
    ((s.countLine q.line .ccPred).updLine q.line (LineState.withPrediction · q.task e x)).branchTo q e =
      s.updLine q.line (LineState.predicted · q.task e x) := by
  subst hx
  rw [State.branchTo_full, State.countLine, State.updLine_updLine, State.updLine_updLine]
  · rfl
  · rw [State.line_updLine, if_pos rfl, State.countLine, State.line_updLine, if_pos rfl, ← h]
    exact LineState.fullEntry_congr rfl e

theorem exec_ccPredict (h : s.CanIssue .cc q (.ccPredict q w)) (hfull : (s.line q.line).fullEntry (w.fld 0 8) = true)
    (hp : (s.line q.line).cc.preds.find q.task = none) : exec (.ccPredict q w) s =
      .next ((s.ccBegun q (.ccPredict q w)).updLine q.line (LineState.predicted · q.task (w.fld 0 8) s.sc)) := by
  have hcc := s.ccBegun_cc (q := q) (i := .ccPredict q w)
  have hsc : (s.ccBegun q (.ccPredict q w)).sc = s.sc := State.ccBegun_follows.frame.sc
  have hnone : (((s.ccBegun q (.ccPredict q w)).line q.line).cc.preds.find q.task).isSome = false := by
    rw [hcc, hp]
    rfl
  have hfull' : ((s.ccBegun q (.ccPredict q w)).line q.line).fullEntry (w.fld 0 8) = true :=
    (LineState.fullEntry_congr (congrArg CcState.branch hcc) _).trans hfull
  show execCcPredict q w s = _
  rw [execCcPredict, hfull, State.issueCcBranch_eq h]
  refine congrArg Host.Outcome.next (Eq.trans ?_ (State.predict_eq _ q hsc hfull'))
  exact if_neg (by rw [Bool.not_eq_true]; exact hnone)

/-- A prediction keeps its checkpoint, and each station issues its target of the entry. -/
theorem ccPredict_begins (h : s.CanIssue .cc q (.ccPredict q w)) (hfull : (s.line q.line).fullEntry (w.fld 0 8) = true)
    (hp : (s.line q.line).cc.preds.find q.task = none) :
    ∃ t p, exec (.ccPredict q w) s = .next t ∧ IssueFrame s t q.line ∧ (t.line q.line).cc.preds.look q.task default = p ∧
      p.entry = w.fld 0 8 ∧ p.p = s.sc ∧
      p.queues = [Station.pt, .ls, .px, .mx, .vx, .cc].map (fun st => (s.line q.line).q st q.task) ∧
      p.mx.active = (s.line q.line).mx.active ∧ p.mx.anchors = (s.line q.line).mx.anchors ∧ p.mx.smax = (s.line q.line).mx.smax ∧
      p.flags = [] ∧ p.words = [] ∧
      ∀ st pc, (s.line q.line).target (w.fld 0 8) st = some pc → ((s.line q.line).q st q.task).ended = false →
        ((t.line q.line).q st q.task).pc = pc ∧
        ((t.line q.line).q st q.task).notBefore = s.sc + (if st = .cc then 1 else 3) := by
  have hcc := s.ccBegun_cc (q := q) (i := .ccPredict q w)
  have hmx : ((s.ccBegun q (.ccPredict q w)).line q.line).mx = (s.line q.line).mx := State.ccBegun_follows.mx
  have hq (st : Station) : ((s.ccBegun q (.ccPredict q w)).line q.line).q st q.task = (s.line q.line).q st q.task := by
    rw [LineState.q, LineState.q, State.ccBegun_queues]
  obtain ⟨hlook, hqueues⟩ := ((s.ccBegun q (.ccPredict q w)).line q.line).predicted_spec q.task (w.fld 0 8) s.sc
  obtain ⟨he, hx, hqs, hact, hanch, hsmax, hflags, hwords⟩ :=
    ((s.ccBegun q (.ccPredict q w)).line q.line).predictionOf_spec q.task (w.fld 0 8) s.sc
  rw [exec_ccPredict h hfull hp]
  refine ⟨_, _, rfl, State.ccBegun_follows.frame.trans (.updLine ..), ?_, he, hx, by simpa only [hq] using hqs, by rw [hact, hmx],
    by rw [hanch, hmx], by rw [hsmax, hmx], hflags, hwords, fun st pc hpc hend => ?_⟩
  · rw [State.line_updLine, if_pos rfl]
    exact hlook
  · rw [State.line_updLine, if_pos rfl]
    rw [← LineState.target_congr (congrArg CcState.branch hcc)] at hpc
    rw [← hq] at hend
    exact hqueues st pc hpc hend

end

/-! ### What the resolution of a prediction acts on (R242) -/

theorem LineFrame.withPreds {L M : LineState} (h : LineFrame L M) (ps : Tbl Pred) :
    LineFrame { L with cc.preds := ps } { M with cc.preds := ps } := by
  rw [h]
  rfl

section
variable {s : State} {q : Queue} {i : Instr} {w : FmtC} {l t : Nat} {p : Pred}

theorem State.specDepth_of_none (h : (s.line l).cc.preds.find t = none) : s.specDepth l t = s := by
  rw [State.specDepth, h]

/-- A prediction too old is recorded once; otherwise nothing happens. -/
theorem State.specDepth_of_some (h : (s.line l).cc.preds.find t = some p) : s.specDepth l t =
    if p.p + 257 = s.sc && !p.deep then
      (s.faultQ .cc l t .specDepth).updLine l fun L => { L with cc.preds := L.cc.preds.put t { p with deep := true } }
    else s := by
  rw [State.specDepth, h]

/-- It changes of the line FAULT and the prediction. -/
theorem State.specDepth_spec (s : State) (q : Queue) : IssueFrame s (s.specDepth q.line q.task) q.line ∧
    LineFrame { s.line q.line with cc.preds := ((s.specDepth q.line q.task).line q.line).cc.preds }
      ((s.specDepth q.line q.task).line q.line) ∧
    ((s.specDepth q.line q.task).line q.line).queues = (s.line q.line).queues ∧
    (((s.line q.line).cc.preds.map Prod.fst).Pairwise (· < ·) →
      (((s.specDepth q.line q.task).line q.line).cc.preds.map Prod.fst).Pairwise (· < ·)) := by
  cases hp : (s.line q.line).cc.preds.find q.task with
  | none =>
    rw [State.specDepth_of_none hp]
    exact ⟨.refl .., .refl _, rfl, id⟩
  | some p =>
    rw [State.specDepth_of_some hp]
    split
    · have hf := s.faultQ_sameQueues .cc q q.task .specDepth 0 0 0 0 0
      refine ⟨hf.frame.trans (.updLine ..), ?_, ?_, fun h => ?_⟩
      · rw [State.line_updLine, if_pos rfl, hf.line]
        rfl
      · rw [State.line_updLine, if_pos rfl]
        exact hf.queues
      · rw [State.line_updLine, if_pos rfl]
        refine Tbl.pairwise_put _ _ _ ?_
        rwa [hf.line.cc]
    · exact ⟨.refl .., .refl _, rfl, id⟩

/-- The state on which the resolving CC.BR confirms or refutes. -/
def State.resolving (s : State) (q : Queue) (w : FmtC) : State := (s.ccBegun q (.ccBrResolve q w)).specDepth q.line q.task

theorem State.resolving_spec (s : State) (q : Queue) (w : FmtC) : IssueFrame s (s.resolving q w) q.line ∧
    LineFrame { s.line q.line with
      cnt := ((s.resolving q w).line q.line).cnt, cc.preds := ((s.resolving q w).line q.line).cc.preds }
      ((s.resolving q w).line q.line) ∧
    ((s.resolving q w).line q.line).queues = (s.line q.line).queues ∧
    ((s.line q.line).cc.preds.rising = true → (((s.resolving q w).line q.line).cc.preds.map Prod.fst).Nodup) := by
  have hb := s.ccBegun_follows (q := q) (i := .ccBrResolve q w)
  obtain ⟨hf, hl, hqs, hpw⟩ := (s.ccBegun q (.ccBrResolve q w)).specDepth_spec q
  refine ⟨hb.frame.trans hf, ?_, hqs.trans State.ccBegun_queues, fun h => Tbl.nodup_of_pairwise (hpw ?_)⟩
  · rw [show ((s.resolving q w).line q.line).cnt = _ from hl.cnt]
    exact (hb.line.withPreds _).trans hl
  · rw [State.ccBegun_cc]
    exact Tbl.pairwise_of_rising _ h

end

end Sys2Proof.Machine
end

section
/-! SUPPORT. The two ends of a prediction as a whole instruction, SPEC_DEPTH, and the deferred words (R241 to R243). -/

namespace Sys2Proof.Machine

theorem IssueFrame.mem {s t : State} {l : Nat} (h : IssueFrame s t l) : t.mem = s.mem := by rw [h.1]
theorem IssueFrame.flags {s t : State} {l : Nat} (h : IssueFrame s t l) : t.flags = s.flags := by rw [h.1]

/-! ### The resolving CC.BR (R241) -/

section
variable {s : State} {q : Queue} {w : FmtC} {p : Pred}

theorem State.condOf_congr {t : State} {k : Ctx} (h : (t.line k.l).cc.sreg = (s.line k.l).cc.sreg) : t.condOf k w = s.condOf k w := by
  rw [State.condOf, State.condOf, State.scalar_congr h, State.scalar_congr h]

theorem State.resolving_sreg : ((s.resolving q w).line q.line).cc.sreg = (s.line q.line).cc.sreg := by
  obtain ⟨-, hl, -⟩ := s.resolving_spec q w
  rw [hl.cc]

theorem exec_ccBrResolve (h : s.CanIssue .cc q (.ccBrResolve q w)) (hfull : (s.line q.line).fullEntry (w.fld 0 8) = true)
    (hp : (s.line q.line).cc.preds.find q.task = some p) : exec (.ccBrResolve q w) s = .next
      (if s.condOf (s.ctx .cc q s.sc 0) w then ((s.resolving q w).confirm q.line q.task s.sc p).advance .cc q
      else (s.resolving q w).refute q.line q.task s.sc (w.fld 0 8) p) := by
  have hfind : ((s.ccBegun q (.ccBrResolve q w)).line (s.ctx .cc q s.sc 0).l).cc.preds.find (s.ctx .cc q s.sc 0).t = some p :=
    (congrArg (fun c : CcState => c.preds.find q.task) State.ccBegun_cc).trans hp
  have hcond : (s.resolving q w).condOf (s.ctx .cc q s.sc 0) w = s.condOf (s.ctx .cc q s.sc 0) w :=
    State.condOf_congr State.resolving_sreg
  show execCcBrResolve q w s = _
  rw [execCcBrResolve, hfull, State.issueCcBranch_eq h, ← hcond]
  simp only [hfind]
  rfl

end

/-! ### Confirmation -/

/-- The flags are as before, and so are the predictions, held rows and queues of line `l`. -/
structure LeavesResolved (s t : State) (l : Nat) : Prop where
  flags : t.flags = s.flags
  preds : (t.line l).cc.preds = (s.line l).cc.preds
  held : (t.line l).ls.held = (s.line l).ls.held
  queues : (t.line l).queues = (s.line l).queues

section
variable {s t u : State} {l : Nat}

theorem LeavesResolved.refl (s : State) (l : Nat) : LeavesResolved s s l := ⟨rfl, rfl, rfl, rfl⟩
theorem LeavesResolved.trans (h : LeavesResolved s t l) (g : LeavesResolved t u l) : LeavesResolved s u l :=
  ⟨g.flags.trans h.flags, g.preds.trans h.preds, g.held.trans h.held, g.queues.trans h.queues⟩

theorem LeavesResolved.foldl {α : Type} (f : State → α → State) (hf : ∀ s x, LeavesResolved s (f s x) l) (xs : List α) (s : State) :
    LeavesResolved s (xs.foldl f s) l := by
  induction xs generalizing s with
  | nil => exact .refl ..
  | cons x xs ih => exact (hf s x).trans (ih _)

theorem LeavesResolved.updLine (s : State) (l : Nat) (f : LineState → LineState) (hp : (f (s.line l)).cc.preds = (s.line l).cc.preds)
    (hh : (f (s.line l)).ls.held = (s.line l).ls.held) (hq : (f (s.line l)).queues = (s.line l).queues) :
    LeavesResolved s (s.updLine l f) l := by
  constructor
  · rfl
  all_goals rw [State.line_updLine, if_pos rfl]; assumption

theorem State.faultAt_leaves (s : State) (l f : Nat) (k : FaultKind) (d : Nat) (u u2 : UnitRef) (addr aux e o : Nat) (r : Bool) :
    LeavesResolved s (s.faultAt f k d u u2 addr aux e o r) l := by
  have hl := (s.noteFrame_faultAt f k d u u2 addr aux e o r l).lineFrame
  exact ⟨(s.faultAt_frame f k d u u2 addr aux e o r).flags, by rw [hl.cc], by rw [hl],
    (s.noteFrame_faultAt f k d u u2 addr aux e o r l).queues⟩

theorem State.oowReport_leaves (s : State) (l row issue f task pc : Nat) (r : Bool) :
    LeavesResolved s (s.oowReport l row issue f task pc r) l := by
  have hn := LeavesResolved.updLine s l (LineState.oowNoted · row issue) rfl rfl rfl
  rw [State.oowReport_eq]
  split
  · exact hn.trans (State.faultAt_leaves ..)
  · exact hn

theorem State.vxReport_leaves (s : State) (l task pc : Nat) (ev : BitVec 3) (f outSc : Nat) (r : Bool) :
    LeavesResolved s (s.vxReport l task pc ev f outSc r) l := by
  have hif (b : Bool) (s : State) (k : FaultKind) :
      LeavesResolved s (if b then s.faultAt f k 0 ⟨l, 4, task, true, pc⟩ UnitRef.none 0 0 0 0 r else s) l := by
    split
    · exact State.faultAt_leaves ..
    · exact .refl ..
  unfold State.vxReport
  refine (((LeavesResolved.updLine s l _ rfl rfl rfl).trans (hif _ _ _)).trans (hif _ _ _)).trans (hif _ _ _)

theorem State.requestGroups_leaves (s : State) (l : Nat) (on : BitVec 4) (x : Nat) : LeavesResolved s (s.requestGroups l on x) l :=
  have h := LeavesResolved.updLine s l (fun L => { L with ls := { L.ls with pgReq := on, pgReqValid := true, pgReqSc := x } }) rfl rfl rfl
  ⟨rfl, h.preds, h.held, h.queues⟩

/-- Flag changes put on their way leave everything but the flags. -/
theorem State.foldl_flagChange {α : Type} (f : State → α → State) (hf : ∀ s x, f s x = { s with flags := (f s x).flags }) (xs : List α)
    (s : State) : xs.foldl f s = { s with flags := (xs.foldl f s).flags } := by
  induction xs generalizing s with
  | nil => rfl
  | cons x xs ih => rw [List.foldl_cons, ih, hf]

/-- What a confirmation makes of its line and of the flags. -/
theorem State.confirm_spec (s : State) (l t r : Nat) (p : Pred) : ((s.confirm l t r p).line l).cc.preds = (s.line l).cc.preds.del t ∧
    ((s.confirm l t r p).line l).queues = (s.line l).queues ∧
    (∀ e ∈ ((s.confirm l t r p).line l).ls.held, e.2.task = t → e.2.confirmed = true) ∧
    (p.flags = [] → (s.confirm l t r p).flags = s.flags) := by
  unfold State.confirm
  extract_lets s1 s2 s3 s4 s5
  have h1 : s1.line l = ((s.line l).confirm t r).queueWords p.words r := by rw [State.line_updLine, if_pos rfl]
  have h3 : s3.line l = s1.line l := by
    rw [show s3 = { s2 with flags := s3.flags } from State.foldl_flagChange _ (fun _ _ => rfl) _ s2]
    rfl
  have h4 : LeavesResolved s3 s4 l := by
    show LeavesResolved s3 (match p.pgrp with | some on => s3.requestGroups l on r | none => s3) l
    split
    · exact State.requestGroups_leaves ..
    · exact .refl ..
  have h := (h4.trans (.foldl _ (fun s o => s.oowReport_leaves ..) p.oowRep _)).trans
    (.foldl (fun s e => s.vxReport l t e.2.1 e.1 r e.2.2 true) (fun s e => s.vxReport_leaves ..) p.vxEv s5)
  rw [h.preds, h.held, h.queues, h.flags, h3, h1]
  refine ⟨rfl, rfl, LineState.confirm_held, fun hf => ?_⟩
  show ((lastFlags p.flags).foldl _ s2).flags = s.flags
  rw [hf]
  rfl

end

section
variable {s : State} {q : Queue} {w : FmtC} {p : Pred}

/-- A true condition confirms the prediction. -/
theorem ccBrResolve_confirms (h : s.CanIssue .cc q (.ccBrResolve q w)) (hfull : (s.line q.line).fullEntry (w.fld 0 8) = true)
    (hr : (s.line q.line).cc.preds.rising = true) (hp : (s.line q.line).cc.preds.find q.task = some p)
    (hc : s.condOf (s.ctx .cc q s.sc 0) w = true) : ∃ t, exec (.ccBrResolve q w) s = .next t ∧
      (t.line q.line).cc.preds.find q.task = none ∧ t.mem = s.mem ∧
      (∀ e ∈ (t.line q.line).ls.held, e.2.task = q.task.val → e.2.confirmed = true) ∧
      (∀ st t', ((t.line q.line).q st t') ≠ (s.line q.line).q st t' → st = .cc ∧ t' = q.task.val) ∧
      (p.flags = [] → t.flags = s.flags) := by
  have hex := exec_ccBrResolve h hfull hp
  rw [if_pos hc] at hex
  obtain ⟨hf, -, hqs, hnd⟩ := s.resolving_spec q w
  obtain ⟨hpreds, hqueues, hheld, hflags⟩ := (s.resolving q w).confirm_spec q.line q.task s.sc p
  obtain ⟨haf, hal, haq, -⟩ := ((s.resolving q w).confirm q.line q.task s.sc p).advance_frame .cc q
  refine ⟨_, hex, ?_, ?_, ?_, fun st t' hne => ?_, fun hp => ?_⟩
  · rw [hal.cc, hpreds]
    exact Tbl.find_del _ _ (hnd hr)
  · rw [State.advance_mem, State.confirm_mem, hf.mem]
  · rw [hal]
    exact hheld
  · by_contra hcc
    refine hne ?_
    rw [haq st t' (not_and_or.1 hcc), LineState.q, hqueues, hqs]
    rfl
  · rw [haf.flags, hflags hp, hf.flags]

/-! ### Refutation -/

theorem State.line_refute (s : State) (l t r e : Nat) (p : Pred) :
    (s.refute l t r e p).line l = ((s.line l).count .ccRefute).refute t r e p := by
  have h : (s.refute l t r e p).line l = (((s.countLine l .ccRefute).updLine l fun L => L.refute t r e p).line l) := rfl
  rw [h, State.line_updLine, if_pos rfl, State.countLine, State.line_updLine, if_pos rfl]

theorem State.refute_flags (s : State) (l t r e : Nat) (p : Pred) : (s.refute l t r e p).flags = s.flags := rfl

/-- The line that a refutation restores. -/
def State.refuted (s : State) (q : Queue) (w : FmtC) : LineState := ((s.resolving q w).line q.line).count .ccRefute

/-- It is the line as the CC.BR finds it but for its predictions, and what every issue may change. -/
theorem State.refuted_spec (s : State) (q : Queue) (w : FmtC) : (s.refuted q w).mx = (s.line q.line).mx ∧
    (s.refuted q w).vx = (s.line q.line).vx ∧ (s.refuted q w).cc.iw = (s.line q.line).cc.iw ∧
    (s.refuted q w).cc.branch = (s.line q.line).cc.branch ∧
    ((s.line q.line).cc.preds.rising = true → ((s.refuted q w).cc.preds.map Prod.fst).Nodup) := by
  obtain ⟨-, hl, -, hnd⟩ := s.resolving_spec q w
  refine ⟨?_, ?_, ?_, ?_, hnd⟩
  · show ((s.resolving q w).line q.line).mx = _
    rw [hl]
  · show ((s.resolving q w).line q.line).vx = _
    rw [hl]
  · show ((s.resolving q w).line q.line).cc.iw = _
    rw [hl.cc]
  · show ((s.resolving q w).line q.line).cc.branch = _
    rw [hl.cc]

/-- What stays of the held rows is confirmed or of another task. -/
theorem LineState.refute_held_confirmed {L : LineState} {t r e : Nat} :
    ∀ x ∈ (L.refute t r e p).ls.held, x.2.task = t → x.2.confirmed = true := by
  rw [LineState.refute_held]
  intro x hx ht
  simpa [ht] using (List.mem_filter.1 hx).2

/-- A false condition ends the prediction, and the line is the restored one. -/
theorem ccBrResolve_refutes (h : s.CanIssue .cc q (.ccBrResolve q w)) (hfull : (s.line q.line).fullEntry (w.fld 0 8) = true)
    (hr : (s.line q.line).cc.preds.rising = true) (hp : (s.line q.line).cc.preds.find q.task = some p)
    (hc : s.condOf (s.ctx .cc q s.sc 0) w = false) : ∃ t, exec (.ccBrResolve q w) s = .next t ∧
      (t.line q.line).cc.preds.find q.task = none ∧ t.mem = s.mem ∧ t.flags = s.flags ∧
      t.line q.line = (s.refuted q w).refute q.task s.sc (w.fld 0 8) p := by
  have hex := exec_ccBrResolve h hfull hp
  rw [if_neg (by rw [hc]; decide)] at hex
  obtain ⟨hf, -⟩ := s.resolving_spec q w
  obtain ⟨-, -, -, -, hnd⟩ := s.refuted_spec q w
  refine ⟨_, hex, ?_, ?_, ?_, State.line_refute ..⟩
  · rw [State.line_refute, LineState.refute_preds]
    exact Tbl.find_del _ _ (hnd hr)
  · rw [State.refute_mem, hf.mem]
  · rw [State.refute_flags, hf.flags]

end

/-! ### SPEC_DEPTH (R242) -/

section
variable {s : State} {q : Queue} {p : Pred}

theorem exec_specDepthExpire (hl : s.live = true) (hh : s.held = false) :
    exec (.specDepthExpire q) s = .next (s.specDepth q.line q.task) := by
  show execSpecDepthExpire q s = _
  rw [execSpecDepthExpire, if_pos (by simp [hl, hh])]

theorem specDepthExpire_records (hl : s.live = true) (hh : s.held = false) (hs : s.job.faultSc = none) (hn : s.job.faults = [])
    (hp : (s.line q.line).cc.preds.find q.task = some p) (hx : p.p + 257 = s.sc) (hd : p.deep = false) :
    ∃ t r, exec (.specDepthExpire q) s = .next t ∧ t.job.faults = [r] ∧ r.kind = 0x27 ∧ r.sc = s.sc ∧ r.unit.line = q.line ∧
      r.unit.station = 5 ∧ r.unit.task = q.task := by
  obtain ⟨r, hr, hk, -, hsc, hu, -⟩ := s.faultAt_first s.sc .specDepth 0
    ⟨q.line, Station.cc.code, q.task, true, ((s.line q.line).q .cc q.task).pc⟩ .none 0 0 0 0 false (State.running_of_live hl) hs hn
  rw [exec_specDepthExpire hl hh, State.specDepth_of_some hp, if_pos (by simp [hx, hd])]
  refine ⟨_, r, rfl, hr, hk, hsc, ?_, ?_, ?_⟩ <;> rw [hu]
  rfl

theorem specDepthExpire_waits (hl : s.live = true) (hh : s.held = false) (hp : (s.line q.line).cc.preds.find q.task = some p)
    (h : p.p + 257 ≠ s.sc ∨ p.deep = true) : exec (.specDepthExpire q) s = .next s := by
  rw [exec_specDepthExpire hl hh, State.specDepth_of_some hp, if_neg]
  rw [Bool.and_eq_true, decide_eq_true_eq, Bool.not_eq_true']
  rintro ⟨hx, hd⟩
  exact h.elim (absurd hx) fun hd' => absurd (hd.symm.trans hd') (by decide)

end

/-! ### Deferred words (R243) -/

section
variable {s : State} {q : Queue} {d : DefWord}

/-- A word in flight that a deferred word becomes. -/
def DefWord.fly (d : DefWord) (s : State) (l : Nat) : WordFly :=
  { src := l, route := d.route, word := d.word, sent := s.sc, due := s.sc + wordLat l (routeLine ((s.line l).cc.routes.look d.route 0))
    pc := d.pc, task := d.task, st := Station.cc.code }

/-- The line of which the deferred words are out. -/
def LineState.sentDeferred (L : LineState) (x : Nat) : LineState := { L with cc.sendQ := L.cc.sendQ.filter fun w => x < w.from_ }

/-- A line that has injected a word in sc `x`. -/
def LineState.noteInjected (L : LineState) (x : Nat) : LineState := { L with cc.injected := x + 1 }

/-- A word goes on an enabled route, once a sc. -/
theorem State.sendWord_eq {k : Ctx} {n : Nat} (v : W64) (ho : routeOn ((s.line k.l).cc.routes.look n 0) = true)
    (hi : (s.line k.l).cc.injected ≠ s.sc + 1) : s.sendWord k n v =
      { s.updLine k.l (LineState.noteInjected · s.sc) with
        words := s.words ++ [
          { src := k.l, route := n, word := v, sent := s.sc, due := s.sc + wordLat k.l (routeLine ((s.line k.l).cc.routes.look n 0))
            pc := k.pc, task := k.t, st := k.st.code }] } := by
  exact (if_neg (by rw [ho]; decide)).trans (if_neg hi)

/-- The one deferred word of a line, once its sc has come, goes on its route. -/
theorem State.deferredSends_one {l : Nat} (hd : (s.line l).cc.sendQ = [d]) (hx : d.from_ ≤ s.sc)
    (ho : routeOn ((s.line l).cc.routes.look d.route 0) = true) (hi : (s.line l).cc.injected ≠ s.sc + 1) :
    s.deferredSends l = { (s.updLine l (LineState.sentDeferred · s.sc)).updLine l (LineState.noteInjected · s.sc) with
      words := s.words ++ [d.fly s l] } := by
  have hnow : (s.line l).cc.sendQ.filter (fun w => decide (w.from_ ≤ s.sc)) = [d] := by rw [hd]; simp [hx]
  have hcc : ((s.updLine l (LineState.sentDeferred · s.sc)).line l).cc.routes = (s.line l).cc.routes ∧
      ((s.updLine l (LineState.sentDeferred · s.sc)).line l).cc.injected = (s.line l).cc.injected := by
    rw [State.line_updLine, if_pos rfl]
    exact ⟨rfl, rfl⟩
  obtain ⟨hroutes, hinj⟩ := hcc
  unfold State.deferredSends
  rw [hnow]
  refine (State.sendWord_eq (s := s.updLine l (LineState.sentDeferred · s.sc)) d.word (hroutes ▸ ho) (hinj ▸ hi)).trans ?_
  rw [DefWord.fly, ← hroutes]
  rfl

theorem deferredWordSend_sends {L : LineState} (hl : s.live = true) (hh : s.held = false) (hL : L = s.line q.line)
    (hd : L.cc.sendQ = [d]) (hx : d.from_ ≤ s.sc) (ho : routeOn (L.cc.routes.look d.route 0) = true) (hi : L.cc.injected ≠ s.sc + 1) :
    ∃ t w, exec (.deferredWordSend q) s = .next t ∧ t = { s with lines := t.lines, words := s.words ++ [w] } ∧
      (t.line q.line).cc.sendQ = [] ∧ w.word = d.word ∧ w.route = d.route ∧ w.src = q.line ∧
      w.due = s.sc + wordLat q.line (routeLine (L.cc.routes.look d.route 0)) := by
  subst hL
  have hex : exec (.deferredWordSend q) s = .next (s.deferredSends q.line) := by
    show execDeferredWordSend q s = _
    rw [execDeferredWordSend, if_pos (by simp [hl, hh])]
  rw [hex, State.deferredSends_one hd hx ho hi]
  refine ⟨_, d.fly s q.line, rfl, rfl, ?_, rfl, rfl, rfl, rfl⟩
  have hsent : (s.line q.line).cc.sendQ.filter (fun w => decide (s.sc < w.from_)) = [] := by rw [hd]; simpa using hx
  show (((s.updLine q.line (LineState.sentDeferred · s.sc)).updLine q.line (LineState.noteInjected · s.sc)).line q.line).cc.sendQ = []
  rw [State.line_updLine, if_pos rfl, State.line_updLine, if_pos rfl]
  exact hsent

end

/-! ### The whole statement -/

/-- Settles O28: a prediction puts its checkpoint into the line before it branches, and the resolving CC.BR, whose condition nothing before it
changes, takes that checkpoint out again: it unmarks what waits, or restores the line and redirects each queue. -/
theorem predictionsConfirmAndRefute : Obligations.PredictionsConfirmAndRefute := by
  unfold Obligations.PredictionsConfirmAndRefute
  refine ⟨?_, ?_, ?_, ?_⟩
  · rintro s q w L rfl h hfull hp
    exact ccPredict_begins h hfull hp
  · rintro s q w k L p rfl rfl h hfull hr hp
    refine ⟨ccBrResolve_confirms h hfull hr hp, fun hc => ?_⟩
    obtain ⟨t, hex, hfind, hmem, hflags, hline⟩ := ccBrResolve_refutes h hfull hr hp hc
    obtain ⟨hmx, hvx, hiw, hbranch, -⟩ := s.refuted_spec q w
    have hmxt : (t.line q.line).mx = (s.line q.line).mx.refute q.task p.mx := by rw [hline, LineState.refute_mx, hmx]
    have hvxt : (t.line q.line).vx = (s.line q.line).vx.refute q.task p.vx := by rw [hline, LineState.refute_vx, hvx]
    refine ⟨t, hex, hfind, hmem, hflags, by rw [hmxt]; rfl, by rw [hmxt]; rfl, by rw [hmxt]; rfl,
      by rw [hline]; exact LineState.refute_held_confirmed, fun key hk hrise => ?_, fun n z hz => ?_, fun hrise => ?_, fun n hn => ?_, ?_, ?_,
      fun hrise key d hk => ?_, fun st z pc hz hend hpc => ?_⟩
    · rw [hline]
      exact LineState.refute_sreg_look hk (Tbl.nodup_of_pairwise (Tbl.pairwise_of_rising _ hrise))
    · rw [hline]
      exact LineState.refute_iw_find (hiw ▸ hz)
    · have hnd := Tbl.nodup_of_pairwise (Tbl.pairwise_of_rising _ hrise)
      rw [hvxt]
      exact ⟨fun r old hold => VxState.refute_vr hnd hold, fun r hne => VxState.refute_vr_other hnd hne⟩
    · rw [hvxt]
      exact VxState.refute_rr hn
    · rw [hvxt]
      rfl
    · rw [hvxt]
      exact Tbl.look_put_self ..
    · rw [hvxt]
      exact VxState.refute_summ d hk (Tbl.nodup_of_pairwise (Tbl.pairwise_of_rising _ hrise))
    · rw [hline, LineState.refute_q hz ((LineState.target_congr hbranch _ st).trans hpc)]
      exact QState.redirect_spec hend pc (s.sc + 7)
  · intro s q p hl hh hs hn hp
    exact ⟨specDepthExpire_records hl hh hs hn hp, specDepthExpire_waits hl hh hp⟩
  · intro s q d L hl hh hL hd hx ho hi
    exact deferredWordSend_sends hl hh hL hd hx ho hi

end Sys2Proof.Machine
end
